-- ==== Sys2Proof/Word.lean ====
section
/-! DEFINITION. The word types of the model: bytes, 32-bit words and 64-bit words as the spec's fields hold them (R2), and
sparse tables keyed by a number, kept in ascending key order. -/

namespace Sys2Proof

/-- One byte of a packet, record or memory line. -/
abbrev Byte := BitVec 8

/-- A 32-bit field or register. -/
abbrev Word := BitVec 32

/-- A 64-bit field or register. -/
abbrev DWord := BitVec 64

/-- A sparse table: entries of a numbered collection (channels, buffers, slots, ...), ascending by number. -/
abbrev Tab (α : Type) := List (Nat × α)

end Sys2Proof
end

