-- ==== Sys2Proof/Syntax.lean ====
section
/-! DEFINITION. The commands of the block: one constructor of `Instr` per row of the opcode table, with the row's operands.
Host commands carry the packet as it arrives (R34, Table 2.1); events carry what their source reports. -/

namespace Sys2Proof

/-- The fields of a command header but OPCODE, which the row gives (R34, Table 2.1). -/
structure Header where
  magic : BitVec 16
  version : Byte
  flags : Byte
  paramLen : BitVec 16
  seq : Word
  target : Word
  jobTag : Byte
  /-- Bytes 0x11 to 0x3B. -/
  reserved : List Byte
  hdrCrc : Word
  deriving DecidableEq, Repr

/-- A command packet: its header fields and the bytes that follow the header (R34). -/
structure Packet where
  hdr : Header
  params : List Byte
  deriving DecidableEq, Repr

/-- The parts of a RoCEv2 request that the port looks at before the transport acts: PSN, the PCP of its 802.1Q tag (none when
untagged, R108), whether it is CE-marked (R110) and whether its ICRC is right (R90). -/
structure RoceHdr where
  psn : BitVec 24
  pcp : Option (BitVec 3)
  ce : Bool
  icrcOk : Bool
  deriving DecidableEq, Repr

/-- Which packet of a write message a packet is (Table 3.2). -/
inductive WritePart where
  | first | middle | last | only
  deriving DecidableEq, Repr

/-- The negative acknowledgements a peer sends (R93). -/
inductive NakCode where
  | invalidRequest | remoteAccess
  deriving DecidableEq, Repr

/-- A connection request on queue pair 1 (R89, R90, R99). -/
structure ConnReq where
  remoteQpn : BitVec 24
  remotePsn : BitVec 24
  pathMtu : Nat
  rnrRetry : Nat
  ipVer : Nat
  remoteIp : List Byte
  sourceMac : List Byte
  deriving DecidableEq, Repr

/-- The traffic classes of R108. -/
inductive PrioClass where
  | command | bulk
  deriving DecidableEq, Repr

/-- The engine classes of a feature die that have queues (Table 9.15 and its counterparts). -/
inductive EngClass where
  | parse | cmp | join | oma | sort | emb
  deriving DecidableEq, Repr

/-- The blocks that have a LOCK bit (R8). -/
inductive LockBlock where
  | eth | cxl | pwr
  deriving DecidableEq, Repr

/-- What a memory reports of one 64-byte line it read (R119, R122, R561): its physical address, and whether the code corrected
it or could not; a device cannot know of its own errors otherwise, so the environment names them. -/
structure EccReport where
  line : Nat
  corrected : Bool
  deriving DecidableEq, Repr

/-- What boot, training and swatches report at the end of INIT (R626, Table 20.5): HBM stacks that fail training at both trims
(R573), physical cores, join-store slices and CXL ports that fail their swatches (R569 a, R571, R575), the hub, its port or the
security block failing (R574), a ring segment that cannot train (R563), any other failure of stages 5, 6 and 8. -/
structure InitResult where
  stacksFailed : List Nat
  coresFailed : List (Nat × Nat)
  slicesFailed : List (Nat × Nat)
  cxlFailed : List Nat
  hubFailed : Bool
  ringFailed : Bool
  bootFailed : Bool
  deriving DecidableEq, Repr

/-- The SRAM a scrub reads (R562): a core store, or a slice of a die's join store. -/
inductive SramUnit where
  | core (n : Nat)
  | slice (die s : Nat)
  deriving DecidableEq, Repr

/-- A flit as received: 272 bytes (R493). -/
structure Flit where
  bytes : List Byte
  deriving DecidableEq, Repr

/-- A load or store of the running task (R240 to R243). The encoding of core instructions is no interface of the device (R239), so
their operands are what the rules of the chapter name; a register number that does not exist makes an undefined instruction. `off`
is the local offset, `bytes` the bytes of a scalar access (1, 2, 4 or 8; DEDUCED, log entry 40); a vector access moves a whole register, or
the lanes that a mask register selects. `ecc` names the lines in which the core store's code found errors as it was read. -/
structure CoreMem where
  scalar : Bool
  reg : Nat
  off : Nat
  bytes : Nat
  mask : Option Nat
  ecc : List EccReport
  deriving DecidableEq, Repr

/-- An indexed load or store (R246): elements of 4 or 8 bytes, each at `base` plus the offset in its lane of register `idx`. -/
structure IndexedMem where
  store : Bool
  reg : Nat
  idx : Nat
  base : Nat
  wide : Bool
  mask : Option Nat
  ecc : List EccReport
  deriving DecidableEq, Repr

/-- The lane-wise operations of Table 7.3. -/
inductive VecOp where
  | add | sub | mul | fma | min | max | cmp | sel | and | or | xor | shl | shr | sar | div | sqrt | exp2 | log2 | rsqrt
  deriving DecidableEq, Repr

/-- The relations of a compare. -/
inductive Rel where
  | lt | le | eq | ne | ge | gt
  deriving DecidableEq, Repr

/-- A lane-wise vector instruction (R246, R247): type (Table 5.1), destination and sources, rounding mode (Table 7.5), saturation of
integer results (R261). A compare writes elements of all ones or zeros, or with `toMask` a bit per lane of mask register `dst`; a
select takes `a` where the element of `c` is not 0, or with `toMask` where the lane's bit of mask register `c` is 1 (DESIGN CHOICE, log
entry 41). -/
structure VecArith where
  op : VecOp
  ty : Nat
  dst : Nat
  a : Nat
  b : Nat
  c : Nat
  rel : Rel
  toMask : Bool
  mode : BitVec 3
  sat : Bool
  mask : Option Nat
  deriving DecidableEq, Repr

/-- A permute (R246, R566): elements of `bytes` bytes, element i of the result being the element of `src` that element i of `idx` names;
or a move of element `elem` of `src` to scalar register `dst`; or of a scalar register to every lane. -/
inductive VecPerm where
  | permute (bytes dst src idx : Nat) (mask : Option Nat)
  | toScalar (bytes dst src elem : Nat)
  | broadcast (bytes dst src : Nat) (mask : Option Nat)
  deriving DecidableEq, Repr

/-- The reductions of R246. -/
inductive RedOp where
  | sum | min | max
  deriving DecidableEq, Repr

/-- A reduction across the lanes of a register (R248); its result fills every lane of the destination (DESIGN CHOICE, log entry 42). -/
structure VecRed where
  op : RedOp
  ty : Nat
  dst : Nat
  src : Nat
  mode : BitVec 3
  sat : Bool
  mask : Option Nat
  deriving DecidableEq, Repr

/-- A row of packed or MX data in core store, as a conversion reads or writes it (R163, R165): local offset, blocks per group, pad. -/
structure PackedRow where
  off : Nat
  group : Nat
  pad : Bool
  deriving DecidableEq, Repr

/-- A conversion (R246, R256 to R260): source and destination types; a register for a byte-class type, a row of core store for the
others (R245). The narrower side of two registers takes part `part` of its register. -/
structure VecConv where
  srcTy : Nat
  dstTy : Nat
  src : Nat
  dst : Nat
  row : PackedRow
  part : Nat
  mode : BitVec 3
  ecc : List EccReport
  deriving DecidableEq, Repr

/-- A conversion of 32 elements of a register, from element `first`, to one MX block in core store (R262): where its scale and its
elements go. -/
structure MxConv where
  srcTy : Nat
  dstTy : Nat
  src : Nat
  first : Nat
  scaleOff : Nat
  dataOff : Nat
  mode : BitVec 3
  deriving DecidableEq, Repr

/-- A matrix instruction (R250 to R254): C := C + A × B, or C := A × B. A is m rows of k elements, and B is n rows of k elements, at
strides (DEDUCED, log entry 43); types as Table 7.4, MXINT8 with INT4 packing by `int4`; MX rows are laid out under R165 with `group` and
`pad`. -/
structure MatMul where
  tile : Nat
  m : Nat
  n : Nat
  k : Nat
  tyA : Nat
  tyB : Nat
  int4A : Bool
  int4B : Bool
  offA : Nat
  strideA : Nat
  offB : Nat
  strideB : Nat
  group : Nat
  pad : Bool
  fresh : Bool
  rtz : Bool
  ecc : List EccReport
  deriving DecidableEq, Repr

/-- A move of an accumulator tile to, or from, the eight vector registers from `reg` (R255). -/
structure TileMove where
  tile : Nat
  reg : Nat
  load : Bool
  deriving DecidableEq, Repr

/-- A tree-scoring instruction (R265, R266): offsets of the ensemble header and of the feature rows, their stride, the register that
takes the scores. -/
structure TreeScore where
  dst : Nat
  ens : Nat
  feat : Nat
  stride : Nat
  mode : BitVec 3
  mask : Option Nat
  ecc : List EccReport
  deriving DecidableEq, Repr

/-- STR32 elements in core store (R167): offset array, byte area and its size, first element. -/
structure StrSrc where
  offs : Nat
  aux : Nat
  auxSize : Nat
  first : Nat
  deriving DecidableEq, Repr

/-- A hash instruction (R341): 128 values of 8 bytes, or of 4 bytes from half `part` of a register, or 128 STR32 elements; the seed in
a scalar register. A CRC-32C fills half `dstPart` of the destination. -/
structure HashIns where
  dst : Nat
  src : Nat
  wide : Bool
  part : Nat
  dstPart : Nat
  str : Option StrSrc
  seed : Nat
  mask : Option Nat
  ecc : List EccReport
  deriving DecidableEq, Repr

/-- One component of a cross (R342): its type, register and part of it or its STR32 elements, and the mask register whose bit i says
that component i of the 128 is present. -/
structure CrossPart where
  ty : Nat
  reg : Nat
  part : Nat
  str : Option StrSrc
  valid : Option Nat
  deriving DecidableEq, Repr

/-- A cross of 2 to 8 components (R342), seed in a scalar register. -/
structure CrossIns where
  dst : Nat
  parts : List CrossPart
  seed : Nat
  ecc : List EccReport
  deriving DecidableEq, Repr

/-- BUCKET (R343): hashes and counts in vector registers. -/
structure BucketIns where
  dst : Nat
  h : Nat
  b : Nat
  mask : Option Nat
  deriving DecidableEq, Repr

/-- A normalisation instruction (Table 11.8): parameters and NAN_OUT in scalar registers as FP32; BF16 results fill half `part` of the
destination. -/
structure NormIns where
  dst : Nat
  src : Nat
  p1 : Nat
  p2 : Nat
  nanOut : Nat
  bf : Bool
  part : Nat
  mode : BitVec 3
  mask : Option Nat
  deriving DecidableEq, Repr

/-- ONEHOT or MULTIHOT (R393): type of the output, depth, output offset; for ONEHOT an index register with its validity mask and the
indices to take, for MULTIHOT a LIST column in core store: offsets, values, their count of lists and an optional validity bitmap of the
values. -/
structure HotIns where
  ty : Nat
  depth : Nat
  out : Nat
  signed : Bool
  src : Nat
  valid : Option Nat
  n : Nat
  offs : Nat
  vals : Nat
  bitmap : Option Nat
  count : Bool
  ecc : List EccReport
  deriving DecidableEq, Repr

/-- A sort or selection instruction (R399): key type, direction, length, list and candidate registers, the scalar register of the fill
value, the pair of scalar registers of the counts, the bound of a later pass (R402) as scalar registers of key and index, and the mask
register whose bit i is the validity of candidate i. -/
structure TopkIns where
  ty : Nat
  maxDir : Bool
  k : Nat
  dst : Nat
  a : Nat
  b : Nat
  fill : Nat
  counts : Nat
  countsB : Nat
  bound : Option (Nat × Nat)
  valid : Option Nat
  deriving DecidableEq, Repr

/-- DIST_FIN (R403): dot products, squared norms of the candidates and of the query, per lane. -/
structure DistIns where
  dst : Nat
  dot : Nat
  cc : Nat
  qq : Nat
  l2 : Bool
  mode : BitVec 3
  mask : Option Nat
  deriving DecidableEq, Repr

/-- The modes of EMB_POOL. -/
inductive PoolMode where
  | sum | mean | max
  deriving DecidableEq, Repr

/-- EMB_POOL (R425): offsets in core store of rows, bag offsets, INV map, weights and validity bitmap, and the output. -/
structure PoolIns where
  rows : Nat
  stride : Nat
  nrows : Nat
  bfIn : Bool
  dim : Nat
  bags : Nat
  nbags : Nat
  inv : Option Nat
  weights : Option Nat
  valid : Option Nat
  mode : PoolMode
  out : Nat
  outStride : Nat
  bfOut : Bool
  ecc : List EccReport
  deriving DecidableEq, Repr


/-- The commands, one constructor per row of the opcode table. -/
inductive Instr where
  /-- NOP (R74): Echoes the command parameters unchanged as the reply payload. -/
  | nop (ch : Nat) (p : Packet)
  /-- DEVICE_INFO (R75): Returns the 128-byte identity and capacity record of the device. -/
  | deviceInfo (ch : Nat) (p : Packet)
  /-- DEVICE_STATUS (R76): Returns the 96-byte record of state, flags, live handles and command counts. -/
  | deviceStatus (ch : Nat) (p : Packet)
  /-- DEVICE_START (R77): Moves a device in STANDBY into INIT and replies finally when INIT ends. -/
  | deviceStart (ch : Nat) (p : Packet)
  /-- DEVICE_STANDBY (R78): Leaves any frequency group, destroys objects, saves trims and presets, and sheds the feature dies and HBM. -/
  | deviceStandby (ch : Nat) (p : Packet)
  /-- DEVICE_DRAIN (R79): Applies GRAPH_DRAIN to every active graph, enters DRAINING and completes when the device is back in READY. -/
  | deviceDrain (ch : Nat) (p : Packet)
  /-- DEVICE_RESET (R72): Starts a warm reset, or a die reset of one die that joins any die reset of that die already pending. -/
  | deviceReset (ch : Nat) (p : Packet)
  /-- HANDLE_QUERY (R73): Returns the handle state, kind, job tag and a kind-specific word of a handle. -/
  | handleQuery (ch : Nat) (p : Packet)
  /-- HANDLE_DESTROY (R65): Destroys an IDLE or FAULTED object, or an ACTIVE channel. -/
  | handleDestroy (ch : Nat) (p : Packet)
  /-- HANDLE_LIST (R80): Lists the live handles of one kind from a start index. -/
  | handleList (ch : Nat) (p : Packet)
  /-- UNKNOWN_OPCODE_PACKET (R39): A command packet whose opcode is not in Table 2.9 advances the expected SEQ and is rejected with BAD_OPCODE. -/
  | unknownOpcodePacket (ch : Nat) (opcode : BitVec 16) (p : Packet)
  /-- PENDING_INTERIM_REPLY (R42): A command still running 100 µs after it began execution sends an interim PENDING reply when ACK_REQ is 1. -/
  | pendingInterimReply (ch : Nat) (seq : Word)
  /-- CHAN_OPEN (R103): Creates an ACTIVE DATA or FEED channel context and returns its handle, queue pair and starting PSN. -/
  | chanOpen (ch : Nat) (p : Packet)
  /-- CHAN_AUTH_CHALLENGE (R102): Returns a fresh nonce and the serial number, replacing any earlier challenge of the channel. -/
  | chanAuthChallenge (ch : Nat) (p : Packet)
  /-- CHAN_AUTH_RESPONSE (R102): Checks an Ed448 signature against the owner key and makes the channel ACTIVE on success. -/
  | chanAuthResponse (ch : Nat) (p : Packet)
  /-- CHAN_MODIFY (R106): Changes priority class, ECN enable, queue limit and rate cap of an active channel. -/
  | chanModify (ch : Nat) (p : Packet)
  /-- CHAN_CLOSE (R107): Replies, discards the unstarted commands of the channel, sends DREQ for a command channel and frees the context. -/
  | chanClose (ch : Nat) (p : Packet)
  /-- BUF_ALLOC (R132): Allocates, maps and places the pages of a new buffer and returns its handle and base. -/
  | bufAlloc (ch : Nat) (p : Packet)
  /-- BUF_PROTECT (R134): Changes the R, W and PIN bits of a buffer and, for PIN, moves its pages into HBM before the final reply. -/
  | bufProtect (ch : Nat) (p : Packet)
  /-- BUF_FILL (R135): Writes a 64-bit pattern into a range of a buffer, taking frames for NET pages first. -/
  | bufFill (ch : Nat) (p : Packet)
  /-- PAGE_SUPPLY (R147): Completes the page-in of a FILLING NET page as supplied or as unavailable and poisoned, and wakes its waiters. -/
  | pageSupply (ch : Nat) (p : Packet)
  /-- PLACE_CONFIG (R149): Sets the budget, epoch, thresholds and hold of the placement loop from the next epoch. -/
  | placeConfig (ch : Nat) (p : Packet)
  /-- PLACE_QUERY (R153): Returns the placement counters since the last cold or warm reset. -/
  | placeQuery (ch : Nat) (p : Packet)
  /-- TIER_SCAN (R140): Trains the CXL ports, enumerates the expanders and programs their decoders. -/
  | tierScan (ch : Nat) (p : Packet)
  /-- MEM_RETIRE_QUERY (R158): Returns visible capacity and the retired granules from a given ordinal. -/
  | memRetireQuery (ch : Nat) (p : Packet)
  /-- STRM_CREATE (R196): Creates an IDLE stream context on a die with its skein and multicast settings. -/
  | strmCreate (ch : Nat) (p : Packet)
  /-- STRM_ARM (R221): Starts a new generation on an IDLE stream or loads the shadow slot of an armed one. -/
  | strmArm (ch : Nat) (p : Packet)
  /-- STRM_STOP (R227): Disarms a stream at the next tile or at once and replies when no operation is outstanding. -/
  | strmStop (ch : Nat) (p : Packet)
  /-- STRM_RESUME (R231): Retries the page-in of a HALTED stream and replies when it has left HALTED. -/
  | strmResume (ch : Nat) (p : Packet)
  /-- STRM_QUERY (R234): Returns the position, generation and lateness record of a stream. -/
  | strmQuery (ch : Nat) (p : Packet)
  /-- JOB_CREATE (R475): Creates the JOB of the packet's job tag in state IDLE. -/
  | jobCreate (ch : Nat) (p : Packet)
  /-- GRAPH_LOAD (R480): Checks a graph image and turns it into claims, data, sync objects, streams, tables, match sets and feed bindings. -/
  | graphLoad (ch : Nat) (p : Packet)
  /-- GRAPH_RUN (R484): Enables the graph's queues, resets its sync objects unless kept, and starts the given stage. -/
  | graphRun (ch : Nat) (p : Packet)
  /-- GRAPH_DRAIN (R487): Lets the current stage of a graph finish, starts no further stage and replies when the graph is IDLE. -/
  | graphDrain (ch : Nat) (p : Packet)
  /-- GRAPH_FROG (R488): Aborts and unravels the current stage of a graph. -/
  | graphFrog (ch : Nat) (p : Packet)
  /-- GRAPH_QUERY (R490): Returns the state, stage, frog history and run time of a graph. -/
  | graphQuery (ch : Nat) (p : Packet)
  /-- JOB_ABORT (R69): Frogs every running graph of a job tag, disarms its streams and disables its engine queues. -/
  | jobAbort (ch : Nat) (p : Packet)
  /-- FEED_OPEN (R440): Creates a feed with its feed area layout and its per-die runs of sync objects. -/
  | feedOpen (ch : Nat) (p : Packet)
  /-- FEED_CONFIG (R445): Sets mode, low-water mark and slow-lane limits of a feed. -/
  | feedConfig (ch : Nat) (p : Packet)
  /-- FEED_ATTACH (R460): Binds a FEED channel as a client of a feed with its credits and remote batch ring. -/
  | feedAttach (ch : Nat) (p : Packet)
  /-- FEED_LEDGER_READ (R465): Copies ledger records to a buffer, optionally consuming them, and returns feed status. -/
  | feedLedgerRead (ch : Nat) (p : Packet)
  /-- RESULT_RING_CONFIG (R469): Places the result window ring of an IDLE graph and initialises its headers and sync objects. -/
  | resultRingConfig (ch : Nat) (p : Packet)
  /-- FETCH_RESULT (R473): Delivers a published result window in the reply or by RDMA Write. -/
  | fetchResult (ch : Nat) (p : Packet)
  /-- RESULT_RELEASE (R472): Releases published results up to a sequence number and frees their windows. -/
  | resultRelease (ch : Nat) (p : Packet)
  /-- SYNC_CREATE (R293): Creates a run of sync objects on a die with a starting value. -/
  | syncCreate (ch : Nat) (p : Packet)
  /-- SYNC_SIGNAL (R294): Applies an ADD or SET from the host to a sync object and returns the value after waking takers. -/
  | syncSignal (ch : Nat) (p : Packet)
  /-- SYNC_WAIT (R295): Registers a host TAKE or REACH waiter with a time limit on a sync object. -/
  | syncWait (ch : Nat) (p : Packet)
  /-- SYNC_WAIT_LIMIT_EXPIRY (R295): A host wait whose LIMIT_US passes leaves the queue and replies TIMEOUT. -/
  | syncWaitLimitExpiry (ch : Nat) (seq : Word)
  /-- SYNC_READ (R296): Returns the value, waiters and binding of a sync object. -/
  | syncRead (ch : Nat) (p : Packet)
  /-- SCHED_CONFIG (R283): Sets a new tick period that takes effect on all dies at one global time. -/
  | schedConfig (ch : Nat) (p : Packet)
  /-- PWR_GAUGE_SET (R538): Writes a new gauge within 1,200 W and the power ceiling. -/
  | pwrGaugeSet (ch : Nat) (p : Packet)
  /-- PWR_STEP_LIMIT (R541): Writes the highest frequency step and returns the previous one. -/
  | pwrStepLimit (ch : Nat) (p : Packet)
  /-- PWR_CEILING_RAISE (R540): Raises the power ceiling by programming one count of its fuse counter. -/
  | pwrCeilingRaise (ch : Nat) (p : Packet)
  /-- PWR_TELEMETRY_READ (R558): Returns the latest telemetry records. -/
  | pwrTelemetryRead (ch : Nat) (p : Packet)
  /-- PWR_ENERGY_READ (R559): Returns the energy accumulators of every job tag read at one instant. -/
  | pwrEnergyRead (ch : Nat) (p : Packet)
  /-- FW_UPDATE_BEGIN (R630): Opens trickle delivery of an image into the free slot, or resumes a live update of the same image. -/
  | fwUpdateBegin (ch : Nat) (p : Packet)
  /-- FW_BLOCK_COMMIT (R632): Checks a staged 4 KiB image block and programs it into both flashes. -/
  | fwBlockCommit (ch : Nat) (p : Packet)
  /-- FW_BLOCK_PROGRAMMED (R632): The flash programming and read-back of a committed block completes, marks it held and sends the final reply. -/
  | fwBlockProgrammed (upd : Nat) (block : Nat) (readBackOk : Bool)
  /-- FW_RELAY_START (R637): Offers a verified image to the neighbours of the named dimensions. -/
  | fwRelayStart (ch : Nat) (p : Packet)
  /-- FW_UPDATE_STATUS (R634): Returns the phase and held-block bitmap of an update. -/
  | fwUpdateStatus (ch : Nat) (p : Packet)
  /-- FW_VERIFY (R639): Runs the image checks on a complete update and marks the slot verified on success. -/
  | fwVerify (ch : Nat) (p : Packet)
  /-- FW_ACTIVATE (R640): Enters UPDATE_PAUSE, commits the slot switch and reloads every component from the new image. -/
  | fwActivate (ch : Nat) (p : Packet)
  /-- FW_CONFIRM (R644): Marks the active image confirmed and tombstones the previous formats. -/
  | fwConfirm (ch : Nat) (p : Packet)
  /-- FW_ROLLBACK (R646): Replies and then falls back from an unconfirmed image to the previous slot. -/
  | fwRollback (ch : Nat) (p : Packet)
  /-- SEC_ATTEST (R649): Returns a report signed by the identity key over a host nonce. -/
  | secAttest (ch : Nat) (p : Packet)
  /-- SEC_KEY_AGREE (R629): Performs a signed X448 key agreement and keeps it for one use. -/
  | secKeyAgree (ch : Nat) (p : Packet)
  /-- SEC_OWNER_ROTATE (R648): Programs a new owner key signed by old and new keys and closes the other command channels. -/
  | secOwnerRotate (ch : Nat) (p : Packet)
  /-- SEC_VERSION_ADVANCE (R647): Programs security version fuse bits up to a target count. -/
  | secVersionAdvance (ch : Nat) (p : Packet)
  /-- LINK_STATUS (R505): Returns lanes, spares, state and errors of every Yarzan link. -/
  | linkStatus (ch : Nat) (p : Packet)
  /-- LINK_CONFIG (R502): Sets the coordinate, sizes and link roles and retrains changed links. -/
  | linkConfig (ch : Nat) (p : Packet)
  /-- LINK_CONFIG_TIMEOUT (R503): A LINK_CONFIG whose role links have not all settled within 10 s completes. -/
  | linkConfigTimeout
  /-- LINK_SPARE_SWAP (R506): Retires a lane or moves a logical link to a spare as if a failure had occurred. -/
  | linkSpareSwap (ch : Nat) (p : Packet)
  /-- FGROUP_JOIN (R515): Joins a frequency group and drops the step to 0 until the first raise. -/
  | fgroupJoin (ch : Nat) (p : Packet)
  /-- FGROUP_LEAVE (R520): Leaves the frequency group and floods MEMBER_LOST about the device. -/
  | fgroupLeave (ch : Nat) (p : Packet)
  /-- FGROUP_STATUS (R520): Returns membership, reports, step and ceiling of the frequency group. -/
  | fgroupStatus (ch : Nat) (p : Packet)
  /-- REMAP_ASSUME (R524): Takes a failed device's coordinate, joins its group and trains its role links. -/
  | remapAssume (ch : Nat) (p : Packet)
  /-- REMAP_ASSUME_TIMEOUT (R524): A REMAP_ASSUME whose role links are not all UP after 20 s completes with TIMEOUT. -/
  | remapAssumeTimeout
  /-- SWATCH_RUN (R660): Runs the masked built-in self-tests in ascending bit order. -/
  | swatchRun (ch : Nat) (p : Packet)
  /-- SWATCH_DONE (R661): One swatch of a run finishes and records its result before the next begins. -/
  | swatchDone (block : Nat) (passed : Bool) (failing : List Nat)
  /-- SWATCH_RESULT (R661): Returns the results of the last swatch run. -/
  | swatchResult (ch : Nat) (p : Packet)
  /-- ERRLOG_READ (R584): Returns error-log records from a sequence number at or above a severity. -/
  | errlogRead (ch : Nat) (p : Packet)
  /-- DIAG_DUMP (R663): Dumps the selected register, log and telemetry sections to a buffer or the reply. -/
  | diagDump (ch : Nat) (p : Packet)
  /-- ERRLOG_CLEAR (R586): Resets the error and event counters while keeping the records. -/
  | errlogClear (ch : Nat) (p : Packet)
  /-- STORE_READ (R611): Reads a live journal record. -/
  | storeRead (ch : Nat) (p : Packet)
  /-- STORE_WRITE (R609): Stages a configuration or owner record on the channel. -/
  | storeWrite (ch : Nat) (p : Packet)
  /-- STORE_COMMIT (R610): Writes the channel's staged records to the journal as one transaction. -/
  | storeCommit (ch : Nat) (p : Packet)
  /-- STORE_STATUS (R612): Returns wear, pending bytes, flags and limited-change counters. -/
  | storeStatus (ch : Nat) (p : Packet)
  /-- REG_READ (R81): Returns consecutive 32-bit registers from an address. -/
  | regRead (ch : Nat) (p : Packet)
  /-- REGISTER_WRITE (R82): A masked write to a register without behaviour of its own, under the access codes. -/
  | registerWrite (ch : Nat) (p : Packet)
  /-- LOCK_BIT_SET (R8): Setting a block's LOCK bit freezes its RWL fields until the next cold or warm reset. -/
  | lockBitSet (ch : Nat) (h : Header) (block : LockBlock) (value mask : Word)
  /-- ETH_CFG_WRITE (R116): A write to ETH_CFG is refused when it would give both priority classes the same PCP. -/
  | ethCfgWrite (ch : Nat) (h : Header) (value mask : Word)
  /-- CORE_SR_SEED_WRITE (R257): Writing the seed reseeds the stochastic-rounding generator of every lane of the core. -/
  | coreSrSeedWrite (ch : Nat) (h : Header) (core : Nat) (value mask : Word)
  /-- EMB_SR_SEED_WRITE (R432): Writing the seed reseeds the generators of the die's six row update units. -/
  | embSrSeedWrite (ch : Nat) (h : Header) (die : Nat) (value mask : Word)
  /-- Q_EN_SET (R303): Setting a queue's enable bit makes ring entry 0 the next to take, unless the ring count is invalid. -/
  | qEnSet (ch : Nat) (h : Header) (die : Nat) (cls : EngClass) (queue : Nat)
  /-- Q_EN_CLEAR (R303): Clearing a queue's enable bit stops further takes while items taken run to completion. -/
  | qEnClear (ch : Nat) (h : Header) (die : Nat) (cls : EngClass) (queue : Nat)
  /-- PWR_CAP_SET_WRITE (R539): A register write to the gauge is stored and used clamped to 1,200 W and the ceiling. -/
  | pwrCapSetWrite (ch : Nat) (h : Header) (value mask : Word)
  /-- PWR_CEILING_WRITE (R540): A register write that raises the ceiling acts as PWR_CEILING_RAISE and consumes a count. -/
  | pwrCeilingWrite (ch : Nat) (h : Header) (value mask : Word)
  /-- PWR_STEP_LIM_WRITE (R541): A register write of the step limit takes effect with values above 18 acting as 18. -/
  | pwrStepLimWrite (ch : Nat) (h : Header) (value mask : Word)
  /-- LOW_WORD_LATCH_READ (R338): Reading the low word of a 64-bit counter or value latches its high word. -/
  | lowWordLatchRead (ch : Nat) (h : Header) (addr : Word)
  /-- INPUT_POWER_APPLIED (R672): Input within the operating range soft-starts the bus, raises the hub rails and boots to STANDBY. -/
  | inputPowerApplied (mv : Nat)
  /-- HUB_START (R623): The boot ROM self-tests, chooses a slot and starts the management firmware. -/
  | hubStart (selfTestOk : Bool)
  /-- POWER_CUT (R600): Input below 38 V for 50 µs starts the hold-up sequence that writes FRAM and pending journal records. -/
  | powerCut
  /-- HOLDUP_COMPLETE (R601): The hold-up writes finish, the hub stops and the device is OFF or restarts if input returned. -/
  | holdupComplete (holdupUs : Nat)
  /-- INPUT_OVERVOLTAGE (R669): Input above 52 V for 10 µs sheds the feature-die and HBM rails and enters FAULT. -/
  | inputOvervoltage (mv : Nat)
  /-- INPUT_DISCONNECT (R669): Input above 58 V disconnects the hub input stage and the device is OFF. -/
  | inputDisconnect (mv : Nat)
  /-- DISCONNECT_RELEASE (R669): Input below 52 V for 1 s after a disconnect restores the module as a cold start. -/
  | disconnectRelease (mv : Nat)
  /-- RESET_N (R677): A RESET_N low pulse of 10 µs or more performs a warm reset and holds STANDBY while low. -/
  | resetN (lowNs : Nat)
  /-- RESET_N_RELEASE (R677): The rising edge of RESET_N starts INIT within 1 ms. -/
  | resetNRelease
  /-- PWR_EN_DEASSERT (R675): PWR_EN low for 50 µs sheds the powered feature dies and enters FAULT. -/
  | pwrEnDeassert
  /-- PWR_EN_ASSERT (R54): PWR_EN high starts INIT when auto-start is configured, or releases an INIT waiting for it. -/
  | pwrEnAssert
  /-- FLOW_OK_LOW (R545): FLOW_OK going low sets the coolant limit to step 0 within 100 µs. -/
  | flowOkLow
  /-- FLOW_OK_HIGH (R545): FLOW_OK returning high restores the coolant limit after 10 ms or releases a held INIT after 1 s. -/
  | flowOkHigh (heldNs : Nat)
  /-- COOLANT_STOP (R546): FLOW_OK low for more than 20 ms stops the module in the order of Table 17.4. -/
  | coolantStop
  /-- SERVICE_MODE_ASSERT (R655): Asserting the SERVICE_MODE strap enters SERVICE. -/
  | serviceModeAssert
  /-- REFCLK_LOSS (R684): Loss of REFCLK for 10 µs with the feature dies powered is an uncontained error that enters FAULT. -/
  | refclkLoss
  /-- PPS_EDGE (R685): A PPS rising edge is timestamped, validates the input after three edges and disciplines global time. -/
  | ppsEdge
  /-- PPS_TIMEOUT (R685): No PPS edge for 1.5 s makes the input invalid and applies any waiting TIME_SET. -/
  | ppsTimeout
  /-- SMB_STATUS (R681): An SMBus read word of device state, DEGRADED and ladder code. -/
  | smbStatus
  /-- SMB_INPUT (R681): An SMBus block read of input voltage, current, power and inlet temperature. -/
  | smbInput
  /-- SMB_SERIAL (R681): An SMBus block read of the serial number. -/
  | smbSerial
  /-- SPARE_REQ (R682): An SMBus block read of the oldest unacknowledged spare request. -/
  | spareReq
  /-- SPARE_ACK (R682): An SMBus write removes the spare request with the given REQ_ID. -/
  | spareAck (reqId : BitVec 16) (pecOk : Bool)
  /-- TIME_SET (R686): An SMBus write of TAI seconds sets global time at the write or the next valid PPS edge. -/
  | timeSet (seconds : DWord) (pecOk : Bool)
  /-- ALERT_RESPONSE (R681): The module answers the SMBus Alert Response Address while SMB_ALERT_N is low. -/
  | alertResponse
  /-- THERMAL_TRIP (R543): An island or stack sensor at 115 °C removes power from the feature dies and HBM and enters FAULT. -/
  | thermalTrip (src : Nat) (reading : Nat)
  /-- HUB_TRIP (R543): The hub die at 120 °C removes power from the whole module. -/
  | hubTrip (reading : Nat)
  /-- TRIP_RESET_HOLD_EXPIRY (R544): A warm reset held after a trip takes effect when 60 s have passed. -/
  | tripResetHoldExpiry
  /-- INIT_COMPLETE (R626): Boot, training and swatches complete, the device enters READY and FAILED_BOOTS is cleared. -/
  | initComplete (r : InitResult)
  /-- INIT_TIMEOUT (R627): INIT that has not reached READY within 300 s counts as a failed boot. -/
  | initTimeout
  /-- HUB_WATCHDOG_EXPIRY (R627): The hub watchdog expiring during INIT counts as a failed boot. -/
  | hubWatchdogExpiry
  /-- INIT_WAIT (R673): INIT that has waited 60 s for PWR_EN and FLOW_OK fails into FAULT with a record. -/
  | initWait
  /-- DIE_RESET_COMPLETE (R72): A reloaded die returns to service and its die reset commands complete. -/
  | dieResetComplete (die : Nat)
  /-- UPDATE_RELOAD_COMPLETE (R640): All components are reloaded, the device returns to READY and FW_ACTIVATE replies. -/
  | updateReloadComplete
  /-- UPDATE_PAUSE_TIMEOUT (R642): A pause that reaches 6 s, or a failed reload, sends the device to INIT on the previous slot. -/
  | updatePauseTimeout
  /-- CONFIRM_DEADLINE (R645): Uptime reaching the confirmation deadline of an unconfirmed image performs the fall-back. -/
  | confirmDeadline
  /-- CONNECTION_REQ (R99): A REQ on queue pair 1 creates a COMMAND channel and answers REP, or rejects it. -/
  | connectionReq (r : ConnReq)
  /-- RTU (R99): The RTU of a connection exchange readies the IDLE command channel. -/
  | rtu (ch : Nat)
  /-- DREQ (R99): A DREQ from the peer is answered with DREP and the channel is closed. -/
  | dreq (ch : Nat)
  /-- COMMAND_CHANNEL_IDLE_TIMEOUT (R101): A command channel still IDLE 30 s after RTU is closed with DREQ. -/
  | commandChannelIdleTimeout (ch : Nat)
  /-- SEND_ONLY (R104): A Send on a DATA or FEED channel fills the next receive ring slot and signals RX_SYNC, or is NAKed. -/
  | sendOnly (ch : Nat) (r : RoceHdr) (payload : List Byte)
  /-- RDMA_WRITE (R91): An RDMA Write to a device buffer is checked, translated and written in PSN order. -/
  | rdmaWrite (ch : Nat) (r : RoceHdr) (part : WritePart) (va : DWord) (rkey : Word) (payload : List Byte)
  /-- RDMA_WRITE_WITH_IMMEDIATE (R104): An RDMA Write with Immediate writes its data and then fills a receive ring slot. -/
  | rdmaWriteWithImmediate (ch : Nat) (r : RoceHdr) (part : WritePart) (va : DWord) (rkey : Word) (imm : Word) (payload : List Byte)
  /-- RDMA_READ_REQUEST (R91): An RDMA Read of a device buffer is checked and answered with read responses. -/
  | rdmaReadRequest (ch : Nat) (r : RoceHdr) (va : DWord) (rkey : Word) (len : Word)
  /-- INVALID_REQUEST (R88): A RoCEv2 request with an unsupported opcode, or RDMA on a command channel, is NAKed and faults the channel. -/
  | invalidRequest (ch : Nat) (r : RoceHdr) (opcode : Byte)
  /-- ACKNOWLEDGE (R94): An acknowledgement of a device-initiated request completes the acknowledged writes or sends. -/
  | acknowledge (ch : Nat) (psn : BitVec 24) (payload : List Byte)
  /-- NAK_RECEIVED (R93): A NAK Invalid Request or Remote Access Error received faults the channel. -/
  | nakReceived (ch : Nat) (code : NakCode)
  /-- RNR_NAK_RECEIVED (R90): An RNR NAK received delays the device-initiated request for its retry. -/
  | rnrNakReceived (ch : Nat) (psn : BitVec 24) (timer : BitVec 5)
  /-- LOCAL_ACK_TIMEOUT (R90): A device-initiated request unacknowledged for 67.1 ms is retried, and exhausting retries faults the channel. -/
  | localAckTimeout (ch : Nat)
  /-- CONGESTION_NOTIFICATION (R111): A received congestion notification packet cuts the channel's rate. -/
  | congestionNotification (ch : Nat)
  /-- ECN_ALPHA_TIMER (R111): Every 55 µs without notification the channel's alpha decays. -/
  | ecnAlphaTimer (ch : Nat)
  /-- ECN_RATE_TIMER (R111): Every 300 µs without notification the channel's rate recovers toward its target. -/
  | ecnRateTimer (ch : Nat)
  /-- PFC_FRAME (R109): A PFC XOFF or XON for a class's PCP stops or resumes transmission of that class. -/
  | pfcFrame (pcp : BitVec 3) (quanta : BitVec 16)
  /-- PFC_QUANTA_EXPIRY (R109): Expiry of the pause quanta resumes transmission of a paused class. -/
  | pfcQuantaExpiry (prio : PrioClass)
  /-- ARP_REQUEST (R85): An ARP request to the device is answered within the rate limit. -/
  | arpRequest (toDevice : Bool) (sender : List Byte)
  /-- NEIGHBOR_SOLICITATION (R85): An IPv6 neighbour solicitation to the device is answered within the rate limit. -/
  | neighborSolicitation (toDevice : Bool) (sender : List Byte)
  /-- ECHO_REQUEST (R85): An ICMP or ICMPv6 echo request is answered within the rate limit. -/
  | echoRequest (toDevice : Bool) (ipVer : Nat) (sender data : List Byte)
  /-- UNSUPPORTED_FRAME (R84): A frame that uses an unsupported option is dropped and counted. -/
  | unsupportedFrame
  /-- ETH_LINK_UP (R691): The Ethernet link trains up and traffic on the channel contexts resumes. -/
  | ethLinkUp (lanes : Byte)
  /-- ETH_LINK_LOSS (R114): Loss of the Ethernet link leaves every channel context in place. -/
  | ethLinkLoss
  /-- ETH_PRESET_SAVE (R87): After every 24 hours of link-up the adapted equalization is saved as presets. -/
  | ethPresetSave (presets : List Byte)
  /-- STREAM_ENGINE_GRANT (R212): Each block-island cycle the stream engine grants one memory operation to the eligible stream with the earliest tag. -/
  | streamEngineGrant (die : Nat)
  /-- DESCRIPTOR_START (R202): A stream descriptor starting its first tile fetches and checks its layout pair and the next burst. -/
  | descriptorStart (stream : Nat)
  /-- TILE_START (R203): A tile starts once its SRC_FULL, DST_EMPTY or lookahead wait is satisfied. -/
  | tileStart (stream : Nat)
  /-- MEMORY_OPERATION_COMPLETE (R208): A read returns or a write is acknowledged, freeing an outstanding slot and possibly completing a tile. -/
  | memoryOperationComplete (stream : Nat) (op : Nat) (ecc : List EccReport) (refused : Bool)
  /-- PAGE_IN_COMPLETE (R144): A tier page-in copy completes, maps the page PLACED_HBM, wakes its waiters and starts a queued page-in. -/
  | pageInComplete (buf page : Nat)
  /-- MIGRATION_COMPLETE (R152): A page migration finishes its copy and switches the mapping. -/
  | migrationComplete (buf page : Nat)
  /-- PLACEMENT_EPOCH (R150): At each epoch end each die promotes hot tier pages, demotes cold ones and halves the counters. -/
  | placementEpoch
  /-- PATROL_SCRUB (R121): The patrol scrub reads and corrects HBM lines once per scrub period. -/
  | patrolScrub (stack : Nat) (ecc : List EccReport)
  /-- RECENTRE_WINDOW (R125): At the end of each 100 ms window the read-capture trim moves toward the side with fewer corrections. -/
  | recentreWindow (stack pc : Nat) (plus minus : Nat)
  /-- HBM_TRIM_SAVE (R126): Every 24 hours the HBM trims are saved to persistent store. -/
  | hbmTrimSave
  /-- SRAM_SCRUB (R562): Each core store and join store is scrubbed and corrected once per hour. -/
  | sramScrub (unit : SramUnit) (ecc : List EccReport)
  /-- EXPANDER_LINK_FAIL (R142): A failed CXL expander link poisons its pages and shrinks the tier. -/
  | expanderLinkFail (port position : Nat)
  /-- WAIT_TAKE (R277): A task takes an amount from a sync object or waits. -/
  | waitTake (core : Nat) (obj : Nat) (amount : Nat) (limit : Nat)
  /-- WAIT_REACH (R277): A task waits until a sync object holds at least a value. -/
  | waitReach (core : Nat) (obj : Nat) (value : Nat) (limit : Nat)
  /-- SIGNAL_ADD (R287): A task adds to a sync object after its earlier stores, waking waiters. -/
  | signalAdd (core : Nat) (obj : Nat) (amount : Nat)
  /-- SIGNAL_SET (R287): A task sets a sync object's value, waking waiters. -/
  | signalSet (core : Nat) (obj : Nat) (value : Nat)
  /-- DELAY (R284): A task joins the delay list for a number of ticks. -/
  | delay (core : Nat) (ticks : Nat)
  /-- YIELD (R277): A task gives up its core and rejoins the tail of its ready list. -/
  | yieldTask (core : Nat)
  /-- END (R276): A task ends its run and enters DONE or waits for its next trigger. -/
  | endTask (core : Nat)
  /-- TASK_DISPATCH (R281): An idle core takes the head of its highest non-empty ready list. -/
  | taskDispatch (core : Nat)
  /-- DELAY_EXPIRY (R284): At a tick a DELAY entry whose wake tick has come moves to READY. -/
  | delayExpiry (die : Nat)
  /-- TASK_WAIT_EXPIRY (R284): At a tick a limited wait not yet satisfied expires and the task goes READY with status 1. -/
  | taskWaitExpiry (die : Nat)
  /-- SYNC_MESSAGE (R286): A sync operation arriving over the ring is applied on the object's die in arrival order. -/
  | syncMessage (die : Nat)
  /-- STAGE_START (R485): Once the previous stage is cleared the next stage resets its sync objects, arms streams and loads tasks. -/
  | stageStart (graph : Nat)
  /-- CORE_LOAD (R240): A core load from its core store through the frame table. -/
  | coreLoad (core : Nat) (i : CoreMem)
  /-- CORE_STORE (R240): A core store to its core store through the frame table. -/
  | coreStore (core : Nat) (i : CoreMem)
  /-- INDEXED_LOAD_STORE (R246): A vector load or store with one core-store offset per lane. -/
  | indexedLoadStore (core : Nat) (i : IndexedMem)
  /-- VECTOR_ARITHMETIC (R247): A lane-wise vector add, multiply, fused multiply-add, divide, root, exp2, log2 or compare rounded once. -/
  | vectorArithmetic (core : Nat) (i : VecArith)
  /-- PERMUTE (R246): A permute of the elements within one vector register. -/
  | permute (core : Nat) (i : VecPerm)
  /-- REDUCTION (R248): A sum, min or max across the lanes of a register in a fixed tree. -/
  | reduction (core : Nat) (i : VecRed)
  /-- CONVERSION (R260): A vector conversion between element types with saturation or overflow per CORE_SAT. -/
  | conversion (core : Nat) (i : VecConv)
  /-- MX_BLOCK_CONVERSION (R262): Converts 32 values to one MX block with a shared scale. -/
  | mxBlockConversion (core : Nat) (i : MxConv)
  /-- MATRIX_MULTIPLY (R250): A matrix instruction accumulates A times B into an accumulator tile. -/
  | matrixMultiply (core : Nat) (i : MatMul)
  /-- TILE_MOVE (R255): Moves an accumulator tile to or from eight vector registers. -/
  | tileMove (core : Nat) (i : TileMove)
  /-- TREE_SCORING (R266): Scores a tree ensemble for 256 samples, one per lane. -/
  | treeScoring (core : Nat) (i : TreeScore)
  /-- SVH64 (R339): Computes the SVH64 hash of lane values or strings. -/
  | svh64 (core : Nat) (i : HashIns)
  /-- XXH64 (R341): Computes the XXH64 hash of lane values or strings. -/
  | xxh64 (core : Nat) (i : HashIns)
  /-- CRC_32C (R341): Computes the CRC-32C of lane values or strings. -/
  | crc32c (core : Nat) (i : HashIns)
  /-- CROSS (R342): Hashes the encoded concatenation of 2 to 8 feature components. -/
  | cross (core : Nat) (i : CrossIns)
  /-- BUCKET (R343): Maps a 64-bit hash to a bucket by multiply-high. -/
  | bucket (core : Nat) (i : BucketIns)
  /-- ZSCORE (R390): Normalises values by mean and reciprocal deviation. -/
  | zscore (core : Nat) (i : NormIns)
  /-- MINMAX (R390): Scales values into [0, 1] from a lower bound and reciprocal range. -/
  | minmax (core : Nat) (i : NormIns)
  /-- CLIP (R390): Clamps values between two bounds. -/
  | clip (core : Nat) (i : NormIns)
  /-- SLOG (R390): Applies the signed logarithm sign(x) ln(1 + |x|). -/
  | slog (core : Nat) (i : NormIns)
  /-- QUANTILE (R392): Divides a bucket index by the boundary count. -/
  | quantile (core : Nat) (i : NormIns)
  /-- ONEHOT (R393): Writes one-hot rows of a given depth from indices. -/
  | onehot (core : Nat) (i : HotIns)
  /-- MULTIHOT (R393): Writes multi-hot rows from a list column in SET or COUNT mode. -/
  | multihot (core : Nat) (i : HotIns)
  /-- VSORT (R399): Sorts the 128 key-index entries of a register. -/
  | vsort (core : Nat) (i : TopkIns)
  /-- TOPK_STEP (R400): Merges 128 candidates into a top-k list and updates its counts. -/
  | topkStep (core : Nat) (i : TopkIns)
  /-- VGRAFT (R399): Grafts two top-k lists held in registers. -/
  | vgraft (core : Nat) (i : TopkIns)
  /-- TOPK_INIT (R399): Fills a register with sentinels and clears the list counts. -/
  | topkInit (core : Nat) (i : TopkIns)
  /-- DIST_FIN (R403): Forms distance keys from dot products and squared norms. -/
  | distFin (core : Nat) (i : DistIns)
  /-- EMB_POOL (R425): Pools gathered embedding rows into bags by sum, mean or max. -/
  | embPool (core : Nat) (i : PoolIns)
  /-- PHYSICAL_CORE_FAILURE (R269): A physical core failing in service takes its logical core offline and frogs the stage. -/
  | physicalCoreFailure (die phys : Nat)
  /-- CORE_HANG (R569): A core that retires no instruction for 1 ms with a running task is retired and goes offline. -/
  | coreHang (core : Nat)
  /-- DELIM (R318): Parses delimited text rows into columns. -/
  | delim (die eng : Nat)
  /-- JSONL (R324): Parses line-delimited JSON objects into columns. -/
  | jsonl (die eng : Nat)
  /-- COLPAGE (R327): Decodes a sequence of column pages into one column. -/
  | colpage (die eng : Nat)
  /-- GZIP_DEC (R334): Decompresses gzip members and verifies their check values. -/
  | gzipDec (die eng : Nat)
  /-- GZIP_ENC (R335): Compresses input into one gzip member. -/
  | gzipEnc (die eng : Nat)
  /-- ZLIB_DEC (R334): Decompresses a zlib stream and verifies Adler-32. -/
  | zlibDec (die eng : Nat)
  /-- ZLIB_ENC (R335): Compresses input into a zlib stream. -/
  | zlibEnc (die eng : Nat)
  /-- ZSTD_DEC (R334): Decompresses Zstandard frames and verifies their checksums. -/
  | zstdDec (die eng : Nat)
  /-- ZSTD_ENC (R335): Compresses input into one Zstandard frame. -/
  | zstdEnc (die eng : Nat)
  /-- RAW_DEC (R337): Decodes raw frames and verifies their CRC-32C. -/
  | rawDec (die eng : Nat)
  /-- RAW_ENC (R337): Encodes input into raw frames. -/
  | rawEnc (die eng : Nat)
  /-- CLEAR (R351): Checks a hash table header and empties its buckets, stash and counts. -/
  | clear (die eng : Nat)
  /-- BUILD (R353): Inserts records into a hash table. -/
  | build (die eng : Nat)
  /-- PROBE (R355): Looks up record keys in a hash table and writes join output records. -/
  | probe (die eng : Nat)
  /-- AGG (R360): Updates the aggregate states of each record's key in a unique table. -/
  | agg (die eng : Nat)
  /-- SCAN (R357): Writes table entries filtered by their MATCHED mark. -/
  | scan (die eng : Nat)
  /-- PARTITION (R358): Appends records to radix partitions by key hash. -/
  | partition (die eng : Nat)
  /-- HLL_EST (R365): Writes a cardinality estimate for each HyperLogLog sketch. -/
  | hllEst (die eng : Nat)
  /-- OMA_LOAD (R377): Replaces an ordered match array's contents with a match set image. -/
  | omaLoad (die arr : Nat)
  /-- OMA_UPDATE (R379): Applies upsert, delete or insert records to an ordered match array. -/
  | omaUpdate (die arr : Nat)
  /-- LOOKUP (R384): Looks up a key column in an ordered match array by the lookup kind. -/
  | lookup (die arr : Nat)
  /-- RANGE (R387): Counts the keys of each range record and reports the first position. -/
  | range (die arr : Nat)
  /-- DUMP (R378): Writes a range of array entries as a match set image. -/
  | dump (die arr : Nat)
  /-- OMA_SHIFT_END (R381): The background shift after an insert or delete finishes and the next update may proceed. -/
  | omaShiftEnd (die arr : Nat)
  /-- SORT_RUN (R406): Sorts consecutive groups of entries into runs. -/
  | sortRun (die eng : Nat)
  /-- MERGE (R407): Merges sorted runs, optionally to K entries with duplicates removed. -/
  | merge (die eng : Nat)
  /-- GATHER (R421): Reads the weight sections of listed embedding rows into output rows. -/
  | gather (die eng : Nat)
  /-- EMB_UPDATE (R426): Distributes gradient steps for listed rows to their row update units. -/
  | embUpdate (die eng : Nat)
  /-- SNAPSHOT (R435): Copies table rows under their locks into a snapshot image. -/
  | snapshot (die eng : Nat)
  /-- RESTORE (R436): Writes table rows from a snapshot image and checks its CRC. -/
  | restore (die eng : Nat)
  /-- ROW_INIT (R437): Sets table rows to zero, a constant or uniform values and clears moments. -/
  | rowInit (die eng : Nat)
  /-- ROW_UPDATE_STEP (R429): A row update unit locks a row, applies one optimizer step and writes it back. -/
  | rowUpdateStep (stack : Nat)
  /-- PARKED_ITEM_RESUME (R307): A free engine resumes its oldest parked item whose page has become present. -/
  | parkedItemResume (die : Nat) (cls : EngClass)
  /-- WORK_ITEM_COMPLETE (R310): An engine item writes its completion record and signals DONE_SYNC in queue order. -/
  | workItemComplete (die : Nat) (cls : EngClass) (queue : Nat)
  /-- SAMPLE_ADMIT (R447): The feed service admits the next intake record to a free decode task. -/
  | sampleAdmit (feed : Nat)
  /-- FLUSH_RESOLVE (R453): A FLUSH marker resolves once earlier samples resolve and closes the open batch. -/
  | flushResolve (feed : Nat)
  /-- POST (R449): The feed service reads a lane task's post and dispatches the next step, copies the row or drops the sample. -/
  | post (feed : Nat) (die : Nat) (lane : Nat)
  /-- ROW_COPY_COMPLETE (R464): A ready row's copy into its batch position completes and is recorded PLACED. -/
  | rowCopyComplete (feed : Nat) (sample : Nat)
  /-- FEED_EVALUATION (R454): Every 100 µs the feed service moves slow samples to the slow lane and drops timed-out ones. -/
  | feedEvaluation (feed : Nat)
  /-- BATCH_DELIVERY (R462): A closed batch is written by RDMA to a client with credit, header last with immediate. -/
  | batchDelivery (feed : Nat)
  /-- CREDIT_RETURN (R461): A client credit message adds credits up to CSLOTS. -/
  | creditReturn (feed : Nat) (client : Nat)
  /-- RESULT_PUBLISH (R470): The hub publishes the next result once the graph's writes are visible. -/
  | resultPublish (graph : Nat)
  /-- FLIT_RECEIVE (R494): A received flit is corrected, accepted in sequence or discarded with a NAK. -/
  | flitReceive (link : Nat) (f : Flit)
  /-- LINK_NAK (R494): A received link NAK replays from the following SEQ and retrains after 16 replays. -/
  | linkNak (link : Nat) (seq : Nat)
  /-- TILE_MESSAGE (R509): A peer writes a tile message's values under its destination layout and acknowledges it. -/
  | tileMessage (link : Nat) (m : List Byte)
  /-- LANE_LOCK_LOSS (R497): A lane that loses lock is retired and the striping changes. -/
  | laneLockLoss (link : Nat) (lane : Nat)
  /-- LANE_ERROR_WINDOW (R497): A lane whose corrected bytes exceed 10^-6 over a 1 s window is retired. -/
  | laneErrorWindow (link : Nat) (lane : Nat) (corrected total : Nat)
  /-- LINK_EVENT (R497): A received LINK_EVENT changes the sender's striping at a flit boundary. -/
  | linkEvent (link : Nat) (m : List Byte)
  /-- LINK_SILENCE (R522): A link delivering no flit for 1 ms counts as lost and may declare the neighbour lost. -/
  | linkSilence (link : Nat)
  /-- HELLO (R504): A received HELLO brings a link UP, moves it to a spare, or refuses it. -/
  | hello (link : Nat) (m : List Byte)
  /-- SPARE_TIMEOUT (R501): A spare not in service 10 s after its request is marked bad and the next is tried or the device fails. -/
  | spareTimeout (link : Nat)
  /-- HEARTBEAT_SEND (R522): Every 100 µs a HEARTBEAT is sent on every working link. -/
  | heartbeatSend
  /-- HEARTBEAT (R522): A received HEARTBEAT reporting FAULT or FAILED marks the neighbour lost. -/
  | heartbeat (link : Nat) (m : List Byte)
  /-- MEMBER_LOST (R523): An accepted MEMBER_LOST downs links to the lost device and faults their streams. -/
  | memberLost (link : Nat) (m : List Byte)
  /-- MEMBER_JOIN (R520): An accepted MEMBER_JOIN adds a device to its group's count. -/
  | memberJoin (link : Nat) (m : List Byte)
  /-- FREQ_STEP (R517): An accepted lower FREQ_STEP of the group is adopted within 2 µs and forwarded. -/
  | freqStep (link : Nat) (m : List Byte)
  /-- CEILING_BOUNDARY (R518): At each 100 ms boundary a member floods its lowest ceiling of the interval. -/
  | ceilingBoundary
  /-- CEILING (R518): An accepted CEILING report is held and forwarded. -/
  | ceiling (link : Nat) (m : List Byte)
  /-- CEILING_COMPUTE (R518): Ten ms after a boundary a member with every report sets the group's new step. -/
  | ceilingCompute
  /-- TIME_EXCHANGE (R521): Every 10 ms a TIME message is sent on every working link. -/
  | timeExchange
  /-- TIME (R686): A received TIME message updates link delay and offset and slews or steps global time. -/
  | time (link : Nat) (m : List Byte)
  /-- YL_PRESET_SAVE (R496): After every 24 hours of link-up adapted lane settings are saved. -/
  | ylPresetSave (link : Nat) (presets : List Byte)
  /-- RELAY_OFFER (R638): A relay OFFER is accepted by creating an update or refused by RESULT code. -/
  | relayOffer (link : Nat) (m : List Byte)
  /-- RELAY_ACCEPT (R638): A relay ACCEPT starts sending blocks from its first missing block. -/
  | relayAccept (link : Nat) (m : List Byte)
  /-- RELAY_KEY (R636): A relay KEY delivers the wrapped image key to the receiver. -/
  | relayKey (link : Nat) (m : List Byte)
  /-- RELAY_DONE (R638): A relay DONE ends an offer as verified or failed. -/
  | relayDone (link : Nat) (m : List Byte)
  /-- RELAY_DATA (R636): A relay data chunk is stored into its image block. -/
  | relayData (link : Nat) (m : List Byte)
  /-- CURRENT_GUARD_SAMPLE (R535): Every 100 ns the current guard samples input and lowers or raises its limit. -/
  | currentGuardSample (mv : Nat) (ma : Nat)
  /-- GAUGE_LOOP (R536): Every 100 µs the gauge loop lowers or raises its step limit against the gauge. -/
  | gaugeLoop
  /-- GAUGE_UNREACHED (R537): Step 0 held for 100 ms with power above the gauge sets GAUGE_UNREACHED. -/
  | gaugeUnreached
  /-- THERMAL_LOOP (R542): Every 1 ms the thermal loop lowers or raises its limit against the targets. -/
  | thermalLoop (sensors : List Int) (hbm : List Int)
  /-- COOLANT_INLET_READ (R545): Every 100 ms the inlet temperature sets the coolant limit. -/
  | coolantInletRead (tenthC : Int)
  /-- RAIL_SETTLED (R529): A rail settling at a raised step's voltage lets its islands change frequency. -/
  | railSettled (die : Nat)
  /-- DROOP (R534): A supply fall of 30 or 50 mV lowers an island by one or two steps within 20 ns. -/
  | droop (core : Nat) (mv : Nat)
  /-- DROOP_RECOVERY (R534): A recovered island returns one step per 1 µs toward the device step. -/
  | droopRecovery (core : Nat)
  /-- AGEING_READ (R548): Each hour the ageing monitors are read and the die trim raised when margin is short. -/
  | ageingRead (die : Nat) (margin : Int)
  /-- ENERGY_TICK (R550): Every microsecond activity counts are weighted into the per-tag energy estimate. -/
  | energyTick (counts : List (Nat × Nat))
  /-- ENERGY_WINDOW_END (R552): At each 100 ms window end the gap is formed, coefficients refitted and divergence and sensor flags judged. -/
  | energyWindowEnd (measUj : Nat)
  /-- TELEMETRY_RECORD (R557): Each second the hub produces a telemetry record. -/
  | telemetryRecord
  /-- RING_CRC_FAILURE (R563): A ring transfer failing CRC is replayed, retrains after 16 and fails the device after three retrains in 1 s. -/
  | ringCrcFailure (segment : Nat) (dir : Nat)
  /-- REGULATOR_FAULT (R572): A core-rail regulator fault fails its die and declares the device FAILED. -/
  | regulatorFault (rail : Nat)
  /-- FLASH_FAILURE (R599): A flash that fails is taken out of use, or with both gone the device fails. -/
  | flashFailure (fb : Bool)
  /-- FRAM_FRAME_WRITE (R588): Each second the counter frame is written to the older FRAM copy. -/
  | framFrameWrite
  /-- FLASH_PROGRAM_COMPLETE (R596): A journal record's flash programming and read-back completes and the next record or mirror copy proceeds. -/
  | flashProgramComplete (ok : Bool)
  /-- JOURNAL_COMPACTION (R604): Live records of the tail sector are copied to the head and the tail erased. -/
  | journalCompaction (eraseOk : Bool)
  /-- COUNTER_SNAP (R595): Every 24 hours a copy of the FRAM frame is journalled. -/
  | counterSnap
  /-- CONSOLE_HELP (R658): Lists the console commands. -/
  | consoleHelp (line : List Byte)
  /-- CONSOLE_ID (R658): Prints serial, MAC, dye lot, slot and security versions. -/
  | consoleId
  /-- CONSOLE_STATUS (R658): Prints state, conditions, cause, step, reason, ladder and boot count. -/
  | consoleStatus
  /-- CONSOLE_LADDER (R658): Prints the status ladder code and voltage. -/
  | consoleLadder
  /-- CONSOLE_TP (R658): Prints the hub's readings of every test point. -/
  | consoleTp
  /-- CONSOLE_RAILS (R658): Prints each regulator's voltage, current and state. -/
  | consoleRails
  /-- CONSOLE_TEMPS (R658): Prints die, stack and inlet temperatures and flow. -/
  | consoleTemps
  /-- CONSOLE_POWER (R658): Prints the latest telemetry record. -/
  | consolePower
  /-- CONSOLE_LOG (R658): Prints error-log records from a sequence number and severity. -/
  | consoleLog (start : Nat) (sev : Nat)
  /-- CONSOLE_LINKS (R658): Prints the status of every link. -/
  | consoleLinks
  /-- CONSOLE_STORE (R658): Prints the persistent-store status. -/
  | consoleStore
  /-- CONSOLE_REG_RD (R658): Prints consecutive register values. -/
  | consoleRegRd (addr : Word) (count : Nat)
  /-- CONSOLE_REG_WR (R658): Writes a register as REG_WRITE while in SERVICE and unsealed. -/
  | consoleRegWr (addr value mask : Word)
  /-- CONSOLE_CMD (R658): Executes a status-set command packet and prints its reply. -/
  | consoleCmd (op : BitVec 16) (target : Word) (params : List Byte)
  /-- CONSOLE_SWATCH (R658): Runs swatches in SERVICE and prints each result. -/
  | consoleSwatch (mask : DWord)
  /-- CONSOLE_STEP (R658): Sets the service step limit. -/
  | consoleStep (step : Nat)
  /-- CONSOLE_STEP_ISLAND (R662): Holds one island at a step below the device step. -/
  | consoleStepIsland (island step : Nat)
  /-- SVC_ENTER (R655): Enters SERVICE from the console. -/
  | svcEnter
  /-- SVC_LEAVE (R656): Leaves SERVICE with the strap deasserted, restoring steps and the seal. -/
  | svcLeave
  /-- UNSEAL (R657): Spends a seal count and unseals the device in SERVICE with the strap asserted. -/
  | unseal (arg : DWord)
  /-- SEAL (R657): Seals the device again. -/
  | seal
  /-- CONSOLE_RESET_WARM (R658): Prints the final line and performs a warm reset. -/
  | consoleResetWarm
  /-- CONSOLE_RESET_DIE (R658): Prints the final line and performs a die reset. -/
  | consoleResetDie (die : Nat)
  /-- BAUD (R651): Changes the console rate after its answer line. -/
  | baud (rate : Nat)
  /-- ROM_CONSOLE_COMMAND (R654): The boot ROM console answers id, ladder and status and refuses every other command. -/
  | romConsoleCommand (line : List Byte)
  /-- SERVICE_MODE_DEASSERT (R655): The SERVICE_MODE strap is released, so that svc leave may return the device and unseal is no longer accepted. -/
  | serviceModeDeassert
  /-- REFCLK_RETURN (R691): REFCLK becomes present again, letting the Ethernet port begin to train and INIT stage 5 proceed. -/
  | refclkReturn
  /-- DIE_RESET_TIMEOUT (R572): A die reset that has not completed within 2 s fails, and a second successive such failure declares the device FAILED with cause DIE. -/
  | dieResetTimeout (die : Nat)
  /-- SMB_UNDEFINED_CODE (R681): An SMBus transfer with a command code outside Table 22.8 is NAKed. -/
  | smbUndefinedCode (code : Byte)
  /-- HUB_SRAM_UE (R561): An uncorrectable error in hub SRAM or command processor state sends the device to FAULT with a HUB_UE record, and a second within 24 h declares it FAILED with cause HUB. -/
  | hubSramUe
  /-- JOURNAL_BUDGET_RELEASE (R606): Records that waited while the day's append budget was exhausted are written once the 24-hour budget admits them. -/
  | journalBudgetRelease
  deriving DecidableEq, Repr

end Sys2Proof
end

