-- ==== Sys2Proof/Config.lean ====
section
/-! DEFINITION. What the spec leaves free: constants without a body, so that no proof can see their values (DESIGN CHOICE,
log entries 2, 8 and 9). Each is applied to `free`, the state's counter of free values drawn, or to the operands it depends on. -/

namespace Sys2Proof.Config

/-- A free natural number, below a bound that the user of the value states (`freeNat n % bound`); R102 nonces and R103
starting PSNs are drawn from it. Nothing constrains it. -/
opaque freeNat : Nat → Nat

/-- A free byte, for contents that the spec leaves undefined (R399 list tails, R471 payload of an unpublished window). -/
opaque freeByte : Nat → Byte

/-- Which of the admissible results an approximate function gives (R247, R390, R430): a choice from the operands. -/
opaque freeUlp : Nat → Nat → Nat

/-- The compressed form an encoder chooses for its input (R335): used only where it decodes to the input. -/
opaque encoded : Nat → List Byte → List Byte

end Sys2Proof.Config
end

