-- ==== Sys2Proof/Machine/Bits.lean ====
section
/-! DEFINITION. Bit fields, byte order (R2), sparse tables and the cyclic check CRC-32C (R35). -/

namespace Sys2Proof

/-- Bits [lo + n - 1 : lo] of a number. -/
def bits (v lo n : Nat) : Nat := v / 2 ^ lo % 2 ^ n

/-- Bit k of a number. -/
def bit (v k : Nat) : Bool := v / 2 ^ k % 2 == 1

/-- 1 for true, 0 for false: the value of a one-bit field. -/
def b2n (b : Bool) : Nat := if b then 1 else 0

/-- The number that a little-endian byte sequence holds (R2). -/
def leNat : List Byte → Nat
  | [] => 0
  | b :: bs => b.toNat + 256 * leNat bs

/-- n little-endian bytes of a number, the rest dropped (R2). -/
def toLe : Nat → Nat → List Byte
  | 0, _ => []
  | n + 1, v => BitVec.ofNat 8 v :: toLe n (v / 256)

/-- n big-endian bytes of a number (standard formats, R3). -/
def toBe (n v : Nat) : List Byte := (toLe n v).reverse

/-- The number that a big-endian byte sequence holds (R3). -/
def beNat (bs : List Byte) : Nat := leNat bs.reverse

/-- n bytes from offset off; positions past the end read as nothing. -/
def slice (bs : List Byte) (off n : Nat) : List Byte := (bs.drop off).take n

/-- The little-endian field of n bytes at offset off. -/
def fld (bs : List Byte) (off n : Nat) : Nat := leNat (slice bs off n)

/-- Whether n bytes at offset off are all 0 (a reserved field, R9). -/
def zeroAt (bs : List Byte) (off n : Nat) : Bool := (slice bs off n).all (· == 0)

/-- n bytes of 0. -/
def zeros (n : Nat) : List Byte := List.replicate n 0

/-- A byte sequence cut or zero-extended to n bytes. -/
def padTo (n : Nat) (bs : List Byte) : List Byte := bs.take n ++ zeros (n - bs.length)

/-- The bytes of a text of ASCII characters. -/
def ascii (s : String) : List Byte := s.toList.map fun c => BitVec.ofNat 8 c.toNat

/-- The two's complement value of an n-bit field. -/
def sext (n v : Nat) : Int := if v % 2 ^ n < 2 ^ (n - 1) then (v % 2 ^ n : Nat) else (v % 2 ^ n : Nat) - (2 ^ n : Nat)

/-- The n-bit two's complement field of an integer. -/
def unsext (n : Nat) (i : Int) : Nat := (i % (2 ^ n : Nat)).toNat

/-- A value with bits [lo + n - 1 : lo] replaced. -/
def setBits (v lo n x : Nat) : Nat := v - bits v lo n * 2 ^ lo + x % 2 ^ n * 2 ^ lo

/-- The quotient rounded up. -/
def ceilDiv (a b : Nat) : Nat := (a + b - 1) / b

/-- a rounded up to a multiple of b. -/
def alignUp (a b : Nat) : Nat := ceilDiv a b * b

/-- A counter that stops at its greatest value (R115, R159). -/
def satAdd (w a b : Nat) : Nat := min (a + b) (2 ^ w - 1)

/-- The entry of a sparse table at a number. -/
def Tab.get {α : Type} : Tab α → Nat → Option α
  | [], _ => none
  | (k, v) :: t, n => if n = k then some v else if n < k then none else Tab.get t n

/-- A sparse table with the entry at a number replaced or added, in ascending order. -/
def Tab.put {α : Type} : Tab α → Nat → α → Tab α
  | [], n, x => [(n, x)]
  | (k, v) :: t, n, x => if n = k then (k, x) :: t else if n < k then (n, x) :: (k, v) :: t else (k, v) :: Tab.put t n x

/-- A sparse table without the entry at a number. -/
def Tab.del {α : Type} (t : Tab α) (n : Nat) : Tab α := t.filter fun e => e.1 != n

/-- A sparse table with the entry at a number changed, where there is one. -/
def Tab.mod {α : Type} (t : Tab α) (n : Nat) (f : α → α) : Tab α := t.map fun e => if e.1 = n then (e.1, f e.2) else e

/-- The entry at a number, or a default. -/
def Tab.getD {α : Type} (t : Tab α) (n : Nat) (d : α) : α := (Tab.get t n).getD d

/-- A sparse table with the entry at a number changed, the default standing in for an absent one. -/
def Tab.upd {α : Type} (t : Tab α) (n : Nat) (d : α) (f : α → α) : Tab α := Tab.put t n (f (Tab.getD t n d))

/-- The lowest number below a bound at which a table has no entry, from a start. -/
def Tab.firstFree {α : Type} (t : Tab α) (start : Nat) : Nat → Option Nat
  | 0 => none
  | n + 1 => if (Tab.get t start).isNone then some start else Tab.firstFree t (start + 1) n

/-- A list with the element at a position changed. -/
def listSet {α : Type} (l : List α) (i : Nat) (f : α → α) : List α := l.mapIdx fun k x => if k = i then f x else x

/-- Insertion before the first element that comes later in the order `le`; keeps the order of equals (stable). -/
def insertBy {α : Type} (le : α → α → Bool) (x : α) : List α → List α
  | [] => [x]
  | y :: ys => if le y x then y :: insertBy le x ys else x :: y :: ys

/-- Stable sort by insertion. -/
def sortBy {α : Type} (le : α → α → Bool) (l : List α) : List α := l.foldl (fun acc x => insertBy le x acc) []

/-- A function applied n times. -/
def iter {α : Type} (f : α → α) : Nat → α → α
  | 0, x => x
  | n + 1, x => iter f n (f x)

/-- One bit step of a reflected CRC with the given reversed polynomial. -/
def crcBit (poly c : Nat) : Nat := if c % 2 = 1 then Nat.xor (c / 2) poly else c / 2

/-- One byte of a reflected CRC. -/
def crcByte (poly c : Nat) (b : Byte) : Nat := iter (crcBit poly) 8 (Nat.xor c b.toNat)

/-- A reflected 32-bit CRC with initial value and final exclusive-OR 0xFFFF_FFFF. -/
def crc32With (poly : Nat) (bs : List Byte) : Nat := Nat.xor (bs.foldl (crcByte poly) 0xFFFFFFFF) 0xFFFFFFFF

/-- CRC-32C (R35): polynomial 0x1EDC_6F41, reflected 0x82F6_3B78. -/
def crc32c (bs : List Byte) : Nat := crc32With 0x82F63B78 bs

/-- The CRC-32 of gzip (R333, RFC 1952): reflected polynomial 0xEDB8_8320. -/
def crc32 (bs : List Byte) : Nat := crc32With 0xEDB88320 bs

end Sys2Proof
end

