-- ==== Sys2Proof/Machine/State.lean ====
section
/-! DEFINITION. The state of the block: every register, buffer, queue, counter, mode and pin that the spec gives it, as plain
data, with the value each holds at reset (DESIGN CHOICE, log entries 3 to 7 name the values that the spec does not give). -/

namespace Sys2Proof.Machine

/-- Faults: the block has no stop of this kind. -/
inductive Fault where
  /-- Raised by nobody: every command of a block has an outcome in its state (safe). -/
  | none
  deriving DecidableEq, Repr

/-- Refusals. -/
inductive Refusal where
  /-- Raised by an arm of `exec` whose command has no meaning yet (safe). -/
  | notModelled (mnemonic : String)
  deriving DecidableEq, Repr


/-- The device states of Table 2.4. -/
inductive DevState where
  | off | standby | init | ready | running | draining | updatePause | service | fault | failed
  deriving DecidableEq, Repr

/-- The state of memory: every byte that is not 0, by physical address, and the poisoned 64-byte lines (R120, R564). -/
structure Mem where
  cells : List Host.Cell := []
  poison : List Nat := []
  deriving DecidableEq, Repr

/-- One write of a command to memory, as the command's end commits it. -/
inductive MemOp where
  /-- Bytes stored from an address. -/
  | put (a : Nat) (bs : List Byte)
  /-- n bytes from an address set to 0. -/
  | clear (a n : Nat)
  /-- The n bytes at src, and their poison, moved to dst; src then reads 0. -/
  | move (src dst n : Nat)
  /-- The 64-byte lines from an address over n bytes marked poisoned. -/
  | mark (a n : Nat)
  /-- The poison of the lines that lie wholly in the range cleared. -/
  | clean (a n : Nat)
  deriving DecidableEq, Repr

/-- A reply packet (R37, Table 2.2). -/
structure Reply where
  hdr : Header
  op : Nat
  status : Nat
  detail : Nat
  devState : Nat
  payload : List Byte
  deriving DecidableEq, Repr

/-- The negative acknowledgements of R88, R91 (standard codes), and the standard's for a PSN ahead of the expected one. -/
inductive Nak where
  | invalidRequest | remoteAccess | sequenceError
  deriving DecidableEq, Repr

/-- What the device sends, in order of sending. -/
inductive Tx where
  /-- A reply as a Send Only on a COMMAND channel, with the PSN it travels under. -/
  | reply (ch psn : Nat) (r : Reply)
  /-- A Send Only that the device initiates on a channel. -/
  | send (ch psn : Nat) (payload : List Byte)
  /-- An RDMA Write that the device initiates: remote address, remote key, data, immediate. -/
  | write (ch psn va rkey : Nat) (data : List Byte) (imm : Option Nat)
  | ack (ch psn : Nat)
  | nak (ch psn : Nat) (code : Nak)
  | rnr (ch psn timer : Nat)
  /-- The data of an RDMA Read, from the request's PSN upward. -/
  | readResponse (ch psn : Nat) (data : List Byte)
  | cnp (ch : Nat)
  /-- Connection manager messages on queue pair 1 (R99). -/
  | rep (handle : Nat)
  | rej (reason : String)
  | dreq (ch : Nat)
  | drep (ch : Nat)
  | arpReply (dest : List Byte)
  | neighbourAdvert (dest : List Byte)
  | echoReply (dest data : List Byte)
  /-- A Yarzan flit or message on a physical link. -/
  | link (link : Nat) (bytes : List Byte)
  /-- A tile message (R509), as the flits carry it. -/
  | tile (link : Nat) (bytes : List Byte)
  /-- The acknowledgement or refusal of a tile message (R509, R510). -/
  | tileAck (link : Nat) (ok : Bool)
  | console (line : String)
  | smb (bytes : List Byte)
  | smbNak
  deriving DecidableEq, Repr

/-- An error-log record (R582, Table 18.6). -/
structure LogRec where
  seq : Nat
  time : Nat
  kind : Nat
  sev : Nat
  die : Nat
  tag : Nat
  handle : Nat
  unit : Nat
  addr : Nat
  data : List Byte
  deriving DecidableEq, Repr

/-- The error log and its counters (R581, R586). -/
structure Log where
  recs : List LogRec := []
  next : Nat := 1
  lost : Nat := 0
  supp : Nat := 0
  /-- Whole second in which `rate` counts, and the INFO and WARN records of each kind in it. -/
  rateSec : Nat := 0
  rate : Tab Nat := []
  deriving DecidableEq, Repr

/-- What a PENDING command waits for (R42). -/
inductive Wait where
  | init
  | standby
  | drain
  | dieReset (die : Nat)
  | pinPages (buf prot : Nat)
  | strmStop (strm : Nat)
  | strmResume (strm : Nat)
  | syncWait (sync amount : Nat) (reach : Bool) (limitUs : Nat)
  | graphDrain (graph : Nat)
  | graphFrog (graph : Nat)
  | jobAbort (job : Nat)
  | fwCommit (upd block : Nat) (data : List Byte)
  | fwRelay (upd : Nat)
  | fwActivate (upd : Nat)
  | linkConfig
  | linkSwap (logical : Nat)
  | remap
  | swatch
  | storeCommit (txn : Nat) (lost : Bool)
  | stepRise (target : Nat)
  | tierScan
  /-- A page that the command's access waits for (R143), by address, and the command's parameters. -/
  | page (va : Nat) (ps : List Byte)
  /-- The acknowledgement of a result window's write (R473): channel, PSN, and the header that the reply carries. -/
  | fetch (chan psn : Nat) (header : List Byte)
  deriving DecidableEq, Repr

/-- A command PENDING (R42): where it came from (16,384 names the console), its header and opcode, the start of its execution,
whether its interim reply has gone, and what it waits for. -/
structure PendCmd where
  ch : Nat
  hdr : Header
  op : Nat
  begun : Nat
  interim : Bool
  wait : Wait
  deriving DecidableEq, Repr

/-- A request that the device initiated and the peer has not acknowledged (R90). -/
structure DevReq where
  psn : Nat
  packets : Nat
  tries : Nat
  /-- What the request carried, to send it again. -/
  msg : Tx
  /-- The feed and batch position whose delivery it ends (R462), where it is one. -/
  feed : Option (Nat × Nat)
  deriving DecidableEq, Repr

/-- A record staged by STORE_WRITE (R609). -/
structure Staged where
  key : Nat
  inst : Nat
  payload : List Byte
  deriving DecidableEq, Repr

/-- A channel context (R96, R103, Table 3.4). -/
structure Chan where
  gen : Nat
  tag : Nat
  /-- 1 COMMAND, 2 DATA, 3 FEED. -/
  kind : Nat
  /-- Handle state: 1 IDLE, 2 ACTIVE, 6 FAULTED. -/
  state : Nat
  prio : Nat := 0
  ipVer : Nat := 4
  rdDepth : Nat := 1
  remoteQpn : Nat := 0
  /-- PSN expected from the peer. -/
  psn : Nat := 0
  /-- Next PSN of the device's own requests. -/
  txPsn : Nat := 0
  remoteIp : List Byte := []
  remoteMac : List Byte := []
  rxBuf : Nat := 0
  rxSync : Nat := 0
  expSeq : Option Nat := none
  rtuAt : Option Nat := none
  nonce : Option (List Byte × Nat) := none
  badSigs : Nat := 0
  ecn : Bool := false
  queueLimit : Nat := 64
  rateCap : Nat := 0
  /-- rc, rt (Mb/s) and alpha of R111, exact. -/
  rc : Rat := 800000
  rt : Rat := 800000
  alpha : Rat := 1
  stage : Nat := 0
  lastCnpIn : Option Nat := none
  lastCnpOut : Option Nat := none
  ringPos : Nat := 0
  /-- Bytes of the write message in progress (Table 3.5 WRITE_LEN). -/
  wrLen : Nat := 0
  /-- Next address and R_Key of the write message in progress. -/
  wrNext : Option (Nat × Nat) := none
  reqs : List DevReq := []
  rnrUntil : Nat := 0
  staged : List Staged := []
  deriving DecidableEq, Repr

/-- Global time and its sources (R685, R686, R521, R283). -/
structure Clk where
  /-- Global time, ns. -/
  now : Nat := 0
  /-- Time since the hub started, ns; never stepped. -/
  mono : Nat := 0
  unset : Bool := true
  ppsEdges : List Nat := []
  ppsValid : Bool := false
  /-- Seconds of a TIME_SET that waits for a PPS edge, and the end of its write. -/
  timeSet : Option (Nat × Nat) := none
  /-- Offset still to be slewed, ns (R521). -/
  slew : Int := 0
  /-- Tick period, ns (R283). -/
  tick : Nat := 1000
  /-- A new period and the time from which it holds. -/
  tickNext : Option (Nat × Nat) := none
  /-- A tick of the present period: its number and its time. -/
  tickBase : Nat := 0
  tickFrom : Nat := 0
  deriving DecidableEq, Repr

/-- The state that the hub holds of the whole device. -/
structure Hub where
  st : DevState := .standby
  prev : Nat := 0
  degraded : Bool := false
  failCause : Nat := 0
  /-- What brought the device to FAULT: 0 other, 1 thermal, 2 coolant, 3 overvoltage (for the status ladder, R652). -/
  faultKind : Nat := 0
  svcFrom : DevState := .standby
  /-- Boot stage of Table 20.5 (R626). -/
  stage : Nat := 3
  initStart : Nat := 0
  /-- Start of the wait of R673. -/
  initWait : Option Nat := none
  /-- Feature-die and HBM rails up (R674). -/
  rails : Bool := false
  /-- Dies under reset: die, start time. -/
  dieReset : Tab Nat := []
  /-- Successive die resets of a die that did not complete (R572). -/
  dieFails : Tab Nat := []
  /-- Dies whose last reset failed: out of service until another completes. -/
  dieOut : List Nat := []
  tripAt : Option Nat := none
  /-- A warm reset held under R544. -/
  warmHeld : Bool := false
  trip : Word := 0
  flowHold : Bool := false
  resetHold : Bool := false
  /-- INIT is to begin without a command (Table 2.6). -/
  autoInit : Bool := false
  overvolt : Bool := false
  disconnected : Bool := false
  /-- The hub die has tripped: only removal of the input restores the module (R543). -/
  tripOff : Bool := false
  /-- The hold-up sequence runs (R600); true when the input has returned (R601). -/
  holdup : Option Bool := none
  lastUe : Option Nat := none
  /-- Rails whose regulator reports a fault. -/
  regFault : List Nat := []
  /-- A FAULT condition waiting for a state with a row (R54). -/
  pendingFault : Bool := false
  /-- Boot count from which generations start (R61). -/
  bootBase : Nat := 0
  /-- CXL ports out of service (R575). -/
  cxlOut : List Nat := []
  sramCe : Word := 0
  ringRetry : Word := 0
  /-- CRC failures in succession and retrain times of each ring segment and direction (R563). -/
  ring : Tab (Nat × List Nat) := []
  deriving DecidableEq, Repr

/-- The input pins and measured inputs (Tables 22.7 and 22.10, R669). -/
structure Pins where
  /-- Input voltage, mV. -/
  vin : Nat := 44000
  /-- Input current, units of 10 mA (PWR_IIN). -/
  iin : Nat := 0
  /-- Coolant inlet, 0.1 degrees C. -/
  inlet : Int := 250
  resetN : Bool := true
  pwrEn : Bool := false
  flowOk : Bool := false
  flowLowAt : Option Nat := none
  flowHighAt : Option Nat := none
  serviceMode : Bool := false
  refclk : Bool := true
  slotId : Nat := 7
  deriving DecidableEq, Repr

/-- The Ethernet port (R84 to R116). -/
structure Eth where
  linkUp : Bool := false
  pcs : Bool := false
  laneLock : Byte := 0
  upSince : Option Nat := none
  cfg : Word := 0xCF001000
  cmdDrop : Nat := 0
  rxDrop : Nat := 0
  raccErr : Nat := 0
  fecCorr : Nat := 0
  fecUncorr : Nat := 0
  /-- Class COMMAND, class BULK paused by PFC (R109). -/
  pausedCmd : Bool := false
  pausedBulk : Bool := false
  /-- Messages that wait for the end of a pause (R109, R113), oldest first, with the class of their channel. -/
  held : List (Nat × Tx) := []
  /-- Frames answered in the present second (R85). -/
  rateSec : Nat := 0
  rateCnt : Nat := 0
  ip4 : List Byte := [0, 0, 0, 0]
  ip6 : List Byte := List.replicate 16 0
  deriving DecidableEq, Repr

/-- The residence states of Table 4.2. -/
inductive Resid where
  | pinned | placedHbm | placedTier | absent | filling
  deriving DecidableEq, Repr

/-- One page of a buffer (R128, R148): residence, physical base of its frame (its tier place while ABSENT under backing 1),
whether it has such a place, its placement counter and its hold (R150). -/
structure Page where
  st : Resid
  phys : Nat := 0
  held : Bool := false
  count : Nat := 0
  hold : Nat := 0
  deriving DecidableEq, Repr

/-- A buffer (R132, Table 4.3). -/
structure Buf where
  gen : Nat
  tag : Nat
  size : Nat
  base : Nat
  /-- Page size in bytes. -/
  page : Nat
  read : Bool
  write : Bool
  pin : Bool
  backing : Nat
  homeDie : Nat
  mask : Nat
  core : Nat
  notify : Nat
  reqSeq : Nat := 0
  pages : List Page
  deriving DecidableEq, Repr

/-- A CXL expander behind a port (R139, R140). -/
structure Expander where
  port : Nat
  pos : Nat
  lanes : Nat
  rate : Nat
  capacity : Nat
  vendor : Nat
  device : Nat
  serial : Nat
  /-- Its link has failed (R142). -/
  failed : Bool := false
  deriving DecidableEq, Repr

/-- A retired granule (R154, R158). -/
structure Retired where
  stack : Nat
  granule : Nat
  cause : Nat
  boot : Nat
  /-- A pinned page still lies in it (R155). -/
  open' : Bool := false
  deriving DecidableEq, Repr

/-- Placement settings (Table 4.7). -/
structure Place where
  budget : Nat := 20000
  epochUs : Nat := 10000
  promoteMin : Nat := 64
  demoteMax : Nat := 4
  holdEpochs : Nat := 4
  deriving DecidableEq, Repr

/-- A page-in (R144 to R147): buffer and page, the die, and its progress. -/
structure PageIn where
  buf : Nat
  page : Nat
  die : Nat
  /-- 0 running, 1 queued behind 64 others, 2 stalled under R145. -/
  st : Nat
  frame : Nat
  deriving DecidableEq, Repr

/-- A migration in flight (R152): the page, where it goes, and why: 0 retirement, 1 promotion, 2 demotion. -/
structure Migration where
  buf : Nat
  page : Nat
  dst : Nat
  st : Resid
  why : Nat := 0
  deriving DecidableEq, Repr

/-- The memory system: HBM repair and trims, the tier, the placement loop (chapter 4). -/
structure MemSys where
  retired : List Retired := []
  tierBytes : Nat := 0
  expanders : List Expander := []
  /-- The expanders that stand behind the ports, as TIER_SCAN finds them (DESIGN CHOICE, log entry 25). -/
  attached : List Expander := []
  place : Place := {}
  placeNext : Option Place := none
  /-- Page-in bytes of the present epoch, per die. -/
  pageinBytes : Tab Nat := []
  promotions : Nat := 0
  demotions : Nat := 0
  pageIns : Nat := 0
  bytesMoved : Nat := 0
  budgetStops : Nat := 0
  pageins : List PageIn := []
  migs : List Migration := []
  /-- MEM_SCRUB_CFG per die. -/
  scrubCfg : Tab Word := []
  ceCnt : Tab Nat := []
  ueCnt : Tab Nat := []
  /-- Read-capture trim per pseudo-channel (32 x stack + pseudo-channel), steps. -/
  trims : Tab Int := []
  /-- Spare rows used per pseudo-channel. -/
  spareUsed : Tab Nat := []
  trained : List Nat := []
  /-- Corrected errors of a row: (32 x stack + pc, row, time), newest first, of the last 24 hours. -/
  rowCe : List (Nat × Nat × Nat) := []
  /-- Repairs: (32 x stack + pc, row, spare). -/
  repairs : List (Nat × Nat × Nat) := []
  /-- Uncorrectable errors per stack in the last second: (stack, pc, time) (R573). -/
  ueTimes : List (Nat × Nat × Nat) := []
  trimSavedAt : Nat := 0
  cxlCfg : Word := 0
  cxlPoison : Tab Nat := []
  deriving DecidableEq, Repr

/-- A waiter of a sync object (R288): a task (die, slot), a stream and which of its waits, or a host command. -/
inductive Waiter where
  | task (die slot : Nat)
  | stream (strm : Nat) (which : Nat)
  | cmd (ch seq : Nat)
  deriving DecidableEq, Repr

/-- A sync object (R285 to R288). -/
structure Sync where
  gen : Nat
  tag : Nat
  val : Nat
  sat : Bool := false
  /-- TAKE waiters in order of registration, with amounts. -/
  takers : List (Waiter × Nat) := []
  reachers : List (Waiter × Nat) := []
  /-- STREAM handle whose FULL object this is (R292, R296), as binding streams hold it. -/
  boundBy : List Nat := []
  deriving DecidableEq, Repr

/-- A sync operation (R287). -/
inductive SyncOp where
  | add (a : Nat)
  | set (v : Nat)
  | take (w : Waiter) (a : Nat)
  | reach (w : Waiter) (v : Nat)
  deriving DecidableEq, Repr

/-- A sync message on its way over the ring (R286): object, operation, issuer. -/
structure SyncMsg where
  obj : Nat
  op : SyncOp
  issuer : Waiter
  deriving DecidableEq, Repr

/-- Task slot states (Table 8.1). -/
inductive SlotState where
  | wait | delay | ready | run | done | faulted
  deriving DecidableEq, Repr

/-- A task record (Table 8.2). -/
structure TaskRec where
  slot : Nat
  core : Nat
  prio : Nat
  entry : Nat
  trig : Nat
  trigAmt : Nat
  rep : Nat
  trigReach : Bool
  arg : Nat
  deriving DecidableEq, Repr

/-- A task slot that is not FREE (R273). -/
structure Slot where
  st : SlotState
  rec' : TaskRec
  graph : Nat
  run : Nat := 0
  /-- Saved scalar registers and program offset (R278). -/
  sregs : List DWord := []
  pc : Nat := 0
  /-- Object waited on, in WAIT. -/
  obj : Option Nat := none
  deriving DecidableEq, Repr

/-- An entry of a delay list (R284): wake tick, slot, and whether it is a limited wait. -/
structure DelayEnt where
  wake : Nat
  slot : Nat
  isWait : Bool
  deriving DecidableEq, Repr

/-- What a feature die holds beside its cores, engines and contexts: scheduler, stream counters, spares (R11). -/
structure Die where
  delay : List DelayEnt := []
  schedTo : Nat := 0
  syncQ : List SyncMsg := []
  syncStall : Nat := 0
  oobRd : Nat := 0
  oobWr : Nat := 0
  halfRun : Nat := 0
  overlap : Nat := 0
  ovlMiss : Nat := 0
  descFmt : Nat := 0
  strBad : Nat := 0
  late : Nat := 0
  halt : Nat := 0
  boundLost : Nat := 0
  /-- Physical cores retired and marked, as 68-bit maps (R569). -/
  coreRetired : Nat := 0
  coreMarked : Nat := 0
  /-- Physical core bound to each local index; 0xFF none (R17, R570). -/
  bind : List Nat := List.range 64
  /-- Join-store slices retired, and the slice whose place the spare has taken (R571). -/
  sliceRetired : List Nat := []
  sliceSpare : Option Nat := none
  /-- Slices marked by a swatch run in service (R661). -/
  sliceMarked : List Nat := []
  jsCe : Nat := 0
  /-- The device's count of cycles at the die's last reset (CORE_CYC). -/
  cycBase : Nat := 0
  /-- Times of corrected errors: (physical core, or 0x100 + slice, time) within 24 hours. -/
  sramCe : List (Nat × Nat) := []
  /-- Lines written whole after an uncorrectable error, by physical address (R569 b, R571). -/
  ueLines : List Nat := []
  deriving DecidableEq, Repr

/-- A logical core (chapter 7). -/
structure Core where
  offline : Bool := false
  /-- Bits of CORE_FAULT: kind, program offset and address of the last fault (Table 7.10). -/
  faultKind : Nat := 0
  faultPc : Nat := 0
  faultAddr : Nat := 0
  pc : Nat := 0
  sregs : List DWord := List.replicate 32 0
  /-- Vector registers by number: 1,024 bytes each; an absent register holds 0. -/
  vregs : Tab (List Byte) := []
  /-- Poison bit of each 32-bit lane of a register, as a 256-bit number. -/
  vpoison : Tab Nat := []
  /-- Mask registers by number, 256 bits. -/
  masks : Tab Nat := []
  /-- Accumulator tiles by number: 2,048 32-bit elements; absent holds 0. -/
  acc : Tab (List Nat) := []
  accPoison : List Nat := []
  fpCtl : Word := 0x40
  fpStat : Word := 0
  srSeed : Word := 0
  /-- Stochastic generators of the lanes (R257); empty means seeded of srSeed. -/
  gens : Tab Nat := []
  /-- Cycles that the core's clock has run beyond those of the device step, in twentieths (CORE_CYC, DEDUCED, log entry 44). -/
  cyc : Int := 0
  matCyc : Nat := 0
  vecCyc : Nat := 0
  ce : Nat := 0
  /-- Frame table: permission of each 64 KiB frame, absent means none (R240): 1 R, 2 W. -/
  frames : Tab Nat := []
  /-- Step at which `step island` holds the island (R662); steps of droop, and when they last changed (R534). -/
  held : Option Nat := none
  droop : Nat := 0
  droopAt : Nat := 0
  /-- Slot in RUN. -/
  run : Option Nat := none
  deriving DecidableEq, Repr

/-- The FRAM counter frame (R588, Table 19.2). -/
structure Frame where
  seq : Nat := 0
  bootCount : Nat := 0
  cutCount : Nat := 0
  uptimeS : Nat := 0
  energyUj : Nat := 0
  /-- Microseconds per throttle reason 1 to 9. -/
  throttle : List Nat := List.replicate 9 0
  flashBytes : Nat := 0
  holdupUs : Nat := 0
  /-- Records per kind, sparse. -/
  kinds : Tab Nat := []
  deriving DecidableEq, Repr

/-- A journal record (Table 19.5). -/
structure JRec where
  key : Nat
  fmt : Nat := 1
  inst : Nat := 0
  tomb : Bool := false
  commit : Bool := false
  seq : Nat
  txn : Nat
  payload : List Byte
  inA : Bool := false
  inB : Bool := false
  /-- Journal sector of its FA copy (its FB copy where FA is out of use). -/
  sector : Nat := 0
  deriving DecidableEq, Repr

/-- One flash: in use, its wear (R599, R604, R612). -/
structure Flash where
  ok : Bool := true
  /-- Journal sectors retired, by index 0 to 1,535. -/
  retired : List Nat := []
  /-- Sector of the head and bytes used in it; sector of the tail; laps of head and tail. -/
  head : Nat := 0
  used : Nat := 64
  tail : Nat := 0
  lap : Nat := 0
  tailLap : Nat := 0
  deriving DecidableEq, Repr

/-- Uptime and frame in RAM are the working copy; `fram0` and `fram1` are the two FRAM copies (R588); a record of the
journal is live by R595. -/
structure Store where
  frame : Frame := {}
  fram0 : Option Frame := some {}
  fram1 : Option Frame := none
  framLost : Bool := false
  mirrorLost : Bool := false
  fa : Flash := {}
  fb : Flash := {}
  /-- Committed records, oldest first. -/
  live : List JRec := []
  /-- Accepted records not yet in both flashes, oldest first (R597). -/
  pending : List JRec := []
  /-- Records that wait for the day's budget (R606). -/
  waiting : List JRec := []
  nextSeq : Nat := 1
  nextTxn : Nat := 1
  limit : Nat := 65536
  /-- Appends of the last 24 hours: time and bytes; and those of host commits (R605, R606). -/
  appends : List (Nat × Nat) := []
  hostAppends : List (Nat × Nat) := []
  lastSnap : Nat := 0
  /-- Slots of PWR_CEILING and of OWNER_KEY that the last INIT found programmed without VALID (R592). -/
  abandoned : Nat × Nat := (0, 0)
  deriving DecidableEq, Repr

/-- The fuse array (Table 20.1, Table 19.3). A slot is (bytes, valid). -/
structure Fuse where
  serial : Nat := 0
  mac : List Byte := List.replicate 6 0
  idSeed : List Byte := List.replicate 32 0
  vendorKeys : List (List Byte) := []
  secVersion : Nat := 0
  sealCount : Nat := 0
  /-- PWR_CEILING slots programmed: value and whether VALID. Slot 0 is the first. -/
  ceiling : List (Nat × Bool) := [(2400, true)]
  owner : List (List Byte × Bool) := []
  deriving DecidableEq, Repr

/-- A firmware image's manifest values that the device reports (Table 20.3). -/
structure ImageInfo where
  dye : Nat := 0
  secVersion : Nat := 0
  codeMin : Nat := 0
  codeMax : Nat := 0
  manifestHash : List Byte := []
  /-- Formats per key: (key, read from, writes). -/
  fmts : List (Nat × Nat × Nat) := []
  deriving DecidableEq, Repr

/-- A firmware slot in flash (R621). -/
structure FwSlot where
  /-- 0 erased, 1 receiving, 2 verified, 3 abandoned. -/
  st : Nat := 0
  imageId : List Byte := []
  fileBytes : Nat := 0
  wrap : List Byte := []
  /-- IK, as the security block unwraps it from WRAP (R621). -/
  ik : List Byte := []
  /-- The image blocks held: number and 4,096 bytes. -/
  blocks : Tab (List Byte) := []
  info : ImageInfo := {}
  deriving DecidableEq, Repr

/-- An offer of an image to a neighbour, or one accepted from it (R636 to R638), on a logical link. -/
structure Relay where
  link : Nat
  session : Nat
  sender : Bool
  /-- Slot of the image, and the UPDATE that the offer belongs to, where there is one. -/
  slot : Nat
  upd : Option Nat := none
  /-- 0 offered, or accepted without its key; 2 blocks going; 3 ended well; 4 failed or refused. -/
  phase : Nat := 0
  /-- Next chunk to send, counted over all blocks. -/
  next : Nat := 0
  /-- DIMS of the offer. -/
  dims : Nat := 0
  priv : List Byte := []
  pub : List Byte := []
  peerPub : List Byte := []
  /-- Chunks of blocks that are not yet whole: block x 128 + chunk. -/
  chunks : Tab (List Byte) := []
  deriving DecidableEq, Repr

/-- A relay record that arrives in pieces (R636): its logical link, SESSION, REC_KIND and NPIECES, and the pieces that have come. -/
structure RelayPart where
  link : Nat
  session : Nat
  kind : Nat
  n : Nat
  got : Tab (List Byte) := []
  deriving DecidableEq, Repr

/-- An UPDATE object (R630 to R638). -/
structure Upd where
  gen : Nat
  tag : Nat
  slot : Nat
  imageId : List Byte
  fileBytes : Nat
  held : List Nat := []
  /-- 0 receiving, 1 verifying, 2 verified, 3 failed. -/
  phase : Nat := 0
  /-- 0 trickle, 1 relay. -/
  kind : Nat := 0
  stageBuf : Nat := 0
  deriving DecidableEq, Repr

/-- A key agreement (R629): number, transport key, time of the reply. -/
structure Agreement where
  id : Nat
  tk : List Byte
  at' : Nat
  deriving DecidableEq, Repr

/-- Firmware slots, FW_SLOT_STATE (R622) and the running image. -/
structure Fw where
  slotA : FwSlot := { st := 2 }
  slotB : FwSlot := {}
  slotR : FwSlot := { st := 2 }
  active : Nat := 0
  prev : Nat := 0xFF
  confirmed : Bool := true
  failedBoots : Nat := 0
  actUptime : Nat := 0
  deadline : Nat := 0
  newDye : Nat := 0
  prevDye : Nat := 0
  /-- Running slot: 0 A, 1 B, 2 recovery. -/
  run : Nat := 0
  info : ImageInfo := {}
  upds : Tab Upd := []
  /-- Slot being activated in UPDATE_PAUSE, and the start of the pause. -/
  pause : Option (Nat × Nat) := none
  ka : List Agreement := []
  kaNext : Nat := 1
  session : Nat := 1
  relays : List Relay := []
  parts : List RelayPart := []
  authFail : Nat := 0
  deriving DecidableEq, Repr

/-- The DEVICE_CONFIG values in force since the last cold or warm reset (Table 19.6, R610). -/
structure DevConfig where
  autoStart : Bool := false
  fwDelivery : Nat := 0
  confirmMin : Nat := 30
  gaugeW : Nat := 3400
  deriving DecidableEq, Repr

/-- The service console and the swatches (chapter 21). -/
structure Svc where
  unsealed : Bool := false
  baud : Nat := 115200
  cmdCnt : Nat := 0
  /-- The boot ROM runs the console (R654). -/
  rom : Bool := false
  stepLimit : Option Nat := none
  /-- Swatch run: bits still to test, the mask of the last run, its results (RESULT, UNIT, DETAIL, MS), its start in global time,
  and the start of the swatch in hand. -/
  swatchLeft : List Nat := []
  swatchMask : Nat := 0
  swatch : Tab (Nat × Nat × Nat × Nat) := []
  swatchAt : Nat := 0
  swatchFrom : Nat := 0
  swatchConsole : Bool := false
  deriving DecidableEq, Repr

/-- The parameters of STRM_ARM (Table 6.6). -/
structure Arm where
  ring : Nat
  count : Nat
  start : Nat
  loop : Bool
  slotReset : Bool
  deriving DecidableEq, Repr

/-- A stream descriptor as fetched (Table 6.2), with its ring entry and address. -/
structure SDesc where
  entry : Nat
  addr : Nat
  srcLd : Nat
  dstLd : Nat
  srcAdv : Int
  dstAdv : Int
  indexAdv : Int
  rep : Nat
  firstNs : Nat
  tileNs : Nat
  slackNs : Nat
  doneSync : Nat
  ctrl : Nat
  deriving DecidableEq, Repr

/-- A layout descriptor as fetched, of either format (Tables 5.3 and 5.4); lists run over the dimensions below RANK. -/
structure Layout where
  format : Nat
  elem : Nat
  rank : Nat
  flags : Nat
  xform : Nat := 0
  xfDim : Nat := 0
  winLen : Nat := 0
  base : Nat
  fill : Nat
  size : List Nat
  start : List Int
  count : List Nat
  stride : List Int
  auxBase : Nat := 0
  indexBase : Nat := 0
  winStep : Nat := 0
  winDil : Nat := 0
  block : List Nat := []
  deriving DecidableEq, Repr

/-- A memory operation of a tile (R208): the walk entries [lo, lo + n) that it moves, its address and bytes, whether it starts
a run that moves at half rate (R179), whether it writes pad entries. -/
structure Chunk where
  lo : Nat
  n : Nat
  addr : Nat
  bytes : Nat
  half : Bool := false
  pad : Bool := false
  deriving DecidableEq, Repr

/-- A started tile (R203, R227): its descriptor, tile number, slot bases, the operations of its walk, and how far they are. -/
structure Tile where
  desc : SDesc
  src : Layout
  dst : Layout
  k : Nat
  /-- Tile number within the generation, and descriptor's last tile. -/
  g : Nat
  last : Bool
  reads : List Chunk
  writes : List Chunk
  nextRd : Nat := 0
  nextWr : Nat := 0
  /-- A descriptor with REPEAT = 0 in its place in tile order (R199). -/
  void : Bool := false
  /-- What the tile has read: address, bytes, poison. -/
  got : List (Nat × List Byte × Bool) := []
  /-- STR32: start and length of each source string, and walk entry, place and length of each string written. -/
  strs : List (Nat × Nat) := []
  placed : List (Nat × Nat × Nat) := []
  /-- Logical link of the window that holds the destination (R508). -/
  link : Option Nat := none
  /-- When the engine took this tile from SRC_FULL (R215). -/
  srcTake : Nat := 0
  srcSignalled : Bool := false
  /-- It has issued its first operation (R227). -/
  issued : Bool := false
  poison : Bool := false
  deriving DecidableEq, Repr

/-- An outstanding memory operation (R208): its number, tile of the generation, index in the tile's reads or writes. -/
structure MemOpOut where
  id : Nat
  g : Nat
  idx : Nat
  isRead : Bool
  /-- A halt has discarded its data (R230). -/
  stale : Bool := false
  /-- What a read found: address, physical address, bytes, poison, per line; what a write stored: address and physical address. -/
  data : List (Nat × Nat × List Byte × Bool) := []
  deriving DecidableEq, Repr

/-- The consumer side of one FULL object (R210, R215): its SYNC index, the time of the last take, tiles taken, the start of a
wait in progress. -/
structure Member where
  obj : Nat
  lastTake : Option Nat := none
  taken : Nat := 0
  waitStart : Option Nat := none
  deriving DecidableEq, Repr

/-- A stream context (R196, Table 6.1). -/
structure Strm where
  gen : Nat
  tag : Nat
  mcast : Nat
  outMax : Nat
  dstFull : Nat
  dstEmpty : Nat
  srcFull : Nat
  srcEmpty : Nat
  dstSlot : Nat
  srcSlot : Nat
  mcastDie : Nat
  fullLocal : Nat
  mcastMask : Nat
  /-- Graph whose load created it (R232). -/
  graph : Option Nat := none
  /-- Handle state: 1 IDLE, 2 ACTIVE, 3 SHADOWED, 4 HALTED, 6 FAULTED. -/
  state : Nat := 1
  sgen : Nat := 0
  arm : Option Arm := none
  shadow : Option Arm := none
  /-- Descriptors of the burst not yet started (R200). -/
  burst : List SDesc := []
  /-- Ring entry at which the next burst begins; COUNT at the end of a pass. -/
  nextFetch : Nat := 0
  running : Option (SDesc × Layout × Layout) := none
  nextTile : Nat := 0
  /-- Slot counter and LOOKAHEAD of the generation (R206). -/
  slot : Nat := 0
  look : Nat := 0
  lookPrev : Nat := 0
  tiles : List Tile := []
  ops : List MemOpOut := []
  opNext : Nat := 0
  g0 : Nat := 0
  tDesc : Nat := 0
  lastPut : Nat := 0
  members : List Member := []
  /-- Waits of Table 6.4 steps 1 and 2 in progress or taken for the next tile: 0 none, 1 waiting, 2 taken. -/
  srcGot : Nat := 0
  dstGot : Nat := 0
  srcGotAt : Nat := 0
  /-- Every descriptor started so far declared BOUNDED; BOUND_LOST (R214). -/
  bounded : Bool := true
  boundLost : Bool := false
  started : Nat := 0
  tilesDone : Nat := 0
  /-- Ring entry and tile of the first tile not complete (R227, Table 6.7). -/
  endEntry : Nat := 0
  endTile : Nat := 0
  late : Nat := 0
  lateRec : Bool := false
  worst : Nat := 0
  dropped : Nat := 0
  lastGrant : Nat := 0
  /-- Stop requested: mode. -/
  stop : Option Nat := none
  /-- Page waited on in HALTED: its address; entry of the saved position. -/
  haltVa : Nat := 0
  haltEntry : Nat := 0
  /-- Tracked DBG_OVL ranges (R186, R187): the descriptor's last tile, low byte, end. -/
  ranges : List (Nat × Nat × Nat) := []
  deriving DecidableEq, Repr

/-- A claim of a loaded graph (Table 15.2): core, or 0xFF for the join store; local offset and bytes. -/
structure Claim where
  die : Nat
  core : Nat
  prot : Nat
  off : Nat
  bytes : Nat
  deriving DecidableEq, Repr

/-- A SYNC record with the index its first object took. -/
structure GSync where
  idx : Nat
  count : Nat
  resetStage : Nat
  init : Nat
  deriving DecidableEq, Repr

/-- A STREAM record, resolved: the stream it creates or re-arms, and how it is armed. -/
structure GStrm where
  strm : Nat
  created : Bool
  arm : Arm
  stage : Nat
  armAt : Nat
  deriving DecidableEq, Repr

/-- A stage record (Table 15.3), resolved. -/
structure GStage where
  firstTask : Nat
  nTask : Nat
  endSync : Nat
  next : Nat
  endVal : Nat
  deriving DecidableEq, Repr

/-- A QUEUE record, resolved. -/
structure GQueue where
  die : Nat
  cls : EngClass
  queue : Nat
  submit : Nat
  ring : Nat
  count : Nat
  deriving DecidableEq, Repr

/-- A FEED binding: feed index, die, first task. -/
structure GFeed where
  feed : Nat
  die : Nat
  firstTask : Nat
  deriving DecidableEq, Repr

/-- A result ring of a graph (R469 to R473). -/
structure ResultRing where
  buf : Nat
  nwin : Nat
  off : Nat
  winBytes : Nat
  overwrite : Bool
  freeSync : Nat
  pubSync : Nat
  /-- Highest result published, released or reclaimed, and the PUB_SYNC units taken up. -/
  published : Nat := 0
  released : Nat := 0
  seen : Nat := 0
  deriving DecidableEq, Repr

/-- A loaded graph (chapter 15). -/
structure Graph where
  gen : Nat
  tag : Nat
  /-- Handle state: 1 IDLE, 2 ACTIVE, 5 DRAINING, 6 FAULTED. -/
  state : Nat := 1
  codeVer : Nat
  claims : List Claim := []
  syncs : List GSync := []
  strms : List GStrm := []
  tasks : List TaskRec := []
  stages : List GStage := []
  feeds : List GFeed := []
  queues : List GQueue := []
  matchsets : List Nat := []
  /-- Handles imported (R64). -/
  imports : List Nat := []
  stage : Nat := 0
  /-- The current stage has ended and waits for its slots and stops (R486). -/
  ending : Bool := false
  /-- The stage to start next. -/
  startNext : Option Nat := none
  frogReason : Nat := 0
  frogStage : Nat := 0xFFFF
  stagesDone : Nat := 0
  runTime : Nat := 0
  frogs : Nat := 0
  ring : Option ResultRing := none
  deriving DecidableEq, Repr

/-- A JOB (R67, R475). -/
structure Job where
  gen : Nat
  deriving DecidableEq, Repr

/-- The limits of the loops of Table 17.1. -/
structure Limits where
  guard : Nat := 18
  gauge : Nat := 18
  thermal : Nat := 18
  coolant : Nat := 18
  age : Nat := 18
  service : Nat := 18
  deriving DecidableEq, Repr

/-- Power, thermal control and energy (chapter 17). -/
structure Pwr where
  /-- Device step in force; a raise in progress: its target and the dies whose rails have settled (R529). -/
  step : Nat := 0
  raise : Option (Nat × List Nat) := none
  lim : Limits := {}
  /-- Ceiling of R530 and when it last rose. -/
  ceil : Nat := 0
  ceilUpAt : Option Nat := none
  /-- PWR_CAP_SET, PWR_STEP_LIM, PWR_TJ_CFG. -/
  capSet : Nat := 0xD48
  stepLim : Nat := 18
  tjCfg : Word := 0x5A5F
  /-- Estimate and its dynamic part of the last 1,000 ticks, pJ; input power of the last 10,000 samples, µW; newest first. -/
  estTicks : List (Rat × Rat) := []
  inSamples : List Nat := []
  lastDown : Option Nat := none
  lastUp : Option Nat := none
  gaugeUnreached : Bool := false
  divergence : Bool := false
  sensorSuspect : Bool := false
  modelSuspect : Bool := false
  flowLost : Bool := false
  /-- Since when step 0 has held with p above the gauge (R537). -/
  zeroSince : Option Nat := none
  /-- Since when the input power has stayed above 3,400 W, and since when current and power have stayed low (R535). -/
  overSince : Option Nat := none
  lowSince : Option Nat := none
  thermDown : Option Nat := none
  thermUp : Option Nat := none
  coolSince : Option Nat := none
  droopCnt : Nat := 0
  ilimCnt : Nat := 0
  divCnt : Nat := 0
  /-- TRIM_d in 5 mV units. -/
  trim : List Nat := [0, 0, 0, 0]
  /-- Trims whose record is not yet committed (R548). -/
  trimNext : Option (List Nat) := none
  /-- V_base(d, s), mV, d major (R528). -/
  vBase : List Nat := List.replicate 76 600
  /-- Coefficients, pJ: fused, and in force. -/
  coef0 : List Rat := List.replicate 13 1
  coef : List Rat := List.replicate 13 1
  coefSaved : Nat := 0
  /-- Energy accumulators of the tags, measured and estimated totals, µJ with their fractions (R551). -/
  en : Tab Rat := []
  enMeas : Rat := 0
  enEst : Rat := 0
  /-- The present window: counts per class with the factors of R550 applied, estimate per tag, µJ. -/
  winCnt : Tab Rat := []
  winEst : Tab Rat := []
  /-- Gap of the last window, and its P_reg in mW where formed. -/
  gap : Rat := 0
  pReg : Option Nat := none
  /-- Consecutive windows: gap above 12 %, at most 6 %, estimate within 10 % of P_reg, measurement likewise. -/
  gapHigh : Nat := 0
  gapLow : Nat := 0
  estOk : Nat := 0
  measOk : Nat := 0
  /-- Microseconds per throttle reason 1 to 9 since reset (R532). -/
  throttle : Tab Nat := []
  telem : List (List Byte) := []
  telemSeq : Nat := 1
  /-- Figures of the present second for the telemetry record: powers in W, energies in µJ. -/
  secPeak : Rat := 0
  secVinMin : Option Nat := none
  secIinMax : Nat := 0
  secStepMin : Option Nat := none
  secStepMax : Nat := 0
  secMeas : Rat := 0
  secEst : Rat := 0
  /-- Hottest island of each die: (island, reading in 0.1 C); hottest stack. -/
  tjMax : List (Nat × Int) := [(0, 0), (0, 0), (0, 0), (0, 0)]
  hbmMax : Nat × Int := (0, 0)
  /-- Mean island temperature of each die, 0.1 C (R550). -/
  tjMean : List Int := [600, 600, 600, 600]
  /-- Step at which `step island` holds the block island of a die, and steps of droop of it with the time of the last (R534, R662). -/
  blkHeld : Tab Nat := []
  /-- Cycles of a clock at the device step since reset, in twentieths (CORE_CYC, DEDUCED, log entry 44). -/
  cyc : Nat := 0
  blkDroop : Tab (Nat × Nat) := []
  deriving DecidableEq, Repr

/-- An embedding table (R414, Table 13.1): its 64-byte descriptor, resolved. -/
structure Table where
  gen : Nat
  tag : Nat
  desc : List Byte
  deriving DecidableEq, Repr

/-- A match set of a loaded graph (R374, Table 15.2). -/
structure MatchSet where
  gen : Nat
  tag : Nat
  addr : Nat
  deriving DecidableEq, Repr

/-- An admitted sample that is not resolved (R447 to R457). -/
structure Sample where
  id : Nat
  ord : Nat
  arg : Nat
  die : Nat
  steps : Nat := 0
  /-- Start of its decode time. -/
  start : Nat
  /-- Lane task it runs on. -/
  lane : Nat
  slow : Bool := false
  /-- Timed out: its next post is discarded (R457). -/
  dropped : Bool := false
  /-- READY: the row's address; it waits for a position or for its copy. Samples that wait stand in the order of their posts. -/
  row : Option Nat := none
  /-- Batch and position it has, once placed or, under ORDERED, from its admission. -/
  place : Option (Nat × Nat) := none
  copying : Bool := false
  /-- Order of admission. -/
  no : Nat
  deriving DecidableEq, Repr

/-- A batch from its opening to its delivery (R450). -/
structure Batch where
  seq : Nat
  openTime : Nat
  closeTime : Nat := 0
  cause : Nat := 0
  /-- Positions taken, with the SAMPLE_ID and the decoding die once the row copy has completed. -/
  taken : Tab (Option (Nat × Nat)) := []
  /-- Ordered positions resolved without a sample (R452, R456). -/
  empty : List Nat := []
  /-- 0 open, 1 closed and prepared, 2 in delivery. -/
  st : Nat := 0
  ledgerNo : Nat := 0
  client : Nat := 0
  deriving DecidableEq, Repr

/-- A client of a feed (R460). -/
structure Client where
  idx : Nat
  chan : Nat
  cslots : Nat
  va : Nat
  rkey : Nat
  stride : Nat
  credits : Nat
  begun : Nat := 0
  lastBegin : Nat := 0
  deriving DecidableEq, Repr

/-- The settings of FEED_CONFIG (Table 14.2). -/
structure FeedCfg where
  mode : Nat := 0
  lowWater : Nat := 4
  slowMult : Nat := 8
  dropMult : Nat := 128
  dropUs : Nat := 50000
  alarmSync : Nat := 0
  deriving DecidableEq, Repr

/-- A feed (chapter 14). -/
structure Feed where
  gen : Nat
  tag : Nat
  buf : Nat
  dieMask : Nat
  qdepth : Nat
  batch : Nat
  rowBytes : Nat
  lateSlots : Nat
  decodeSlots : Nat
  slowMax : Nat
  intakeSlots : Nat
  ledgerCap : Nat
  fill : Nat
  /-- Base local SYNC index S of each die of DIE_MASK (R442). -/
  base : Tab Nat
  cfg : FeedCfg := {}
  cfgNext : Option FeedCfg := none
  /-- Intake records taken per die. -/
  intake : Tab Nat := []
  samples : List Sample := []
  sampleNo : Nat := 0
  /-- FLUSH markers not resolved: the admission number below which every sample must be resolved (R453). -/
  flushes : List Nat := []
  batches : List Batch := []
  nextSeq : Nat := 1
  ledgerOld : Nat := 0
  ledgerNext : Nat := 0
  clients : List Client := []
  beginNo : Nat := 0
  armed : Bool := false
  alarm : Bool := false
  /-- Decode times of the last 1,024 samples that ended READY or CORRUPT, newest first. -/
  hist : List Nat := []
  ended : Nat := 0
  delivered : Nat := 0
  drops : Nat := 0
  draining : Bool := false
  faulted : Bool := false
  deriving DecidableEq, Repr

/-- The counters of Table 14.8. -/
structure FeedCnt where
  slow : Nat := 0
  timeout : Nat := 0
  corrupt : Nat := 0
  latepost : Nat := 0
  lowwater : Nat := 0
  badmsg : Nat := 0
  stall : Nat := 0
  early : Nat := 0
  deriving DecidableEq, Repr

/-- A work item from its take to its signal (R304 to R310): its number in the queue (QSEQ), its descriptor and engine, whether
it runs on, is parked, or has ended, the position saved when it was parked, and what its completion record will hold. -/
structure Item where
  /-- Items that the device had taken before it: names the item, and orders parked items (R307). -/
  no : Nat
  seq : Nat
  desc : List Byte
  eng : Nat
  /-- 0 parked, 1 ended, 2 ended with its record written and its signal held (R305), 3 its record waits for a page, 4 an UPDATE of a
  table whose steps are under way (R428), 5 an UPDATE of an array that waits on a shift (R381). -/
  st : Nat
  /-- Address of the page waited on. -/
  va : Nat := 0
  /-- Records applied of an array's UPDATE; steps not yet written back of a table's UPDATE. -/
  pos : Nat := 0
  status : Nat := 0
  reason : Nat := 0
  flags : Nat := 0
  inUsed : Nat := 0
  outDone : Nat := 0
  rejected : Nat := 0
  check : Nat := 0
  checkExp : Nat := 0
  errOff : Nat := 0
  /-- Output bytes, for the X_OUT counters. -/
  outBytes : Nat := 0
  deriving DecidableEq, Repr

/-- A work queue (R302, R303): its registers, the ring entry to take next, the items taken since Q_EN was set, and the items
taken and not yet signalled, oldest first. -/
structure EngQ where
  ring : Nat := 0
  count : Nat := 0
  submit : Nat := 0
  job : Nat := 0
  en : Bool := false
  head : Nat := 0
  seq : Nat := 0
  items : List Item := []
  deriving DecidableEq, Repr

/-- An ordered match array (R371 to R383): key kind, entries in key order (key as it stands in memory, value), a shift in progress. -/
structure Oma where
  kind : Nat := 0
  entries : List (Nat × Nat) := []
  shift : Bool := false
  deriving DecidableEq, Repr

/-- An optimizer step on its way to, or at, a row update unit (R428): the item that sent it (queue key and its number), table and row,
learning rate, gradient (FP32 bits). -/
structure RowStep where
  key : Nat
  no : Nat
  table : Nat
  row : Nat
  lr : Nat
  grad : List Nat
  deriving DecidableEq, Repr

/-- A row update unit (R429, R432): its generator (none: as EMB_SR_SEED seeds it) and the steps that have reached it, oldest first. -/
structure Ruu where
  gen : Option Nat := none
  steps : List RowStep := []
  deriving DecidableEq, Repr


/-- A Yarzan link, physical (chapter 16): its entry of LINK_CONFIG, its state (Table 16.4), the logical link it carries, and the
lanes of its two directions: maps of five positions retired, and data lanes in use. -/
structure Link where
  state : Nat := 0
  role : Nat := 0
  peer : Nat := 0
  peerLink : Nat := 0
  spareDims : Nat := 0
  logical : Nat := 0xFF
  rxRetired : Nat := 0
  txRetired : Nat := 0
  rxLanes : Nat := 0
  txLanes : Nat := 0
  fecCorr : Nat := 0
  fecUncorr : Nat := 0
  replays : Nat := 0
  rxRefuse : Nat := 0
  rxTiles : Nat := 0
  /-- When the last flit came, and since when the link has been up (R496, R522). -/
  lastFlit : Nat := 0
  upSince : Option Nat := none
  /-- Time stamps of R521: sending time and arrival time of the last TIME of the peer, sending time of the own last TIME; delay
  and offset found. -/
  peerTx : Nat := 0
  peerRx : Nat := 0
  ownTx : Nat := 0
  delay : Option Nat := none
  offset : Int := 0
  /-- UNSET of the peer's last TIME. -/
  unset : Bool := false
  deriving DecidableEq, Repr

/-- A logical link (R494, R495, R500): sequence numbers, retry buffer (SEQ, type, payload), flits that wait (type, payload), credits,
DATA flits held and credits owed to the peer, and what identifies the peer. -/
structure LLink where
  txSeq : Nat := 0
  rxSeq : Nat := 4095
  skipping : Bool := false
  retry : List (Nat × Nat × List Byte) := []
  queue : List (Nat × List Byte) := []
  credit : Nat := 1024
  held : Nat := 0
  owed : Nat := 0
  /-- Last SEQ replayed and its replays in succession. -/
  replayOf : Nat := 0
  replayN : Nat := 0
  peerSerial : Option Nat := none
  /-- Spare requested and when (R499 to R501); whether LINK_SPARE_SWAP asked for it. -/
  spare : Option (Nat × Nat) := none
  deriving DecidableEq, Repr

/-- A spare request to the tray (R499, R682): its REQ_ID, 1 request or 2 withdrawal, what it names. -/
structure SpareReq where
  id : Nat
  kind : Nat
  link : Nat
  spare : Nat
  peer : Nat × Nat × Nat
  deriving DecidableEq, Repr

/-- Membership of a frequency group (R515 to R520). -/
structure FGroup where
  id : Nat
  members : Nat
  /-- Boundary in hand, CEILING reports for it by origin, and the lowest FREQ_STEP accepted since. -/
  boundary : Nat := 0
  reports : Tab Nat := []
  freqMin : Nat := 18
  /-- Lowest ceiling held since the last boundary. -/
  lowCeil : Nat := 18
  freqSteps : Nat := 0
  lastOrigin : Nat × Nat × Nat := (0, 0, 0)
  lastTime : Nat := 0
  deriving DecidableEq, Repr

/-- The device in its system (R502 to R525). -/
structure LinkSys where
  coord : Option (Nat × Nat × Nat) := none
  size : Nat × Nat × Nat := (0, 0, 0)
  /-- Own sequence number per MTYPE; last accepted per origin (X x 65,536 + Y x 256 + Z) x 256 + MTYPE. -/
  mySeq : Tab Nat := []
  seen : Tab Nat := []
  /-- Coordinates marked lost in the member table. -/
  lost : List (Nat × Nat × Nat) := []
  reqs : List SpareReq := []
  reqNext : Nat := 1
  group : Option FGroup := none
  /-- CONTROL messages held through UPDATE_PAUSE (R514): link and message. -/
  held : List (Nat × List Byte) := []
  /-- REMAP_ASSUME has not yet flooded MEMBER_JOIN (R524). -/
  joining : Bool := false
  /-- YL_CFG per die (Table 16.7). -/
  cfg : Tab Nat := []
  /-- MEMBER_LOST about itself has gone out (R501). -/
  left : Bool := false
  deriving DecidableEq, Repr


/-- Everything of the block but its memory, its queue of commands and the record of what it sent. -/
structure Dev where
  /-- Free values drawn so far (DESIGN CHOICE, log entry 2): the model's own counter. -/
  freeCtr : Nat := 0
  clk : Clk := {}
  hub : Hub := {}
  pin : Pins := {}
  eth : Eth := {}
  chans : Tab Chan := []
  cmds : List PendCmd := []
  /-- Channels of the admitted commands that have not begun (R46), oldest first. -/
  admitted : List Nat := []
  /-- Last generation issued per handle index (65,536 x kind + index) since reset (R61). -/
  hgen : Tab Nat := []
  bufs : Tab Buf := []
  ms : MemSys := {}
  syncs : Tab Sync := []
  slots : Tab Slot := []
  /-- READY tasks of core x 16 + level, in list order. -/
  ready : Tab (List Nat) := []
  dies : Tab Die := []
  cores : Tab Core := []
  log : Log := {}
  store : Store := {}
  fuse : Fuse := {}
  fw : Fw := {}
  cfg : DevConfig := {}
  svc : Svc := {}
  /-- High words latched by reads of low words: register address of the high word and value. -/
  latch : Tab Nat := []
  strms : Tab Strm := []
  jobs : Tab Job := []
  graphs : Tab Graph := []
  pwr : Pwr := {}
  tables : Tab Table := []
  matchsets : Tab MatchSet := []
  feeds : Tab Feed := []
  feedCnt : FeedCnt := {}
  /-- Work queues: die x 64 + class x 8 + queue. -/
  queues : Tab EngQ := []
  /-- Counters of the engine sub-blocks that are not 0, by register address. -/
  engCnt : Tab Nat := []
  /-- Items taken since the start. -/
  itemNo : Nat := 0
  /-- Ordered match arrays, die x 2 + array. -/
  omas : Tab Oma := []
  /-- Row update units, by stack, and EMB_SR_SEED of each die. -/
  ruus : Tab Ruu := []
  embSeed : Tab Nat := []
  links : Tab Link := []
  llinks : Tab LLink := []
  sys : LinkSys := {}
  deriving DecidableEq, Repr

/-- The machine's state: waiting commands, what the device has sent, memory, and all else. -/
structure State where
  pending : List Instr := []
  tx : List Tx := []
  mem : Mem := {}
  dev : Dev := {}
  deriving DecidableEq, Repr

/-- The machine right after reset: a cold start that has reached STANDBY (Table 2.7, R672). -/
def State.reset : State := {}

end Sys2Proof.Machine
end

