-- ==== Sys2Proof/Machine/Mem.lean ====
section
/-! DEFINITION. Memory: the canonical list of bytes, the poison of its lines, and the writes of one command.

Physical addresses (DESIGN CHOICE, log entry 11): HBM stack Hs at s x 2^36; the core store of Cn at 2^42 + n x 2^23; the join store of
die d at
2^43 + d x 2^27; the CXL tier at 2^44. A byte that nothing has written reads 0 (Table 4.4; DESIGN CHOICE, log entry 12). -/

namespace Sys2Proof.Machine

/-- The byte that a list of cells holds at an address; an unlisted address holds 0. -/
def readCells : List Host.Cell → Nat → Byte
  | [], _ => 0
  | (a, b) :: t, n => if n = a then b else if n < a then 0 else readCells t n

/-- Cells with one byte stored; storing 0 removes the entry, and the order stays ascending. -/
def writeCell : List Host.Cell → Nat → Byte → List Host.Cell
  | [], n, b => if b = 0 then [] else [(n, b)]
  | (a, c) :: t, n, b =>
    if n = a then (if b = 0 then t else (a, b) :: t)
    else if n < a then (if b = 0 then (a, c) :: t else (n, b) :: (a, c) :: t)
    else (a, c) :: writeCell t n b

/-- Cells with a sequence of bytes stored from an address. -/
def writeBytes : List Host.Cell → Nat → List Byte → List Host.Cell
  | m, _, [] => m
  | m, a, b :: bs => writeBytes (writeCell m a b) (a + 1) bs

/-- Cells without those in [a, a + n). -/
def clearCells (m : List Host.Cell) (a n : Nat) : List Host.Cell := m.filter fun c => c.1 < a || a + n ≤ c.1

/-- The cells of [src, src + n) stored at the same offsets from dst. -/
def copyCells (m : List Host.Cell) (src dst n : Nat) : List Host.Cell :=
  (m.filter fun c => src ≤ c.1 && c.1 < src + n).foldl (fun acc c => writeCell acc (c.1 - src + dst) c.2) (clearCells m dst n)

/-- Whether a range holds the 64-byte line at address l as a whole. -/
def wholeLine (a n l : Nat) : Bool := a ≤ l && l + 64 ≤ a + n

/-- Whether a range touches the 64-byte line at address l. -/
def touchesLine (a n l : Nat) : Bool := 0 < n && l < a + n && a < l + 64

/-- A list of line addresses with one more, ascending and without repeats. -/
def addLine : List Nat → Nat → List Nat
  | [], l => [l]
  | x :: t, l => if l = x then x :: t else if l < x then l :: x :: t else x :: addLine t l

/-- The first byte of the line of an address. -/
def lineOf (a : Nat) : Nat := a / 64 * 64

/-- The lines that a range touches. -/
def linesOf (a n : Nat) : List Nat :=
  if n = 0 then [] else (List.range ((a + n - 1) / 64 - a / 64 + 1)).map fun k => lineOf a + 64 * k

/-- Memory after one write (R120, R564: a write of a whole line clears its poison, of part of it keeps it). -/
def Mem.apply (m : Mem) : MemOp → Mem
  | .put a bs => { cells := writeBytes m.cells a bs, poison := m.poison.filter fun l => !wholeLine a bs.length l }
  | .clear a n => { cells := clearCells m.cells a n, poison := m.poison.filter fun l => !wholeLine a n l }
  | .move src dst n =>
    { cells := clearCells (copyCells m.cells src dst n) src (if src = dst then 0 else n),
      poison :=
        (m.poison.filter fun l => src ≤ l && l < src + n).foldl (fun acc l => addLine acc (l - src + dst))
          (m.poison.filter fun l => !(src ≤ l && l < src + n) && !(dst ≤ l && l < dst + n)) }
  | .mark a n => { m with poison := (linesOf a n).foldl addLine m.poison }
  | .clean a n => { m with poison := m.poison.filter fun l => !wholeLine a n l }

/-- Memory after a command's writes, given in the order in which they were made. -/
def Mem.applyAll (m : Mem) (ops : List MemOp) : Mem := ops.foldl Mem.apply m

/-- The canonical form of memory: addresses strictly rising, no byte of 0, poison marks strictly rising. -/
def Mem.wf (m : Mem) : Bool :=
  decide ((m.cells.map Prod.fst).Pairwise (· < ·)) && m.cells.all (fun c => c.2 != 0) && decide (m.poison.Pairwise (· < ·))

/-- The byte at an address after writes, the latest first, over a memory that reads `base`. -/
def readOver (base : Nat → Byte) : List MemOp → Nat → Byte
  | [], a => base a
  | .put p bs :: t, a => if p ≤ a ∧ a < p + bs.length then bs.getD (a - p) 0 else readOver base t a
  | .clear p n :: t, a => if p ≤ a ∧ a < p + n then 0 else readOver base t a
  | .move src dst n :: t, a =>
    if dst ≤ a ∧ a < dst + n then readOver base t (a - dst + src)
    else if src ≤ a ∧ a < src + n then 0 else readOver base t a
  | .mark _ _ :: t, a => readOver base t a
  | .clean _ _ :: t, a => readOver base t a

/-- Whether the line of an address is poisoned after writes, the latest first, over marks `base`. -/
def poisonOver (base : Nat → Bool) : List MemOp → Nat → Bool
  | [], l => base l
  | .put p bs :: t, l => if wholeLine p bs.length l then false else poisonOver base t l
  | .clear p n :: t, l => if wholeLine p n l then false else poisonOver base t l
  | .move src dst n :: t, l =>
    if dst ≤ l ∧ l < dst + n then poisonOver base t (l - dst + src)
    else if src ≤ l ∧ l < src + n then false else poisonOver base t l
  | .mark p n :: t, l => if touchesLine p n l then true else poisonOver base t l
  | .clean p n :: t, l => if wholeLine p n l then false else poisonOver base t l

/-- Physical base of HBM stack s. -/
def hbmBase (s : Nat) : Nat := s * 2 ^ 36

/-- Physical base of the core store of Cn. -/
def coreBase (n : Nat) : Nat := 2 ^ 42 + n * 2 ^ 23

/-- Physical base of the join store of die d. -/
def joinBase (d : Nat) : Nat := 2 ^ 43 + d * 2 ^ 27

/-- Physical base of the CXL tier. -/
def tierBase : Nat := 2 ^ 44

/-- Bytes of a core store. -/
def coreBytes : Nat := 0x600000

/-- Bytes of a join store. -/
def joinBytes : Nat := 0x8000000

/-- Bytes of a granule (R117). -/
def granuleBytes : Nat := 2 ^ 28

end Sys2Proof.Machine
end

