-- ==== Sys2Proof/Machine/Text.lean ====
section
/-! DEFINITION. The texts of the console (R652): numbers, status names and final lines. -/

namespace Sys2Proof.Machine

/-- The characters of a list joined into a text. -/
def text (cs : List Char) : String := String.ofList cs

/-- The last n digits of a number in a base, most significant first. -/
def digits (base : Nat) : Nat → Nat → List Char
  | 0, _ => []
  | n + 1, v => digits base n (v / base) ++ ["0123456789ABCDEF".toList.getD (v % base) '0']

/-- The digits that a number needs in a base, at least 1; up to 20. -/
def width (base v : Nat) : Nat := ((List.range 20).filter fun k => base ^ (k + 1) ≤ v).length + 1

/-- Digits with a separator before each group of k counted from the right. -/
def grouped (sep : Char) (k : Nat) (cs : List Char) : List Char :=
  (cs.zipIdx.flatMap fun (c, i) => if i != 0 && (cs.length - i) % k = 0 then [sep, c] else [c])

/-- A number in hexadecimal with at least n digits (R652). -/
def hexW (n v : Nat) : String := "0x" ++ text (grouped '_' 4 (digits 16 (max n (width 16 v)) v))

/-- A 32-bit number in hexadecimal. -/
def hex32 (v : Nat) : String := hexW 8 v

/-- A number in decimal, as the console's examples print it (DEDUCED, log entry 37). -/
def dec (v : Nat) : String := text (grouped ',' 3 (digits 10 (width 10 v) v))

/-- An integer in decimal. -/
def decI (v : Int) : String := if v < 0 then "-" ++ dec v.natAbs else dec v.natAbs

/-- A number in units of 10^-k as a decimal fraction. -/
def decFrac (k v : Nat) : String := dec (v / 10 ^ k) ++ "." ++ text (digits 10 k (v % 10 ^ k))

/-- The bytes of a packet or record in hexadecimal digits. -/
def hexBytes (bs : List Byte) : String := text (bs.flatMap fun b => digits 16 2 b.toNat)

/-- Texts joined with a separator. -/
def joined (sep : String) : List String → String
  | [] => ""
  | [x] => x
  | x :: t => x ++ sep ++ joined sep t

/-- The name of a status (Table 2.3). -/
def statusName (s : Nat) : String :=
  ["OK", "PENDING", "NOT_READY", "BAD_OPCODE", "BAD_PARAM", "BAD_HANDLE", "STATE_CONFLICT", "BUSY", "NO_RESOURCE", "AUTH_FAIL",
    "LIMIT_REACHED", "FAULTED", "TIMEOUT", "ABORTED", "INTEGRITY", "DEGRADED"].getD s "OK"

/-- The final line of a console command (R652). -/
def finalLine (status detail : Nat) : String :=
  if status = 0 then "OK" else "ERR " ++ statusName status ++ " " ++ hex32 detail

/-- The prompt that follows a final line. -/
def prompt : String := "sv24> "

/-- The prompt of the boot ROM (R654). -/
def romPrompt : String := "sv24-rom> "

end Sys2Proof.Machine
end

