-- ==== Sys2Proof/Machine/Ops.lean ====
section
/-! DEFINITION. How a command acts: a working copy of the device, the writes to memory and the messages that the command makes,
committed together at its end; and the operations that commands share. -/

namespace Sys2Proof.Machine

/-- What a command works on: the device, memory as it was, the writes so far (latest first), the messages so far (latest
first). -/
structure W where
  dev : Dev
  base : Mem
  wr : List MemOp := []
  out : List Tx := []

/-- The working copy at the start of a command. -/
def State.work (s : State) : W := { dev := s.dev, base := s.mem }

/-- The state after a command: its device, its writes applied in order, its messages appended; the queue is not touched. -/
def State.commit (s : State) (w : W) : State :=
  { s with dev := w.dev, mem := s.mem.applyAll w.wr.reverse, tx := s.tx ++ w.out.reverse }

/-- The outcome of every command: its effect on the block, committed. -/
abbrev Out := Host.Outcome State Fault Refusal

/-- A command whose effect is `f`. -/
def run (s : State) (f : W → W) : Out := .next (s.commit (f s.work))

/-- The byte at a physical address. -/
def W.rd (w : W) (a : Nat) : Byte := readOver (readCells w.base.cells) w.wr a

/-- n bytes from a physical address. -/
def W.rdN (w : W) (a n : Nat) : List Byte := (List.range n).map fun k => w.rd (a + k)

/-- Whether the line of a physical address is poisoned. -/
def W.poisoned (w : W) (a : Nat) : Bool := poisonOver (fun l => w.base.poison.contains l) w.wr (lineOf a)

/-- A write to memory. -/
def W.op (w : W) (o : MemOp) : W := { w with wr := o :: w.wr }

/-- Bytes stored from a physical address. -/
def W.put (w : W) (a : Nat) (bs : List Byte) : W := if bs.isEmpty then w else w.op (.put a bs)

/-- A message sent. -/
def W.send (w : W) (t : Tx) : W := { w with out := t :: w.out }

/-- A change of the device. -/
def W.onDev (w : W) (f : Dev → Dev) : W := { w with dev := f w.dev }

/-- A change of the hub's state. -/
def W.onHub (w : W) (f : Hub → Hub) : W := { w with dev := { w.dev with hub := f w.dev.hub } }

/-- A change of the clock. -/
def W.onClk (w : W) (f : Clk → Clk) : W := { w with dev := { w.dev with clk := f w.dev.clk } }

/-- A change of the pins. -/
def W.onPin (w : W) (f : Pins → Pins) : W := { w with dev := { w.dev with pin := f w.dev.pin } }

/-- A change of the Ethernet port. -/
def W.onEth (w : W) (f : Eth → Eth) : W := { w with dev := { w.dev with eth := f w.dev.eth } }

/-- A change of the memory system. -/
def W.onMs (w : W) (f : MemSys → MemSys) : W := { w with dev := { w.dev with ms := f w.dev.ms } }

/-- A change of the error log. -/
def W.onLog (w : W) (f : Log → Log) : W := { w with dev := { w.dev with log := f w.dev.log } }

/-- A change of the persistent store. -/
def W.onStore (w : W) (f : Store → Store) : W := { w with dev := { w.dev with store := f w.dev.store } }

/-- A change of the fuse array. -/
def W.onFuse (w : W) (f : Fuse → Fuse) : W := { w with dev := { w.dev with fuse := f w.dev.fuse } }

/-- A change of the firmware state. -/
def W.onFw (w : W) (f : Fw → Fw) : W := { w with dev := { w.dev with fw := f w.dev.fw } }

/-- A change of the service console. -/
def W.onSvc (w : W) (f : Svc → Svc) : W := { w with dev := { w.dev with svc := f w.dev.svc } }

/-- A change of one channel, where it lives. -/
def W.onChan (w : W) (i : Nat) (f : Chan → Chan) : W := { w with dev := { w.dev with chans := Tab.mod w.dev.chans i f } }

/-- A change of one buffer, where it lives. -/
def W.onBuf (w : W) (i : Nat) (f : Buf → Buf) : W := { w with dev := { w.dev with bufs := Tab.mod w.dev.bufs i f } }

/-- A change of one sync object, where it lives. -/
def W.onSync (w : W) (i : Nat) (f : Sync → Sync) : W := { w with dev := { w.dev with syncs := Tab.mod w.dev.syncs i f } }

/-- A change of one task slot, where it is not FREE. -/
def W.onSlot (w : W) (i : Nat) (f : Slot → Slot) : W := { w with dev := { w.dev with slots := Tab.mod w.dev.slots i f } }

/-- The state of die d. -/
def Dev.die (d : Dev) (k : Nat) : Die := Tab.getD d.dies k {}

/-- A change of die d. -/
def W.onDie (w : W) (k : Nat) (f : Die → Die) : W := { w with dev := { w.dev with dies := Tab.upd w.dev.dies k {} f } }

/-- The state of logical core n. -/
def Dev.core (d : Dev) (n : Nat) : Core := Tab.getD d.cores n {}

/-- A change of logical core n. -/
def W.onCore (w : W) (n : Nat) (f : Core → Core) : W := { w with dev := { w.dev with cores := Tab.upd w.dev.cores n {} f } }

/-- A free value (DESIGN CHOICE, log entry 2) and the state with the counter advanced. -/
def W.free (w : W) : Nat × W := (Config.freeNat w.dev.freeCtr, w.onDev fun d => { d with freeCtr := d.freeCtr + 1 })

/-- n free bytes, and the state with the counter advanced past them. -/
def W.freeBytes (w : W) (n : Nat) : List Byte × W :=
  ((List.range n).map fun k => Config.freeByte (w.dev.freeCtr + k), w.onDev fun d => { d with freeCtr := d.freeCtr + n })

/-- The code of a device state (Table 2.4). -/
def DevState.code : DevState → Nat
  | .off => 0 | .standby => 1 | .init => 2 | .ready => 3 | .running => 4 | .draining => 5
  | .updatePause => 6 | .service => 7 | .fault => 8 | .failed => 9

/-- Byte 0x18 of a reply header: the state code and DEGRADED (Table 2.2). -/
def Dev.stateByte (d : Dev) : Nat := d.hub.st.code + 16 * b2n d.hub.degraded

/-- A change of device state: HUB_DEV_PREV takes the state left (Table 2.7). -/
def W.setState (w : W) (st : DevState) : W :=
  if w.dev.hub.st = st then w else w.onHub fun h => { h with st := st, prev := h.st.code }

/-- A handle (R59): kind in [31:28], generation in [27:16], index in [15:0]. -/
def mkHandle (kind gen idx : Nat) : Nat := kind * 2 ^ 28 + gen * 2 ^ 16 + idx

/-- The kind of a handle. -/
def hKind (h : Nat) : Nat := bits h 28 4

/-- The generation of a handle. -/
def hGen (h : Nat) : Nat := bits h 16 12

/-- The index of a handle. -/
def hIdx (h : Nat) : Nat := bits h 0 16

/-- The next generation at an index of a kind (R61), with the state that has issued it. -/
def W.nextGen (w : W) (kind idx : Nat) : Nat × W :=
  let key := kind * 65536 + idx
  let g := match Tab.get w.dev.hgen key with
    | some p => if p = 4095 then 1 else p + 1
    | none => w.dev.hub.bootBase % 4095 + 1
  (g, w.onDev fun d => { d with hgen := Tab.put d.hgen key g })

/-- The bytes of a header on the wire, with a status or flags byte, an opcode, and the bytes 0x11 to 0x3B given (R34, R37). -/
def headerBytes (h : Header) (op b3 len : Nat) (mid : List Byte) : List Byte :=
  toLe 2 h.magic.toNat ++ toLe 1 h.version.toNat ++ toLe 1 b3 ++ toLe 2 op ++ toLe 2 len ++ toLe 4 h.seq.toNat
    ++ toLe 4 h.target.toNat ++ toLe 1 h.jobTag.toNat ++ padTo 43 mid

/-- The first 60 bytes of a command packet, over which HDR_CRC is taken (Table 2.1). -/
def packetCrcBytes (p : Packet) (op : Nat) : List Byte :=
  headerBytes p.hdr op p.hdr.flags.toNat p.hdr.paramLen.toNat p.hdr.reserved

/-- A reply on the wire (R37): the command header repeated but for the fields of Table 2.2, its HDR_CRC, and the payload. -/
def Reply.wire (r : Reply) : List Byte :=
  let mid := padTo 43 r.hdr.reserved
  let mid := mid.take 3 ++ toLe 4 r.detail ++ toLe 1 r.devState ++ mid.drop 8
  let hd := headerBytes r.hdr r.op r.status r.payload.length mid
  hd ++ toLe 4 (crc32c hd) ++ r.payload

/-- ACK_REQ (Table 2.1). -/
def ackReq (h : Header) : Bool := bit h.flags.toNat 0

/-- Whether a message is a request that the device initiates. -/
def Tx.initiated : Tx → Bool
  | .reply _ _ _ | .send _ _ _ | .write _ _ _ _ _ _ => true
  | _ => false

/-- Whether a message of a class waits: the class is paused by PFC (R109), or the device initiates it during UPDATE_PAUSE (R113). -/
def Dev.holds (d : Dev) (prio : Nat) (t : Tx) : Bool :=
  (if prio = 1 then d.eth.pausedCmd else d.eth.pausedBulk) || (t.initiated && d.hub.st = .updatePause)

/-- A message sent on a channel, or held while its class or the device pauses (R109, R113). -/
def W.sendOn (w : W) (ch : Nat) (t : Tx) : W :=
  let prio := ((Tab.get w.dev.chans ch).map Chan.prio).getD 0
  if w.dev.holds prio t then w.onEth fun e => { e with held := e.held ++ [(prio, t)] } else w.send t

/-- The messages whose pause is over, sent: class COMMAND before class BULK (R98). -/
def W.releaseHeld (w : W) : W :=
  let free := fun (m : Nat × Tx) => !w.dev.holds m.1 m.2
  let go := w.dev.eth.held.filter free
  let w := w.onEth fun e => { e with held := e.held.filter fun m => !free m }
  ((go.filter fun m => m.1 = 1) ++ (go.filter fun m => m.1 != 1)).foldl (fun w m => w.send m.2) w

/-- A request that the device initiates on a channel (R90): sent with the channel's next PSN, kept until acknowledged. A channel
that is closed or FAULTED initiates none (R93). -/
def W.initiate (w : W) (ch packets : Nat) (msg : Nat → Tx) (feed : Option (Nat × Nat)) : W :=
  match Tab.get w.dev.chans ch with
  | some c =>
    if c.state = 6 then w
    else
      (w.onChan ch fun c =>
        { c with
          txPsn := (c.txPsn + packets) % 2 ^ 24
          reqs := c.reqs ++ [⟨c.txPsn, packets, 0, msg c.txPsn, feed⟩] }).sendOn ch (msg c.txPsn)
  | none => w

/-- A reply to a command (R37, R41): none when ACK_REQ = 0 and the status is OK; dropped when the channel has closed. -/
def W.reply (w : W) (ch : Nat) (h : Header) (op status detail : Nat) (payload : List Byte) : W :=
  if status = 0 && !ackReq h then w
  else w.initiate ch 1 (fun psn => .reply ch psn ⟨h, op, status, detail, w.dev.stateByte, payload⟩) none

/-- A final line on the console, and the prompt (R652, R654). -/
def W.final (w : W) (status detail : Nat) : W :=
  (w.send (.console (finalLine status detail))).send (.console (if w.dev.svc.rom then romPrompt else prompt))

/-- The final reply of a PENDING command, which then no longer pends (R41, R42); the console's is its final line. -/
def W.complete (w : W) (p : PendCmd) (status detail : Nat) (payload : List Byte) : W :=
  let w := w.onDev fun d => { d with cmds := d.cmds.filter (· != p) }
  if p.ch = 16384 then w.final status detail else w.reply p.ch p.hdr p.op status detail payload

/-- Every PENDING command completes with a status and detail, but for those that a test keeps. -/
def W.completeAll (w : W) (which : PendCmd → Bool) (status detail : Nat) (payload : List Byte) : W :=
  (w.dev.cmds.filter which).foldl (fun w p => w.complete p status detail payload) w

/-- Whether the hub, its port and log run: OFF has no hub. -/
def Dev.hubUp (d : Dev) : Bool := d.hub.st != .off

/-- A change of one stream, where it lives. -/
def W.onStrm (w : W) (i : Nat) (f : Strm → Strm) : W := { w with dev := { w.dev with strms := Tab.mod w.dev.strms i f } }

/-- A change of one graph, where it lives. -/
def W.onGraph (w : W) (i : Nat) (f : Graph → Graph) : W := { w with dev := { w.dev with graphs := Tab.mod w.dev.graphs i f } }

/-- A change of power control. -/
def W.onPwr (w : W) (f : Pwr → Pwr) : W := { w with dev := { w.dev with pwr := f w.dev.pwr } }

/-- Die of a logical core (R16). -/
def dieOfCore (n : Nat) : Nat := n / 64

/-- Die of a stack (R18). -/
def dieOfStack (s : Nat) : Nat := s / 6

/-- Whether die d is powered and not under reset. -/
def Dev.dieUp (d : Dev) (k : Nat) : Bool := d.hub.rails && (Tab.get d.hub.dieReset k).isNone

/-- Global time in whole seconds. -/
def Dev.sec (d : Dev) : Nat := d.clk.now / 1000000000

end Sys2Proof.Machine
end

