-- ==== Sys2Proof/Machine/Ras.lean ====
section
/-! DEFINITION. The persistent store's journal (chapter 19), the error log (chapter 18), the entry to FAULT and to FAILED, and the
flags that follow from faults. -/

namespace Sys2Proof.Machine

/-- Bytes that a journal record takes: a 32-byte header and its payload padded to 32 (R594). -/
def JRec.bytes (r : JRec) : Nat := 32 + alignUp r.payload.length 32

/-- Bytes of the accepted records that are not yet in both flashes (R597). -/
def Store.pendingBytes (s : Store) : Nat :=
  ((s.pending.filter fun r => !((r.inA || !s.fa.ok) && (r.inB || !s.fb.ok))).map JRec.bytes).sum

/-- The bytes of appends in the 24 hours before a time. -/
def lastDay (now : Nat) (l : List (Nat × Nat)) : Nat := ((l.filter fun e => now < e.1 + 86400000000000).map Prod.snd).sum

/-- The bytes that may be appended in 24 hours (R605). -/
def dayBudget : Nat := 16384 * 86400

/-- Keys that are written at once, whatever the day's budget (R606). -/
def immediateKey (key : Nat) : Bool :=
  key = 0x0001 || key = 0x0002 || key = 0x0003 || key = 0x0010 || key = 0x0011 || key = 0x0012 || key = 0x0013 || key = 0x0014
    || key = 0x0022 || key = 0x0041 || 0x8000 ≤ key

/-- Records given sequence numbers, as they are appended (R594, R596). -/
def numberFrom (n : Nat) : List JRec → List JRec
  | [] => []
  | r :: t => { r with seq := n } :: numberFrom (n + 1) t

/-- A transaction accepted: its records and its COMMIT record join the pending records (R596, R597). -/
def W.accept (w : W) (rs : List JRec) : W :=
  w.onStore fun s =>
    let rs := numberFrom s.nextSeq rs
    { s with
      pending := s.pending ++ rs
      nextSeq := s.nextSeq + rs.length
      appends := s.appends ++ [(w.dev.clk.mono, (rs.map JRec.bytes).sum)] }

/-- The records of a transaction with its COMMIT record (R594). -/
def withCommit (txn : Nat) (rs : List JRec) : List JRec :=
  rs ++ [{ key := 0, commit := true, seq := 0, txn := txn, payload := [] }]

/-- Whether a transaction of n bytes may be accepted now: the pending limit of R597, and the day's budget of R605 unless it is
written at once. -/
def Store.admits (s : Store) (now n : Nat) (atOnce : Bool) : Bool :=
  s.pendingBytes + n ≤ s.limit && (atOnce || lastDay now s.appends + n ≤ dayBudget)

/-- A transaction of records (key, format, instance, tombstone, payload) given to the controller (R596). One that the limit or
the budget holds back waits, and replaces a waiting record of the same key and instance (R606). -/
def W.journal (w : W) (atOnce : Bool) (rs : List (Nat × Nat × Nat × Bool × List Byte)) : W :=
  let txn := w.dev.store.nextTxn
  let recs := rs.map fun (k, f, i, t, p) =>
    ({ key := k, fmt := f, inst := i, tomb := t, seq := 0, txn := txn, payload := p } : JRec)
  let all := withCommit txn recs
  let w := w.onStore fun s => { s with nextTxn := s.nextTxn + 1 }
  if w.dev.store.admits w.dev.clk.mono (all.map JRec.bytes).sum atOnce then w.accept all
  else
    w.onStore fun s =>
      { s with waiting :=
          (s.waiting.filter fun q => atOnce || recs.all fun r => !(q.key = r.key && q.inst = r.inst && r.key != 0x0030)) ++ recs }

/-- The format in which an image writes a key (Table 20.3 FMT); 1 for a key that it does not list (DESIGN CHOICE, log entry 32). -/
def ImageInfo.writes (f : ImageInfo) (key : Nat) : Nat := ((f.fmts.find? fun e => e.1 = key).map fun e => e.2.2).getD 1

/-- The lowest format of a key that an image reads. -/
def ImageInfo.readsFrom (f : ImageInfo) (key : Nat) : Nat := ((f.fmts.find? fun e => e.1 = key).map fun e => e.2.1).getD 1

/-- One record of a key, written as a transaction of its own, in the running image's format (R607). -/
def W.journal1 (w : W) (key inst : Nat) (payload : List Byte) : W :=
  w.journal (immediateKey key) [(key, w.dev.fw.info.writes key, inst, false, payload)]

/-- The live records after a transaction's records commit (R595): a later record of the same key, instance and format replaces
an earlier one, a tombstone removes it, and ERROR_HISTORY keeps its last 16,384. -/
def commitLive (live : List JRec) (r : JRec) : List JRec :=
  if r.commit then live
  else if r.key = 0x0030 then
    let l := live ++ [r]
    let n := (l.filter fun q => q.key = 0x0030).length
    if n ≤ 16384 then l
    else match l.find? (fun q => q.key = 0x0030) with
      | some o => l.filter (· != o)
      | none => l
  else
    let l := live.filter fun q => !(q.key = r.key && q.inst = r.inst && q.fmt = r.fmt)
    if r.tomb then l else l ++ [r]

/-- The live record of a key, instance and format (R595). -/
def Store.liveRec (s : Store) (key inst fmt : Nat) : Option JRec :=
  s.live.find? fun r => r.key = key && r.inst = inst && r.fmt = fmt

/-- The payload of a key and instance that the running image reads: the live record of the highest format it reads (R607). -/
def Dev.stored (d : Dev) (key inst : Nat) : Option (List Byte) :=
  let ok := d.store.live.filter fun r =>
    r.key = key && r.inst = inst && d.fw.info.readsFrom key ≤ r.fmt && r.fmt ≤ d.fw.info.writes key
  (ok.foldl (fun (b : Option JRec) r => match b with
    | some x => if x.fmt < r.fmt then some r else b
    | none => some r) none).map JRec.payload

/-- Bytes of the live records (R612 LIVE_BYTES). -/
def Store.liveBytes (s : Store) : Nat := (s.live.map JRec.bytes).sum

/-- Record kinds marked Kept in Table 18.7, with those that R599 and R643 add. -/
def keptKind (k : Nat) : Bool :=
  k = 0x0004 || (0x0010 ≤ k && k ≤ 0x0015) || (0x0018 ≤ k && k ≤ 0x001B) || k = 0x0020 || k = 0x0021 || k = 0x0024
    || (0x0030 ≤ k && k ≤ 0x0036 && k != 0x0032) || (0x0040 ≤ k && k ≤ 0x0046)

/-- The severity of a record kind (Table 18.7): 0 INFO, 1 WARN, 2 ERROR, 3 FATAL. -/
def kindSev (k : Nat) : Nat :=
  if k = 0x0005 || k = 0x0011 || k = 0x001B then 0
  else if k = 0x0004 || k = 0x0030 || k = 0x0031 || (0x0041 ≤ k && k ≤ 0x0043) then 3
  else if k = 0x0001 || k = 0x0002 || (0x0007 ≤ k && k ≤ 0x000B) || k = 0x000E || k = 0x0013 || k = 0x0022 || k = 0x0023
      || k = 0x0036 then 2
  else 1

/-- The bytes of a record (Table 18.6). -/
def LogRec.bytes (r : LogRec) : List Byte :=
  toLe 8 r.seq ++ toLe 8 r.time ++ toLe 2 r.kind ++ toLe 1 r.sev ++ toLe 1 r.die ++ toLe 1 r.tag ++ zeros 3 ++ toLe 4 r.handle
    ++ toLe 4 r.unit ++ toLe 8 r.addr ++ padTo 24 r.data

/-- KIND_COUNT counts a record, written or suppressed; a kind above 0x7E counts in entry 0x7F (Table 19.2). -/
def W.countKind (w : W) (k : Nat) : W :=
  w.onStore fun s =>
    { s with frame := { s.frame with kinds := Tab.upd s.frame.kinds (min k 0x7F) 0 fun n => satAdd 32 n 1 } }

/-- An error-log record (R581 to R583): rate limit of INFO and WARN, the ring of 4,096, the lifetime history of Kept kinds. -/
def W.logRec (w : W) (kind die tag handle unit addr : Nat) (data : List Byte) : W :=
  let sev := kindSev kind
  let sec := w.dev.sec
  let w := w.onLog fun l => if l.rateSec = sec then l else { l with rateSec := sec, rate := [] }
  let n := Tab.getD w.dev.log.rate kind 0
  let w := w.countKind kind
  if sev ≤ 1 && 64 ≤ n then w.onLog fun l => { l with supp := satAdd 32 l.supp 1 }
  else
    let l := w.dev.log
    let r : LogRec := ⟨l.next, w.dev.clk.now, kind, sev, die, tag, handle, unit, addr, data⟩
    let full := 4096 ≤ l.recs.length
    let w := w.onLog fun l =>
      { l with
        recs := (if full then l.recs.drop 1 else l.recs) ++ [r]
        next := l.next + 1
        lost := if full then satAdd 32 l.lost 1 else l.lost
        rate := if sev ≤ 1 then Tab.put l.rate kind (n + 1) else l.rate }
    if keptKind kind then w.journal (sev = 3) [(0x0030, 1, 0, false, r.bytes)] else w

/-- A record of the hub that concerns no object. -/
def W.logHub (w : W) (kind unit : Nat) (data : List Byte) : W := w.logRec kind 4 0xFF 0 unit 0 data

/-- The SEQ that the next record takes (R585 reports it for the record a fault wrote). -/
def W.nextLogSeq (w : W) : Nat := w.dev.log.next

/-- Every PENDING command completes ABORTED (R55, R56, R66, R579). -/
def W.abortAll (w : W) (detail : Nat) : W := w.completeAll (fun _ => true) 0x0D detail []

/-- DEVICE_START completes at the end of INIT with FAULTED (R77); every other PENDING command with ABORTED. -/
def W.abortAtFault (w : W) (detail seq : Nat) : W :=
  (w.completeAll (fun p => p.wait = .init) 0x0B (seq % 2 ^ 32) []).abortAll detail

/-- The SERVICE_MODE strap, asserted before the device came to a state with a row for it, takes effect (R54, R655, Table 2.6). -/
def W.strapIn (w : W) : W :=
  let st := w.dev.hub.st
  if w.dev.pin.serviceMode && (st = .standby || st = .ready || st = .fault || st = .failed) then
    ((w.setState .service).onHub fun h => { h with svcFrom := st }).onSvc fun v => { v with swatchLeft := [] }
  else w

/-- The states from which an uncontained error enters FAULT (Table 2.6). -/
def faultRow (st : DevState) : Bool :=
  st = .init || st = .ready || st = .running || st = .draining || st = .updatePause

/-- An uncontained error: FAULT where Table 2.6 has a row, and otherwise at the next state that has one (R54, R56). `kind` is the
cause that the status ladder shows (R666); `seq` is the SEQ of the record that the fault wrote. -/
def W.enterFault (w : W) (kind seq : Nat) : W :=
  if faultRow w.dev.hub.st then
    ((w.setState .fault).onHub fun h => { h with faultKind := kind, pendingFault := false, initWait := none }).abortAtFault 0x05 seq |>.strapIn
  else if w.dev.hub.st = .fault || w.dev.hub.st = .failed || w.dev.hub.st = .off then w
  else w.onHub fun h => { h with pendingFault := true, faultKind := kind }

/-- A FAULT condition that waited takes effect on entry to a state with a row for it (R54). -/
def W.settleFault (w : W) : W :=
  if w.dev.hub.pendingFault && faultRow w.dev.hub.st then w.enterFault w.dev.hub.faultKind (w.nextLogSeq - 1) else w

/-- The device declares itself FAILED (R579, Table 18.5): a DEV_FAILED record, state FAILED, PENDING commands ABORTED 0x06. -/
def W.declareFailed (w : W) (cause die : Nat) : W :=
  if w.dev.hub.st = .off || w.dev.hub.st = .failed then w
  else
    let seq := w.nextLogSeq
    let w := w.logRec 0x0042 die 0xFF 0 cause 0 []
    ((w.setState .failed).onHub fun h => { h with failCause := cause, initWait := none }).abortAtFault 0x06 seq |>.strapIn

/-- A condition of DEGRADED arises: the flag is set, and its setting writes a record of kind DEGRADED_SET that names the condition
(DEGRADED_SET, R576). -/
def W.degrade (w : W) (cond : Nat) : W :=
  if w.dev.hub.degraded then w else (w.onHub fun h => { h with degraded := true }).logHub 0x0040 cond []

/-- An uncontained error without a record of its own kind: a DEV_FAULT record, whose structure code is free (DESIGN CHOICE, log entry
33), and
FAULT (Table 18.1, R54). -/
def W.devFault (w : W) (kind : Nat) : W :=
  let (code, w) := w.free
  let seq := w.nextLogSeq
  (w.logRec 0x0041 4 0xFF 0 (code % 2 ^ 32) 0 []).enterFault kind seq

/-- Logical cores bound on a die. -/
def Die.bound (d : Die) : Nat := (d.bind.filter (· < 68)).length

/-- Working physical cores of a die (not retired). -/
def Die.working (d : Die) : Nat := ((List.range 68).filter fun p => !bit d.coreRetired p).length

/-- Working physical cores that no logical core is bound to and that are not marked (R568 spare pool). -/
def Die.spares (d : Die) : Nat :=
  ((List.range 68).filter fun p => !bit d.coreRetired p && !bit d.coreMarked p && !d.bind.contains p).length

/-- Logical cores of a die that are offline (R269). -/
def Dev.offline (d : Dev) (k : Nat) : Nat := ((List.range 64).filter fun j => (d.core (64 * k + j)).offline).length

/-- Whether two physical frames of memory overlap. -/
def overlaps (a n b m : Nat) : Bool := a < b + m && b < a + n

end Sys2Proof.Machine
end

