-- ==== Sys2Proof/Machine/SyncOps.lean ====
section
/-! DEFINITION. Sync objects, ready lists and delay lists (chapter 8): the operations of R287, the waking rule of R288, and what
the stream engine learns of them (R210, R215). -/

namespace Sys2Proof.Machine

/-- The key of slot k of die d in the table of task slots. -/
def slotKey (d k : Nat) : Nat := d * 4096 + k

/-- The key of the ready list of a core's level. -/
def readyKey (core level : Nat) : Nat := core * 16 + level

/-- Number of the last tick at or before a time, under a period with a tick of a given number and time. -/
def tickAt (base from' period t : Nat) : Nat := base + (t - from') / period

/-- The clock with a new tick period in force once its time has come (R283). -/
def Clk.settle (c : Clk) : Clk :=
  match c.tickNext with
  | some (t, p) =>
    if t ≤ c.now then
      { c with tick := p, tickNext := none, tickBase := tickAt c.tickBase c.tickFrom c.tick (t - 1) + 1, tickFrom := t }
    else c
  | none => c

/-- Number of the last tick that has passed (R283). -/
def Dev.tickNo (d : Dev) : Nat :=
  let c := d.clk.settle
  tickAt c.tickBase c.tickFrom c.tick c.now

/-- A task joins the tail of the ready list of its core and level (R280). -/
def W.joinReady (w : W) (die slot : Nat) : W :=
  match Tab.get w.dev.slots (slotKey die slot) with
  | some s =>
    (w.onSlot (slotKey die slot) fun s => { s with st := .ready, obj := none }).onDev fun d =>
      { d with ready := Tab.upd d.ready (readyKey s.rec'.core s.rec'.prio) [] (· ++ [slot]) }
  | none => w

/-- A slot's entry of the delay list removed (R284). -/
def W.leaveDelay (w : W) (die slot : Nat) : W :=
  w.onDie die fun d => { d with delay := d.delay.filter fun e => e.slot != slot }

/-- A slot joins the delay list behind entries of its wake tick (R284). -/
def W.joinDelay (w : W) (die : Nat) (e : DelayEnt) : W :=
  w.onDie die fun d => { d with delay := insertBy (fun a b => a.wake ≤ b.wake) e d.delay }

/-- Scalar register r of a saved register file set to a value. -/
def setReg (rs : List DWord) (r v : Nat) : List DWord := listSet rs r fun _ => BitVec.ofNat 64 v

/-- A waiting task wakes with status st in scalar register 0 (R277): its wait ends and it enters READY. -/
def W.wakeTask (w : W) (die slot st : Nat) : W :=
  ((w.leaveDelay die slot).onSlot (slotKey die slot) fun s => { s with sregs := setReg s.sregs 0 st }).joinReady die slot

/-- A satisfied waiter is released (R288): a task enters READY, a stream has its amount, a host command replies with the value
after the operation (R295). -/
def W.release (w : W) (wt : Waiter) (val : Nat) : W :=
  match wt with
  | .task d k => w.wakeTask d k 0
  | .stream i which =>
    w.onStrm i fun s =>
      if which = 0 then { s with srcGot := 2, srcGotAt := w.dev.clk.now } else { s with dstGot := 2 }
  | .cmd ch seq =>
    match w.dev.cmds.find? fun p => p.ch = ch && p.hdr.seq.toNat = seq with
    | some p => w.complete p 0 0 (toLe 8 val)
    | none => w

/-- The TAKE waiters at the head of a queue that a value satisfies, first come first served (R288): those woken, each with the
amount and the value after its take, those that remain, and the value left. -/
def serveTakers : Nat → List (Waiter × Nat) → List (Waiter × Nat × Nat) × List (Waiter × Nat) × Nat
  | v, [] => ([], [], v)
  | v, (wt, a) :: t =>
    if a ≤ v then
      let (woken, rest, v') := serveTakers (v - a) t
      ((wt, a, v - a) :: woken, rest, v')
    else ([], (wt, a) :: t, v)

/-- The stream engine notes a take from a FULL object: the member's last take and taken count (R210, Table 6.5). -/
def W.noteTake (w : W) (obj a : Nat) : W :=
  match Tab.get w.dev.syncs obj with
  | some s => s.boundBy.foldl (fun w i => w.onStrm i fun st =>
      { st with members := st.members.map fun m =>
          if m.obj = obj then { m with lastTake := some w.dev.clk.now, taken := m.taken + a, waitStart := none } else m }) w
  | none => w

/-- The stream engine notes a consumer task's wait on a FULL object that starts now (R215, R292). -/
def W.noteWait (w : W) (obj : Nat) : W :=
  match Tab.get w.dev.syncs obj with
  | some s => s.boundBy.foldl (fun w i => w.onStrm i fun st =>
      { st with members := st.members.map fun m =>
          if m.obj = obj && m.waitStart.isNone then { m with waitStart := some w.dev.clk.now } else m }) w
  | none => w

/-- The stream engine notes an ADD to a SRC_FULL object (Table 6.5 last_put). -/
def W.notePut (w : W) (obj : Nat) : W :=
  w.onDev fun d =>
    { d with strms := d.strms.map fun (i, s) =>
        if s.srcFull != 0 && hIdx s.srcFull = obj then (i, { s with lastPut := d.clk.now }) else (i, s) }

/-- After an operation on an object its die wakes waiters (R288): REACH waiters in order of registration, then TAKE waiters. -/
def W.settle (w : W) (obj : Nat) : W :=
  match Tab.get w.dev.syncs obj with
  | some s =>
    let reach := s.reachers.filter fun r => r.2 ≤ s.val
    let (woken, rest, v) := serveTakers s.val s.takers
    let w := w.onSync obj fun s => { s with val := v, takers := rest, reachers := s.reachers.filter fun r => !(r.2 ≤ s.val) }
    let w := reach.foldl (fun w r => w.release r.1 s.val) w
    woken.foldl (fun w r => (w.noteTake obj r.2.1).release r.1 r.2.2) w
  | none => w

/-- An operation on a live object, and the waking that follows (R287, R288). -/
def W.syncOp (w : W) (obj : Nat) (op : SyncOp) : W :=
  match Tab.get w.dev.syncs obj with
  | none => w
  | some _ =>
    match op with
    | .add a =>
      ((w.notePut obj).onSync obj fun s =>
        { s with val := min (s.val + a) (2 ^ 64 - 1), sat := s.sat || 2 ^ 64 ≤ s.val + a }).settle obj
    | .set v => (w.onSync obj fun s => { s with val := v }).settle obj
    | .take wt a => (w.onSync obj fun s => { s with takers := s.takers ++ [(wt, a)] }).settle obj
    | .reach wt v => (w.onSync obj fun s => { s with reachers := s.reachers ++ [(wt, v)] }).settle obj

/-- Whether a TAKE of a would be satisfied at once: nobody waits before it and the value suffices (R288). -/
def Sync.canTake (s : Sync) (a : Nat) : Bool := s.takers.isEmpty && a ≤ s.val

/-- A TAKE that is satisfied at once: the amount subtracted, and the waiters that the value now satisfies woken. -/
def W.takeNow (w : W) (obj a : Nat) : W :=
  ((w.onSync obj fun s => { s with val := s.val - a }).noteTake obj a).settle obj

/-- A waiter leaves an object's queues (a limit has passed, or its owner ends). -/
def W.unwait (w : W) (wt : Waiter) : W :=
  w.onDev fun d =>
    { d with syncs := d.syncs.map fun (i, s) =>
        (i, { s with takers := s.takers.filter fun t => t.1 != wt, reachers := s.reachers.filter fun t => t.1 != wt }) }

/-- Die of a sync object (R286). -/
def syncDie (obj : Nat) : Nat := obj / 2048

/-- A sync operation issued on die d: on an object of that die at once, on another die as a message over the ring (R286). A
message that finds 256 unapplied waits in the ring, and the cycle counts in SYNC_STALL_CNT (R291). -/
def W.issueSync (w : W) (d obj : Nat) (op : SyncOp) (issuer : Waiter) : W :=
  if syncDie obj = d then w.syncOp obj op
  else
    w.onDie (syncDie obj) fun e =>
      { e with
        syncQ := e.syncQ ++ [⟨obj, op, issuer⟩]
        syncStall := if 256 ≤ e.syncQ.length then satAdd 32 e.syncStall 1 else e.syncStall }

/-- Whether a SYNC handle names a live object (R62). -/
def Dev.syncLive (d : Dev) (h : Nat) : Bool :=
  hKind h = 5 && match Tab.get d.syncs (hIdx h) with
    | some s => s.gen = hGen h
    | none => false

end Sys2Proof.Machine
end

