-- ==== Sys2Proof/Machine/Xlate.lean ====
section
/-! DEFINITION. Translation and protection (R127 to R131), frames of HBM and the tier (R118, R133, R141), page-ins (R143 to R147)
and the moves between tier and HBM. -/

namespace Sys2Proof.Machine

/-- Bytes of a large page. -/
def bigPage : Nat := 0x200000

/-- Base of the addresses at which the claims of loaded graphs are mapped: this plus the physical address (DESIGN CHOICE, log entry 13). -/
def claimWindow : Nat := 2 ^ 50

/-- What an address translates to. -/
inductive Hit where
  | page (buf page : Nat) (b : Buf) (p : Page) (phys : Nat)
  | claim (phys : Nat) (read write : Bool)
  | none

/-- The buffer whose range holds an address. -/
def Dev.bufAt (d : Dev) (va : Nat) : Option (Nat × Buf) := d.bufs.find? fun (_, b) => b.base ≤ va && va < b.base + b.size

/-- The claim of a loaded graph that holds a physical SRAM address, with its protection. -/
def Dev.claimAt (d : Dev) (phys : Nat) : Option Claim :=
  (d.graphs.flatMap fun (_, g) => g.claims).find? fun c =>
    let b := (if c.core = 0xFF then joinBase c.die else coreBase c.core) + c.off
    b ≤ phys && phys < b + c.bytes

/-- Translation of one address (R127, R128). -/
def Dev.lookup (d : Dev) (va : Nat) : Hit :=
  if 2 ^ 52 ≤ va || va < 0x200000 then .none
  else match d.bufAt va with
    | some (i, b) =>
      let k := (va - b.base) / b.page
      match b.pages[k]? with
      | some p => .page i k b p (p.phys + (va - b.base) % b.page)
      | Option.none => .none
    | Option.none =>
      if claimWindow ≤ va then
        match d.claimAt (va - claimWindow) with
        | some c => .claim (va - claimWindow) (bit c.prot 0) (bit c.prot 1)
        | Option.none => .none
      else .none

/-- How an access to an address ends (R129, R130, R143). -/
inductive Acc where
  | ok (phys : Nat)
  | unmapped
  | prot
  /-- The page is ABSENT or FILLING. -/
  | away (buf page : Nat)
  deriving DecidableEq, Repr

/-- Translation and protection of an access that needs R, W or both (R129). -/
def Dev.access (d : Dev) (va : Nat) (needR needW : Bool) : Acc :=
  match d.lookup va with
  | .none => .unmapped
  | .claim phys r w => if (needR && !r) || (needW && !w) then .prot else .ok phys
  | .page i k b p phys =>
    if (needR && !b.read) || (needW && !b.write) then .prot
    else match p.st with
      | .absent | .filling => .away i k
      | _ => .ok phys

/-- A range cut at 64 KiB boundaries: addresses and lengths. -/
def cut64 : Nat → Nat → Nat → List (Nat × Nat)
  | 0, _, _ => []
  | fuel + 1, va, n =>
    if n = 0 then []
    else
      let k := min n (0x10000 - va % 0x10000)
      (va, k) :: cut64 fuel (va + k) (n - k)

/-- The pieces of a range within pages. -/
def pieces (va n : Nat) : List (Nat × Nat) := cut64 (n / 0x10000 + 2) va n

/-- The first failure of an access over a range, or none. -/
def Dev.rangeFail (d : Dev) (va n : Nat) (needR needW : Bool) : Option Acc :=
  (pieces va n).findSome? fun (a, _) =>
    match d.access a needR needW with
    | .ok _ => none
    | e => some e

/-- The physical address of an address, ignoring protection; none where no frame holds it. -/
def Dev.physOf (d : Dev) (va : Nat) : Option Nat :=
  match d.access va false false with
  | .ok p => some p
  | _ => none

/-- The bytes of a range that every page of which is present; a piece with no frame reads 0. -/
def W.readVa (w : W) (va n : Nat) : List Byte :=
  (pieces va n).flatMap fun (a, k) =>
    match w.dev.physOf a with
    | some p => w.rdN p k
    | none => zeros k

/-- Whether a range holds a poisoned line. -/
def W.poisonVa (w : W) (va n : Nat) : Bool :=
  (pieces va n).any fun (a, k) =>
    match w.dev.physOf a with
    | some p => (linesOf p k).any w.poisoned
    | none => false

/-- Bytes stored over a range whose pages are present. -/
def storeVa (w : W) : List (Nat × Nat) → List Byte → W
  | [], _ => w
  | (a, k) :: t, bs =>
    let w' := match w.dev.physOf a with
      | some p => w.put p (bs.take k)
      | none => w
    storeVa w' t (bs.drop k)

/-- Bytes stored from an address. -/
def W.writeVa (w : W) (va : Nat) (bs : List Byte) : W := storeVa w (pieces va bs.length) bs

/-- The lines that a range touches marked poisoned. -/
def W.poisonRange (w : W) (va n : Nat) : W :=
  (pieces va n).foldl (fun w (a, k) => match w.dev.physOf a with
    | some p => w.op (.mark p k)
    | none => w) w

/-- The placement counter of a page that a memory operation touches (R148): PLACED pages only, stopping at 65,535. -/
def W.touch (w : W) (va : Nat) : W :=
  match w.dev.lookup va with
  | .page i k _ p _ =>
    if p.st = .placedHbm || p.st = .placedTier then
      w.onBuf i fun b => { b with pages := listSet b.pages k fun p => { p with count := min (p.count + 1) 65535 } }
    else w
  | _ => w

/-- Home die of page k of a buffer (R133). -/
def Buf.home (b : Buf) (k : Nat) : Nat := if b.homeDie = 0xFF then k % 4 else b.homeDie

/-- Stacks of STACK_MASK on a die, ascending; 0 means all six (Table 4.3). -/
def maskStacks (mask die : Nat) : List Nat :=
  ((List.range 6).filter fun k => mask % 64 = 0 || bit mask k).map (6 * die + ·)

/-- The stacks on which page k may take a frame, its assigned stack first (R133). -/
def Buf.stacks (b : Buf) (k : Nat) : List Nat :=
  let ss := maskStacks b.mask (b.home k)
  let j := if b.homeDie = 0xFF then k / 4 else k
  let r := j % ss.length
  ss.drop r ++ ss.take r

/-- The ranges of a stack, by offset, that no frame may take: frames in use, reserved granules (Table 4.1) and retired ones. -/
def Dev.takenOn (d : Dev) (s : Nat) : List (Nat × Nat) :=
  let here := fun (p : Nat) => hbmBase s ≤ p && p < hbmBase (s + 1)
  let pages := d.bufs.flatMap fun (_, b) => (b.pages.filter fun p => p.held && here p.phys).map fun p => (p.phys - hbmBase s, b.page)
  let moving := (d.ms.migs.filter fun m => here m.dst).map fun m => (m.dst - hbmBase s, bigPage)
  let filling := (d.ms.pageins.filter fun p => p.st = 0 && here p.frame).map fun p => (p.frame - hbmBase s, bigPage)
  let first := if s % 6 ≤ 1 then 142 else 143
  let retired := (d.ms.retired.filter fun r => r.stack = s).map fun r => (r.granule * granuleBytes, granuleBytes)
  pages ++ moving ++ filling ++ (first * granuleBytes, (144 - first) * granuleBytes) :: retired

/-- The lowest multiple of size below a limit at which a block of that size meets none of the taken ranges. -/
def firstGap (taken : List (Nat × Nat)) (size limit : Nat) : Option Nat :=
  let cands := 0 :: taken.map fun (a, n) => alignUp (a + n) size
  let ok := cands.filter fun c => c + size ≤ limit && taken.all fun (a, n) => !overlaps c size a n
  ok.foldl (fun best c => match best with
    | none => some c
    | some b => some (min b c)) none

/-- A free frame of a size on a stack: the lowest (DESIGN CHOICE, log entry 14). -/
def Dev.frameOn (d : Dev) (s size : Nat) : Option Nat :=
  (firstGap (d.takenOn s) size (144 * granuleBytes)).map (hbmBase s + ·)

/-- A free frame on the first of several stacks that has one (R133). -/
def Dev.frameFor (d : Dev) (ss : List Nat) (size : Nat) : Option Nat := ss.findSome? fun s => d.frameOn s size

/-- The expanders in the order in which tier pages rotate: across the ports first (R141). -/
def MemSys.rotation (m : MemSys) : List Expander :=
  sortBy (fun a b => a.pos < b.pos || (a.pos = b.pos && a.port ≤ b.port)) m.expanders

/-- The expander that holds the t-th 2 MiB of the tier, counting from round r of the rotation (R141). -/
def tierOwner (es : List Expander) : Nat → Nat → Nat → Option Expander
  | 0, _, _ => none
  | fuel + 1, t, r =>
    let live := es.filter fun e => r < e.capacity / bigPage
    if live.isEmpty then none else if t < live.length then live[t]? else tierOwner es fuel (t - live.length) (r + 1)

/-- The ranges of the tier, by offset, that are in use or lie on a failed expander. -/
def Dev.takenTier (d : Dev) : List (Nat × Nat) :=
  let pages := d.bufs.flatMap fun (_, b) => (b.pages.filter fun p => p.held && tierBase ≤ p.phys).map fun p => (p.phys - tierBase, b.page)
  let moving := (d.ms.migs.filter fun m => tierBase ≤ m.dst).map fun m => (m.dst - tierBase, bigPage)
  let failed := if d.ms.expanders.any (·.failed) then
      ((List.range (d.ms.tierBytes / bigPage)).filter fun t =>
        ((tierOwner d.ms.rotation (t + 1) t 0).map Expander.failed).getD true).map fun t => (t * bigPage, bigPage)
    else []
  pages ++ moving ++ failed

/-- A free place in the tier: the lowest. -/
def Dev.tierFrame (d : Dev) : Option Nat := (firstGap d.takenTier bigPage d.ms.tierBytes).map (tierBase + ·)

/-- Page k of buffer i changed. -/
def W.onPage (w : W) (i k : Nat) (f : Page → Page) : W := w.onBuf i fun b => { b with pages := listSet b.pages k f }

/-- The page k of buffer i. -/
def Dev.page (d : Dev) (i k : Nat) : Option Page := (Tab.get d.bufs i).bind fun b => b.pages[k]?

/-- A page's contents moved to another place, and its state there (R152). -/
def W.movePage (w : W) (i k dst : Nat) (st : Resid) : W :=
  match Tab.get w.dev.bufs i, w.dev.page i k with
  | some b, some p =>
    (if p.held then w.op (.move p.phys dst b.page) else w.op (.clear dst b.page)).onPage i k fun p =>
      { p with st := st, phys := dst, held := true }
  | _, _ => w

/-- BYTES_MOVED counts a page copied by a promotion, a demotion or a page-in from the tier (R153). -/
def W.countMoved (w : W) : W := w.onMs fun m => { m with bytesMoved := m.bytesMoved + bigPage }

/-- The state that a page of a backing has in the tier: ABSENT under backing 1 (R151). -/
def tierState (backing : Nat) : Resid := if backing = 1 then .absent else .placedTier

/-- A page demoted to a place in the tier (R150, R144 step 1), counted (R153). -/
def W.demote (w : W) (i k dst : Nat) : W :=
  match Tab.get w.dev.bufs i with
  | some b => (w.movePage i k dst (tierState b.backing)).countMoved.onMs fun m => { m with demotions := m.demotions + 1 }
  | none => w

/-- The PLACED_HBM pages of a die: buffer, page number, address, page. -/
def Dev.placedOf (d : Dev) (die : Nat) : List (Nat × Nat × Nat × Page) :=
  d.bufs.flatMap fun (i, b) =>
    ((b.pages.zipIdx.filter fun (p, k) => p.st = .placedHbm && b.home k = die).map fun (p, k) => (i, k, b.base + k * b.page, p))

/-- The PLACED_HBM page that step 1 of R144 moves: on a stack of the mask, the lowest count, ties to the lower address. -/
def Dev.victim (d : Dev) (die : Nat) (ss : List Nat) : Option (Nat × Nat × Nat × Page) :=
  let busy := fun (i k : Nat) => d.ms.migs.any fun m => m.buf = i && m.page = k
  let l := (d.placedOf die).filter fun (i, k, _, p) => ss.contains (p.phys / 2 ^ 36) && !busy i k
  (sortBy (fun a b => a.2.2.2.count < b.2.2.2.count || (a.2.2.2.count = b.2.2.2.count && a.2.2.1 ≤ b.2.2.1)) l).head?

/-- A frame for a page-in (R144 step 1): a free one, or that of a page moved to the tier; none under R145. -/
def W.secureFrame (w : W) (die : Nat) (ss : List Nat) : Option (Nat × W) :=
  match w.dev.frameFor ss bigPage with
  | some f => some (f, w)
  | none =>
    match w.dev.victim die ss, w.dev.tierFrame with
    | some (i, k, _, p), some t => some (p.phys, w.demote i k t)
    | _, _ => none

/-- The page request record of Table 4.6. -/
def pageRequest (b : Buf) (i k : Nat) : List Byte :=
  toLe 4 (mkHandle 3 b.gen i) ++ toLe 4 (b.reqSeq + 1) ++ toLe 8 (b.base + k * b.page) ++ toLe 4 bigPage ++ zeros 12

/-- Page-ins running on a die (R146). -/
def Dev.pageinsOn (d : Dev) (die : Nat) : Nat := (d.ms.pageins.filter fun p => p.die = die && p.st = 0).length

/-- A page-in begins with a frame, or stalls with a record of kind NO_RESOURCE (R144, R145, R147). -/
def W.beginPageIn (w : W) (i k : Nat) : W :=
  match Tab.get w.dev.bufs i, w.dev.page i k with
  | some b, some p =>
    if p.st != .absent then w
    else
      let die := b.home k
      let w := w.onMs fun m => { m with pageins := m.pageins.filter fun q => !(q.buf = i && q.page = k) }
      match w.secureFrame die (b.stacks k) with
      | none =>
        (w.logRec 0x000C die 0xFF 0 die 0 []).onMs fun m => { m with pageins := m.pageins ++ [⟨i, k, die, 2, 0⟩] }
      | some (f, w) =>
        if b.backing = 2 then
          let w := w.initiate (hIdx b.notify) 1 (fun psn => .send (hIdx b.notify) psn (pageRequest b i k)) none
          ((w.onBuf i fun b => { b with reqSeq := b.reqSeq + 1 }).onPage i k fun p =>
            { p with st := .filling, phys := f, held := true }).op (.clear f bigPage)
        else w.onMs fun m => { m with pageins := m.pageins ++ [⟨i, k, die, 0, f⟩] }
  | _, _ => w

/-- A page-in for an absent page (R143): one per page; at most 64 on a die, the others in the order of their first fault
(R146). -/
def W.pageIn (w : W) (i k : Nat) : W :=
  match Tab.get w.dev.bufs i with
  | none => w
  | some b =>
    if w.dev.ms.pageins.any fun q => q.buf = i && q.page = k then w
    else if 64 ≤ w.dev.pageinsOn (b.home k) then
      w.onMs fun m => { m with pageins := m.pageins ++ [⟨i, k, b.home k, 1, 0⟩] }
    else w.beginPageIn i k

/-- STRM_RESUME and later accesses retry a stalled page-in (R145). -/
def W.retryPageIn (w : W) (i k : Nat) : W :=
  match w.dev.ms.pageins.find? fun q => q.buf = i && q.page = k with
  | some q => if q.st = 2 then w.beginPageIn i k else w
  | none => w.pageIn i k

/-- The next page-ins of a die that wait behind the 64 begin (R146). -/
def W.startQueued (w : W) (die : Nat) : W :=
  match w.dev.ms.pageins.find? fun q => q.die = die && q.st = 1 with
  | some q => if 64 ≤ w.dev.pageinsOn die then w else w.beginPageIn q.buf q.page
  | none => w

/-- Every stream halted on a page wakes (R144 step 4, R230), and its STRM_RESUME completes (R231). -/
def W.wakeStreams (w : W) (lo n : Nat) : W :=
  (w.dev.strms.filter fun (_, s) => s.state = 4 && lo ≤ s.haltVa && s.haltVa < lo + n).foldl (fun w (i, _) =>
    (w.onStrm i fun s => { s with state := if s.shadow.isSome then 3 else 2, haltVa := 0, haltEntry := 0 }).completeAll
      (fun p => p.wait = .strmResume i) 0 0 []) w

/-- Every waiter on page k of buffer i wakes; its page-in is over. -/
def W.wakePage (w : W) (i k : Nat) : W :=
  match Tab.get w.dev.bufs i with
  | some b =>
    (w.onMs fun m => { m with pageins := m.pageins.filter fun q => !(q.buf = i && q.page = k) }).wakeStreams
      (b.base + k * b.page) b.page
  | none => w

/-- A migration of a page that is in flight completes: its contents move and the mapping switches (R152). -/
def W.finishMigration (w : W) (m : Migration) : W :=
  (w.onMs fun s => { s with migs := s.migs.filter (· != m) }).movePage m.buf m.page m.dst m.st

/-- HBM bytes visible to software (R118, R154, R158). -/
def Dev.visibleHbm (d : Dev) : Nat := (3424 - d.ms.retired.length) * granuleBytes

end Sys2Proof.Machine
end

