-- ==== Sys2Proof/Machine/Packet.lean ====
section
/-! DEFINITION. Command packets: the handles they name (R59 to R64), the state sets (R50), admission in the order of Table 2.3a
(R39 to R47), and the opcode's part of it as one record per opcode. -/

namespace Sys2Proof.Machine

/-- The state sets of Table 2.5. -/
inductive StateSet where
  | stat | rst | dump | hub | up | live | idle | stby
  deriving DecidableEq, Repr

/-- Table 2.5: whether an opcode of a set is legal in a state. -/
def StateSet.allows : StateSet → DevState → Bool
  | _, .off | _, .updatePause => false
  | .stat, _ => true
  | .rst, st => st != .service
  | .dump, st => st != .init && st != .service
  | .hub, st => st = .standby || st = .ready || st = .running || st = .draining
  | .up, st => st = .ready || st = .running || st = .draining
  | .live, st => st = .ready || st = .running
  | .idle, st => st = .ready
  | .stby, st => st = .standby

/-- The greatest index of a handle kind (Table 2.8). -/
def kindMax (k : Nat) : Nat :=
  match k with
  | 0 => 0 | 1 => 16383 | 2 => 4095 | 3 => 65535 | 4 => 255 | 5 => 8191 | 6 => 4095 | 7 => 1023 | 8 => 63 | 9 => 1023 | 10 => 3
  | _ => 0

/-- The generation of the live object at an index of a kind (R62 step 3). -/
def Dev.objGen (d : Dev) (kind i : Nat) : Option Nat :=
  match kind with
  | 0 => if i = 0 then some 0 else none
  | 1 => (Tab.get d.chans i).map Chan.gen
  | 2 => (Tab.get d.strms i).map Strm.gen
  | 3 => (Tab.get d.bufs i).map Buf.gen
  | 4 => (Tab.get d.graphs i).map Graph.gen
  | 5 => (Tab.get d.syncs i).map Sync.gen
  | 6 => (Tab.get d.tables i).map Table.gen
  | 7 => (Tab.get d.feeds i).map Feed.gen
  | 8 => (Tab.get d.jobs i).map Job.gen
  | 9 => (Tab.get d.matchsets i).map MatchSet.gen
  | 10 => (Tab.get d.fw.upds i).map Upd.gen
  | _ => none

/-- The job tag that an object carries (R68). -/
def Dev.objTag (d : Dev) (kind i : Nat) : Nat :=
  match kind with
  | 1 => ((Tab.get d.chans i).map Chan.tag).getD 0
  | 2 => ((Tab.get d.strms i).map Strm.tag).getD 0
  | 3 => ((Tab.get d.bufs i).map Buf.tag).getD 0
  | 4 => ((Tab.get d.graphs i).map Graph.tag).getD 0
  | 5 => ((Tab.get d.syncs i).map Sync.tag).getD 0
  | 6 => ((Tab.get d.tables i).map Table.tag).getD 0
  | 7 => ((Tab.get d.feeds i).map Feed.tag).getD 0
  | 8 => i
  | 9 => ((Tab.get d.matchsets i).map MatchSet.tag).getD 0
  | 10 => ((Tab.get d.fw.upds i).map Upd.tag).getD 0
  | _ => 0

/-- The first check of a handle that fails (R62): kind, index, object, generation. -/
def Dev.handleBad (d : Dev) (kinds : List Nat) (h : Nat) : Option Nat :=
  let k := hKind h
  if !kinds.contains k then some 0x01
  else if kindMax k < hIdx h || (k = 8 && hIdx h = 0) then some 0x02
  else match d.objGen k (hIdx h) with
    | none => some 0x04
    | some g => if g = hGen h then none else some 0x03

/-- Whether a value is the handle of a live object of a kind. -/
def Dev.liveHandle (d : Dev) (kind h : Nat) : Bool := (d.handleBad [kind] h).isNone

/-- The handle of the live object at an index of a kind. -/
def Dev.handleOf (d : Dev) (kind i : Nat) : Nat := mkHandle kind ((d.objGen kind i).getD 0) i

/-- The SYNC indices that the member FULL objects of a multicast stream take, or that of DST_FULL (R220). -/
def Strm.fullObjs (s : Strm) : List Nat :=
  if s.dstEmpty = 0 then []
  else if s.mcast = 0 then [hIdx s.dstFull]
  else
    let cores := if s.mcast = 1 then ((List.range 64).filter fun k => bit s.mcastMask k).map (64 * s.mcastDie + ·) else List.range 256
    cores.map fun n => 2048 * (n / 64) + s.fullLocal + n % 64

/-- The row-counter SYNC handles named in a stream's parameters (R64). -/
def Strm.syncs (s : Strm) : List Nat := ([s.dstFull, s.dstEmpty, s.srcFull, s.srcEmpty].filter (· != 0)).map hIdx ++ s.fullObjs

/-- Whether a loaded graph refers to an object: an import, or one its load created (R64). -/
def Dev.graphRefs (d : Dev) (kind i : Nat) : Bool :=
  d.graphs.any fun (_, g) =>
    g.imports.contains (d.handleOf kind i)
      || (kind = 5 && g.syncs.any fun s => s.idx ≤ i && i < s.idx + s.count)
      || (kind = 9 && g.matchsets.contains i)

/-- The SYNC indices that a feed created (R442). -/
def Feed.owns (f : Feed) (i : Nat) : Bool :=
  f.base.any fun (die, b) => 2048 * die + b ≤ i && i < 2048 * die + b + f.decodeSlots + f.slowMax + 3

/-- Whether an object of kinds BUFFER, SYNC, TABLE, FEED or MATCHSET is referenced (R64). -/
def Dev.referenced (d : Dev) (kind i : Nat) : Bool :=
  let h := d.handleOf kind i
  d.graphRefs kind i
    || (kind = 3 && (d.chans.any (fun (_, c) => c.rxBuf = h) || d.feeds.any (fun (_, f) => f.buf = h)
        || d.fw.upds.any (fun (_, u) => u.stageBuf = h) || d.graphs.any (fun (_, g) => (g.ring.map ResultRing.buf).getD 0 = h)))
    || (kind = 5 && (d.chans.any (fun (_, c) => c.rxSync = h)
        || d.strms.any (fun (_, s) => (s.state = 2 || s.state = 3 || s.state = 4) && s.syncs.contains i)
        || d.feeds.any (fun (_, f) => f.owns i)))
    || (kind = 7 && (Tab.get d.feeds i).any (fun f => !f.clients.isEmpty || d.graphs.any fun (_, g) => g.feeds.any (·.feed = i)))

/-- The handle state of an object (Table 2.8a). -/
def Dev.hstate (d : Dev) (kind i : Nat) : Nat :=
  match kind with
  | 0 => 0
  | 1 => ((Tab.get d.chans i).map Chan.state).getD 0
  | 2 => ((Tab.get d.strms i).map Strm.state).getD 0
  | 4 => ((Tab.get d.graphs i).map Graph.state).getD 0
  | 8 =>
    if (Tab.get d.jobs i).isNone then 0
    else if d.graphs.any (fun (_, g) => g.tag = i && g.state = 5) then 5
    else if d.graphs.any (fun (_, g) => g.tag = i) then 2 else 1
  | 10 =>
    match Tab.get d.fw.upds i with
    | none => 0
    | some _ =>
      if d.cmds.any (fun p => hKind p.hdr.target.toNat = 10 && hIdx p.hdr.target.toNat = i)
        || d.fw.relays.any (fun r => r.upd = some i && r.phase < 3) then 2 else 1
  | 7 =>
    match Tab.get d.feeds i with
    | none => 0
    | some f => if f.faulted then 6 else if d.referenced 7 i then 2 else 1
  | k => if (d.objGen k i).isNone then 0 else if d.referenced k i then 2 else 1

/-- An admitted command as its opcode sees it. -/
structure Ctx where
  ch : Nat
  hdr : Header
  op : Nat
  ps : List Byte

/-- TARGET. -/
def Ctx.target (c : Ctx) : Nat := c.hdr.target.toNat

/-- Index of TARGET. -/
def Ctx.idx (c : Ctx) : Nat := hIdx c.target

/-- JOB_TAG. -/
def Ctx.tag (c : Ctx) : Nat := c.hdr.jobTag.toNat

/-- The parameter field of n bytes at an offset. -/
def Ctx.f (c : Ctx) (off n : Nat) : Nat := fld c.ps off n

/-- A handle parameter: its offset, the kinds it accepts, whether 0 means none (R62). -/
structure HParam where
  off : Nat
  kinds : List Nat
  zero : Bool := false

/-- A status and detail with which a command fails. -/
structure Fail where
  status : Nat
  detail : Nat
  payload : List Byte := []

/-- BAD_PARAM with the offset of a parameter (Table 2.3): offsets count from the packet start. -/
def badAt (off : Nat) : Option Fail := some ⟨0x04, 64 + off, []⟩

/-- Fields checked in ascending offset order: the first that does not hold gives BAD_PARAM (Table 2.3). -/
def firstBad : List (Nat × Bool) → Option Fail
  | [] => none
  | (off, ok) :: t => if ok then firstBad t else badAt off

/-- NO_RESOURCE with a resource code and [31:16] (Table 2.3). -/
def noResource (code hi : Nat) : Option Fail := some ⟨0x08, code + hi * 65536, []⟩

/-- What Table 2.9 and an opcode's chapter give of an opcode. -/
structure OpSpec where
  op : Nat
  /-- Kinds that TARGET accepts; [0] is the device. -/
  targets : List Nat
  set : StateSet
  /-- Whether a number of parameter bytes is the layout's (R36). -/
  len : Nat → Bool
  handles : Ctx → List HParam := fun _ => []
  /-- Step 9: the parameters, length apart. -/
  check : Ctx → W → Option Fail := fun _ _ => none
  /-- Step 10: the handle state that the conflict reports, where the object's state does not permit the command. -/
  conflict : Ctx → W → Option Nat := fun _ _ => none
  /-- Step 12, and statuses of the command's own. -/
  res : Ctx → W → Option Fail := fun _ _ => none
  /-- The effect, its reply included. -/
  body : Ctx → W → W

/-- The final reply OK of a command that has completed at once. -/
def W.ok (w : W) (c : Ctx) (payload : List Byte) : W := w.reply c.ch c.hdr c.op 0 0 payload

/-- The final reply OK with a detail word. -/
def W.okDetail (w : W) (c : Ctx) (detail : Nat) (payload : List Byte) : W := w.reply c.ch c.hdr c.op 0 detail payload

/-- A command that returns PENDING: it is recorded, and its interim reply follows after 100 µs (R42). -/
def W.pend (w : W) (c : Ctx) (wt : Wait) : W :=
  w.onDev fun d => { d with cmds := d.cmds ++ [⟨c.ch, c.hdr, c.op, d.clk.mono, false, wt⟩] }

/-- The reply of a command that fails. -/
def W.failWith (w : W) (c : Ctx) (f : Fail) : W := w.reply c.ch c.hdr c.op f.status f.detail f.payload

/-- A command that reads or writes ranges of buffers goes on once their pages are present (R143): an absent page is paged in, and
the command waits for it. A range is (address, bytes). -/
def W.withPages (w : W) (c : Ctx) (ranges : List (Nat × Nat)) (go : W → W) : W :=
  match ranges.findSome? fun (a, n) => (pieces a n).findSome? fun (x, _) => match w.dev.access x false false with
    | .away b k => some (x, b, k)
    | _ => none with
  | some (va, b, k) => (w.pend c (.page va c.ps)).pageIn b k
  | none => go w

/-- The detail of STATE_CONFLICT (Table 2.3). -/
def Dev.conflictDetail (d : Dev) (hs : Nat) : Nat := d.hub.st.code * 2 ^ 28 + b2n d.hub.degraded * 2 ^ 27 + hs * 2 ^ 16

/-- The bytes of a packet on the wire count 64 and its parameters. -/
def packetLen (p : Packet) : Nat := 64 + p.params.length

/-- Step 3 of Table 2.3a: the offset of the first header field that is not as it must be. -/
def headerBad (p : Packet) : Option Nat :=
  if p.hdr.version != 1 then some 0x02
  else if 4 ≤ p.hdr.flags.toNat then some 0x03
  else if packetLen p != 64 + p.hdr.paramLen.toNat || 4096 < packetLen p then some 0x06
  else if p.hdr.reserved = zeros 43 then none else some 0x11

/-- Opcodes that an unauthenticated channel may send (Table 2.3a step 6). -/
def preAuth (op : Nat) : Bool := op = 0x0000 || op = 0x0101 || op = 0x0102

/-- Opcodes that never meet BUSY by step 11 beside those of set STAT (R44). -/
def neverBusy (op : Nat) : Bool := op = 0x0404 || op = 0x0406 || op = 0x0006

/-- Opcodes that a FAULTED object accepts (Table 2.8a, R107). -/
def faultOk (op : Nat) : Bool := op = 0x0007 || op = 0x0008 || op = 0x0104

/-- The first handle parameter that fails (R62), in ascending offset order. -/
def handleFail (c : Ctx) (w : W) : List HParam → Option Fail
  | [] => none
  | h :: t =>
    let v := c.f h.off 4
    if c.ps.length < h.off + 4 || (h.zero && v = 0) then handleFail c w t
    else match w.dev.handleBad h.kinds v with
      | some e => some ⟨0x05, e + (64 + h.off) * 65536, []⟩
      | none => handleFail c w t

/-- The PENDING command on the object that TARGET names (R44). -/
def Dev.pendingOn (d : Dev) (target : Nat) : Option PendCmd := d.cmds.find? fun p => p.hdr.target.toNat = target

/-- While swatches run, commands of the sets LIVE and IDLE return BUSY (R660). -/
def Dev.swatchBusy (d : Dev) (set : StateSet) : Bool := (set = .live || set = .idle) && d.cmds.any fun p => p.wait = .swatch

/-- Steps 6 to 12 of Table 2.3a, in their order: the first check that fails. -/
def admitFail (sp : OpSpec) (c : Ctx) (auth : Bool) (w : W) : Option Fail :=
  let d := w.dev
  if !auth && !preAuth sp.op then some ⟨0x09, 0x01, []⟩
  else if 63 < c.tag then some ⟨0x04, 0x0010, []⟩
  else if c.tag != 0 && sp.op != 0x0400 && (Tab.get d.jobs c.tag).isNone then some ⟨0x04, 0x0010, []⟩
  else match d.handleBad sp.targets c.target with
    | some e => some ⟨0x05, e + 0x000C * 65536, []⟩
    | none =>
      match handleFail c w (sp.handles c) with
      | some f => some f
      | none =>
        if !sp.len c.ps.length then some ⟨0x04, 0x06, []⟩
        else match sp.check c w with
          | some f => some f
          | none =>
            let hs := d.hstate (hKind c.target) c.idx
            if !sp.set.allows d.hub.st then some ⟨0x06, d.conflictDetail hs, []⟩
            else if hs = 6 && !faultOk sp.op then some ⟨0x06, d.conflictDetail hs, []⟩
            else match sp.conflict c w with
              | some h => some ⟨0x06, d.conflictDetail h, []⟩
              | none =>
                if d.swatchBusy sp.set then some ⟨0x07, 0x0A00, []⟩
                else match (if c.target = 0 || sp.set = .stat || neverBusy sp.op then none else d.pendingOn c.target) with
                  | some p => some ⟨0x07, hs * 65536 + p.op, []⟩
                  | none => sp.res c w

/-- A command that has passed steps 1 to 5 begins execution: it fails by the first check that fails, or has its effect. -/
def beginCmd (sp : OpSpec) (c : Ctx) (auth : Bool) (w : W) : W :=
  match admitFail sp c auth w with
  | some f => w.failWith c f
  | none => sp.body c w

/-- The RNR timer code of ETH_CFG (Table 3.6). -/
def Dev.rnrTimer (d : Dev) : Nat := bits d.eth.cfg.toNat 12 5

/-- Steps 1 to 4 of Table 2.3a (R39, R40), and RNR before them (R46, R53); `go` begins a packet that passes. -/
def arrive (ch op : Nat) (p : Packet) (go : Bool → W → W) (w : W) : W :=
  match Tab.get w.dev.chans ch with
  | none => w
  | some c =>
    if c.kind != 1 then w
    else if c.state = 6 then w.onEth fun e => { e with rxDrop := satAdd 32 e.rxDrop 1 }
    else if w.dev.hub.st = .off then w
    else if w.dev.hub.st = .updatePause then w.sendOn ch (.rnr ch c.psn 0x14)
    else if 4096 ≤ w.dev.admitted.length || c.queueLimit ≤ (w.dev.admitted.filter (· = ch)).length then
      w.sendOn ch (.rnr ch c.psn w.dev.rnrTimer)
    else
      let w := (w.onChan ch fun c => { c with psn := (c.psn + 1) % 2 ^ 24 }).sendOn ch (.ack ch c.psn)
      if p.hdr.magic != 0x5356 then w.onEth fun e => { e with cmdDrop := satAdd 32 e.cmdDrop 1 }
      else
        let crc := crc32c (packetCrcBytes p op)
        if crc != p.hdr.hdrCrc.toNat then w.reply ch p.hdr op 0x0E crc []
        else match headerBad p with
          | some off => w.reply ch p.hdr op 0x04 off []
          | none =>
            let exp := c.expSeq.getD p.hdr.seq.toNat
            if exp != p.hdr.seq.toNat then w.reply ch p.hdr op 0x04 0x0008 (toLe 4 exp)
            else go (c.state = 2) (w.onChan ch fun c => { c with expSeq := some ((exp + 1) % 2 ^ 32) })

/-- A host command of an opcode (R39, R43): admitted and executed in one step (DESIGN CHOICE, log entry 10). -/
def hostCommand (sp : OpSpec) (ch : Nat) (p : Packet) (w : W) : W :=
  arrive ch sp.op p (fun auth w => beginCmd sp ⟨ch, p.hdr, sp.op, p.params⟩ auth w) w

end Sys2Proof.Machine
end

