-- ==== Sys2Proof/Machine/Rs.lean ====
section
/-! DEFINITION. The flit code (R493): Reed-Solomon RS(136,130) over GF(2^8), field polynomial x^8 + x^4 + x^3 + x^2 + 1, roots α^0
to α^5, two codewords of alternate bytes. The first byte of a codeword is its highest coefficient (DEDUCED, log entry 20). -/

namespace Sys2Proof.Machine

/-- A field element times α. -/
def gfDouble (a : Nat) : Nat := if a < 128 then 2 * a else Nat.xor (2 * a) 0x11D

/-- Product of two field elements, a bit of the second at a time. -/
def gfMulGo : Nat → Nat → Nat → Nat
  | 0, _, _ => 0
  | n + 1, a, b => Nat.xor (if b % 2 = 1 then a else 0) (gfMulGo n (gfDouble a) (b / 2))

/-- Product of two field elements. -/
def gfMul (a b : Nat) : Nat := gfMulGo 8 a b

/-- Power of a field element. -/
def gfPow (a : Nat) : Nat → Nat
  | 0 => 1
  | n + 1 => gfMul a (gfPow a n)

/-- Inverse of a field element other than 0. -/
def gfInv (a : Nat) : Nat := gfPow a 254

/-- α^n. -/
def alpha (n : Nat) : Nat := gfPow 2 (n % 255)

/-- The value of a polynomial, highest coefficient first, at x. -/
def polyAt (cs : List Nat) (x : Nat) : Nat := cs.foldl (fun acc c => Nat.xor (gfMul acc x) c) 0

/-- The six coefficients below the leading one of the generator polynomial, highest first. -/
def rsGen : List Nat :=
  ((List.range 6).foldl (fun g k => (g ++ [0]).zipWith Nat.xor (0 :: g.map (gfMul (alpha k)))) [1]).drop 1

/-- One step of the division by the generator. -/
def rsStep (rem : List Nat) (c : Nat) : List Nat :=
  let f := Nat.xor c (rem.headD 0)
  ((rem.drop 1) ++ [0]).zipWith (fun r g => Nat.xor r (gfMul f g)) rsGen

/-- The six parity bytes of 130 data bytes. -/
def rsParity (data : List Nat) : List Nat := data.foldl rsStep [0, 0, 0, 0, 0, 0]

/-- The syndromes S0 to S5 of a codeword. -/
def rsSyndromes (cw : List Nat) : List Nat := (List.range 6).map fun k => polyAt cw (alpha k)

/-- The error values at given locators that explain the syndromes: one, two or three errors, by elimination. -/
def solve (rows : List (List Nat)) : Nat → List (List Nat)
  | 0 => rows
  | n + 1 =>
    let k := rows.headD [] |>.length
    let c := k - 1 - (n + 1)
    let done := rows.take c
    let rest := rows.drop c
    match rest.findIdx? fun r => r.getD c 0 != 0 with
    | none => rows
    | some i =>
      let p := rest.getD i []
      let inv := gfInv (p.getD c 0)
      let p := p.map (gfMul inv)
      let elim := fun (r : List Nat) => r.zipWith (fun x y => Nat.xor x (gfMul (r.getD c 0) y)) p
      solve (done.map elim ++ p :: (rest.eraseIdx i).map elim) n

/-- Coefficients of the error locator of v errors: the solution of the Newton identities, or none. -/
def locator (s : List Nat) (v : Nat) : Option (List Nat) :=
  let rows := (List.range v).map fun i => (List.range v).map (fun j => s.getD (i + v - 1 - j) 0) ++ [s.getD (i + v) 0]
  let r := solve rows v
  if (List.range v).all fun i => (r.getD i []).getD i 0 = 1 then some (r.map fun x => x.getLastD 0) else none

/-- Powers of α at which a locator vanishes, of the 136 positions. -/
def errorPowers (lam : List Nat) : List Nat :=
  (List.range 136).filter fun p =>
    let xi := alpha (255 - p)
    ((1 :: lam).zipIdx.foldl (fun acc (c, k) => Nat.xor acc (gfMul c (gfPow xi k))) 0) = 0

/-- Correction of v errors: the corrected codeword where it has no syndrome left. -/
def tryCorrect (cw : List Nat) (s : List Nat) (v : Nat) : Option (List Nat) :=
  match locator s v with
  | none => none
  | some lam =>
    let ps := errorPowers lam
    if ps.length != v then none
    else
      let rows := (List.range v).map fun i => (ps.map fun p => alpha (p * i)) ++ [s.getD i 0]
      let r := solve rows v
      let fix := ps.zip (r.map fun x => x.getLastD 0)
      let cw := cw.mapIdx fun i c => fix.foldl (fun c (p, e) => if i + p = 135 then Nat.xor c e else c) c
      if (rsSyndromes cw).all (· = 0) then some cw else none

/-- A codeword decoded: the corrected bytes and whether a correction was made; none beyond 3 byte errors (R493). -/
def rsDecode (cw : List Nat) : Option (List Nat × Bool) :=
  let s := rsSyndromes cw
  if s.all (· = 0) then some (cw, false)
  else ((tryCorrect cw s 1).orElse fun _ => (tryCorrect cw s 2).orElse fun _ => tryCorrect cw s 3).map fun c => (c, true)

/-- The bytes at even positions, or at odd ones. -/
def alternate (odd : Nat) (bs : List Nat) : List Nat := (bs.zipIdx.filter fun (_, i) => i % 2 = odd).map Prod.fst

/-- The two sequences of alternate bytes put together again. -/
def interleave : List Nat → List Nat → List Nat
  | a :: as, b :: bs => a :: b :: interleave as bs
  | as, bs => as ++ bs

/-- A flit (R493): header, payload of 256 bytes and parity. -/
def flitBytes (hdr : Nat) (payload : List Byte) : List Byte :=
  let body := toLe 4 hdr ++ padTo 256 payload
  let ns := body.map BitVec.toNat
  body ++ (rsParity (alternate 0 ns) ++ rsParity (alternate 1 ns)).map (BitVec.ofNat 8)

/-- A received flit: header, payload, codewords corrected; none where a codeword is uncorrectable. -/
def flitDecode (bs : List Byte) : Option (Nat × List Byte × Nat) :=
  let ns := bs.map BitVec.toNat
  let body := ns.take 260
  let par := ns.drop 260
  if ns.length != 272 then none
  else match rsDecode (alternate 0 body ++ par.take 6), rsDecode (alternate 1 body ++ par.drop 6) with
    | some (a, x), some (b, y) =>
      let out := (interleave (a.take 130) (b.take 130)).map (BitVec.ofNat 8)
      some (fld out 0 4, out.drop 4, b2n x + b2n y)
    | _, _ => none

/-- The header of a flit (Table 16.1). -/
def flitHeader (seq ack type credit : Nat) : Nat := seq * 2 ^ 20 + ack * 2 ^ 8 + type * 2 ^ 4 + credit

end Sys2Proof.Machine
end

