-- ==== Sys2Proof/Machine/LinkBase.lean ====
section
/-! DEFINITION. Yarzan links: what carries a logical link, the sending of flits with retry buffer and credits (R494, R495), control
messages and their flooding (R512, R513). -/

namespace Sys2Proof.Machine

/-- A physical link; one never configured is OFF. -/
def Dev.link (d : Dev) (p : Nat) : Link := Tab.getD d.links p {}

/-- A logical link. -/
def Dev.llink (d : Dev) (k : Nat) : LLink := Tab.getD d.llinks k {}

/-- A change of a physical link. -/
def W.onLink (w : W) (p : Nat) (f : Link → Link) : W := w.onDev fun d => { d with links := Tab.upd d.links p {} f }

/-- A change of a logical link. -/
def W.onLLink (w : W) (k : Nat) (f : LLink → LLink) : W := w.onDev fun d => { d with llinks := Tab.upd d.llinks k {} f }

/-- A change of the device's place in its system. -/
def W.onSys (w : W) (f : LinkSys → LinkSys) : W := w.onDev fun d => { d with sys := f d.sys }

/-- A link in UP, DEGRADED or SWAPPING (R513). -/
def Link.works (l : Link) : Bool := l.state = 2 || l.state = 3 || l.state = 4

/-- The physical link that carries a logical link. -/
def Dev.carrier (d : Dev) (k : Nat) : Option Nat := (d.links.find? fun (_, l) => l.logical = k && l.works).map Prod.fst

/-- Whether a logical link is DOWN (R501, R523). -/
def Dev.linkDown (d : Dev) (k : Nat) : Bool := d.links.any fun (_, l) => l.logical = k && l.state = 5

/-- A flit of a SEQ put on the physical link that carries a logical link, with the acknowledgement and the credits owed (Table
16.1); one whose lanes are all lost waits in the retry buffer (Table 16.2). -/
def W.emit (w : W) (k seq type : Nat) (payload : List Byte) : W :=
  match w.dev.carrier k with
  | some p =>
    if (w.dev.link p).txLanes = 0 then w
    else
      let l := w.dev.llink k
      let c := min 15 (l.owed / 16)
      (w.onLLink k fun l => { l with owed := l.owed - 16 * c }).send (.link p (flitBytes (flitHeader seq l.rxSeq type c) payload))
  | none => w

/-- The waiting flit that may go next (R494, R495): CONTROL first, DATA with a credit; none while the retry buffer is full. -/
def LLink.next (l : LLink) : Option (Nat × List Byte) :=
  if 2048 ≤ l.retry.length then none
  else match l.queue.find? fun f => f.1 = 2 with
    | some f => some f
    | none => if l.credit = 0 then none else l.queue.head?

/-- The waiting flits of a logical link sent as far as they may. -/
def pumpLink (w : W) (k : Nat) : Nat → W
  | 0 => w
  | fuel + 1 =>
    if w.dev.hub.st = .updatePause then w
    else match (w.dev.llink k).next with
      | none => w
      | some f =>
        let seq := (w.dev.llink k).txSeq
        let w := w.onLLink k fun l =>
          { l with
            queue := l.queue.erase f, retry := l.retry ++ [(seq, f.1, f.2)], txSeq := (seq + 1) % 4096
            credit := if f.1 = 1 then l.credit - 1 else l.credit }
        pumpLink (w.emit k seq f.1 f.2) k fuel

/-- The waiting flits of a logical link sent. -/
def W.pump (w : W) (k : Nat) : W := pumpLink w k (w.dev.llink k).queue.length

/-- Bytes cut into payloads of 256; the last is filled with 0. -/
def payloads : Nat → List Byte → List (List Byte)
  | 0, _ => []
  | n + 1, bs => if bs.isEmpty then [] else padTo 256 (bs.take 256) :: payloads n (bs.drop 256)

/-- Bytes sent as DATA flits on a logical link, from the start of a flit (DESIGN CHOICE, log entry 21). -/
def W.sendData (w : W) (k : Nat) (bs : List Byte) : W :=
  (w.onLLink k fun l => { l with queue := l.queue ++ (payloads (bs.length / 256 + 1) bs).map fun p => (1, p) }).pump k

/-- A control message sent on a logical link, in a CONTROL flit of its own. -/
def W.sendMsg (w : W) (k : Nat) (m : List Byte) : W := (w.onLLink k fun l => { l with queue := l.queue ++ [(2, padTo 256 m)] }).pump k

/-- The device's coordinate; 0, 0, 0 before any LINK_CONFIG. -/
def Dev.coord (d : Dev) : Nat × Nat × Nat := d.sys.coord.getD (0, 0, 0)

/-- A control message (R512). -/
def ctlMessage (mtype seq : Nat) (origin : Nat × Nat × Nat) (group : Nat) (body : List Byte) : List Byte :=
  toLe 1 mtype ++ zeros 1 ++ toLe 2 seq ++ toLe 1 origin.1 ++ toLe 1 origin.2.1 ++ toLe 1 origin.2.2 ++ zeros 1 ++ toLe 4 group
    ++ padTo 52 body

/-- A message of the device's own, with its next sequence number of the MTYPE (R512). -/
def W.ownMessage (w : W) (mtype group : Nat) (body : List Byte) : List Byte × W :=
  let seq := Tab.getD w.dev.sys.mySeq mtype 0
  (ctlMessage mtype seq w.dev.coord group body,
    w.onSys fun s => { s with mySeq := Tab.put s.mySeq mtype ((seq + 1) % 65536) })

/-- A message sent on every working link but one (R513). -/
def W.forward (w : W) (m : List Byte) (arrival : Option Nat) : W :=
  (w.dev.links.filter fun (p, l) => l.works && l.logical != 0xFF && some p != arrival).foldl (fun w (_, l) => w.sendMsg l.logical m) w

/-- A message of the device flooded. -/
def W.flood (w : W) (mtype group : Nat) (body : List Byte) : W :=
  let (m, w) := w.ownMessage mtype group body
  w.forward m none

/-- The logical link that a physical link carries or, a requested spare, is to carry (R500); 0xFF none. -/
def Dev.helloLogical (d : Dev) (p : Nat) : Nat :=
  if (d.link p).role = 4 && (d.link p).logical = 0xFF then
    ((d.llinks.find? fun (_, l) => (l.spare.map Prod.fst) = some p).map Prod.fst).getD 0xFF
  else (d.link p).logical

/-- HELLO on a physical link, outside the sequence of its logical link (DEDUCED, log entry 22, R504). -/
def W.hello (w : W) (p : Nat) : W :=
  let l := w.dev.link p
  let (m, w) := w.ownMessage 0x01 ((w.dev.sys.group.map FGroup.id).getD 0)
    (toLe 8 w.dev.fuse.serial ++ toLe 1 l.role ++ toLe 1 p ++ toLe 1 (w.dev.helloLogical p) ++ toLe 4 w.dev.fw.info.dye)
  w.send (.link p (flitBytes (flitHeader 0 0 2 0) m))

/-- Fields of a control message. -/
def msgType (m : List Byte) : Nat := fld m 0 1

/-- Sequence number of a control message. -/
def msgSeq (m : List Byte) : Nat := fld m 2 2

/-- Origin of a control message. -/
def msgOrigin (m : List Byte) : Nat × Nat × Nat := (fld m 4 1, fld m 5 1, fld m 6 1)

/-- GROUP of a control message. -/
def msgGroup (m : List Byte) : Nat := fld m 8 4

/-- Body of a control message. -/
def msgBody (m : List Byte) : List Byte := m.drop 12

/-- A coordinate as one number (Table 18.7). -/
def coordCode (c : Nat × Nat × Nat) : Nat := c.1 * 65536 + c.2.1 * 256 + c.2.2

/-- Whether a flooded message is accepted (R513): later than the last of its origin and MTYPE, by half range; the device's own are
duplicates. -/
def Dev.acceptsFlood (d : Dev) (m : List Byte) : Bool :=
  msgOrigin m != d.coord &&
    match Tab.get d.sys.seen (coordCode (msgOrigin m) * 256 + msgType m) with
    | none => true
    | some s => let delta := (msgSeq m + 65536 - s) % 65536
      delta != 0 && delta < 32768

/-- The acceptance of a flooded message noted, and the message forwarded (R513). -/
def W.acceptFlood (w : W) (arrival : Nat) (m : List Byte) : W :=
  (w.onSys fun s => { s with seen := Tab.put s.seen (coordCode (msgOrigin m) * 256 + msgType m) (msgSeq m) }).forward m (some arrival)

/-- Whether an address lies in a link window (R507). -/
def inWindow (a : Nat) : Bool := 2 ^ 51 ≤ a && a < 2 ^ 52

/-- Logical link of a link window (R507). -/
def windowLink (a : Nat) : Nat := bits a 46 5

end Sys2Proof.Machine
end

