-- ==== Sys2Proof/Machine/Layout.lean ====
section
/-! DEFINITION. Tensor layouts (chapter 5): element types, the two layout descriptors, their walks, the format checks of Table 5.5,
and the memory operations into which a tile is cut (R179, R208). -/

namespace Sys2Proof.Machine

/-- The classes of Table 5.1. -/
inductive ElemClass where
  | reserved | byte | packed | mx | str
  deriving DecidableEq, Repr

/-- Class of an element type code (Table 5.1). -/
def elemClass (c : Nat) : ElemClass :=
  if (1 ≤ c && c ≤ 5) || (0x10 ≤ c && c ≤ 0x17) || c = 0x19 || c = 0x40 || c = 0x27 || c = 0x2F || c = 0x3F then .byte
  else if 6 ≤ c && c ≤ 0x0B then .mx
  else if c = 0x18 || (0x20 ≤ c && c ≤ 0x3F) then .packed
  else if c = 0x50 then .str
  else .reserved

/-- Width in bits of an element type code (Table 5.1). -/
def elemBits (c : Nat) : Nat :=
  if c = 1 then 32
  else if c = 2 || c = 3 then 16
  else if c = 8 || c = 9 then 6
  else if c = 0x0A || c = 0x18 then 4
  else if 4 ≤ c && c ≤ 0x0B then 8
  else if 0x10 ≤ c && c ≤ 0x17 then 8 * 2 ^ ((c - 0x10) / 2)
  else if c = 0x19 || c = 0x40 then 64
  else if 0x20 ≤ c && c ≤ 0x3F then c - 0x1F
  else if c = 0x50 then 32
  else 0

/-- Bytes of an element of a byte-class type (R162). -/
def elemBytes (c : Nat) : Nat := elemBits c / 8

/-- PADW (Tables 5.3, 5.4). -/
def Layout.padw (l : Layout) : Bool := bit l.flags 0

/-- DBG_OVL. -/
def Layout.dbgOvl (l : Layout) : Bool := bit l.flags 4

/-- G, the blocks of an MX group (R165). -/
def Layout.groupBlocks (l : Layout) : Nat := 2 ^ bits l.flags 2 2

/-- Bytes of the element data of one MX block. -/
def Layout.blockBytes (l : Layout) : Nat := 4 * elemBits l.elem

/-- Bytes of an MX group (R165, Table 5.2). -/
def Layout.groupBytes (l : Layout) : Nat :=
  let raw := l.groupBlocks + l.groupBlocks * l.blockBytes
  if bit l.flags 1 then alignUp raw 64 else raw

/-- AUX_SIZE of a STR32 layout (R167). -/
def Layout.auxSize (l : Layout) : Nat := l.fill

/-- n signed fields of w bytes from an offset. -/
def signedFields (bs : List Byte) (off w n : Nat) : List Int := (List.range n).map fun k => sext (8 * w) (fld bs (off + w * k) w)

/-- n unsigned fields of w bytes from an offset. -/
def natFields (bs : List Byte) (off w n : Nat) : List Nat := (List.range n).map fun k => fld bs (off + w * k) w

/-- A layout descriptor read from its bytes (Tables 5.3 and 5.4). Fields of dimensions at or above RANK are dropped (R170). -/
def parseLayout (bs : List Byte) : Layout :=
  let format := fld bs 0 1
  let rank := fld bs 2 1
  if format = 2 then
    let size := (natFields bs 0x18 4 6).take rank
    { format := format, elem := fld bs 1 1, rank := rank, flags := fld bs 3 1, base := fld bs 8 8, fill := fld bs 0x10 8
      size := size, start := size.map fun _ => 0, count := size
      stride := (signedFields bs 0x30 8 6).take rank, block := (natFields bs 0x60 2 6).take rank }
  else
    { format := format, elem := fld bs 1 1, rank := rank, flags := fld bs 3 1, xform := fld bs 4 1, xfDim := fld bs 5 1
      winLen := fld bs 6 2, base := fld bs 8 8, fill := fld bs 0x10 8, size := (natFields bs 0x18 4 8).take rank
      start := (signedFields bs 0x38 4 8).take rank, count := (natFields bs 0x58 4 8).take rank
      stride := (signedFields bs 0x78 8 8).take rank, auxBase := fld bs 0xB8 8, indexBase := fld bs 0xC0 8
      winStep := fld bs 0xC8 4, winDil := fld bs 0xCC 4 }

/-- Bytes of a layout descriptor whose first byte is given (R170). -/
def layoutBytes (format : Nat) : Nat := if format = 2 then 128 else 256

/-- The 256 bytes of a layout (Tables 5.3 and 5.4); the fields of dimensions at or above RANK are 0. -/
def Layout.wire (l : Layout) : List Byte :=
  let us := fun (n w : Nat) (xs : List Nat) => padTo (n * w) (xs.flatMap (toLe w))
  let ss := fun (n w : Nat) (xs : List Int) => us n w (xs.map (unsext (8 * w)))
  let head := toLe 1 l.format ++ toLe 1 l.elem ++ toLe 1 l.rank ++ toLe 1 l.flags
  if l.format = 2 then
    padTo 256 (head ++ zeros 4 ++ toLe 8 l.base ++ toLe 8 l.fill ++ us 6 4 l.size ++ ss 6 8 l.stride ++ us 6 2 l.block)
  else
    padTo 256 (head ++ toLe 1 l.xform ++ toLe 1 l.xfDim ++ toLe 2 l.winLen ++ toLe 8 l.base ++ toLe 8 l.fill ++ us 8 4 l.size
      ++ ss 8 4 l.start ++ us 8 4 l.count ++ ss 8 8 l.stride ++ toLe 8 l.auxBase ++ toLe 8 l.indexBase ++ toLe 4 l.winStep
      ++ toLe 4 l.winDil)

/-- The lengths of the walk's dimensions, dimension 0 first (R171, R190). -/
def Layout.dims (l : Layout) : List Nat :=
  if l.xform = 2 then l.count.take l.xfDim ++ l.winLen :: l.count.drop l.xfDim else l.count

/-- Entries of the walk. -/
def Layout.entries (l : Layout) : Nat := l.dims.foldl (· * ·) 1

/-- The position vector of walk entry k, dimension 0 fastest. -/
def unrank : List Nat → Nat → List Nat
  | [], _ => []
  | c :: cs, k => k % c :: unrank cs (k / c)

/-- The tensor index vector of walk entry k (R171, R190). -/
def Layout.index (l : Layout) (k : Nat) : List Int :=
  let j := unrank l.dims k
  let sum := fun (s : Int) (x : Nat) => s + (x : Int)
  if l.xform = 2 then
    let a := l.xfDim
    (l.start.take a).zipWith sum (j.take a)
      ++ (l.start.getD a 0 + (j.getD (a + 1) 0 * l.winStep + j.getD a 0 * l.winDil : Nat))
      :: (l.start.drop (a + 1)).zipWith sum (j.drop (a + 2))
  else l.start.zipWith sum j

/-- Whether an index vector is in bounds (R170). -/
def Layout.inBounds (l : Layout) (i : List Int) : Bool := (i.zip l.size).all fun (x, n) => 0 ≤ x && x < (n : Int)

/-- Offset of an index within an SV6 block, elements, dimension 0 fastest (R177). -/
def blockOffset : List Nat → List Nat → Nat
  | o :: os, b :: bs => o + b * blockOffset os bs
  | _, _ => 0

/-- The bit address of the element at an in-bounds index; for MX that of its block's scale byte's group (R163, R165, R171,
R177). -/
def Layout.bitAddr (l : Layout) (i : List Int) : Int :=
  if l.format = 2 then
    let b := i.zipWith (fun (x : Int) (n : Nat) => x / (n : Int)) l.block
    let o := i.zipWith (fun (x : Int) (n : Nat) => (x % (n : Int)).toNat) l.block
    8 * (l.base + elemBytes l.elem * ((b.zipWith (· * ·) l.stride).sum + blockOffset o l.block))
  else
    let i0 := i.getD 0 0
    let row := l.base + ((i.drop 1).zipWith (· * ·) (l.stride.drop 1)).sum
    match elemClass l.elem with
    | .packed => 8 * row + i0 * elemBits l.elem
    | .mx => 8 * (row + i0 / (32 * l.groupBlocks) * l.groupBytes)
    | .str => 8 * (l.base + 4 * i0)
    | _ => 8 * (row + i0 * l.stride.getD 0 0)

/-- A piece of a walk: entries [lo, lo + n), its bit address and length, and what it holds: 0 the whole unit, 1 the scale of one
MX block, 2 the data of one MX block. -/
structure Seg where
  lo : Nat
  n : Nat
  bit : Nat
  len : Nat
  part : Nat := 0
  deriving DecidableEq, Repr

/-- Walk entries of one unit: a group for MX, an element otherwise. -/
def Layout.unit (l : Layout) : Nat := if elemClass l.elem = .mx then 32 * l.groupBlocks else 1

/-- Bits of one unit. -/
def Layout.unitBits (l : Layout) : Nat := if elemClass l.elem = .mx then 8 * l.groupBytes else elemBits l.elem

/-- Whether walk entry k is in bounds. -/
def Layout.inb (l : Layout) (k : Nat) : Bool := l.inBounds (l.index k)

/-- The bit address of walk entry k as a 64-bit address. -/
def Layout.bitOf (l : Layout) (k : Nat) : Nat := unsext 67 (l.bitAddr (l.index k))

/-- The units of the walk that are in bounds, in walk order; for STR32 the offset entries. -/
def Layout.segs (l : Layout) : List Seg :=
  let u := l.unit
  (((List.range (l.entries / u)).map (· * u)).filter l.inb).map fun k => ⟨k, u, l.bitOf k, l.unitBits, 0⟩

/-- The range from the lowest to the highest byte of the in-bounds elements. -/
def Layout.extent (l : Layout) : Option (Nat × Nat) :=
  l.segs.foldl (fun e s =>
    let lo := s.bit / 8
    let hi := (s.bit + s.len + (if elemClass l.elem = .str then 32 else 0) + 7) / 8
    match e with
    | none => some (lo, hi)
    | some (a, b) => some (min a lo, max b hi)) none

/-- The span of one window in bytes (R191). -/
def Layout.span (l : Layout) : Nat :=
  ((l.winLen - 1) * l.winDil + 1) * elemBytes l.elem * (l.count.take l.xfDim).foldl (· * ·) 1

/-- Whether the window fields of an XFORM = 2 descriptor are in range (Table 5.3, R191). -/
def Layout.windowOk (l : Layout) : Bool :=
  l.xfDim < l.rank && 1 ≤ l.winLen && l.winLen ≤ 4096 && 1 ≤ l.winStep && l.winStep < 2 ^ 31 && 1 ≤ l.winDil && l.winDil < 2 ^ 31
    && l.span ≤ 65536

/-- Whether a layout shows the condition of reason r of Table 5.5, r other than 0x05 and 0x06. -/
def Layout.shows (l : Layout) (isDst : Bool) (va r : Nat) : Bool :=
  let cls := elemClass l.elem
  match r with
  | 0x01 => l.format != 1 && l.format != 2
  | 0x02 => cls = .reserved || (l.format = 2 && !((1 ≤ l.elem && l.elem ≤ 5) || (0x10 ≤ l.elem && l.elem ≤ 0x17)))
  | 0x03 => l.rank = 0 || (if l.format = 2 then 6 else if l.xform = 2 then 7 else 8) < l.rank
  | 0x04 =>
    va % 64 != 0
      || (cls = .byte && (l.base % elemBytes l.elem != 0
          || (l.format = 1 && l.stride.any fun s => s % (elemBytes l.elem : Int) != 0)))
      || (cls = .str && l.base % 4 != 0)
  | 0x07 => (isDst && l.xform != 0) || 2 < l.xform || (l.xform != 0 && cls != .byte)
  | 0x08 => if l.xform = 2 then !l.windowOk else l.xfDim != 0 || l.winLen != 0 || l.winStep != 0 || l.winDil != 0
  | 0x09 =>
    cls = .mx && (l.size.getD 0 0 % l.unit != 0 || l.count.getD 0 0 % l.unit != 0 || l.start.getD 0 0 % (l.unit : Int) != 0)
  | 0x0A => cls = .str && l.rank != 1
  | 0x0B => l.format = 2 && (l.block.any (· = 0) || 65536 < l.block.foldl (· * ·) 1)
  | _ => false

/-- The lowest reason of Table 5.5 that holds for a pair (R178). -/
def pairReason (src dst : Layout) (srcVa dstVa : Nat) : Option Nat :=
  ((List.range 12).drop 1).find? fun r =>
    if r = 0x05 then src.elem != dst.elem
    else if r = 0x06 then src.entries != dst.entries
    else src.shows false srcVa r || dst.shows true dstVa r

/-- One more piece of a walk, after runs held latest first with their pieces latest first. -/
def joinOne (most : Nat) (acc : List (List Seg)) (s : Seg) : List (List Seg) :=
  match acc with
  | (q :: run) :: rs =>
    let first := ((q :: run).getLast?.map Seg.bit).getD 0
    if s.bit = q.bit + q.len && (s.bit + s.len + 7) / 8 - first / 8 ≤ most then (s :: q :: run) :: rs else [s] :: (q :: run) :: rs
  | acc => [s] :: acc

/-- Pieces of a walk joined to runs of at most `most` bytes (R179): lists of consecutive pieces whose addresses are contiguous
and ascending. -/
def joinRuns (most : Nat) (l : List Seg) : List (List Seg) := ((l.foldl (joinOne most) []).map List.reverse).reverse

/-- The memory operations of a run (R208): at most 16 line slots, within one page. -/
def cutRun (pad : Bool) (segs : List Seg) : Nat → Nat → Nat → Bool → List Chunk
  | 0, _, _, _ => []
  | fuel + 1, a, stop, first =>
    if stop ≤ a then []
    else
      let e := min stop (min (lineOf a + 1024) ((a / 0x10000 + 1) * 0x10000))
      let here := segs.filter fun s => s.bit < 8 * e && 8 * a < s.bit + s.len
      let lo := here.foldl (fun m s => min m s.lo) ((here.head?.map Seg.lo).getD 0)
      let hi := here.foldl (fun m s => max m (s.lo + s.n)) lo
      ⟨lo, hi - lo, a, e - a, first && a % 64 != 0, pad⟩ :: cutRun pad segs fuel e stop false

/-- The memory operations of a run. -/
def runChunks (pad : Bool) (segs : List Seg) : List Chunk :=
  let a := (segs.head?.map fun s => s.bit / 8).getD 0
  let e := (segs.getLast?.map fun s => (s.bit + s.len + 7) / 8).getD a
  cutRun pad segs ((e - a) / 64 + 2) a e true

/-- Pieces of a walk without a second mention of one address. -/
def dedup : List Nat → List Seg → List Seg
  | _, [] => []
  | seen, s :: t => if seen.contains s.bit then dedup seen t else s :: dedup (s.bit :: seen) t

/-- The reads of a tile (R171, R179, R191): the in-bounds source elements; with a window each element once. -/
def Layout.readPlan (l : Layout) : List Chunk :=
  let segs := if l.xform = 2 then dedup [] l.segs else l.segs
  (joinRuns 4096 segs).flatMap (runChunks false)

/-- The source strings of a tile: start in the byte area and length; the empty string where R168 says so. The offsets are those
that memory holds when the tile starts. `bad` counts the elements that R168 makes empty. -/
def Layout.strings (l : Layout) (offset : Nat → Nat) : List (Nat × Nat × Bool) :=
  (List.range l.entries).map fun k =>
    if l.inb k then
      let i := ((l.index k).getD 0 0).toNat
      let a := offset i
      let b := offset (i + 1)
      if b < a || l.auxSize < b then (0, 0, true) else (a, b - a, false)
    else (0, 0, false)

/-- The reads of a STR32 tile: the offset entries, then the bytes of each string. -/
def Layout.strReads (l : Layout) (strs : List (Nat × Nat)) : List Chunk :=
  let ks := (List.range l.entries).filter l.inb
  let offs := ks.map fun k => (⟨k, 1, l.bitOf k, 32, 0⟩ : Seg)
  let tail := match ks.getLast? with
    | some k => [(⟨k, 1, l.bitOf k + 32, 32, 0⟩ : Seg)]
    | none => []
  let bytes := (strs.zipIdx.filter fun (s, _) => s.2 != 0).map fun (s, k) =>
    (⟨k, 1, 8 * (l.auxBase + s.1), 8 * s.2, 0⟩ : Seg)
  (joinRuns 4096 (offs ++ tail)).flatMap (runChunks false) ++ (joinRuns 4096 bytes).flatMap (runChunks false)

/-- Bits [lo, lo + n) of the bytes at an address, from what a tile has read; none where a byte is not there yet. -/
def gotByte (got : List (Nat × List Byte × Bool)) (a : Nat) : Option (Byte × Bool) :=
  got.findSome? fun (p, bs, poison) => if p ≤ a && a < p + bs.length then some (bs.getD (a - p) 0, poison) else none

/-- The value of len bits at a bit address and its poison, from what a tile has read. -/
def gotBits (got : List (Nat × List Byte × Bool)) (bit len : Nat) : Option (Nat × Bool) :=
  let a := bit / 8
  let n := (bit + len + 7) / 8 - a
  ((List.range n).mapM fun k => gotByte got (a + k)).map fun bs =>
    (bits (leNat (bs.map Prod.fst)) (bit % 8) len, bs.any Prod.snd)

/-- The scale and data of the MX block that begins at walk entry e of a source (R165, Table 5.6). -/
def Layout.mxBlock (l : Layout) (got : List (Nat × List Byte × Bool)) (e : Nat) : Option (Nat × Nat × Bool) :=
  let bb := l.blockBytes
  let u := l.unit
  let k := e / u * u
  let b := (e - k) / 32
  if l.inb k then
    let g := l.bitOf k
    match gotBits got (g + 8 * b) 8, gotBits got (g + 8 * (l.groupBytes - l.groupBlocks * bb + b * bb)) (8 * bb) with
    | some (s, p), some (d, q) => some (s, d, p || q)
    | _, _ => none
  else some (bits l.fill 0 8, leNat (List.replicate bb (BitVec.ofNat 8 (bits l.fill 8 8))), false)

/-- The bits that a destination piece receives, with poison; none where the source has not been read (R172, R181). -/
def segValue (src dst : Layout) (got : List (Nat × List Byte × Bool)) (s : Seg) : Option (Nat × Bool) :=
  if elemClass dst.elem = .mx then
    let bb := dst.blockBytes
    if s.part = 1 then (src.mxBlock got s.lo).map fun (v, _, p) => (v, p)
    else if s.part = 2 then (src.mxBlock got s.lo).map fun (_, v, p) => (v, p)
    else
      ((List.range dst.groupBlocks).mapM fun b => src.mxBlock got (s.lo + 32 * b)).map fun bl =>
        let sc := leNat (bl.map fun (v, _, _) => BitVec.ofNat 8 v)
        let da := bl.zipIdx.foldl (fun acc (x, b) => acc + x.2.1 * 2 ^ (8 * bb * b)) 0
        (sc + da * 2 ^ (8 * (dst.groupBytes - dst.groupBlocks * bb)), bl.any fun (_, _, p) => p)
  else if src.inb s.lo then gotBits got (src.bitOf s.lo) s.len
  else some (bits src.fill 0 s.len, false)

/-- The bytes of a write operation over what memory holds there (R164), and the bytes that poison reaches. -/
def chunkBytes (old : List Byte) (addr n : Nat) (vals : List (Seg × Nat × Bool)) : List Byte :=
  toLe n (vals.foldl (fun cur (s, v, _) =>
    if 8 * addr ≤ s.bit then setBits cur (s.bit - 8 * addr) s.len v
    else
      let d := 8 * addr - s.bit
      setBits cur 0 (s.len - d) (v / 2 ^ d)) (leNat old))

/-- The pieces of the destination walk by kind (R184): valid when `valid`, pad otherwise. An MX group whose blocks differ in kind
is written block by block. -/
def kindSegs (src dst : Layout) (valid : Bool) : List Seg :=
  if elemClass dst.elem = .mx then
    dst.segs.flatMap fun s =>
      let blocks := (List.range dst.groupBlocks).filter fun b => src.inb ((s.lo + 32 * b) / src.unit * src.unit) == valid
      if blocks.length = dst.groupBlocks then [s]
      else blocks.flatMap fun b =>
        let bb := dst.blockBytes
        [⟨s.lo + 32 * b, 32, s.bit + 8 * b, 8, 1⟩,
         ⟨s.lo + 32 * b, 32, s.bit + 8 * (dst.groupBytes - dst.groupBlocks * bb + b * bb), 8 * bb, 2⟩]
  else dst.segs.filter fun s => src.inb s.lo == valid

/-- The write operations of a tile (R184, R185): its pad entries before its valid entries, without those of `skip`; through a
transposition network in runs of 256 bytes by address (R189). -/
def writePlan (src dst : Layout) (skip : Nat → Bool) : List Chunk :=
  let pads := if dst.padw then (kindSegs src dst false).filter fun s => !skip s.bit else []
  let valid := kindSegs src dst true
  let runs := if src.xform = 1 then joinRuns 256 (sortBy (fun a b => a.bit ≤ b.bit) valid) else joinRuns 4096 valid
  (joinRuns 4096 pads).flatMap (runChunks true) ++ runs.flatMap (runChunks false)

/-- Walk entries of a source or destination that are out of bounds (R181, R182). -/
def Layout.outside (l : Layout) : Nat := ((List.range (l.entries / l.unit)).filter fun k => !l.inb (k * l.unit)).length * l.unit

/-- Where the strings of a STR32 destination go (R169, R185): for each walk entry that is written, its place in the byte area and
its length; and the entries dropped because they pass AUX_SIZE. `skip` names pad entries left out. -/
def placeStrings (src dst : Layout) (strs : List (Nat × Nat)) (skip : Nat → Bool) : List (Nat × Nat × Nat) × Nat :=
  let ks := (List.range dst.entries).filter fun k => dst.inb k && (src.inb k || (dst.padw && !skip (dst.bitOf k)))
  let (out, _, drop) := ks.foldl (fun (out, pos, drop) k =>
    let n := if src.inb k then (strs.getD k (0, 0)).2 else 0
    if dst.auxSize < pos + n then (out ++ [(k, pos, 0)], pos, drop + 1) else (out ++ [(k, pos, n)], pos + n, drop)) ([], 0, 0)
  (out, drop)

end Sys2Proof.Machine
end

