-- ==== Sys2Proof/Machine/StrmBase.lean ====
section
/-! DEFINITION. Stream contexts (chapter 6): position, deadline, start and end of a generation, stopping, and the entry to FAULTED
without its consequences for a graph. -/

namespace Sys2Proof.Machine

/-- Whether the dies do work: the rails are up and the device is in no state in which they are stopped (Tables 2.4, 18.5, R640;
DEDUCED, log entry 17). -/
def Dev.diesRun (d : Dev) : Bool :=
  d.hub.rails && (d.hub.st = .ready || d.hub.st = .running || d.hub.st = .draining || d.hub.st = .service || d.hub.st = .fault)

/-- Whether die k does work. -/
def Dev.dieRuns (d : Dev) (k : Nat) : Bool := d.diesRun && d.dieUp k

/-- Die of a stream (R195). -/
def strmDie (i : Nat) : Nat := i / 1024

/-- Step at which the islands of a die run but for droop and holding: in a raise, a die whose rail has settled runs at the
target (R529). -/
def Dev.dieStep (d : Dev) (k : Nat) : Nat :=
  match d.pwr.raise with
  | some (t, settled) => if settled.contains k then t else d.pwr.step
  | none => d.pwr.step

/-- Step of the block island of a die: the die's step, or the step held, less droop (R25, R26, R534, R662). -/
def Dev.blkStep (d : Dev) (k : Nat) : Nat :=
  min (d.dieStep k) (Tab.getD d.pwr.blkHeld k 18) - (Tab.getD d.pwr.blkDroop k (0, 0)).1

/-- Step of the island of a core. -/
def Dev.coreStep (d : Dev) (n : Nat) : Nat := min (d.dieStep (n / 64)) ((d.core n).held.getD 18) - (d.core n).droop

/-- Frequency of the block island of a die, MHz (R25). -/
def Dev.blkMHz (d : Dev) (k : Nat) : Nat := 900 + 50 * d.blkStep k

/-- A figure in ns at step 18 at the present frequency of a die's block island (R210, R308). -/
def Dev.scale (d : Dev) (k ns : Nat) : Nat := ns * 1800 / d.blkMHz k

/-- Whether deadline tag a is earlier than b (R211). -/
def tagEarlier (a b : Nat) : Bool := 2 ^ 31 ≤ (a % 2 ^ 32 + 2 ^ 32 - b % 2 ^ 32) % 2 ^ 32

/-- LOOKAHEAD of a descriptor. -/
def SDesc.look (d : SDesc) : Nat := bits d.ctrl 0 3

/-- BOUNDED. -/
def SDesc.bounded (d : SDesc) : Bool := bit d.ctrl 3

/-- FENCE. -/
def SDesc.fence (d : SDesc) : Bool := bit d.ctrl 4

/-- A stream with a destination skein (R196). -/
def Strm.dstSkein (s : Strm) : Bool := s.dstEmpty != 0

/-- A stream with a source skein. -/
def Strm.srcSkein (s : Strm) : Bool := s.srcEmpty != 0

/-- The member cores of a multicast stream, ascending (R218). -/
def Strm.cores (s : Strm) : List Nat :=
  if s.mcast = 1 then ((List.range 64).filter fun k => bit s.mcastMask k).map (64 * s.mcastDie + ·)
  else if s.mcast = 2 then List.range 256 else []

/-- M, the member cores under multicast and 1 otherwise (R203). -/
def Strm.m (s : Strm) : Nat := if s.mcast = 0 then 1 else s.cores.length

/-- The descriptor whose times order the stream: the running one, or that of the oldest tile. -/
def Strm.timing (s : Strm) : Option SDesc := (s.running.map fun r => r.1).orElse fun _ => s.tiles.head?.map Tile.desc

/-- The tile that is next to issue an operation (R210): the oldest tile with operations left, or the next tile. -/
def Strm.nextK (s : Strm) : Nat :=
  ((s.tiles.find? fun t => t.nextRd < t.reads.length || t.nextWr < t.writes.length).map Tile.k).getD s.nextTile

/-- The deadline D of an armed stream (R210). -/
def Dev.deadline (d : Dev) (i : Nat) (s : Strm) : Nat :=
  match s.timing with
  | none => s.g0
  | some x =>
    let first := d.scale (strmDie i) x.firstNs
    let tile := d.scale (strmDie i) x.tileNs
    if s.dstSkein then
      let base :=
        if s.members.any fun m => m.lastTake.isNone then s.g0 + first
        else
          let take := s.members.foldl (fun a m => min a (m.lastTake.getD 0)) ((s.members.head?.bind Member.lastTake).getD 0)
          let full := s.members.foldl (fun a m => min a (s.tilesDone - m.taken)) s.tilesDone
          take + (full + 1) * tile
      s.members.foldl (fun a m => match m.waitStart with
        | some t => min a t
        | none => a) base
    else if s.srcSkein then
      s.lastPut + (((Tab.get d.syncs (hIdx s.srcEmpty)).map Sync.val).getD 0 + 1) * tile
    else s.tDesc + first + s.nextK * tile

/-- An error-log record about a stream. -/
def W.logStrm (w : W) (kind i unit addr : Nat) (data : List Byte) : W :=
  match Tab.get w.dev.strms i with
  | some s => w.logRec kind (strmDie i) s.tag (mkHandle 2 s.gen i) unit addr data
  | none => w

/-- The number of the generation that runs: a full shadow slot has counted one more (R222, R223). -/
def Strm.runGen (s : Strm) : Nat := (s.sgen + 2 ^ 32 - b2n s.shadow.isSome) % 2 ^ 32

/-- A stream's FULL objects no longer bound to it (R292). -/
def W.unbind (w : W) (i : Nat) : W :=
  w.onDev fun d => { d with syncs := d.syncs.map fun (k, s) => (k, { s with boundBy := s.boundBy.filter (· != i) }) }

/-- A stream's FULL objects bound to it (R292), with the members' measures at their start. -/
def W.bindFull (w : W) (i : Nat) : W :=
  match Tab.get w.dev.strms i with
  | some s =>
    let w := s.fullObjs.foldl (fun w o => w.onSync o fun y => { y with boundBy := y.boundBy.filter (· != i) ++ [i] }) w
    w.onStrm i fun s => { s with members := s.fullObjs.map fun o =>
      let waits := ((Tab.get w.dev.syncs o).map fun y => y.takers.any fun t => match t.1 with
        | .task _ _ => true
        | _ => false).getD false
      { obj := o, waitStart := if waits then some w.dev.clk.now else none } }
  | none => w

/-- A generation starts (R222, R224). -/
def W.startGen (w : W) (i : Nat) (a : Arm) : W :=
  (w.onStrm i fun s =>
    { s with
      state := 2, arm := some a, shadow := none, burst := [], nextFetch := a.start, running := none, nextTile := 0
      lookPrev := s.look, look := 0, tiles := [], g0 := w.dev.clk.now, tDesc := w.dev.clk.now, lastPut := w.dev.clk.now
      srcGot := 0, dstGot := 0, bounded := true, boundLost := false, started := 0, tilesDone := 0
      endEntry := a.start, endTile := 0, lateRec := false, stop := none, ranges := [] }).bindFull i

/-- Whether the generation has no tile left to start (R224, R226). -/
def Strm.exhausted (s : Strm) : Bool :=
  match s.arm, s.running with
  | some a, some (x, _, _) => x.rep ≤ s.nextTile && x.entry + 1 = a.count && (!a.loop || s.shadow.isSome)
  | some _, none => false
  | none, _ => true

/-- The end of a generation whose last write has been acknowledged: the shadow generation starts, or the stream enters IDLE
(R224, R226). -/
def W.endGen (w : W) (i : Nat) : W :=
  match Tab.get w.dev.strms i with
  | some s =>
    if (s.state = 2 || s.state = 3) && s.stop.isNone && s.exhausted && s.tiles.isEmpty && s.ops.isEmpty then
      match s.shadow with
      | some a => w.startGen i a
      | none => (w.unbind i).onStrm i fun s => { s with state := 1, running := none, members := [], ranges := [] }
    else w
  | none => w

/-- The 16 bytes of a stop's reply (R227). -/
def Strm.stopReply (s : Strm) : List Byte := toLe 4 s.sgen ++ toLe 4 s.endEntry ++ toLe 4 s.endTile ++ zeros 4

/-- A requested stop that has nothing left to complete: the stream is IDLE, and its STRM_STOP completes (R227). -/
def W.finishStop (w : W) (i : Nat) : W :=
  match Tab.get w.dev.strms i with
  | some s =>
    match s.stop with
    | some mode =>
      if s.ops.isEmpty && (mode = 1 || s.tiles.isEmpty) && s.state != 6 then
        ((w.unbind i).onStrm i fun s =>
          { s with
            state := 1, stop := none, tiles := [], burst := [], running := none, shadow := none, members := [], ranges := []
            haltVa := 0, haltEntry := 0 }).completeAll
          (fun p => p.wait = .strmStop i) 0 0 s.stopReply
      else w
    | none => w
  | none => w

/-- Whether a tile has issued no operation, so that a stop gives back what the engine took for it (R227). -/
def Tile.unstarted (t : Tile) : Bool := !t.issued && !t.void

/-- The amounts taken for tiles that are not started given back (R227). -/
def W.giveBack (w : W) (i : Nat) : W :=
  match Tab.get w.dev.strms i with
  | some s =>
    let n := (s.tiles.filter Tile.unstarted).length
    let src := n + b2n (s.srcGot = 2)
    let dst := (n + b2n (s.dstGot = 2)) * s.m
    let w := w.onStrm i fun s =>
      { s with
        tiles := s.tiles.filter fun t => !t.unstarted
        slot := if s.look = 0 then s.slot else (s.slot + s.look * n - n) % s.look
        srcGot := 0, dstGot := 0 }
    let w := if s.srcSkein && src != 0 && w.dev.syncLive s.srcFull then
        w.issueSync (strmDie i) (hIdx s.srcFull) (.add src) (.stream i 0) else w
    if s.dstSkein && dst != 0 && w.dev.syncLive s.dstEmpty then
      w.issueSync (strmDie i) (hIdx s.dstEmpty) (.add dst) (.stream i 1) else w
  | none => w

/-- A stop of an armed stream (R227): mode 0 completes the started tiles, mode 1 and a stop of a HALTED stream issue no further
operation. -/
def W.stopStrm (w : W) (i mode : Nat) : W :=
  match Tab.get w.dev.strms i with
  | some s =>
    if s.state = 2 || s.state = 3 || s.state = 4 then
      let w := ((w.unwait (.stream i 0)).unwait (.stream i 1)).giveBack i
      let m := if s.state = 4 || s.stop = some 1 then 1 else mode
      let w := w.onStrm i fun s => { s with shadow := none, stop := some m, state := if s.state = 3 then 2 else s.state }
      let w := if s.state = 4 then w.completeAll (fun p => p.wait = .strmResume i) 0 0 [] else w
      w.finishStop i
    else w
  | none => w

/-- The entry of a stream to FAULTED (R232), the frog of its graph's stage apart: it issues no further operation, signals nothing,
empties its shadow slot; a STRM_STOP that pends completes with FAULTED, a STRM_RESUME with OK. -/
def W.faultStrm (w : W) (i : Nat) : W :=
  match Tab.get w.dev.strms i with
  | some s =>
    if s.state = 6 then w
    else
      let w := ((w.unwait (.stream i 0)).unwait (.stream i 1)).unbind i
      let w := w.onStrm i fun s =>
        { s with state := 6, shadow := none, stop := none, srcGot := 0, dstGot := 0, haltVa := 0, haltEntry := 0, members := [],
                 ranges := [] }
      (w.completeAll (fun p => p.wait = .strmStop i) 0x0B ((w.nextLogSeq - 1) % 2 ^ 32) []).completeAll
        (fun p => p.wait = .strmResume i) 0 0 []
  | none => w

/-- A stream removed, with its waits and bindings (R65, R66). -/
def W.dropStrm (w : W) (i : Nat) : W :=
  (((w.unwait (.stream i 0)).unwait (.stream i 1)).unbind i).onDev fun d => { d with strms := Tab.del d.strms i }

end Sys2Proof.Machine
end

