-- ==== Sys2Proof/Machine/EngBase.lean ====
section
/-! DEFINITION. Work queues of the engine classes (R301 to R313): completion records, the end of an item, abort. -/

namespace Sys2Proof.Machine

/-- Code of an engine class (Table 15.2). -/
def classCode : EngClass → Nat
  | .parse => 0 | .cmp => 1 | .join => 2 | .oma => 3 | .sort => 4 | .emb => 5

/-- Key of a queue in the table of queues. -/
def queueKey (die cls q : Nat) : Nat := die * 64 + cls * 8 + q

/-- A queue of the device; one never written holds its reset values. -/
def Dev.queue (d : Dev) (key : Nat) : EngQ := Tab.getD d.queues key {}

/-- A change of a queue. -/
def W.onQueue (w : W) (key : Nat) (f : EngQ → EngQ) : W :=
  w.onDev fun d => { d with queues := Tab.upd d.queues key {} f }

/-- DONE_SYNC of an item (Table 9.2). -/
def Item.doneSync (i : Item) : Nat := fld i.desc 4 4

/-- STATUS_VA of an item. -/
def Item.statusVa (i : Item) : Nat := fld i.desc 0x28 8

/-- The completion record of Table 9.3, with the engine time given. -/
def Item.record (i : Item) (busy : Nat) : List Byte :=
  toLe 1 i.status ++ toLe 1 i.reason ++ toLe 1 i.flags ++ zeros 1 ++ toLe 4 i.seq ++ toLe 8 i.inUsed ++ toLe 8 i.outDone
    ++ toLe 8 i.rejected ++ toLe 8 i.check ++ toLe 8 i.checkExp ++ toLe 8 i.errOff ++ toLe 4 busy ++ zeros 4

/-- An ENG_FAULT record of a queue (R306, R310). -/
def W.engFault (w : W) (key handle addr : Nat) : W :=
  w.logRec 0x0009 (key / 64) (w.dev.queue key).job handle (key % 8) addr []

/-- The completion record written (R310): none for STATUS_VA 0 or misaligned; left out with a record of kind ENG_FAULT on a page
that is unmapped or lacks W; answers the address of a page that is not present, where the record must wait. BUSY_NS is a matter
of time: a free value (DESIGN CHOICE, log entry 18). -/
def W.writeRecord (w : W) (key : Nat) (i : Item) : W × Option Nat :=
  let va := i.statusVa
  if va = 0 || va % 64 != 0 then (w, none)
  else match w.dev.access va false true with
    | .ok p =>
      let (b, w) := w.free
      ((w.put p (i.record (b % 2 ^ 32))).touch va, none)
    | .away b k => (w.pageIn b k, some va)
    | _ => (w.engFault key 0 va, none)

/-- An item of a queue replaced. -/
def W.setItem (w : W) (key : Nat) (i : Item) : W :=
  w.onQueue key fun q => { q with items := q.items.map fun x => if x.no = i.no then i else x }

/-- The signals of a queue's items that have written their records, in queue order (R305): DONE_SYNC takes an ADD of 1, a dead one
a record of kind ENG_FAULT (R310). -/
def signalItems (w : W) (key : Nat) : List Item → W
  | [] => w.onQueue key fun q => { q with items := [] }
  | i :: rest =>
    if i.st = 2 then
      let w :=
        if i.doneSync = 0 then w
        else if w.dev.syncLive i.doneSync then
          w.issueSync (key / 64) (hIdx i.doneSync) (.add 1) (.cmd 0x10000 key)
        else w.engFault key i.doneSync 0
      signalItems w key rest
    else w.onQueue key fun q => { q with items := i :: rest }

/-- The items of a queue that may signal do so. -/
def W.signalQueue (w : W) (key : Nat) : W := signalItems w key (w.dev.queue key).items

/-- First register of an engine class on a die (R338, R369, R391, R411, R438). -/
def engBase (die cls : Nat) : Nat :=
  0x1000000 * (die + 1) + [0x608000, 0x604000, 0x400000, 0x500000, 0x600000, 0x300200].getD cls 0

/-- A counter of an engine sub-block, by register address, increased; it stops at its greatest value. -/
def W.engCount (w : W) (addr n : Nat) : W :=
  w.onDev fun d => { d with engCnt := Tab.upd d.engCnt addr 0 fun v => satAdd 32 v n }

/-- A 64-bit counter of an engine sub-block, by the address of its low word, increased; it wraps. -/
def W.engCount64 (w : W) (addr n : Nat) : W :=
  w.onDev fun d => { d with engCnt := Tab.upd d.engCnt addr 0 fun v => (v + n) % 2 ^ 64 }

/-- A completed item counted in its class's registers (Tables 9.15, 10.9, 11.9, 12.4, 13.9). -/
def W.countItem (w : W) (key : Nat) (i : Item) : W :=
  let cls := key % 64 / 8
  let b := engBase (key / 64) cls
  let w := (w.engCount (b + 4) 1).engCount (b + 8) (b2n (i.status != 0))
  if cls < 2 then
    ((w.engCount (b + 0xC) (if cls = 0 then i.rejected else b2n (i.status = 0x0E))).engCount64 (b + 0x10) i.inUsed).engCount64
      (b + 0x18) i.outBytes
  else w

/-- An item that has ended writes its record and, in its turn, signals (R310, R305). -/
def W.completeItem (w : W) (key : Nat) (i : Item) : W :=
  let (w, wait) := w.writeRecord key i
  match wait with
  | some va => w.setItem key { i with st := 3, va := va }
  | none => ((w.countItem key i).setItem key { i with st := 2 }).signalQueue key

/-- Every item of a queue in flight ends ABORTED with its record and without a signal, its optimizer steps dropped, an array under LOAD
emptied (R377); Q_EN is cleared (R312, R488). An item that has written its record keeps it. -/
def W.abortQueue (w : W) (key : Nat) : W :=
  let q := w.dev.queue key
  let w := q.items.foldl (fun w i =>
    if i.st = 2 then w
    else
      let i := { i with status := 0x0D, reason := 0x0E, flags := 0, inUsed := 0, outDone := 0, outBytes := 0, rejected := 0,
                        check := 0, checkExp := 0, errOff := 0 }
      (w.writeRecord key i).1.countItem key i) w
  let w := if key % 64 / 8 = 3 && q.items.any (fun i => i.st != 2 && fld i.desc 0 1 = 0x30) then
      w.onDev fun d => { d with omas := Tab.mod d.omas (key / 64 * 2 + key % 8 / 4) fun a => { a with entries := [], shift := false } }
    else w
  let w := w.onDev fun d =>
    { d with ruus := d.ruus.map fun (s, r) => (s, { r with steps := r.steps.filter fun x => x.key != key }) }
  w.onQueue key fun q => { q with en := false, items := [] }

end Sys2Proof.Machine
end

