-- ==== Sys2Proof/Machine/FeedBase.lean ====
section
/-! DEFINITION. The feed service's operations (chapter 14): the feed area, the ledger, batches, placement, abort. -/

namespace Sys2Proof.Machine

/-- A change of one feed, where it lives. -/
def W.onFeed (w : W) (i : Nat) (f : Feed → Feed) : W := { w with dev := { w.dev with feeds := Tab.mod w.dev.feeds i f } }

/-- A change of the counters of Table 14.8. -/
def W.onFeedCnt (w : W) (f : FeedCnt → FeedCnt) : W := w.onDev fun d => { d with feedCnt := f d.feedCnt }

/-- Dies of DIE_MASK, ascending. -/
def maskDies (mask : Nat) : List Nat := (List.range 4).filter fun d => bit mask d

/-- P, the positions of a batch (R441). -/
def Feed.positions (f : Feed) : Nat := f.batch + f.lateSlots

/-- Bytes of the mask of a batch. -/
def Feed.maskBytes (f : Feed) : Nat := alignUp (ceilDiv f.positions 8) 64

/-- Bytes of the identifiers of a batch. -/
def Feed.idBytes (f : Feed) : Nat := alignUp (8 * f.positions) 64

/-- BATCH_BYTES (R441). -/
def Feed.batchBytes (f : Feed) : Nat := 64 + f.maskBytes + f.idBytes + f.positions * f.rowBytes

/-- The sections of the feed area (R441): offset of each, and the end. A section is named by die × 4 plus 0 intake, 1 mailboxes,
2 posts; 16 the ledger, 17 the batch ring. -/
def Feed.sections (f : Feed) : Tab Nat × Nat :=
  let lanes := (f.decodeSlots + f.slowMax) * 32
  let parts := (maskDies f.dieMask).flatMap fun d => [(d * 4, f.intakeSlots * 32), (d * 4 + 1, lanes), (d * 4 + 2, lanes)]
  (parts ++ [(16, f.ledgerCap * 32), (17, f.qdepth * f.batchBytes)]).foldl (fun (t, e) (k, n) =>
    let a := alignUp e 4096
    (Tab.put t k a, a + n)) ([], 0)

/-- Offset of a section of the feed area. -/
def Feed.off (f : Feed) (k : Nat) : Nat := Tab.getD f.sections.1 k 0

/-- Base address of the feed area. -/
def Dev.feedArea (d : Dev) (f : Feed) : Nat := ((Tab.get d.bufs (hIdx f.buf)).map Buf.base).getD 0

/-- Global SYNC index of object k of a feed's run on a die (R442). -/
def Feed.obj (f : Feed) (die k : Nat) : Nat := 2048 * die + Tab.getD f.base die 0 + k

/-- The trigger of lane task t of a die. -/
def Feed.trigger (f : Feed) (die t : Nat) : Nat := f.obj die (3 + t)

/-- Address of batch seq in the batch ring (R450). -/
def Dev.batchVa (d : Dev) (f : Feed) (seq : Nat) : Nat := d.feedArea f + f.off 17 + (seq - 1) % f.qdepth * f.batchBytes

/-- Ledger records that open batches and unresolved samples still hold in reserve (R466): a batch its CLOSED and DELIVERED, a
sample its SLOWED, its PLACED or DROPPED and, until its batch closes, the DROPPED of an abort. -/
def Feed.reserve (f : Feed) : Nat :=
  (f.samples.map fun s => if s.dropped then 0 else if s.slow then 2 else 3).sum
    + (f.batches.map fun b => if b.st = 0 then 2 + (b.taken.filter fun t => t.2.isSome).length else 1).sum

/-- Free ledger records. -/
def Feed.ledgerRoom (f : Feed) : Nat := f.ledgerCap - (f.ledgerNext - f.ledgerOld) - f.reserve

/-- A ledger record (Table 14.6) written; one that finds the ring full drops the oldest (DESIGN CHOICE, log entry 19). -/
def W.ledger (w : W) (i kind reason pos die seq sample : Nat) : W :=
  match Tab.get w.dev.feeds i with
  | some f =>
    let rec' := toLe 1 kind ++ toLe 1 reason ++ toLe 2 pos ++ toLe 2 die ++ zeros 2 ++ toLe 8 seq ++ toLe 8 sample
      ++ toLe 8 w.dev.clk.now
    (w.writeVa (w.dev.feedArea f + f.off 16 + f.ledgerNext % f.ledgerCap * 32) rec').onFeed i fun f =>
      { f with ledgerNext := f.ledgerNext + 1, ledgerOld := max f.ledgerOld (f.ledgerNext + 1 - f.ledgerCap) }
  | none => w

/-- A change of batch seq of a feed. -/
def W.onBatch (w : W) (i seq : Nat) (g : Batch → Batch) : W :=
  w.onFeed i fun f => { f with batches := f.batches.map fun b => if b.seq = seq then g b else b }

/-- A change of the sample with an admission number. -/
def W.onSample (w : W) (i no : Nat) (g : Sample → Sample) : W :=
  w.onFeed i fun f => { f with samples := f.samples.map fun s => if s.no = no then g s else s }

/-- A sample removed: its lane task is free. -/
def W.dropSample (w : W) (i no : Nat) : W := w.onFeed i fun f => { f with samples := f.samples.filter fun s => s.no != no }

/-- The lowest-numbered batch not yet closed, that is open (R451). -/
def Feed.openBatch (f : Feed) : Option Batch := f.batches.find? fun b => b.st = 0

/-- Whether the next batch may open (R450, R466): its slot has been delivered and the ledger has 2 records. -/
def Feed.canOpen (f : Feed) : Bool :=
  (f.batches.all fun b => f.nextSeq < b.seq + f.qdepth) && 2 ≤ f.ledgerRoom && !f.faulted

/-- The next batch opens. -/
def W.openNext (w : W) (i : Nat) : W :=
  w.onFeed i fun f =>
    { f with batches := f.batches ++ [{ seq := f.nextSeq, openTime := w.dev.clk.now }], nextSeq := f.nextSeq + 1 }

/-- Batches open until none is wanted or none may: one open batch under ARRIVAL, every batch up to `upto` under ORDERED. -/
def openUpTo (w : W) (i upto : Nat) : Nat → W
  | 0 => w
  | fuel + 1 =>
    match Tab.get w.dev.feeds i with
    | some f =>
      if (if f.cfg.mode = 0 then f.openBatch.isNone else f.nextSeq ≤ upto) && f.canOpen then openUpTo (w.openNext i) i upto fuel
      else w
    | none => w

/-- The ordered positions of a batch that are resolved (R452): filled, emptied or vacated. -/
def Batch.resolved (b : Batch) (p : Nat) : Bool := b.empty.contains p || (Tab.getD b.taken p none).isSome

/-- A batch whose positions are complete (R451, R452). -/
def Feed.complete (f : Feed) (b : Batch) : Bool := (List.range f.batch).all b.resolved

/-- The bytes of a batch header (Table 14.5). -/
def Feed.header (f : Feed) (handle : Nat) (b : Batch) (low : Bool) : List Byte :=
  toLe 4 0x42465653 ++ toLe 1 1 ++ toLe 1 b.cause ++ toLe 1 (b2n low + 2 * b2n (f.cfg.mode = 1)) ++ zeros 1 ++ toLe 4 handle
    ++ toLe 4 f.positions ++ toLe 8 b.seq ++ toLe 4 (b.taken.filter fun t => t.2.isSome).length ++ toLe 4 f.rowBytes
    ++ toLe 8 b.ledgerNo ++ toLe 8 b.openTime ++ toLe 8 b.closeTime ++ zeros 8

/-- FILL repeated over a row. -/
def Feed.fillRow (f : Feed) : List Byte := (List.range (f.rowBytes / 8)).flatMap fun _ => toLe 8 f.fill

/-- An open batch closes (R450, R451, R464): its CLOSED record, its mask, identifiers, empty rows and header. -/
def W.closeBatch (w : W) (i seq cause : Nat) : W :=
  match Tab.get w.dev.feeds i with
  | some f =>
    match f.batches.find? fun b => b.seq = seq && b.st = 0 with
    | some b =>
      let valid := (b.taken.filter fun t => t.2.isSome).length
      let b := { b with st := 1, cause := cause, closeTime := w.dev.clk.now, ledgerNo := f.ledgerNext }
      let w := (w.ledger i 4 cause valid 0xFFFF seq 0).onBatch i seq fun _ => b
      let va := w.dev.batchVa f seq
      let has := fun p => (Tab.getD b.taken p none).isSome
      let mask := (List.range (ceilDiv f.positions 8)).map fun k =>
        BitVec.ofNat 8 ((List.range 8).map fun j => if has (8 * k + j) then 2 ^ j else 0).sum
      let ids := (List.range f.positions).flatMap fun p =>
        toLe 8 (((Tab.getD b.taken p none).map Prod.fst).getD (2 ^ 64 - 1))
      let w := w.writeVa va (f.header (w.dev.handleOf 7 i) b false ++ padTo f.maskBytes mask ++ padTo f.idBytes ids)
      ((List.range f.positions).filter fun p => !has p).foldl (fun w p =>
        w.writeVa (va + 64 + f.maskBytes + f.idBytes + p * f.rowBytes) f.fillRow) w
    | none => w
  | none => w

/-- The prepared count (R459): closed batches whose delivery has not begun. -/
def Feed.prepared (f : Feed) : Nat := (f.batches.filter fun b => b.st = 1).length

/-- The alarm arms when the prepared count first reaches LOW_WATER, and clears when it reaches it again (R459). -/
def W.armAlarm (w : W) (i : Nat) : W :=
  w.onFeed i fun f =>
    if f.cfg.lowWater != 0 && f.cfg.lowWater ≤ f.prepared then { f with armed := true, alarm := false } else f

/-- The position that a READY sample takes now (R451, R452, R456). -/
def Feed.placeFor (f : Feed) (s : Sample) : Option (Nat × Nat) :=
  let free := fun (b : Batch) (lo n : Nat) => (List.range n).findSome? fun k =>
    if (Tab.get b.taken (lo + k)).isNone then some (lo + k) else none
  if f.cfg.mode = 0 then (f.openBatch).bind fun b => (free b 0 f.batch).map fun p => (b.seq, p)
  else if s.slow then
    (f.batches.filter fun b => b.st = 0).findSome? fun b => (free b f.batch f.lateSlots).map fun p => (b.seq, p)
  else s.place

/-- READY samples that wait take positions, in the order of their posts. -/
def placeWaiting (w : W) (i : Nat) : List Nat → W
  | [] => w
  | no :: rest =>
    match (Tab.get w.dev.feeds i).bind fun f => (f.samples.find? fun s => s.no = no).map fun s => (f, s) with
    | some (f, s) =>
      if s.row.isSome && !s.copying then
        match f.placeFor s with
        | some (seq, p) =>
          placeWaiting ((w.onSample i no fun s => { s with place := some (seq, p), copying := true }).onBatch i seq fun b =>
            { b with taken := Tab.put b.taken p none }) i rest
        | none => placeWaiting w i rest
      else placeWaiting w i rest
    | none => placeWaiting w i rest

/-- A feed comes to rest after an event: complete batches close FULL (BATCH_CLOSE, R451, R452), the next opens, waiting samples take
positions; a drained feed closes its open batch (R467). -/
def W.settleFeed (w : W) (i : Nat) : W :=
  match Tab.get w.dev.feeds i with
  | some f =>
    let w := ((f.batches.filter fun b => b.st = 0 && f.complete b).map Batch.seq).foldl (fun w seq => w.closeBatch i seq 0x10) w
    let w := if f.cfg.mode = 0 && !f.batches.isEmpty then openUpTo w i 0 1 else w
    let w := match Tab.get w.dev.feeds i with
      | some f => placeWaiting w i (f.samples.map Sample.no)
      | none => w
    let w := match Tab.get w.dev.feeds i with
      | some f =>
        if f.draining && f.samples.isEmpty then
          ((f.batches.filter fun (b : Batch) => b.st = 0 && b.taken.any fun t => t.2.isSome).map Batch.seq).foldl
            (fun (w : W) seq => w.closeBatch i seq 0x11) w
        else w
      | none => w
    w.armAlarm i
  | none => w

/-- The batch that the ledger names for a sample (Table 14.6): its own, or under ARRIVAL the open one. -/
def Feed.batchOf (f : Feed) (s : Sample) : Nat :=
  if f.cfg.mode = 1 then s.ord / f.batch + 1
  else ((s.place.map Prod.fst).orElse fun _ => f.openBatch.map Batch.seq).getD f.nextSeq

/-- The position that the ledger names for a sample that is dropped: its ordered position, where it has one. -/
def Feed.posOf (f : Feed) (s : Sample) : Nat := if f.cfg.mode = 1 && !s.slow then s.ord % f.batch else 0xFFFF

/-- A sample dropped with a reason (R464): recorded; its ordered position stays empty (R452, R457); a position it had taken under
ARRIVAL or in the late positions is free again. -/
def W.recordDrop (w : W) (i : Nat) (s : Sample) (reason : Nat) : W :=
  match Tab.get w.dev.feeds i with
  | some f =>
    let w := (w.ledger i 2 reason (f.posOf s) s.die (f.batchOf s) s.id).onFeed i fun f => { f with drops := f.drops + 1 }
    let w := match s.place with
      | some (seq, p) => if s.copying then w.onBatch i seq fun b => { b with taken := Tab.del b.taken p } else w
      | none => w
    if f.cfg.mode = 1 && !s.slow then
      w.onBatch i (s.ord / f.batch + 1) fun b => { b with empty := b.empty ++ [s.ord % f.batch] }
    else w
  | none => w

/-- The dispatch record of a sample's next step in a lane task's mailbox, and the task's trigger (R447, R448, Table 14.4). -/
def W.dispatchStep (w : W) (i : Nat) (s : Sample) : W :=
  match Tab.get w.dev.feeds i with
  | some f =>
    let va := w.dev.feedArea f + f.off (4 * s.die + 1) + 32 * s.lane
    (w.writeVa va (toLe 1 1 ++ zeros 3 ++ toLe 4 s.steps ++ toLe 8 s.id ++ toLe 8 s.arg ++ toLe 8 s.ord)).syncOp
      (f.trigger s.die s.lane) (.add 1)
  | none => w

/-- A feed whose producing stage is frogged (R468): unresolved samples and those placed in open batches are recorded DROPPED,
ABORTED; each open batch is recorded CLOSED, 0x12, and its number is never delivered. -/
def W.abortFeed (w : W) (i : Nat) : W :=
  match Tab.get w.dev.feeds i with
  | some f =>
    let w := (f.samples.filter fun s => !s.dropped).foldl (fun w s =>
      w.ledger i 2 3 (f.posOf s) s.die (f.batchOf s) s.id) w
    let opens := f.batches.filter fun b => b.st = 0
    let w := opens.foldl (fun w b =>
      let w := b.taken.foldl (fun w (p, t) => match t with
        | some (id, die) => w.ledger i 2 3 p die b.seq id
        | none => w) w
      w.ledger i 4 0x12 0 0xFFFF b.seq 0) w
    w.onFeed i fun f =>
      { f with
        samples := [], flushes := [], batches := f.batches.filter fun b => b.st != 0
        drops := f.drops + (f.samples.filter fun s => !s.dropped).length + (opens.map fun b => (b.taken.filter fun t => t.2.isSome).length).sum }
  | none => w

end Sys2Proof.Machine
end

