-- ==== Sys2Proof/Machine/GraphOps.lean ====
section
/-! DEFINITION. Loaded graphs (chapter 15): loading tasks into slots, starting and ending stages, frogs, destruction; and what they
do to the device state. -/

namespace Sys2Proof.Machine

/-- A task slot made FREE (R486, R488): it leaves its core, its ready list, the delay list and the waits. -/
def W.freeSlot (w : W) (key : Nat) : W :=
  let die := key / 4096
  let k := key % 4096
  match Tab.get w.dev.slots key with
  | some s =>
    let w := (w.leaveDelay die k).unwait (.task die k)
    let w := w.onDev fun d =>
      { d with
        slots := Tab.del d.slots key
        ready := Tab.mod d.ready (readyKey s.rec'.core s.rec'.prio) fun l => l.filter (· != k) }
    if (w.dev.core s.rec'.core).run = some k then w.onCore s.rec'.core fun c => { c with run := none } else w
  | none => w

/-- The slot of a task record. -/
def TaskRec.key (t : TaskRec) : Nat := slotKey (dieOfCore t.core) t.slot

/-- The task records of stage s of a graph. -/
def Graph.stageTasks (g : Graph) (s : Nat) : List TaskRec :=
  match g.stages[s]? with
  | some st => (g.tasks.drop st.firstTask).take st.nTask
  | none => []

/-- NEXT of a stage. -/
def Graph.next (g : Graph) (s : Nat) : Nat := ((g.stages[s]?).map GStage.next).getD 0xFFFF

/-- The STREAM records that are armed when stage s starts (R485). -/
def Graph.armedAt (g : Graph) (s : Nat) : List GStrm :=
  g.strms.filter fun r => (r.armAt = 0 && r.stage = s) || (r.armAt = 1 && r.stage = g.next s)

/-- The graph that owns a stream, by creation or re-arming. -/
def Graph.uses (g : Graph) (strm : Nat) : Bool := g.strms.any fun r => r.strm = strm

/-- Scalar registers at the start of run r of a task (R275). -/
def startRegs (t : TaskRec) (r : Nat) : List DWord := setReg (setReg (List.replicate 32 0) 1 t.arg) 2 r

/-- A task's wait registers on an object (R275, R277, R286), and the stream engine learns of a wait that lasts (R292). -/
def W.taskWait (w : W) (die slot obj : Nat) (op : SyncOp) : W :=
  let w := w.onSlot (slotKey die slot) fun s => { s with st := .wait, obj := some obj }
  let w := w.issueSync die obj op (.task die slot)
  match Tab.get w.dev.slots (slotKey die slot) with
  | some s => if s.st = .wait then w.noteWait obj else w
  | none => w

/-- Run r of a task begins: it waits for its trigger, or enters READY (R275). -/
def W.beginRun (w : W) (key r : Nat) : W :=
  match Tab.get w.dev.slots key with
  | some s =>
    let t := s.rec'
    let w := w.onSlot key fun s => { s with run := r, sregs := startRegs t r, pc := t.entry }
    let die := dieOfCore t.core
    if t.trig = 0 then w.joinReady die t.slot
    else if !w.dev.syncLive t.trig then w.onSlot key fun s => { s with st := .wait, obj := some (hIdx t.trig) }
    else if t.trigReach then w.taskWait die t.slot (hIdx t.trig) (.reach (.task die t.slot) ((r + 1) * t.trigAmt))
    else w.taskWait die t.slot (hIdx t.trig) (.take (.task die t.slot) t.trigAmt)
  | none => w

/-- A task loaded into its slot (R485 step 3). -/
def W.loadTask (w : W) (graph : Nat) (t : TaskRec) : W :=
  ((w.freeSlot t.key).onDev fun d =>
    { d with slots := Tab.put d.slots t.key { st := .wait, rec' := t, graph := graph } }).beginRun t.key 0

/-- The device leaves RUNNING or DRAINING when no graph is left running (Table 2.6); DEVICE_DRAIN then completes (R79). -/
def W.deviceIdle (w : W) : W :=
  if (w.dev.hub.st = .running || w.dev.hub.st = .draining) && w.dev.graphs.all fun (_, g) => g.state != 2 && g.state != 5 then
    (w.setState .ready).completeAll (fun p => p.wait = .drain) 0 0 []
  else w

/-- Commands PENDING on an object (R44). -/
def pendsOn (h : Nat) (p : PendCmd) : Bool := p.hdr.target.toNat = h

/-- The run of a graph is over: it is IDLE, its queues are disabled, its GRAPH_DRAIN completes (R486, R487). -/
def W.endRun (w : W) (i : Nat) : W :=
  match Tab.get w.dev.graphs i with
  | some g =>
    let w := g.queues.foldl (fun w q => w.onQueue (queueKey q.die (classCode q.cls) q.queue) fun e => { e with en := false }) w
    ((w.onGraph i fun g => { g with state := 1, ending := false, startNext := none }).completeAll
      (fun p => p.wait = .graphDrain i) 0 0 []).deviceIdle
  | none => w

/-- A frog of the current stage of a graph (R488), with its reason, and the detail with which its PENDING commands are ABORTED. -/
def W.frog (w : W) (i reason detail : Nat) : W :=
  match Tab.get w.dev.graphs i with
  | some g =>
    if g.state != 2 && g.state != 5 then w
    else
      let w := ((w.dev.slots.filter fun (_, s) => s.graph = i).map Prod.fst).foldl W.freeSlot w
      let w := (g.armedAt g.stage).foldl (fun w r => w.stopStrm r.strm 1) w
      let w := g.queues.foldl (fun w q => w.abortQueue (queueKey q.die (classCode q.cls) q.queue)) w
      let w := ((g.feeds.map GFeed.feed).eraseDups).foldl W.abortFeed w
      let w := w.onGraph i fun g =>
        { g with
          state := 1, ending := false, startNext := none, frogReason := reason, frogStage := g.stage, frogs := satAdd 32 g.frogs 1 }
      (w.completeAll (pendsOn (mkHandle 4 g.gen i)) 0x0D detail []).deviceIdle
  | none => w

/-- Whether a stop of the stage's streams that nothing re-arms has completed, and every slot of the graph is FREE (R486). -/
def Dev.stageClear (d : Dev) (i : Nat) (g : Graph) : Bool :=
  (d.slots.all fun (_, s) => s.graph != i) && (g.armedAt g.stage).all fun r =>
    match Tab.get d.strms r.strm with
    | some s => s.stop.isNone
    | none => true

/-- The end of a stage (R486): the slots that do not run are freed, and streams that no record of NEXT re-arms are stopped. -/
def W.endStage (w : W) (i : Nat) : W :=
  match Tab.get w.dev.graphs i with
  | some g =>
    let keys := (w.dev.slots.filter fun (_, s) => s.graph = i && s.st != .run).map Prod.fst
    let w := keys.foldl W.freeSlot w
    let next := g.next g.stage
    let again := fun n => (g.strms.filter fun r => r.stage = next).any fun r => r.strm = n
    let w := ((g.armedAt g.stage).filter fun r => !again r.strm).foldl (fun w r => w.stopStrm r.strm 0) w
    w.onGraph i fun g => { g with ending := true, stagesDone := g.stagesDone + 1 }
  | none => w

/-- What follows of a graph's state after an event: its stage ends when END_SYNC has reached END_VAL (STAGE_END, R486); once it is
clear the next stage may start, or the run ends when the items in flight have completed. -/
def W.tidyGraph (w : W) (i : Nat) : W :=
  match Tab.get w.dev.graphs i with
  | some g =>
    if g.state != 2 && g.state != 5 then w
    else
      let reached := match g.stages[g.stage]? with
        | some st => ((Tab.get w.dev.syncs st.endSync).map fun s => decide (st.endVal ≤ s.val)).getD false
        | none => false
      let w := if !g.ending && g.startNext.isNone && reached then w.endStage i else w
      match Tab.get w.dev.graphs i with
      | some g =>
        if g.ending && w.dev.stageClear i g then
          if g.next g.stage = 0xFFFF || g.state = 5 then
            if g.queues.all fun q => (w.dev.queue (queueKey q.die (classCode q.cls) q.queue)).items.isEmpty then w.endRun i else w
          else w.onGraph i fun g => { g with ending := false, startNext := some (g.next g.stage) }
        else w
      | none => w
  | none => w

/-- Every graph's state after an event. -/
def W.tidy (w : W) : W := (w.dev.graphs.map Prod.fst).foldl W.tidyGraph w

/-- A command after which the graphs' states follow. -/
def runT (s : State) (f : W → W) : Out := run s fun w => (f w).tidy

/-- Why an arm of a stream fails (R220, R223): FAULTED, a full shadow slot, a member FULL object that is not live. -/
def Dev.armFail (d : Dev) (i : Nat) : Option Fail :=
  match Tab.get d.strms i with
  | some s =>
    if s.state = 6 || s.stop.isSome then some ⟨0x06, d.conflictDetail s.state, []⟩
    else if s.shadow.isSome then some ⟨0x07, s.state * 65536, []⟩
    else if s.mcast != 0 && s.dstSkein && s.fullObjs.any fun o => (Tab.get d.syncs o).isNone then
      some ⟨0x06, d.conflictDetail s.state, []⟩
    else none
  | none => some ⟨0x05, 0x04, []⟩

/-- A stream armed: its generation starts, or its shadow slot fills (R222, R223). -/
def W.armStrm (w : W) (i : Nat) (a : Arm) : W :=
  match Tab.get w.dev.strms i with
  | some s =>
    let w := w.onStrm i fun s => { s with sgen := (s.sgen + 1) % 2 ^ 32 }
    if s.state = 1 then w.startGen i a
    else (w.onStrm i fun s => { s with shadow := some a, state := if s.state = 2 then 3 else s.state }).endGen i
  | none => w

/-- The arms of a stage in record order, until one fails. -/
def armAll (w : W) : List GStrm → W × Bool
  | [] => (w, true)
  | r :: rest =>
    match w.dev.armFail r.strm with
    | some _ => (w, false)
    | none => armAll (w.armStrm r.strm r.arm) rest

/-- The objects of a SYNC record set to INIT. -/
def W.initSync (w : W) (g : GSync) : W :=
  (List.range g.count).foldl (fun w k => w.syncOp (g.idx + k) (.set g.init)) w

/-- Stage s of a graph starts (R485): a failed arm frogs it with reason 0x06. -/
def W.startStage (w : W) (i s : Nat) : W :=
  match Tab.get w.dev.graphs i with
  | some g =>
    let w := w.onGraph i fun g => { g with stage := s, startNext := none, ending := false }
    let w := (g.syncs.filter fun y => y.resetStage = s).foldl W.initSync w
    let (w, ok) := armAll w (g.armedAt s)
    if ok then (g.stageTasks s).foldl (fun w t => w.loadTask i t) w else w.frog i 0x06 0x02
  | none => w

/-- A SYNC object removed. -/
def W.dropSync (w : W) (i : Nat) : W := w.onDev fun d => { d with syncs := Tab.del d.syncs i }

/-- The frames of a core that a claim covers. -/
def Claim.frames (c : Claim) : List Nat := (List.range (c.bytes / 0x10000)).map (c.off / 0x10000 + ·)

/-- A loaded graph destroyed (R491): the streams, SYNC objects and match sets of its load, its claims, slots, queues and feed
bindings; its TABLE handles remain. -/
def W.destroyGraph (w : W) (i : Nat) : W :=
  match Tab.get w.dev.graphs i with
  | some g =>
    let w := ((w.dev.slots.filter fun (_, s) => s.graph = i).map Prod.fst).foldl W.freeSlot w
    let w := (g.strms.filter GStrm.created).foldl (fun w r => w.dropStrm r.strm) w
    let w := g.syncs.foldl (fun w y => (List.range y.count).foldl (fun w k => w.dropSync (y.idx + k)) w) w
    let w := g.matchsets.foldl (fun w m => w.onDev fun d => { d with matchsets := Tab.del d.matchsets m }) w
    let w := (g.claims.filter fun c => c.core != 0xFF).foldl (fun w c =>
      w.onCore c.core fun k => { k with frames := c.frames.foldl Tab.del k.frames }) w
    let w := g.queues.foldl (fun w q => w.onQueue (queueKey q.die (classCode q.cls) q.queue) fun e => { e with en := false, job := 0 }) w
    w.onDev fun d => { d with graphs := Tab.del d.graphs i }
  | none => w

end Sys2Proof.Machine
end

