-- ==== Sys2Proof/Machine/Repair.lean ====
section
/-! DEFINITION. Errors of the memories (R119 to R126, R154 to R157, R561 to R573): corrected and uncorrectable lines, row repair,
granule retirement, SRAM errors, the retirement of cores and slices. -/

namespace Sys2Proof.Machine

/-- 24 hours in ns. -/
def dayNs : Nat := 86400000000000

/-- Spare rows of a pseudo-channel (DESIGN CHOICE, log entry 4). -/
def spareRows : Nat := 16

/-- Visible granules of a stack are those below this one (Table 4.1). -/
def firstReserved (s : Nat) : Nat := if s % 6 ≤ 1 then 142 else 143

/-- Pseudo-channel of an offset in a stack (R117). -/
def pseudoChannel (off : Nat) : Nat := off / 256 % 32

/-- Row of an offset in its pseudo-channel: rows of 1,024 bytes (DESIGN CHOICE, log entry 4). -/
def rowOf (off : Nat) : Nat := (off / 8192 * 256 + off % 256) / 1024

/-- Granule of an offset in a stack. -/
def granuleOf (off : Nat) : Nat := off / granuleBytes

/-- Retired granules of a stack. -/
def MemSys.retiredOf (m : MemSys) (s : Nat) : List Retired := m.retired.filter fun r => r.stack = s

/-- RETIRE_MAP of a stack journalled (Table 19.6). -/
def W.saveRetireMap (w : W) (s : Nat) : W :=
  let rs := sortBy (fun a b => a.granule ≤ b.granule) (w.dev.ms.retiredOf s)
  let map := toLe 18 (rs.foldl (fun m r => m + 2 ^ r.granule) 0)
  w.journal1 0x0011 s (map ++ rs.flatMap fun r => toLe 1 r.cause ++ toLe 4 r.boot)

/-- REPAIR_MAP of a stack journalled (Table 19.6): its last 32 repairs. -/
def W.saveRepairMap (w : W) (s : Nat) : W :=
  let rs := w.dev.ms.repairs.filter fun r => r.1 / 32 = s
  let last := rs.drop (rs.length - 32)
  w.journal1 0x0010 s (padTo 256 (last.flatMap fun (k, row, spare) => toLe 1 (k % 32) ++ toLe 3 row ++ toLe 2 spare ++ zeros 2))

/-- One mapped page of a retiring granule (R154 step 2, R155): it migrates to a free frame of its die, or, placed, to the tier; a
pinned page that finds no frame stays with every line poisoned. Answers whether the page stays. -/
def W.evacuate (w : W) (s g i k : Nat) : W × Bool :=
  match Tab.get w.dev.bufs i, w.dev.page i k with
  | some b, some p =>
    let die := dieOfStack s
    match w.dev.frameFor ((List.range 6).map (6 * die + ·)) b.page with
    | some f => (w.onMs fun m => { m with migs := m.migs ++ [⟨i, k, f, p.st, 0⟩] }, false)
    | none =>
      if p.st = .pinned then
        ((w.op (.mark p.phys b.page)).logRec 0x0013 die b.tag (mkHandle 3 b.gen i) (s * 256 + g) (b.base + k * b.page) [], true)
      else match w.dev.tierFrame with
        | some t => (w.onMs fun m => { m with migs := m.migs ++ [⟨i, k, t, tierState b.backing, 0⟩] }, false)
        | none => (w, true)
  | _, _ => (w, false)

/-- The mapped pages that lie in a granule. -/
def Dev.pagesIn (d : Dev) (s g : Nat) : List (Nat × Nat) :=
  let lo := hbmBase s + g * granuleBytes
  d.bufs.flatMap fun (i, b) =>
    (b.pages.zipIdx.filter fun (p, _) => p.held && lo ≤ p.phys && p.phys < lo + granuleBytes).map fun (_, k) => (i, k)

/-- The visible granule that replaces a reserved one (R156): the highest-numbered of the die, on its lowest stack. -/
def Dev.standIn (d : Dev) (die : Nat) : Option (Nat × Nat) :=
  ((List.range 144).reverse).findSome? fun g =>
    ((List.range 6).map (6 * die + ·)).findSome? fun s =>
      if g < firstReserved s && (d.ms.retired.all fun r => !(r.stack = s && r.granule = g)) then some (s, g) else none

/-- A visible granule retires (GRANULE_RETIRE, R154): it takes no more frames, its pages leave, it enters the retirement map. More
than 32 on one stack fail the stack (R573). -/
def W.retireVisible (w : W) (s g cause : Nat) : W :=
  if w.dev.ms.retired.any fun r => r.stack = s && r.granule = g then w
  else if 32 ≤ (w.dev.ms.retiredOf s).length then w.declareFailed 0x01 (dieOfStack s)
  else
    let w := w.onMs fun m => { m with retired := m.retired ++ [⟨s, g, cause, w.dev.store.frame.bootCount, false⟩] }
    let (w, stays) := (w.dev.pagesIn s g).foldl (fun (w, stays) (i, k) =>
      let (w, st) := w.evacuate s g i k
      (w, stays || st)) (w, false)
    let w := w.onMs fun m =>
      { m with retired := m.retired.map fun r => if r.stack = s && r.granule = g then { r with open' := stays } else r }
    (w.logRec 0x0012 (dieOfStack s) 0xFF 0 (s * 256 + g) 0 []).saveRetireMap s

/-- A granule retires; a reserved one is replaced by a visible granule of its die (R156). -/
def W.retireGranule (w : W) (s g : Nat) : W :=
  if g < firstReserved s then w.retireVisible s g 0x01
  else match w.dev.standIn (dieOfStack s) with
    | some (s', g') => w.retireVisible s' g' 0x02
    | none => w

/-- The row of a line is repaired (ROW_REPAIR, R122); without a spare row its granule retires (R123). -/
def W.repairRow (w : W) (s off : Nat) : W :=
  let key := 32 * s + pseudoChannel off
  let used := Tab.getD w.dev.ms.spareUsed key 0
  let w := w.onMs fun m => { m with rowCe := m.rowCe.filter fun e => !(e.1 = key && e.2.1 = rowOf off) }
  if used < spareRows then
    ((w.onMs fun m => { m with spareUsed := Tab.put m.spareUsed key (used + 1), repairs := m.repairs ++ [(key, rowOf off, used)] }).logRec
      0x0011 (dieOfStack s) 0xFF 0 key (hbmBase s + off) []).saveRepairMap s
  else w.retireGranule s (granuleOf off)

/-- An HBM line reported by its controller (R119, R120, R122, R573, Table 18.1). -/
def W.hbmLine (w : W) (s off : Nat) (corrected : Bool) : W :=
  let key := 32 * s + pseudoChannel off
  let now := w.dev.clk.mono
  let line := hbmBase s + off
  if corrected then
    let w := w.onMs fun m =>
      { m with
        ceCnt := Tab.upd m.ceCnt s 0 fun v => satAdd 32 v 1
        rowCe := (key, rowOf off, now) :: m.rowCe.filter fun e => now < e.2.2 + dayNs }
    if 3 ≤ (w.dev.ms.rowCe.filter fun e => e.1 = key && e.2.1 = rowOf off).length then w.repairRow s off else w
  else
    let w := w.onMs fun m =>
      { m with
        ueCnt := Tab.upd m.ueCnt s 0 fun v => satAdd 32 v 1
        ueTimes := (s, pseudoChannel off, now) :: m.ueTimes.filter fun e => now ≤ e.2.2 + 1000000000 }
    let w :=
      if granuleOf off < firstReserved s then (w.op (.mark line 64)).logRec 0x0010 (dieOfStack s) 0xFF 0 key line []
      else
        let (code, w) := w.free
        let seq := w.nextLogSeq
        (w.logRec 0x0041 (dieOfStack s) 0xFF 0 (code % 2 ^ 32) line []).enterFault 0 seq
    let pcs := ((w.dev.ms.ueTimes.filter fun e => e.1 = s).map fun e => e.2.1).eraseDups
    let w := if 8 ≤ pcs.length then w.declareFailed 0x01 (dieOfStack s) else w
    w.repairRow s off

/-- SPARE_CORE of a die journalled (Table 19.6): the physical core of each logical index, the retired and the marked maps. -/
def W.saveSpareCore (w : W) (die : Nat) : W :=
  let d := w.dev.die die
  w.journal1 0x0012 die (d.bind.flatMap (toLe 1) ++ toLe 9 d.coreRetired ++ toLe 9 d.coreMarked)

/-- Physical core of a logical core; 0xFF where none is bound (R17). -/
def Dev.physOfCore (d : Dev) (n : Nat) : Nat := (d.die (n / 64)).bind.getD (n % 64) 0xFF

/-- Logical core bound to physical core p of a die. -/
def Dev.coreOfPhys (d : Dev) (die p : Nat) : Option Nat :=
  ((d.die die).bind.findIdx? (· = p)).map (64 * die + ·)

/-- The running graphs that hold a task slot on a core. -/
def Dev.graphsOn (d : Dev) (n : Nat) : List Nat :=
  ((d.slots.filter fun (_, s) => s.rec'.core = n).map fun (_, s) => s.graph).eraseDups

/-- A core-fault record and the fault registers of a core (R243): kind, offset of the instruction, address. -/
def W.noteCoreFault (w : W) (n kind pc addr : Nat) : W :=
  let tag := match (w.dev.core n).run.bind fun k => Tab.get w.dev.slots (slotKey (n / 64) k) with
    | some s => ((Tab.get w.dev.graphs s.graph).map Graph.tag).getD 0xFF
    | none => 0xFF
  let h := match (w.dev.core n).run.bind fun k => Tab.get w.dev.slots (slotKey (n / 64) k) with
    | some s => w.dev.handleOf 4 s.graph
    | none => 0
  (w.onCore n fun c => { c with faultKind := kind, faultPc := pc, faultAddr := addr }).logRec 0x0008 (n / 64) tag h n addr
    (toLe 1 kind ++ toLe 4 pc)

/-- A logical core goes offline at once (R269): its running task ends with kind SRAM_UE, its stage is frogged; DEGRADED when its die has
no spare left; fewer than 56
working cores fail the die (R572). -/
def W.coreOffline (w : W) (n addr : Nat) : W :=
  let die := n / 64
  let w := if (w.dev.core n).run.isSome then w.noteCoreFault n 0x04 (w.dev.core n).pc addr else w
  let w := w.onCore n fun c => { c with offline := true }
  let w := (w.dev.graphsOn n).foldl (fun w i => w.frog i 0x05 0x02) w
  let w := w.onCore n fun c => { c with run := none }
  let w := if (w.dev.die die).spares = 0 then w.degrade 0 else w
  if (w.dev.die die).working < 56 then w.declareFailed 0x02 die else w

/-- A core fault (CORE_FAULT, R243): recorded; the task stops, and the stage of its graph is frogged. -/
def W.coreFault (w : W) (n kind addr : Nat) : W :=
  let pc := (w.dev.core n).pc
  let owner := (w.dev.core n).run.bind fun k => (Tab.get w.dev.slots (slotKey (n / 64) k)).map Slot.graph
  let w := w.noteCoreFault n kind pc addr
  match owner with
  | some i => w.frog i 0x04 0x02
  | none => w

/-- A physical core retired (R569): case 1 to 4 for (a) to (d). In cases (b) and (d) its logical core goes offline at once; in
case (c) it is marked and serves on. -/
def W.retireCore (w : W) (die p case' addr : Nat) : W :=
  let w :=
    if case' = 3 then w.onDie die fun d => { d with coreMarked := Nat.lor d.coreMarked (2 ^ p) }
    else w.onDie die fun d => { d with coreRetired := Nat.lor d.coreRetired (2 ^ p) }
  let w := (w.logRec 0x0019 die 0xFF 0 p 0 (toLe 1 case')).saveSpareCore die
  if case' = 2 || case' = 4 then
    match w.dev.coreOfPhys die p with
    | some n => w.coreOffline n addr
    | none => if (w.dev.die die).working < 56 then w.declareFailed 0x02 die else w
  else w

/-- SLICE_MAP of a die journalled (Table 19.6). -/
def W.saveSliceMap (w : W) (die : Nat) : W :=
  let d := w.dev.die die
  w.journal1 0x0014 die (toLe 2 (d.sliceRetired.foldl (fun m s => m + 2 ^ s) 0) ++ toLe 1 (d.sliceSpare.getD 0xFF)
    ++ toLe 2 (d.sliceMarked.foldl (fun m s => m + 2 ^ s) 0))

/-- A join-store slice retired (R571): it serves on until the die's next reset; a second one of a die fails the device. -/
def W.retireSlice (w : W) (die s : Nat) : W :=
  if (w.dev.die die).sliceRetired.contains s then w
  else
    let second := !(w.dev.die die).sliceRetired.isEmpty
    let w := ((w.onDie die fun d => { d with sliceRetired := d.sliceRetired ++ [s] }).logRec 0x001A die 0xFF 0 s 0 []).saveSliceMap die
    if second then w.declareFailed 0x05 die else w

/-- An SRAM line reported (R561, R569, R571): `unit` is the physical core, or 0x100 plus the slice. -/
def W.sramLine (w : W) (die unit line : Nat) (corrected : Bool) : W :=
  let now := w.dev.clk.mono
  if corrected then
    let w := w.onDie die fun d => { d with sramCe := (unit, now) :: d.sramCe.filter fun e => now < e.2 + dayNs }
    let many := 64 < ((w.dev.die die).sramCe.filter fun e => e.1 = unit).length
    if unit < 0x100 then
      let w := match w.dev.coreOfPhys die unit with
        | some n => w.onCore n fun c => { c with ce := satAdd 32 c.ce 1 }
        | none => w
      if many && !bit (w.dev.die die).coreMarked unit then w.retireCore die unit 3 line else w
    else
      let w := w.onDie die fun d => { d with jsCe := satAdd 32 d.jsCe 1 }
      if many then w.retireSlice die (unit - 0x100) else w
  else
    let again := (w.dev.die die).ueLines.contains line && !w.poisoned line
    let w := (w.op (.mark line 64)).onDie die fun d => { d with ueLines := addLine d.ueLines line }
    let w := w.logRec 0x0018 die 0xFF 0 unit line []
    if !again then w
    else if unit < 0x100 then w.retireCore die unit 2 line
    else w.retireSlice die (unit - 0x100)

/-- A line that a memory reports (R561): its place decides the rules. A poisoned response from an expander poisons its line
(R142). -/
def W.eccLine (w : W) (e : EccReport) : W :=
  let a := lineOf e.line
  if a < 24 * 2 ^ 36 then
    if a % 2 ^ 36 < 144 * granuleBytes then w.hbmLine (a / 2 ^ 36) (a % 2 ^ 36) e.corrected else w
  else if coreBase 0 ≤ a && a < coreBase 256 then
    let n := (a - coreBase 0) / 2 ^ 23
    if (a - coreBase 0) % 2 ^ 23 < coreBytes && w.dev.physOfCore n < 68 then
      w.sramLine (n / 64) (w.dev.physOfCore n) a e.corrected
    else w
  else if joinBase 0 ≤ a && a < joinBase 4 then
    let die := (a - joinBase 0) / 2 ^ 27
    w.sramLine die (0x100 + (a - joinBase die) / 2 ^ 24) a e.corrected
  else if tierBase ≤ a && !e.corrected then w.op (.mark a 64)
  else w

/-- The lines that a memory reports, in order. -/
def W.eccLines (w : W) (es : List EccReport) : W := es.foldl W.eccLine w

end Sys2Proof.Machine
end

