-- ==== Sys2Proof/Machine/StrmEng.lean ====
section
/-! DEFINITION. The stream engine (chapter 6): faults and halts, the start of descriptors and tiles, the issue and completion of
memory operations, the signals of tiles, lateness. -/

namespace Sys2Proof.Machine

/-- A stream faults, and the graph that created it is frogged (R232). -/
def W.loseStrm (w : W) (i : Nat) : W :=
  match Tab.get w.dev.strms i with
  | some s =>
    if s.state = 6 then w
    else match s.graph with
      | some g => (w.faultStrm i).frog g 0x03 0x02
      | none => w.faultStrm i
  | none => w

/-- A stream faults with an error-log record. -/
def W.breakStrm (w : W) (i kind unit addr : Nat) (data : List Byte) : W :=
  match Tab.get w.dev.strms i with
  | some s => if s.state = 6 then w else (w.logStrm kind i unit addr data).loseStrm i
  | none => w

/-- Address of the running descriptor. -/
def Strm.runAddr (s : Strm) : Nat := (s.running.map fun r => r.1.addr).getD 0

/-- STRM_FORMAT with a reason (R202, R232). -/
def W.formatStrm (w : W) (i reason addr : Nat) : W := w.breakStrm i 0x0002 reason addr []

/-- An access of a stream that fails under R130. -/
def W.accessFault (w : W) (i addr : Nat) (a : Acc) : W :=
  w.breakStrm i (if a = .prot then 0x000B else 0x000A) 0 addr []

/-- Whether an operation of a tile's walk has completed: issued, and not outstanding. -/
def Strm.opDone (s : Strm) (t : Tile) (isRead : Bool) (idx : Nat) : Bool :=
  idx < (if isRead then t.nextRd else t.nextWr) && !(s.ops.any fun o => o.g = t.g && o.isRead = isRead && o.idx = idx && !o.stale)

/-- The operations of a list that have not completed. -/
def Strm.left (s : Strm) (t : Tile) (isRead : Bool) : List Chunk :=
  ((if isRead then t.reads else t.writes).zipIdx.filter fun (_, k) => !s.opDone t isRead k).map Prod.fst

/-- The earliest walk entry of a tile whose read or write has not completed (R229). -/
def Strm.savedEntry (s : Strm) (t : Tile) : Nat :=
  ((s.left t true ++ s.left t false).map Chunk.lo).foldl min (t.src.entries)

/-- A tile as it stands after a halt (R230): the operations on entries from the saved position on are made again. Data that the
tile has read stays where the engine has handed the source slot back (Table 6.4 step 4); a window, and the strings of a STR32
source, are read anew as a whole. -/
def Tile.restart (t : Tile) (e : Nat) : Tile :=
  let writes := t.writes.filter fun c => e < c.lo + c.n
  if t.srcSignalled then { t with writes := writes, nextWr := 0 }
  else
    let first := (writes.map Chunk.lo).foldl min e
    let all := t.src.xform = 2 || elemClass t.src.elem = .str
    { t with
      writes := writes, nextWr := 0, nextRd := 0, got := []
      reads := t.reads.filter fun c => all || first < c.lo + c.n }

/-- A stream meets an absent page (R143, R229): it enters HALTED at its saved position, its outstanding operations complete
without effect on its position, and the page-in begins. -/
def W.haltStrm (w : W) (i va buf page : Nat) : W :=
  match Tab.get w.dev.strms i with
  | some s =>
    let e := (s.tiles.head?.map fun t => if t.void then 0 else s.savedEntry t).getD 0
    let base := match Tab.get w.dev.bufs buf with
      | some b => b.base + page * b.page
      | none => va
    let w := w.onStrm i fun s =>
      { s with
        state := 4, haltVa := base, haltEntry := e
        tiles := s.tiles.zipIdx.map fun (t, k) => t.restart (if k = 0 then e else 0)
        ops := s.ops.map fun o => { o with stale := true } }
    (w.onDie (strmDie i) fun d => { d with halt := satAdd 32 d.halt 1 }).pageIn buf page
  | none => w

/-- Whether a page is PINNED HBM or SRAM (R214). -/
def Dev.pinnedAt (d : Dev) (va : Nat) : Bool :=
  match d.lookup va with
  | .claim _ _ _ => true
  | .page _ _ _ p _ => p.st = .pinned
  | .none => false

/-- BOUND_LOST set once in a generation (R214). -/
def W.loseBound (w : W) (i : Nat) : W :=
  match Tab.get w.dev.strms i with
  | some s =>
    if s.boundLost then w
    else
      ((w.onStrm i fun s => { s with boundLost := true }).onDie (strmDie i) fun d =>
        { d with boundLost := satAdd 32 d.boundLost 1 }).logStrm 0x0003 i s.runGen 0 []
  | none => w

/-- The residence check of a page that a BOUNDED descriptor touches (R214). -/
def W.checkBound (w : W) (i : Nat) (x : SDesc) (va : Nat) : W :=
  if x.bounded && !w.dev.pinnedAt va then w.loseBound i else w

/-- The stream's own view of an access over a range: it goes on, or the stream halts or faults. -/
def W.strmRange (w : W) (i va n : Nat) (needW : Bool) : W × Bool :=
  let first : Option (Nat × Acc) := (pieces va n).findSome? fun (a, _) => match w.dev.access a (!needW) needW with
    | .ok _ => none
    | e => some (a, e)
  match first with
  | none => (w, true)
  | some (a, .away b k) => (w.haltStrm i a b k, false)
  | some (a, e) => (w.accessFault i a e, false)

/-- A stream descriptor read from its bytes (Table 6.2). -/
def parseSDesc (entry addr : Nat) (bs : List Byte) : SDesc :=
  { entry := entry, addr := addr, srcLd := fld bs 0 8, dstLd := fld bs 8 8, srcAdv := sext 64 (fld bs 0x10 8)
    dstAdv := sext 64 (fld bs 0x18 8), indexAdv := sext 64 (fld bs 0x20 8), rep := fld bs 0x28 4, firstNs := fld bs 0x2C 4
    tileNs := fld bs 0x30 4, slackNs := fld bs 0x34 4, doneSync := fld bs 0x38 4, ctrl := fld bs 0x3C 4 }

/-- The next burst fetched (R200, R201): up to 16 entries; it ends early at entry COUNT − 1, after which a looping ring goes on at
entry 0. Answers whether the stream goes on. -/
def W.fetchBurst (w : W) (i : Nat) : W × Bool :=
  match Tab.get w.dev.strms i with
  | some s =>
    match s.arm with
    | some a =>
      let first := if s.nextFetch = a.count then 0 else s.nextFetch
      let n := min 16 (a.count - first)
      let (w, ok) := w.strmRange i (a.ring + 64 * first) (64 * n) false
      if ok then
        let ds := (List.range n).map fun k =>
          let va := a.ring + 64 * (first + k)
          parseSDesc (first + k) va (w.readVa va 64)
        (w.onStrm i fun s => { s with burst := ds, nextFetch := first + n }, true)
      else (w, false)
    | none => (w, false)
  | none => (w, false)

/-- The core store that holds a mapped address, as a core number. -/
def Dev.coreOfVa (d : Dev) (va : Nat) : Option Nat :=
  match d.physOf va with
  | some p => if coreBase 0 ≤ p && p < coreBase 256 then some ((p - coreBase 0) / 2 ^ 23) else none
  | none => none

/-- Bytes from lowest to highest in-bounds byte of a layout. -/
def Layout.spread (l : Layout) : Nat := ((l.extent).map fun (a, b) => b - a).getD 0

/-- Reason 0x07 of Table 6.3 (R508). -/
def Dev.badWindow (d : Dev) (s : Strm) (src dst : Layout) : Bool :=
  inWindow src.base
    || (inWindow dst.base
      && (s.dstSkein || s.mcast != 0 || elemClass dst.elem = .str
        || ((dst.extent).map fun (a, b) => a / 2 ^ 45 != dst.base / 2 ^ 45 || (b - 1) / 2 ^ 45 != dst.base / 2 ^ 45).getD false
        || !(let r := (d.link (windowLink dst.base)).role
             r = 1 || r = 2 || r = 3)))

/-- The reason of Table 6.3 at or above 0x05 that a pair shows first (R202). -/
def Dev.pairFormat (d : Dev) (s : Strm) (src dst : Layout) : Option Nat :=
  if (s.dstSkein && ((d.coreOfVa dst.base).isNone || s.dstSlot < dst.spread))
      || (s.srcSkein && ((d.coreOfVa src.base).isNone || s.srcSlot < src.spread)) then some 0x05
  else if s.mcast != 0 && d.coreOfVa dst.base != s.cores.head? then some 0x06
  else if d.badWindow s src dst then some 0x07
  else none

/-- The reason of Table 6.3 that needs only the stream descriptor (R202): 0x01 to 0x04. -/
def Dev.descFormat (d : Dev) (s : Strm) (x : SDesc) : Option Nat :=
  if x.look = 0 || 4 < x.look then some 0x01
  else if s.look != 0 && x.look != s.look then some 0x02
  else if bits x.ctrl 5 27 != 0 then some 0x03
  else if x.doneSync != 0 && !d.syncLive x.doneSync then some 0x04
  else none

/-- The destination range of a descriptor over all its tiles (R186): low byte and end. -/
def Strm.descRange (s : Strm) (x : SDesc) (dst : Layout) : Option (Nat × Nat) :=
  (dst.extent).map fun (a, b) =>
    if s.dstSkein then (a, b + (x.look - 1) * s.dstSlot)
    else
      let d := (x.rep - 1 : Nat) * x.dstAdv
      (((a : Int) + min d 0).toNat, ((b : Int) + max d 0).toNat)

/-- The DBG_OVL check of a descriptor that becomes active (R186, R187). -/
def W.overlapCheck (w : W) (i last : Nat) (x : SDesc) (dst : Layout) : W :=
  match Tab.get w.dev.strms i with
  | some s =>
    if !dst.dbgOvl then w
    else match s.descRange x dst with
      | none => w
      | some (lo, hi) =>
        let die := strmDie i
        let live : Nat := ((w.dev.strms.filter fun (j, _) => strmDie j = die).map fun (_, t) => t.ranges.length).sum
        if 256 ≤ live then w.onDie die fun d => { d with ovlMiss := satAdd 32 d.ovlMiss 1 }
        else
          let hits := w.dev.strms.flatMap fun (j, t) =>
            (t.ranges.filter fun r => overlaps lo (hi - lo) r.2.1 (r.2.2 - r.2.1)).map fun _ => mkHandle 2 t.gen j
          let w := hits.foldl (fun w h =>
            (w.logStrm 0x0006 i h lo []).onDie die fun d => { d with overlap := satAdd 32 d.overlap 1 }) w
          w.onStrm i fun s => { s with ranges := s.ranges ++ [(last, lo, hi)] }
  | none => w

/-- The layout descriptors of a descriptor's pair fetched (R202); none where the stream has halted or faulted. -/
def W.fetchPair (w : W) (i : Nat) (x : SDesc) : W × Option (Layout × Layout) :=
  let one := fun (w : W) (va : Nat) =>
    match w.strmRange i va 128 false with
    | (w, false) => (w, (none : Option Layout))
    | (w, true) =>
      let n := layoutBytes (fld (w.readVa va 1) 0 1)
      match w.strmRange i va n false with
      | (w, false) => (w, none)
      | (w, true) => (w, some (parseLayout (w.readVa va n)))
  match one w x.srcLd with
  | (w, none) => (w, none)
  | (w, some a) => match one w x.dstLd with
    | (w, none) => (w, none)
    | (w, some b) => (w, some (a, b))

/-- A sync operation of a stream on an object (R232, R298): a dead object faults the stream, one of a die under reset with a record
of kind DIE_LOST. `live` says whether the object lives. Answers whether the operation was issued. -/
def W.strmSync (w : W) (i obj : Nat) (live : Bool) (op : SyncOp) (which addr : Nat) : W × Bool :=
  if !w.dev.dieUp (syncDie obj) then (w.breakStrm i 0x0007 (syncDie obj) 0 [], false)
  else if !live then (w.formatStrm i 0x04 addr, false)
  else (w.issueSync (strmDie i) obj op (.stream i which), true)

/-- The number of the generation's next tile. -/
def Strm.nextG (s : Strm) : Nat := s.tilesDone + (s.tiles.filter fun t => !t.void).length

/-- A descriptor starts (R202): the checks in their order, the layout pair, and the next burst when this was its last. A failure takes
effect once the descriptors that started earlier are complete (R178, R202; DEDUCED, log entry 98). -/
def W.startDesc (w : W) (i : Nat) (x : SDesc) : W :=
  match Tab.get w.dev.strms i with
  | none => w
  | some s =>
    let take := fun (w : W) (src dst : Layout) =>
      let w := w.onStrm i fun s =>
        { s with
          burst := s.burst.drop 1, running := some (x, src, dst), nextTile := 0, tDesc := w.dev.clk.now, started := s.started + 1
          bounded := s.bounded && x.bounded, look := x.look
          slot := if s.look = 0 && ((s.arm.map Arm.slotReset).getD false || x.look != s.lookPrev) then 0 else s.slot }
      let w := ((w.checkBound i x x.addr).touch x.addr)
      match Tab.get w.dev.strms i with
      | some s =>
        let more := match s.arm with
          | some a => s.nextFetch < a.count || (a.loop && s.shadow.isNone)
          | none => false
        if s.burst.isEmpty && more then (w.fetchBurst i).1 else w
      | none => w
    let refuse := fun (w v : W) => if s.tiles.isEmpty then v else w
    match w.dev.descFormat s x with
    | some r => refuse w (w.formatStrm i r x.addr)
    | none =>
      if x.rep = 0 then
        (take w (parseLayout []) (parseLayout [])).onStrm i fun s =>
          { s with tiles := s.tiles ++ [{ desc := x, src := parseLayout [], dst := parseLayout [], k := 0, g := s.nextG, last := true
                                          reads := [], writes := [], void := true }] }
      else match w.fetchPair i x with
        | (w, none) => w
        | (w, some (src, dst)) =>
          match pairReason src dst x.srcLd x.dstLd with
          | some r =>
            refuse w ((w.onDie (strmDie i) fun d => { d with descFmt := satAdd 32 d.descFmt 1 }).breakStrm i 0x0001 r x.srcLd
              (toLe 8 x.dstLd))
          | none =>
            match w.dev.pairFormat s src dst with
            | some r => refuse w (w.formatStrm i r x.addr)
            | none =>
              let w := take w src dst
              let w := (w.checkBound i x x.srcLd).checkBound i x x.dstLd
              w.overlapCheck i (s.nextG + x.rep - 1) x dst

/-- DESCRIPTOR_START (R202): where the running descriptor has started all its tiles, the next one starts; with FENCE only once
every earlier tile is complete (R207). -/
def W.descriptorStart (w : W) (i : Nat) : W :=
  match Tab.get w.dev.strms i with
  | some s =>
    let ready := match s.running with
      | some (x, _, _) => decide (x.rep ≤ s.nextTile)
      | none => true
    if (s.state = 2 || s.state = 3) && s.stop.isNone && w.dev.dieRuns (strmDie i) && ready && !s.exhausted then
      let (w, ok) := if s.burst.isEmpty then w.fetchBurst i else (w, true)
      if ok then
        match (Tab.get w.dev.strms i).bind fun s => s.burst.head? with
        | some x => if x.fence && !s.tiles.isEmpty then w else w.startDesc i x
        | none => w
      else w
    else w
  | none => w

/-- A layout with its BASE moved and its INDEX_BASE advanced (R199). -/
def Layout.moved (l : Layout) (by' : Int) (index : Int) : Layout :=
  { l with base := unsext 64 (l.base + by'), indexBase := unsext 64 (l.indexBase + index) }

/-- The pad entries that tile k leaves out because an earlier tile of the descriptor has written the address with a valid entry
(R185): slots apart, tile j of a plain destination lies (k − j) times DST_ADV below. -/
def padSkip (s : Strm) (src dst : Layout) (k : Nat) (adv : Int) (bit : Nat) : Bool :=
  if s.dstSkein || !dst.padw || adv = 0 then false
  else
    let valid := kindSegs src dst true
    (List.range k).any fun j => valid.any fun v => (v.bit : Int) - 8 * (k - j : Nat) * adv = bit

/-- The pieces that a STR32 destination receives: its offsets (part 3) and its strings (part 4). -/
def strPieces (dst : Layout) (placed : List (Nat × Nat × Nat)) : List Seg × List Seg :=
  let at' := fun (k : Nat) => dst.bitOf k
  let heads := placed.map fun (k, _, _) => (⟨k, 1, at' k, 32, 3⟩ : Seg)
  let tails := (placed.filter fun (k, _, _) => placed.all fun p => p.1 != k + 1).map fun (k, _, _) =>
    (⟨k, 1, at' k + 32, 32, 3⟩ : Seg)
  (sortBy (fun a b => a.bit ≤ b.bit) (heads ++ tails),
    (placed.filter fun (_, _, n) => n != 0).map fun (k, p, n) => ⟨k, 1, 8 * (dst.auxBase + p), 8 * n, 4⟩)

/-- The pieces of a tile's destination of one kind, pad or valid. -/
def Tile.pieces (t : Tile) (pad : Bool) : List Seg :=
  if elemClass t.dst.elem = .str then (let (a, b) := strPieces t.dst t.placed; if pad then [] else a ++ b)
  else kindSegs t.src t.dst (!pad)

/-- The bits that a piece of a tile's destination receives, with poison; none where the source has not been read. -/
def Tile.value (t : Tile) (s : Seg) : Option (Nat × Bool) :=
  if s.part = 3 then
    let i := (s.bit / 8 - t.dst.base) / 4
    let ix := fun (k : Nat) => ((t.dst.index k).getD 0 0).toNat
    let v := match t.placed.find? fun (k, _, _) => ix k = i with
      | some (_, p, _) => p
      | none => ((t.placed.find? fun (k, _, _) => ix k + 1 = i).map fun (_, p, n) => p + n).getD 0
    if t.src.inb s.lo then (gotBits t.got (t.src.bitOf s.lo) 32).map fun (_, q) => (v, q) else some (v, false)
  else if s.part = 4 then
    let (a, _) := t.strs.getD s.lo (0, 0)
    gotBits t.got (8 * (t.src.auxBase + a)) s.len
  else segValue t.src t.dst t.got s

/-- The values of a write operation: its pieces in the order of writing; none where one has not been read. -/
def Tile.values (t : Tile) (c : Chunk) : Option (List (Seg × Nat × Bool)) :=
  ((t.pieces c.pad).filter fun s => s.bit < 8 * (c.addr + c.bytes) && 8 * c.addr < s.bit + s.len).mapM fun s =>
    (t.value s).map fun (v, p) => (s, v, p)

/-- The tile message of a tile (R509), and whether every value is there. -/
def Tile.message (t : Tile) (handle gen : Nat) (layout : List Byte) : Option (List Byte) :=
  let n := t.dst.entries
  let u := t.dst.unit
  let vals := ((List.range (n / u)).map fun k => (⟨k * u, u, t.dst.bitOf (k * u), t.dst.unitBits, 0⟩ : Seg)).mapM fun s => t.value s
  vals.map fun vs =>
    let bits' := vs.foldl (fun (acc, p) (v, _) => (acc + v * 2 ^ p, p + t.dst.unitBits)) (0, 0)
    let pads := (List.range n).foldl (fun m k => if t.src.inb (k / u * u) then m else m + 2 ^ k) 0
    toLe 8 handle ++ toLe 8 gen ++ toLe 8 t.k ++ toLe 8 n ++ toLe 1 (b2n (vs.any Prod.snd)) ++ zeros 31
      ++ layout ++ toLe (alignUp (ceilDiv n 8) 64) pads ++ toLe (ceilDiv bits'.2 8) bits'.1

/-- The destination layout as the tile message carries it, with bits [51:45] of BASE cleared (R509). -/
def layoutWire (l : Layout) : List Byte := { l with base := l.base % 2 ^ 45 + l.base / 2 ^ 52 * 2 ^ 52 }.wire

/-- A tile started (R203): its walk is cut into operations, what falls outside is counted, the slot counter advances (R206). -/
def W.openTile (w : W) (i : Nat) (x : SDesc) (src0 dst0 : Layout) : W :=
  match Tab.get w.dev.strms i with
  | none => w
  | some s =>
    let k := s.nextTile
    let src := src0.moved (if s.srcSkein then (s.slot * s.srcSlot : Nat) else k * x.srcAdv) (k * x.indexAdv)
    let dst := dst0.moved (if s.dstSkein then (s.slot * s.dstSlot : Nat) else k * x.dstAdv) (k * x.indexAdv)
    let isStr := elemClass src.elem = .str
    let link := if inWindow dst.base then some (windowLink dst.base) else none
    let offs := ((List.range src.entries).filter src.inb).map src.bitOf
    let (w, ok) := if isStr then
        (match offs.head?, offs.getLast? with
          | some a, some b => w.strmRange i (a / 8) (b / 8 + 8 - a / 8) false
          | _, _ => (w, true))
      else (w, true)
    if !ok then w
    else
      let skip := padSkip s src dst k x.dstAdv
      let strs := if isStr then src.strings fun j => fld (w.readVa (src.base + 4 * j) 4) 0 4 else []
      let placed := placeStrings src dst (strs.map fun (a, n, _) => (a, n)) skip
      let strSegs := strPieces dst placed.1
      let reads := if isStr then src.strReads (strs.map fun (a, n, _) => (a, n)) else src.readPlan
      let writes :=
        if dst.entries = 0 then []
        else if link.isSome then [{ lo := 0, n := dst.entries, addr := dst.base, bytes := 0 }]
        else if isStr then
          (joinRuns 4096 strSegs.1).flatMap (runChunks false) ++ (joinRuns 4096 strSegs.2).flatMap (runChunks false)
        else writePlan src dst skip
      let drop := if link.isSome then 0 else dst.outside + (if isStr then placed.2 else 0)
      let w := w.onDie (strmDie i) fun d =>
        { d with
          oobRd := satAdd 32 d.oobRd src.outside
          oobWr := if link.isSome then d.oobWr else satAdd 32 d.oobWr dst.outside
          strBad := satAdd 32 d.strBad (strs.filter fun q => q.2.2).length }
      let w := w.onStrm i fun s =>
        { s with
          dropped := satAdd 32 s.dropped drop, nextTile := k + 1, slot := (s.slot + 1) % s.look, srcGot := 0, dstGot := 0
          tiles := s.tiles ++ [{ desc := x, src := src, dst := dst, k := k, g := s.nextG, last := k + 1 = x.rep, reads := reads
                                 writes := writes, strs := strs.map fun (a, n, _) => (a, n), placed := placed.1, link := link
                                 srcTake := s.srcGotAt }] }
      if link.isSome then w.loseBound i else w

/-- The lateness of one member's wait at the signal of a tile (R215), and what follows of a late one (R216, R217). -/
def W.measure (w : W) (i : Nat) (t : Tile) (m : Member) : W :=
  match Tab.get w.dev.strms i with
  | some s =>
    match m.waitStart with
    | none => w
    | some start =>
      let die := strmDie i
      let first := s.g0 + w.dev.scale die t.desc.firstNs
      let from' := max (max start first) (if s.srcSkein then t.srcTake else 0)
      let late := w.dev.clk.now - from'
      if late ≤ w.dev.scale die t.desc.slackNs then w
      else if s.bounded && !s.boundLost then
        let seq := w.nextLogSeq
        (w.logStrm 0x0004 i t.k 0 (toLe 4 s.runGen ++ toLe 4 t.desc.entry ++ toLe 8 late)).enterFault 0 seq
      else
        let w := w.onStrm i fun s =>
          { s with late := satAdd 32 s.late 1, worst := max s.worst (min late (2 ^ 32 - 1)), lateRec := true }
        let w := w.onDie die fun d => { d with late := satAdd 32 d.late 1 }
        if s.lateRec then w else w.logStrm 0x0005 i (min late (2 ^ 32 - 1)) 0 []
  | none => w

/-- Signals of a tile in order, until one faults the stream. -/
def W.strmSignals (w : W) (i addr : Nat) : List (Nat × Bool) → W × Bool
  | [] => (w, true)
  | (o, live) :: rest =>
    match w.strmSync i o live (.add 1) 2 addr with
    | (w, true) => W.strmSignals w i addr rest
    | (w, false) => (w, false)

/-- Whether a stream's FULL object is live (R220, R232). -/
def Dev.fullLive (d : Dev) (s : Strm) (o : Nat) : Bool := if s.mcast = 0 then d.syncLive s.dstFull else (Tab.get d.syncs o).isSome

/-- The oldest tile completes (Table 6.4 steps 5 and 6): waits are measured, FULL and DONE_SYNC signalled. -/
def W.completeTile (w : W) (i : Nat) (t : Tile) : W :=
  match Tab.get w.dev.strms i with
  | none => w
  | some s =>
    let w := if t.void then w else s.members.foldl (fun w m => w.measure i t m) w
    let (w, ok) := if t.void || !s.dstSkein then (w, true)
      else w.strmSignals i s.runAddr (s.fullObjs.map fun o => (o, w.dev.fullLive s o))
    if !ok then w
    else
      let w := w.onStrm i fun s =>
        let next := if t.desc.entry + 1 = (s.arm.map Arm.count).getD 0 && (s.arm.map Arm.loop).getD false && s.shadow.isNone then 0
          else t.desc.entry + 1
        { s with
          tiles := s.tiles.filter fun u => u != t
          tilesDone := if t.void then s.tilesDone else s.tilesDone + 1
          endEntry := if t.last then next else t.desc.entry
          endTile := if t.last then 0 else t.k + 1
          ranges := if t.last && !t.void then s.ranges.filter fun r => r.1 != t.g else s.ranges }
      if t.last && t.desc.doneSync != 0 then
        (w.strmSync i (hIdx t.desc.doneSync) (w.dev.syncLive t.desc.doneSync) (.add 1) 2 t.desc.addr).1
      else w

/-- Whether every read of a tile has returned. -/
def Strm.readsBack (s : Strm) (t : Tile) : Bool := t.nextRd = t.reads.length && !(s.ops.any fun o => o.g = t.g && o.isRead && !o.stale)

/-- Whether every write of a tile has been acknowledged. -/
def Strm.writesDone (s : Strm) (t : Tile) : Bool :=
  t.nextWr = t.writes.length && !(s.ops.any fun o => o.g = t.g && !o.isRead && !o.stale)

/-- What the stream's progress makes due (Table 6.4 steps 4 to 6), tile by tile in order. -/
def advanceTiles (w : W) (i : Nat) : Nat → W
  | 0 => w
  | fuel + 1 =>
    match Tab.get w.dev.strms i with
    | none => w
    | some s =>
      if !(s.state = 2 || s.state = 3) || s.stop = some 1 then w
      else match s.tiles.find? fun t => s.srcSkein && !t.void && !t.srcSignalled && s.readsBack t with
        | some t =>
          let w := w.onStrm i fun s => { s with tiles := s.tiles.map fun u => if u = t then { u with srcSignalled := true } else u }
          advanceTiles (w.strmSync i (hIdx s.srcEmpty) (w.dev.syncLive s.srcEmpty) (.add 1) 2 s.runAddr).1 i fuel
        | none =>
          match s.tiles.head? with
          | some t => if s.readsBack t && s.writesDone t then advanceTiles (w.completeTile i t) i fuel else w
          | none => w

/-- A stream's tiles, generation and stop after an event. -/
def W.advance (w : W) (i : Nat) : W :=
  match Tab.get w.dev.strms i with
  | some s => ((advanceTiles w i (2 * s.tiles.length + 1)).endGen i).finishStop i
  | none => w

/-- TILE_START (R203, Table 6.4): the takes of steps 1 and 2 in order; the tile starts once they are satisfied, on a plain stream
once tile k − LOOKAHEAD is complete. -/
def W.tileStart (w : W) (i : Nat) : W :=
  match Tab.get w.dev.strms i with
  | none => w
  | some s =>
    match s.running with
    | none => w
    | some (x, src, dst) =>
      if !((s.state = 2 || s.state = 3) && s.stop.isNone && w.dev.dieRuns (strmDie i) && decide (s.nextTile < x.rep)) then w
      else
        let (w, ok) := if s.srcSkein && s.srcGot = 0 then
            (w.onStrm i fun s => { s with srcGot := 1 }).strmSync i (hIdx s.srcFull) (w.dev.syncLive s.srcFull)
              (.take (.stream i 0) 1) 0 x.addr
          else (w, true)
        match ok, Tab.get w.dev.strms i with
        | true, some s =>
          if s.srcSkein && s.srcGot != 2 then w
          else
            let (w, ok) := if s.dstSkein && s.dstGot = 0 then
                (w.onStrm i fun s => { s with dstGot := 1 }).strmSync i (hIdx s.dstEmpty) (w.dev.syncLive s.dstEmpty)
                  (.take (.stream i 1) s.m) 1 x.addr
              else (w, true)
            match ok, Tab.get w.dev.strms i with
            | true, some s =>
              if s.dstSkein && s.dstGot != 2 then w
              else if !s.dstSkein && s.look ≤ (s.tiles.filter fun t => !t.void).length then w
              else (w.openTile i x src dst).advance i
            | _, _ => w
        | _, _ => w

/-- The operation that a stream has ready among its tiles, oldest first; `clear` says that every earlier tile has issued its writes
(R207). -/
def readyIn (s : Strm) (clear : Bool) : List Tile → Option (Tile × Bool)
  | [] => none
  | t :: rest =>
    let write := clear && (match t.writes[t.nextWr]? with
      | some c => if t.link.isSome then s.readsBack t else (t.values c).isSome
      | none => false)
    if write then some (t, false)
    else if t.nextRd < t.reads.length then some (t, true)
    else readyIn s (clear && t.nextWr = t.writes.length) rest

/-- The operation that a stream has ready (R212): in its oldest started tile that has one; a write, once its data is there, before
a read. -/
def Strm.ready (s : Strm) : Option (Tile × Bool) := readyIn s true s.tiles

/-- A stream that may be granted an operation (R209, R212). -/
def Strm.eligible (s : Strm) : Bool :=
  (s.state = 2 || s.state = 3) && s.stop != some 1 && s.ops.length < s.outMax && s.ready.isSome

/-- The winner of the arbitration of a die (R212). -/
def Dev.grantee (d : Dev) (die : Nat) : Option Nat :=
  ((d.strms.filter fun (i, s) => strmDie i = die && s.eligible).foldl (fun best (i, s) =>
    match best with
    | none => some (i, s)
    | some (j, t) =>
      let a := d.deadline i s
      let b := d.deadline j t
      if tagEarlier a b || (a % 2 ^ 32 = b % 2 ^ 32 && s.lastGrant < t.lastGrant) then some (i, s) else best) none).map Prod.fst

/-- An operation noted as outstanding, and its tile's progress. -/
def W.noteOp (w : W) (i : Nat) (t : Tile) (isRead : Bool) (c : Chunk) (data : List (Nat × Nat × List Byte × Bool)) : W :=
  let turn := (w.dev.strms.map fun (_, s) => s.lastGrant).foldl max 0 + 1
  let w := if c.half then w.onDie (strmDie i) fun d => { d with halfRun := satAdd 32 d.halfRun 1 } else w
  w.onStrm i fun s =>
    { s with
      ops := s.ops ++ [{ id := s.opNext, g := t.g, idx := if isRead then t.nextRd else t.nextWr, isRead := isRead, data := data }]
      opNext := s.opNext + 1, lastGrant := turn
      tiles := s.tiles.map fun u =>
        if u.g = t.g && !u.void then
          (if isRead then { u with nextRd := u.nextRd + 1, issued := true } else { u with nextWr := u.nextWr + 1, issued := true })
        else u }

/-- The lines of a range: address and length of each part. -/
def lineParts (a n : Nat) : List (Nat × Nat) :=
  (linesOf a n).map fun l => (max a l, min (a + n) (l + 64) - max a l)

/-- A read issued (R129, R131): what it finds, line by line. -/
def W.issueRead (w : W) (i : Nat) (t : Tile) (c : Chunk) : W :=
  match w.dev.access c.addr true false with
  | .ok p =>
    let w := (w.checkBound i t.desc c.addr).touch c.addr
    let data := (lineParts c.addr c.bytes).map fun (a, n) =>
      let q := p + (a - c.addr)
      (a, q, w.rdN q n, w.poisoned q)
    w.noteOp i t true c data
  | .away b k => w.haltStrm i c.addr b k
  | e => w.accessFault i c.addr e

/-- Bytes stored by a stream at a physical address over what is there, and the poison of the lines that values carry it to (R164,
R565). -/
def W.strmPut (w : W) (c : Chunk) (p : Nat) (vals : List (Seg × Nat × Bool)) : W :=
  let w := w.put p (chunkBytes (w.rdN p c.bytes) c.addr c.bytes vals)
  (vals.filter fun v => v.2.2).foldl (fun w (s, _, _) =>
    let lo := max (s.bit / 8) c.addr
    let hi := min ((s.bit + s.len + 7) / 8) (c.addr + c.bytes)
    w.op (.mark (p + (lo - c.addr)) (hi - lo))) w

/-- Whether a mapping lets a write reach a physical SRAM address (R218): a claim, or a buffer's page. -/
def Dev.sramWritable (d : Dev) (p : Nat) : Bool :=
  (match d.claimAt p with
    | some c => bit c.prot 1
    | none => false)
  || d.bufs.any fun (_, b) => b.write && b.pages.any fun q => q.held && q.phys ≤ p && p < q.phys + b.page

/-- The writes of a multicast operation to its members (R218, R219, R233). -/
def W.castWrite (w : W) (i : Nat) (c : Chunk) (anchor p : Nat) (vals : List (Seg × Nat × Bool)) : List Nat → W × Bool
  | [] => (w, true)
  | n :: rest =>
    let q := p - coreBase anchor + coreBase n
    if !w.dev.dieUp (dieOfCore n) then (w.breakStrm i 0x0007 (dieOfCore n) 0 [], false)
    else if n = anchor || w.dev.sramWritable q then W.castWrite (w.strmPut c q vals) i c anchor p vals rest
    else (w.accessFault i (claimWindow + q) (if (w.dev.claimAt q).isSome then .prot else .unmapped), false)

/-- A write issued. -/
def W.issueWrite (w : W) (i : Nat) (s : Strm) (t : Tile) (c : Chunk) : W :=
  match t.link with
  | some k =>
    if w.dev.linkDown k then w.loseStrm i
    else match t.message (mkHandle 2 s.gen i) s.runGen (layoutWire t.dst) with
      | some m => (w.sendData k m).noteOp i t false c []
      | none => w
  | none =>
    match t.values c with
    | none => w
    | some vals =>
      match w.dev.access c.addr false true with
      | .ok p =>
        let w := (w.checkBound i t.desc c.addr).touch c.addr
        let (w, ok) := if s.mcast = 0 then (w.strmPut c p vals, true) else w.castWrite i c (s.cores.headD 0) p vals s.cores
        if ok then w.noteOp i t false c [(c.addr, p, [], false)] else w
      | .away b k => w.haltStrm i c.addr b k
      | e => w.accessFault i c.addr e

/-- Outstanding operations of a die (R209). -/
def Dev.outstanding (d : Dev) (die : Nat) : Nat := ((d.strms.filter fun (i, _) => strmDie i = die).map fun (_, s) => s.ops.length).sum

/-- STREAM_ENGINE_GRANT (R212): one memory operation of the eligible stream with the earliest tag. -/
def W.grant (w : W) (die : Nat) : W :=
  if !w.dev.dieRuns die || 4096 ≤ w.dev.outstanding die then w
  else match w.dev.grantee die with
    | none => w
    | some i =>
      match Tab.get w.dev.strms i with
      | none => w
      | some s =>
        match s.ready with
        | some (t, true) => (match t.reads[t.nextRd]? with
          | some c => w.issueRead i t c
          | none => w)
        | some (t, false) => (match t.writes[t.nextWr]? with
          | some c => w.issueWrite i s t c
          | none => w)
        | none => w

/-- MEMORY_OPERATION_COMPLETE (R208): the slot is free; a read's data joins its tile, poisoned where a line could not be corrected;
what becomes due follows. A tile that the peer has refused faults the stream (R510). -/
def W.opComplete (w : W) (i id : Nat) (ecc : List EccReport) (refused : Bool) : W :=
  match Tab.get w.dev.strms i with
  | none => w
  | some s =>
    match s.ops.find? fun o => o.id = id with
    | none => w
    | some o =>
      let w := (w.eccLines ecc).onStrm i fun s => { s with ops := s.ops.filter fun p => p.id != id }
      let bad := fun (q : Nat) => ecc.any fun e => !e.corrected && lineOf e.line = lineOf q
      let w := if o.isRead && !o.stale && s.stop != some 1 then
          w.onStrm i fun s => { s with tiles := s.tiles.map fun t =>
            if t.g = o.g && !t.void then { t with got := t.got ++ o.data.map fun (a, q, bs, p) => (a, bs, p || bad q) } else t }
        else w
      let w := if refused && !o.isRead then w.loseStrm i else w
      w.advance i

end Sys2Proof.Machine
end

