-- ==== Sys2Proof/Machine/Buffers.lean ====
section
/-! DEFINITION. The commands of memory (group 0x02): buffers (R132 to R137), page supply (R147), placement settings and counters
(R149, R153), the CXL tier (R139, R140), retired granules (R158). -/

namespace Sys2Proof.Machine

/-- Page size of a BUF_ALLOC. -/
def allocPage (c : Ctx) : Nat := if c.f 0x10 1 = 1 then 0x10000 else bigPage

/-- Whether a BACKING is SRAM (Table 4.4). -/
def sramBacking (b : Nat) : Bool := b = 3 || b = 4

/-- The checks of R133 and Table 4.3 that give BAD_PARAM, in ascending offset order. -/
def allocFields (c : Ctx) (d : Dev) : List (Nat × Bool) :=
  let size := c.f 0 8
  let va := c.f 8 8
  let page := allocPage c
  let b := c.f 0x12 1
  let pin := bit (c.f 0x11 1) 2
  [(0, size != 0 && size % page = 0 && size ≤ 2 ^ 44 && (b != 3 || size ≤ coreBytes) && (b != 4 || size ≤ joinBytes)),
   (8, va % page = 0 && (va = 0 || (0x200000 ≤ va && va + size ≤ 2 ^ 52))),
   (0x10, c.f 0x10 1 ≤ 1 && (c.f 0x10 1 = 0 || pin || sramBacking b)), (0x11, c.f 0x11 1 < 8 && !(pin && b = 2)), (0x12, b ≤ 4),
   (0x13, c.f 0x13 1 ≤ 3 || (c.f 0x13 1 = 0xFF && !sramBacking b)), (0x14, c.f 0x14 1 < 64), (0x15, b = 3 || c.f 0x15 1 = 0),
   (0x16, zeroAt c.ps 0x16 2),
   (0x18, if b = 2 then ((Tab.get d.chans (hIdx (c.f 0x18 4))).map Chan.kind).getD 0 = 2 && c.f 0x18 4 != 0 else c.f 0x18 4 = 0),
   (0x1C, zeroAt c.ps 0x1C 4)]

/-- The ranges of virtual addresses that are mapped, or count as mapped (R133, R507). -/
def Dev.takenVa (d : Dev) : List (Nat × Nat) :=
  (2 ^ 51, 2 ^ 51) :: (d.bufs.map fun (_, b) => (b.base, b.size))
    ++ (d.graphs.flatMap fun (_, g) => g.claims.map fun c =>
      (claimWindow + (if c.core = 0xFF then joinBase c.die else coreBase c.core) + c.off, c.bytes))

/-- The base of a new buffer: as requested, or the lowest free one below 2^45 (DESIGN CHOICE, log entry 15). -/
def Dev.chooseVa (d : Dev) (va size page : Nat) : Option Nat :=
  if va != 0 then (if d.takenVa.any fun (a, n) => overlaps va size a n then none else some va)
  else
    let cands := (0x200000 :: d.takenVa.map fun (a, n) => alignUp (a + n) page)
    (cands.filter fun a => a % page = 0 && a + size ≤ 2 ^ 45 && !(d.takenVa.any fun (b, n) => overlaps a size b n)).foldl
      (fun best a => match best with
        | none => some a
        | some b => some (min a b)) none

/-- The ranges of an SRAM store, by offset, that claims or buffers hold. -/
def Dev.takenSram (d : Dev) (base bytes : Nat) : List (Nat × Nat) :=
  (d.graphs.flatMap fun (_, g) => (g.claims.filter fun c => (if c.core = 0xFF then joinBase c.die else coreBase c.core) = base).map
    fun c => (c.off, c.bytes))
  ++ d.bufs.flatMap fun (_, b) => (b.pages.filter fun p => p.held && base ≤ p.phys && p.phys < base + bytes).map fun p =>
    (p.phys - base, b.page)

/-- A free range of an SRAM store: the lowest. -/
def Dev.sramRange (d : Dev) (base bytes size page : Nat) : Option Nat :=
  let taken := d.takenSram base bytes
  let cands := (0 :: taken.map fun (a, n) => alignUp (a + n) page).filter fun a =>
    a + size ≤ bytes && !(taken.any fun (b, n) => overlaps a size b n)
  cands.foldl (fun best a => match best with
    | none => some a
    | some b => some (min a b)) none

/-- The buffer of a BUF_ALLOC, without its pages. -/
def bufOf (c : Ctx) (gen base : Nat) : Buf :=
  let prot := c.f 0x11 1
  { gen := gen, tag := c.tag, size := c.f 0 8, base := base, page := allocPage c, read := bit prot 0, write := bit prot 1
    pin := bit prot 2, backing := c.f 0x12 1, homeDie := c.f 0x13 1, mask := c.f 0x14 1, core := c.f 0x15 1
    notify := c.f 0x18 4, pages := [] }

/-- The next page of a buffer placed (Table 4.4, R133): none where neither HBM nor the tier has room for it; the failure names the
die, or 0xFF for the tier. `sram` is the physical base of an SRAM buffer. -/
def Dev.placePage (d : Dev) (b : Buf) (k sram : Nat) : Except Nat Page :=
  if sramBacking b.backing then .ok { st := .pinned, phys := sram + k * b.page, held := true }
  else if b.pin then
    match d.frameFor (b.stacks k) b.page with
    | some f => .ok { st := .pinned, phys := f, held := true }
    | none => .error (b.home k)
  else if b.backing = 2 then .ok { st := .absent }
  else
    let tier := fun (st : Resid) => match d.tierFrame with
      | some t => Except.ok { st := st, phys := t, held := true : Page }
      | none => .error 0xFF
    if b.backing = 1 then tier .absent
    else match d.frameFor (b.stacks k) b.page with
      | some f => .ok { st := .placedHbm, phys := f, held := true }
      | none => tier .placedTier

/-- The pages of buffer i placed one by one. -/
def placePages (w : W) (i sram : Nat) : Nat → Except Nat W
  | 0 => .ok w
  | n + 1 =>
    match Tab.get w.dev.bufs i with
    | none => .ok w
    | some b =>
      match w.dev.placePage b b.pages.length sram with
      | .error e => .error e
      | .ok p =>
        placePages ((w.onBuf i fun b => { b with pages := b.pages ++ [p] }).op (.clear p.phys (if p.held then b.page else 0))) i sram n

/-- Physical base of the SRAM store of an SRAM backing, and its bytes. -/
def sramStore (c : Ctx) : Nat × Nat :=
  if c.f 0x12 1 = 3 then (coreBase (c.f 0x15 1), coreBytes) else (joinBase (c.f 0x13 1), joinBytes)

/-- The frames of a core's frame table that SRAM_CORE pages cover, set to a protection (R240). -/
def W.setFrames (w : W) (b : Buf) (prot : Nat) : W :=
  if b.backing = 3 then
    b.pages.foldl (fun w p => (List.range (b.page / 0x10000)).foldl (fun w k =>
      w.onCore b.core fun c => { c with frames := Tab.put c.frames ((p.phys - coreBase b.core) / 0x10000 + k) prot }) w) w
  else w

/-- The buffer of a BUF_ALLOC made, or the failure of R133. -/
def W.tryAlloc (w : W) (c : Ctx) : Except Fail (Nat × W) :=
  let d := w.dev
  let b := c.f 0x12 1
  let home := if b = 3 then dieOfCore (c.f 0x15 1) else c.f 0x13 1
  match Tab.firstFree d.bufs 0 65536 with
  | none => .error ⟨0x08, 0x01 + 3 * 65536, []⟩
  | some i =>
    match d.chooseVa (c.f 8 8) (c.f 0 8) (allocPage c) with
    | none => .error ⟨0x08, 0x02 + home * 65536, []⟩
    | some base =>
      if b = 3 && 68 ≤ d.physOfCore (c.f 0x15 1) then .error ⟨0x08, 0x03 + c.f 0x15 1 * 65536, []⟩
      else
        let (sb, sn) := sramStore c
        match (if sramBacking b then d.sramRange sb sn (c.f 0 8) (allocPage c) else some 0) with
        | none => .error ⟨0x08, 0x02 + home * 65536, []⟩
        | some off =>
          let (g, w) := w.nextGen 3 i
          let w := w.onDev fun d => { d with bufs := Tab.put d.bufs i (bufOf c g base) }
          match placePages w i (sb + off) (c.f 0 8 / allocPage c) with
          | .error e => .error ⟨0x08, 0x02 + e * 65536, []⟩
          | .ok w =>
            match Tab.get w.dev.bufs i with
            | some x => .ok (i, w.setFrames x (b2n x.read + 2 * b2n x.write))
            | none => .ok (i, w)

/-- BUF_ALLOC (R132, R133). -/
def bufAlloc : OpSpec where
  op := 0x0200
  targets := [0]
  set := .live
  len := fun n => n = 32
  handles := fun _ => [⟨0x18, [1], true⟩]
  check := fun c w => firstBad (allocFields c w.dev)
  res := fun c w => match w.tryAlloc c with
    | .error f => some f
    | .ok _ => none
  body := fun c w => match w.tryAlloc c with
    | .ok (i, w) =>
      w.ok c (toLe 4 (w.dev.handleOf 3 i) ++ zeros 4 ++ toLe 8 (((Tab.get w.dev.bufs i).map Buf.base).getD 0))
    | .error f => w.failWith c f

/-- The pages of buffer i from page k on pinned in HBM (R134): each page outside HBM takes a frame under R133; the failure names the
die. -/
def pinPages (w : W) (i k : Nat) : Nat → Except Nat W
  | 0 => .ok w
  | n + 1 =>
    match Tab.get w.dev.bufs i, w.dev.page i k with
    | some b, some p =>
      if p.st = .pinned then pinPages w i (k + 1) n
      else if p.st = .placedHbm then pinPages (w.onPage i k fun p => { p with st := .pinned, count := 0, hold := 0 }) i (k + 1) n
      else match w.dev.frameFor (b.stacks k) b.page with
        | some f =>
          pinPages ((w.movePage i k f .pinned).onPage i k fun p => { p with count := 0, hold := 0 }) i (k + 1) n
        | none => .error (b.home k)
    | _, _ => .ok w

/-- PIN set on a buffer whose migrations are over: its page-ins are dropped, its pages pinned, its waiters wake (R134). -/
def W.pinBuffer (w : W) (i prot : Nat) : Except Fail W :=
  match Tab.get w.dev.bufs i with
  | none => .ok w
  | some b =>
    let w' := w.onMs fun m => { m with pageins := m.pageins.filter fun q => q.buf != i }
    match pinPages w' i 0 b.pages.length with
    | .error die => .error ⟨0x08, 0x02 + die * 65536, []⟩
    | .ok w =>
      let w := w.onBuf i fun b => { b with read := bit prot 0, write := bit prot 1, pin := true }
      .ok ((List.range b.pages.length).foldl (fun w k => w.wakePage i k) w)

/-- BUF_PROTECT (R134): setting PIN waits for the migrations of the buffer's pages. -/
def bufProtect : OpSpec where
  op := 0x0201
  targets := [3]
  set := .up
  len := fun n => n = 8
  check := fun c w =>
    let fixed := match Tab.get w.dev.bufs c.idx with
      | some b => 2 ≤ b.backing && bit (c.f 0 1) 2 != b.pin
      | none => false
    firstBad [(0, c.f 0 1 < 8 && !fixed), (1, zeroAt c.ps 1 7)]
  body := fun c w =>
    let prot := c.f 0 1
    match Tab.get w.dev.bufs c.idx with
    | none => w
    | some b =>
      if bit prot 2 && !b.pin then
        if w.dev.ms.migs.any fun m => m.buf = c.idx then w.pend c (.pinPages c.idx prot)
        else match w.pinBuffer c.idx prot with
          | .ok w => w.ok c []
          | .error f => w.failWith c f
      else
        let w := w.onBuf c.idx fun b =>
          { b with
            read := bit prot 0, write := bit prot 1, pin := bit prot 2
            pages := if b.pin && !bit prot 2 && b.backing ≤ 1 then b.pages.map fun p => { p with st := .placedHbm, count := 0, hold := 0 }
              else b.pages }
        (w.setFrames b (prot % 4)).ok c []

/-- n bytes of a repeated 8-byte pattern. -/
def patternBytes (n pat : Nat) : List Byte := (List.range (n / 8)).flatMap fun _ => toLe 8 pat

/-- A range of a buffer written with a pattern, wherever its pages reside (R135). -/
def W.fillRange (w : W) (b : Buf) (off n pat : Nat) : W :=
  (pieces (b.base + off) n).foldl (fun w (a, k) =>
    let j := (a - b.base) / b.page
    match b.pages[j]? with
    | some p => if p.held then w.put (p.phys + (a - b.base) % b.page) (patternBytes k pat) else w
    | none => w) w

/-- The frames that BUF_FILL needs on a NET buffer secured (R135): the pages of a list that are ABSENT take frames; answers whether
all did. A page that has taken a frame is PLACED_HBM. -/
def secureNet (w : W) (i : Nat) : List Nat → W × Bool
  | [] => (w, true)
  | k :: rest =>
    match Tab.get w.dev.bufs i, w.dev.page i k with
    | some b, some p =>
      if p.st = .absent then
        match w.secureFrame (b.home k) (b.stacks k) with
        | some (f, w) => secureNet (w.onPage i k fun p => { p with st := .placedHbm, phys := f, held := true }) i rest
        | none => (w, false)
      else secureNet w i rest
    | _, _ => secureNet w i rest

/-- BUF_FILL (R135). -/
def bufFill : OpSpec where
  op := 0x0202
  targets := [3]
  set := .live
  len := fun n => n = 24
  check := fun c w =>
    match Tab.get w.dev.bufs c.idx with
    | none => none
    | some b =>
      let net := b.backing = 2
      firstBad [(0, c.f 0 8 % 8 = 0 && c.f 0 8 ≤ b.size && (!net || c.f 0 8 % b.page = 0)),
        (8, c.f 8 8 % 8 = 0 && c.f 0 8 + c.f 8 8 ≤ b.size && (!net || c.f 8 8 % b.page = 0))]
  body := fun c w =>
    match Tab.get w.dev.bufs c.idx with
    | none => w
    | some b =>
      let ks := (List.range (c.f 8 8 / b.page)).map (c.f 0 8 / b.page + ·)
      let (w', ok) := if b.backing = 2 then secureNet w c.idx ks else (w, true)
      if !ok then
        let old := b.pages
        let w' := w'.onBuf c.idx fun x => { x with pages := old }
        w'.failWith c ⟨0x08, 0x02 + b.home (c.f 0 8 / b.page) * 65536, []⟩
      else
        let filling := if b.backing = 2 then ks.filter fun k => (b.pages[k]?.map Page.st) = some .filling else []
        let w' := filling.foldl (fun w k => (w.onPage c.idx k fun p => { p with st := .placedHbm }).onMs fun m =>
          { m with pageIns := m.pageIns + 1 }) w'
        match Tab.get w'.dev.bufs c.idx with
        | none => w'
        | some b' =>
          let w' := w'.fillRange b' (c.f 0 8) (c.f 8 8) (c.f 0x10 8)
          let w' := if b.backing = 2 then ks.foldl (fun w k => w.wakePage c.idx k) w' else w'
          w'.ok c []

/-- PAGE_SUPPLY (R147). -/
def pageSupply : OpSpec where
  op := 0x0203
  targets := [3]
  set := .up
  len := fun n => n = 16
  check := fun c w =>
    match Tab.get w.dev.bufs c.idx with
    | none => none
    | some b => firstBad [(0, c.f 0 8 % b.page = 0 && c.f 0 8 < b.size), (8, c.f 8 1 ≤ 1), (9, zeroAt c.ps 9 7)]
  conflict := fun c w =>
    match Tab.get w.dev.bufs c.idx with
    | none => none
    | some b => if (b.pages[c.f 0 8 / b.page]?.map Page.st) = some .filling then none else some 0x02
  body := fun c w =>
    match Tab.get w.dev.bufs c.idx with
    | none => w
    | some b =>
      let k := c.f 0 8 / b.page
      let w := w.onPage c.idx k fun p => { p with st := .placedHbm, count := 0, hold := 0 }
      let w := if c.f 8 1 = 1 then (match w.dev.page c.idx k with
        | some p => w.op (.mark p.phys b.page)
        | none => w) else w
      let w := w.onMs fun m =>
        { m with pageIns := m.pageIns + 1, pageinBytes := Tab.upd m.pageinBytes (b.home k) 0 (· + bigPage) }
      ((w.wakePage c.idx k).startQueued (b.home k)).ok c []

/-- PLACE_CONFIG (R149). -/
def placeConfig : OpSpec where
  op := 0x0204
  targets := [0]
  set := .up
  len := fun n => n = 16
  check := fun c _ => firstBad [(0, c.f 0 4 ≤ 100000), (4, 1000 ≤ c.f 4 4 && c.f 4 4 ≤ 1000000), (8, 1 ≤ c.f 8 2),
    (0x0A, c.f 0x0A 2 ≤ 65534 && c.f 0x0A 2 < c.f 8 2), (0x0D, zeroAt c.ps 0x0D 3)]
  body := fun c w =>
    let x : Place := ⟨c.f 0 4, c.f 4 4, c.f 8 2, c.f 0x0A 2, c.f 0x0C 1⟩
    (w.onMs fun m => { m with placeNext := some x }).ok c []

/-- Pages of the device in a residence state. -/
def Dev.pagesIn' (d : Dev) (st : Resid) : Nat := (d.bufs.map fun (_, b) => (b.pages.filter fun p => p.st = st).length).sum

/-- PLACE_QUERY (R153). -/
def placeQuery : OpSpec where
  op := 0x0205
  targets := [0]
  set := .stat
  len := fun n => n = 0
  body := fun c w =>
    let m := w.dev.ms
    w.ok c (toLe 8 m.promotions ++ toLe 8 m.demotions ++ toLe 8 m.pageIns ++ toLe 8 m.bytesMoved ++ toLe 4 m.budgetStops
      ++ toLe 4 (w.dev.pagesIn' .placedHbm) ++ toLe 4 (w.dev.pagesIn' .placedTier) ++ toLe 4 (w.dev.pagesIn' .absent))

/-- Links of a port under CXL_BIFUR (Table 4.9): places for expanders, and lanes of each. -/
def portLinks (bifur : Nat) : Nat × Nat :=
  match bifur with
  | 0 => (1, 16) | 1 => (2, 8) | 2 => (4, 4) | _ => (4, 16)

/-- The expanders that a scan maps (R139): those attached to ports in service and to places that CXL_BIFUR gives, by port then
position, up to 16 TiB. -/
def Dev.foundExpanders (d : Dev) : List Expander :=
  let ok := d.ms.attached.filter fun e =>
    e.port < 4 && !d.hub.cxlOut.contains e.port && e.pos < (portLinks (bits d.ms.cxlCfg.toNat (2 * e.port) 2)).1
  let sorted := sortBy (fun (a b : Expander) => decide (a.port < b.port) || (decide (a.port = b.port) && decide (a.pos ≤ b.pos))) ok
  (sorted.foldl (fun (l, room) (e : Expander) =>
    let n := min e.capacity room / bigPage * bigPage
    (l ++ (if n = 0 then [] else [{ e with capacity := n, failed := false }]), room - n)) (([] : List Expander), 2 ^ 44)).1

/-- Whether a scan would find pages mapped on an expander that has gone (R140). -/
def Dev.tierGone (d : Dev) : Bool :=
  let found := d.foundExpanders
  d.bufs.any fun (_, b) => b.pages.any fun p => p.held && tierBase ≤ p.phys &&
    match tierOwner d.ms.rotation ((p.phys - tierBase) / bigPage + 1) ((p.phys - tierBase) / bigPage) 0 with
    | some e => !(found.any fun f => f.port = e.port && f.pos = e.pos && f.serial = e.serial && e.capacity ≤ f.capacity)
    | none => true

/-- An expander record of TIER_SCAN's reply. -/
def Expander.bytes (e : Expander) : List Byte :=
  toLe 1 e.port ++ toLe 1 e.pos ++ toLe 1 e.lanes ++ toLe 1 e.rate ++ toLe 8 e.capacity ++ toLe 2 e.vendor ++ toLe 2 e.device
    ++ toLe 8 e.serial ++ zeros 8

/-- TIER_SCAN (R140, R577): each link that comes up saves its presets (Table 19.6), whose contents are free. -/
def tierScan : OpSpec where
  op := 0x0206
  targets := [0]
  set := .idle
  len := fun n => n = 0
  conflict := fun _ w => if w.dev.tierGone then some 0 else none
  body := fun c w =>
    let found := w.dev.foundExpanders
    let bytes := (found.map Expander.capacity).sum
    let w := w.onMs fun m => { m with expanders := found, tierBytes := bytes }
    let w := ((found.map Expander.port).eraseDups).foldl (fun w p =>
      let (bs, w) := w.freeBytes 16
      w.journal1 0x0021 (64 + p) bs) w
    let payload := toLe 4 found.length ++ toLe 8 bytes ++ zeros 4 ++ found.flatMap Expander.bytes
    if w.dev.hub.cxlOut.isEmpty then w.ok c payload else w.reply c.ch c.hdr c.op 0x0F (0x02 + 0xFF * 65536) payload

/-- Bytes of the tier that are in service. -/
def Dev.visibleTier (d : Dev) : Nat := d.ms.tierBytes - ((d.ms.expanders.filter (·.failed)).map Expander.capacity).sum

/-- MEM_RETIRE_QUERY (R158). -/
def memRetireQuery : OpSpec where
  op := 0x0207
  targets := [0]
  set := .stat
  len := fun n => n = 4
  check := fun c w => firstBad [(0, c.f 0 4 ≤ w.dev.ms.retired.length)]
  body := fun c w =>
    let rs := (w.dev.ms.retired.drop (c.f 0 4)).take 501
    w.ok c (toLe 8 w.dev.visibleHbm ++ toLe 8 w.dev.visibleTier ++ toLe 4 w.dev.ms.retired.length ++ toLe 2 rs.length ++ zeros 2
      ++ rs.flatMap fun r => toLe 1 r.stack ++ toLe 1 r.granule ++ toLe 1 r.cause ++ zeros 1 ++ toLe 4 r.boot)

/-- A buffer destroyed (R137): its range is unmapped, its page-ins and migrations end, its waiters wake and meet the new mapping; its
frames of a core's frame table lose their bits. -/
def W.dropBuffer (w : W) (i : Nat) : W :=
  match Tab.get w.dev.bufs i with
  | none => w
  | some b =>
    let w := w.setFrames b 0
    let w := b.pages.foldl (fun w p => if p.held then (w.op (.clear p.phys b.page)).op (.clean p.phys b.page) else w) w
    let w := w.onMs fun m =>
      { m with pageins := m.pageins.filter fun q => q.buf != i, migs := m.migs.filter fun q => q.buf != i }
    let w := w.onDev fun d => { d with bufs := Tab.del d.bufs i }
    w.wakeStreams b.base b.size

/-- BUF_ALLOC as a packet. -/
def execBufAlloc (ch : Nat) (p : Packet) (s : State) : Out := run s (hostCommand bufAlloc ch p)

/-- PLACE_CONFIG as a packet. -/
def execPlaceConfig (ch : Nat) (p : Packet) (s : State) : Out := run s (hostCommand placeConfig ch p)

/-- PLACE_QUERY as a packet. -/
def execPlaceQuery (ch : Nat) (p : Packet) (s : State) : Out := run s (hostCommand placeQuery ch p)

/-- TIER_SCAN as a packet. -/
def execTierScan (ch : Nat) (p : Packet) (s : State) : Out := run s (hostCommand tierScan ch p)

/-- MEM_RETIRE_QUERY as a packet. -/
def execMemRetireQuery (ch : Nat) (p : Packet) (s : State) : Out := run s (hostCommand memRetireQuery ch p)

end Sys2Proof.Machine
end

