-- ==== Sys2Proof/Machine/SyncCmds.lean ====
section
/-! DEFINITION. The commands of sync objects and of the tick (R283, R293 to R296). -/

namespace Sys2Proof.Machine

/-- Whether n local indices of a die from a start are free. -/
def Dev.syncRunFree (d : Dev) (die start n : Nat) : Bool :=
  (List.range n).all fun k => (Tab.get d.syncs (2048 * die + start + k)).isNone

/-- The run of SYNC_CREATE (R293): at LOCAL_INDEX, or the lowest free one. -/
def Dev.syncRun (d : Dev) (die loc n : Nat) : Option Nat :=
  if loc = 0xFFFF then (List.range (2049 - n)).find? fun s => d.syncRunFree die s n
  else if d.syncRunFree die loc n then some loc else none

/-- n objects created from an index, with a starting value and a tag; answers their handles. -/
def W.makeSyncs (w : W) (idx n init tag : Nat) : List Nat × W :=
  (List.range n).foldl (fun (hs, w) k =>
    let (g, w) := W.nextGen w 5 (idx + k)
    (hs ++ [mkHandle 5 g (idx + k)],
      w.onDev fun d => { d with syncs := Tab.put d.syncs (idx + k) { gen := g, tag := tag, val := init } })) ([], w)

/-- SYNC_CREATE (R293). -/
def syncCreate : OpSpec where
  op := 0x0600
  targets := [0]
  set := .live
  len := fun n => n = 16
  check := fun c _ => firstBad [(0, c.f 0 1 ≤ 3), (1, 1 ≤ c.f 1 1 && c.f 1 1 ≤ 64),
    (2, c.f 2 2 = 0xFFFF || c.f 2 2 + c.f 1 1 ≤ 2048), (4, zeroAt c.ps 4 4)]
  conflict := fun c w => if w.dev.dieUp (c.f 0 1) then none else some 0
  res := fun c w => if (w.dev.syncRun (c.f 0 1) (c.f 2 2) (c.f 1 1)).isNone then noResource 0x01 5 else none
  body := fun c w =>
    match w.dev.syncRun (c.f 0 1) (c.f 2 2) (c.f 1 1) with
    | some k =>
      let (hs, w) := w.makeSyncs (2048 * c.f 0 1 + k) (c.f 1 1) (c.f 8 8) c.tag
      w.ok c (hs.flatMap (toLe 4))
    | none => w

/-- SYNC_SIGNAL (R294). -/
def syncSignal : OpSpec where
  op := 0x0601
  targets := [5]
  set := .up
  len := fun n => n = 16
  check := fun c _ => firstBad [(0, c.f 0 1 ≤ 1), (1, zeroAt c.ps 1 7), (8, c.f 0 1 = 1 || (1 ≤ c.f 8 8 && c.f 8 8 < 2 ^ 32))]
  body := fun c w =>
    let w := w.syncOp c.idx (if c.f 0 1 = 0 then .add (c.f 8 8) else .set (c.f 8 8))
    w.ok c (toLe 8 (((Tab.get w.dev.syncs c.idx).map Sync.val).getD 0))

/-- SYNC_WAIT (R295): a limit of 0 tests once. -/
def syncWait : OpSpec where
  op := 0x0602
  targets := [5]
  set := .up
  len := fun n => n = 16
  check := fun c _ => firstBad [(0, c.f 0 1 ≤ 1), (1, zeroAt c.ps 1 3), (4, c.f 4 4 ≤ 60000000),
    (8, c.f 0 1 = 1 || (1 ≤ c.f 8 8 && c.f 8 8 < 2 ^ 32))]
  body := fun c w =>
    match Tab.get w.dev.syncs c.idx with
    | none => w
    | some y =>
      let a := c.f 8 8
      let reach := c.f 0 1 = 1
      if c.f 4 4 = 0 then
        if reach then (if a ≤ y.val then w.ok c (toLe 8 y.val) else w.failWith c ⟨0x0C, 0, []⟩)
        else if y.canTake a then (w.takeNow c.idx a).ok c (toLe 8 (y.val - a))
        else w.failWith c ⟨0x0C, 0, []⟩
      else
        let wt := Waiter.cmd c.ch c.hdr.seq.toNat
        (w.pend c (.syncWait c.idx a reach (c.f 4 4))).syncOp c.idx (if reach then .reach wt a else .take wt a)

/-- SYNC_READ (R296). -/
def syncRead : OpSpec where
  op := 0x0603
  targets := [5]
  set := .up
  len := fun n => n = 0
  body := fun c w =>
    match Tab.get w.dev.syncs c.idx with
    | none => w
    | some y =>
      w.ok c (toLe 8 y.val ++ toLe 2 (y.takers.length + y.reachers.length) ++ toLe 1 (w.dev.hstate 5 c.idx)
        ++ toLe 1 (b2n (!y.boundBy.isEmpty) + 2 * b2n y.sat) ++ toLe 4 ((y.takers.head?.map Prod.snd).getD 0)
        ++ toLe 4 ((y.boundBy.head?.map fun i => w.dev.handleOf 2 i).getD 0) ++ zeros 4)

/-- SCHED_CONFIG (R283): the new period holds from the first multiple of it after the command. -/
def schedConfig : OpSpec where
  op := 0x0604
  targets := [0]
  set := .idle
  len := fun n => n = 8
  check := fun c _ => firstBad [(0, c.f 0 4 % 250 = 0 && 250 ≤ c.f 0 4 && c.f 0 4 ≤ 1000000), (4, zeroAt c.ps 4 4)]
  body := fun c w =>
    (w.onClk fun k =>
      let k := k.settle
      { k with tickNext := some ((k.now / c.f 0 4 + 1) * c.f 0 4, c.f 0 4) }).ok c []

/-- SYNC_CREATE as a packet. -/
def execSyncCreate (ch : Nat) (p : Packet) (s : State) : Out := run s (hostCommand syncCreate ch p)

/-- SYNC_SIGNAL as a packet. -/
def execSyncSignal (ch : Nat) (p : Packet) (s : State) : Out := runT s (hostCommand syncSignal ch p)

/-- SYNC_WAIT as a packet. -/
def execSyncWait (ch : Nat) (p : Packet) (s : State) : Out := runT s (hostCommand syncWait ch p)

/-- SYNC_READ as a packet. -/
def execSyncRead (ch : Nat) (p : Packet) (s : State) : Out := run s (hostCommand syncRead ch p)

/-- SCHED_CONFIG as a packet. -/
def execSchedConfig (ch : Nat) (p : Packet) (s : State) : Out := run s (hostCommand schedConfig ch p)

/-- SYNC_WAIT_LIMIT_EXPIRY (R295): a host wait whose LIMIT_US has passed leaves its queue and replies TIMEOUT. -/
def execSyncWaitLimitExpiry (ch : Nat) (seq : Word) (s : State) : Out :=
  runT s fun w =>
    match w.dev.cmds.find? fun p => p.ch = ch && p.hdr.seq = seq with
    | some p =>
      (match p.wait with
        | .syncWait _ _ _ limit =>
          if p.begun + 1000 * limit ≤ w.dev.clk.mono then
            (w.unwait (.cmd ch seq.toNat)).complete p 0x0C ((w.dev.clk.mono - p.begun) / 1000) []
          else w
        | _ => w)
    | none => w

end Sys2Proof.Machine
end

