-- ==== Sys2Proof/Machine/Feeds.lean ====
section
/-! DEFINITION. The feed service and result windows (chapter 14): the commands of group 0x05 and the events of a feed. -/

namespace Sys2Proof.Machine

/-- The feed that FEED_OPEN would create, without its sync objects (Table 14.1). -/
def feedOf (c : Ctx) (gen : Nat) : Feed :=
  { gen := gen, tag := c.tag, buf := c.f 0 4, dieMask := c.f 4 1, qdepth := c.f 5 1, batch := c.f 6 2, rowBytes := c.f 8 4
    lateSlots := c.f 0x0C 2, decodeSlots := c.f 0x0E 2, slowMax := c.f 0x10 1, intakeSlots := c.f 0x14 4, ledgerCap := c.f 0x18 4
    fill := c.f 0x20 8, base := [] }

/-- SYNC objects of a feed on each die (R442). -/
def Feed.run (f : Feed) : Nat := f.decodeSlots + f.slowMax + 3

/-- The parameters of FEED_OPEN, in ascending offset order (Table 14.1, R443). -/
def feedOpenFields (c : Ctx) (d : Dev) : List (Nat × Bool) :=
  let buf := Tab.get d.bufs (hIdx (c.f 0 4))
  [(0, (buf.map fun b => b.backing = 0 && b.pin && b.read && b.write).getD false),
   (4, 1 ≤ c.f 4 1 && c.f 4 1 ≤ 15), (5, 2 ≤ c.f 5 1 && c.f 5 1 ≤ 64), (6, 1 ≤ c.f 6 2 && c.f 6 2 ≤ 16384),
   (8, c.f 8 4 % 64 = 0 && 64 ≤ c.f 8 4 && c.f 8 4 ≤ 65536), (0x0C, c.f 0x0C 2 ≤ 1024), (0x0E, 1 ≤ c.f 0x0E 2 && c.f 0x0E 2 ≤ 256),
   (0x10, 1 ≤ c.f 0x10 1 && c.f 0x10 1 ≤ 64), (0x11, zeroAt c.ps 0x11 3), (0x14, 64 ≤ c.f 0x14 4 && c.f 0x14 4 ≤ 65536),
   (0x18, 4096 ≤ c.f 0x18 4 && c.f 0x18 4 ≤ 16777216), (0x1C, zeroAt c.ps 0x1C 4)]

/-- The reply of FEED_OPEN (R443). -/
def Feed.openReply (f : Feed) (handle : Nat) : List Byte :=
  toLe 4 handle ++ zeros 4 ++ toLe 8 f.batchBytes ++ toLe 8 (f.off 16) ++ toLe 8 (f.off 17) ++ toLe 8 f.sections.2
    ++ (List.range 4).flatMap fun d =>
      if bit f.dieMask d then
        toLe 8 (f.off (4 * d)) ++ toLe 8 (f.off (4 * d + 1)) ++ toLe 8 (f.off (4 * d + 2)) ++ toLe 2 (Tab.getD f.base d 0) ++ zeros 6
      else zeros 32

/-- FEED_OPEN (R440 to R443). -/
def feedOpen : OpSpec where
  op := 0x0500
  targets := [0]
  set := .live
  len := fun n => n = 40
  handles := fun _ => [⟨0, [3], false⟩]
  check := fun c w => firstBad (feedOpenFields c w.dev)
  conflict := fun c w => if (maskDies (c.f 4 1)).any fun d => !w.dev.dieUp d then some 0 else none
  res := fun c w =>
    let f := feedOf c 0
    if ((Tab.get w.dev.bufs (hIdx f.buf)).map Buf.size).getD 0 < f.sections.2 then noResource 0x02 7
    else if (Tab.firstFree w.dev.feeds 0 1024).isNone then noResource 0x01 7
    else if (maskDies f.dieMask).any fun d => (w.dev.syncRun d 0xFFFF f.run).isNone then noResource 0x01 5
    else none
  body := fun c w =>
    match Tab.firstFree w.dev.feeds 0 1024 with
    | none => w
    | some i =>
      let (g, w) := w.nextGen 7 i
      let f := feedOf c g
      let (base, w) := (maskDies f.dieMask).foldl (fun (b, w) d =>
        match W.dev w |>.syncRun d 0xFFFF f.run with
        | none => (b, w)
        | some s =>
          let (_, w) := W.makeSyncs w (2048 * d + s) f.run 0 c.tag
          (Tab.put b d s, w.onSync (2048 * d + s + 1) fun y => { y with val := f.intakeSlots })) (([] : Tab Nat), w)
      let f := { f with base := base }
      (w.onDev fun d => { d with feeds := Tab.put d.feeds i f }).ok c (f.openReply (mkHandle 7 g i))

/-- The settings that FEED_CONFIG carries (Table 14.2). -/
def feedCfgOf (c : Ctx) : FeedCfg :=
  { mode := c.f 0 1, lowWater := c.f 1 1, slowMult := c.f 2 1, dropMult := c.f 4 2, dropUs := c.f 8 4, alarmSync := c.f 0x0C 4 }

/-- FEED_CONFIG (R445): MODE at once on an IDLE feed; the other fields from the next evaluation. -/
def feedConfig : OpSpec where
  op := 0x0501
  targets := [7]
  set := .live
  len := fun n => n = 24
  handles := fun _ => [⟨0x0C, [5], true⟩]
  check := fun c w =>
    match Tab.get w.dev.feeds c.idx with
    | none => none
    | some f =>
      firstBad [(0, c.f 0 1 ≤ 1 && (c.f 0 1 = 0 || 1 ≤ f.lateSlots)), (1, c.f 1 1 < f.qdepth), (2, 2 ≤ c.f 2 1 && c.f 2 1 ≤ 64),
        (3, zeroAt c.ps 3 1), (4, 16 ≤ c.f 4 2 && c.f 4 2 ≤ 4096 && c.f 2 1 < c.f 4 2), (6, zeroAt c.ps 6 2),
        (8, 1000 ≤ c.f 8 4 && c.f 8 4 ≤ 10000000), (0x10, zeroAt c.ps 0x10 8)]
  conflict := fun c w =>
    match Tab.get w.dev.feeds c.idx with
    | none => none
    | some f => if w.dev.hstate 7 c.idx = 2 && f.cfg.mode != c.f 0 1 then some 2 else none
  body := fun c w =>
    (w.onFeed c.idx fun f => { f with cfg := { f.cfg with mode := c.f 0 1 }, cfgNext := some (feedCfgOf c) }).ok c []

/-- FEED_ATTACH (R460). -/
def feedAttach : OpSpec where
  op := 0x0502
  targets := [7]
  set := .live
  len := fun n => n = 32
  handles := fun _ => [⟨0, [1], false⟩]
  check := fun c w =>
    match Tab.get w.dev.feeds c.idx, Tab.get w.dev.chans (hIdx (c.f 0 4)) with
    | some f, some k =>
      firstBad [(0, k.kind = 3 && k.state = 2 && k.rxBuf != 0
          && w.dev.feeds.all fun (_, g) => g.clients.all fun x => x.chan != hIdx (c.f 0 4)),
        (4, 1 ≤ c.f 4 4 && c.f 4 4 ≤ 64), (0x14, c.f 0x14 4 % 64 = 0 && f.batchBytes ≤ c.f 0x14 4), (0x18, zeroAt c.ps 0x18 8)]
    | _, _ => none
  res := fun c w =>
    match Tab.get w.dev.feeds c.idx with
    | some f => if 16 ≤ f.clients.length then noResource 0x01 7 else none
    | none => none
  body := fun c w =>
    match (Tab.get w.dev.feeds c.idx).bind fun f => (List.range 16).find? fun k => f.clients.all fun x => x.idx != k with
    | none => w
    | some k =>
      let cl : Client := { idx := k, chan := hIdx (c.f 0 4), cslots := c.f 4 4, va := c.f 8 8, rkey := c.f 0x10 4
                           stride := c.f 0x14 4, credits := c.f 4 4 }
      (w.onFeed c.idx fun f => { f with clients := f.clients ++ [cl] }).ok c (toLe 1 k ++ zeros 7)

/-- The median of a list of times (R454); of an even number of them, a value between the middle two that the spec does not name. -/
def medianOf (l : List Nat) : Nat :=
  let s := sortBy (fun a b => a ≤ b) l
  let lo := s.getD ((s.length - 1) / 2) 0
  let hi := s.getD (s.length / 2) 0
  lo + Config.freeUlp lo hi % (hi - lo + 1)

/-- Whether the median of a feed counts (R454). -/
def Feed.medianValid (f : Feed) : Bool := 64 ≤ f.ended

/-- The number of records that FEED_LEDGER_READ copies (R465). -/
def Feed.copied (f : Feed) (start most : Nat) : Nat := min most (f.ledgerNext - start)

/-- The status that FEED_LEDGER_READ returns (R465). -/
def Feed.status (f : Feed) (copied : Nat) : List Byte :=
  toLe 8 f.ledgerOld ++ toLe 8 f.ledgerNext ++ toLe 4 copied ++ toLe 2 f.prepared
    ++ toLe 1 (b2n f.alarm + 2 * b2n f.medianValid) ++ zeros 1 ++ toLe 4 (if f.hist.isEmpty then 0 else medianOf f.hist)
    ++ toLe 4 (f.samples.filter fun s => !s.slow).length ++ toLe 2 (f.samples.filter Sample.slow).length
    ++ toLe 1 f.clients.length ++ zeros 1 ++ toLe 8 ((f.openBatch.map Batch.seq).getD f.nextSeq) ++ toLe 8 f.delivered ++ toLe 8 f.drops
    ++ zeros 4

/-- The bytes of n records of the ledger from a number. -/
def W.ledgerBytes (w : W) (f : Feed) (start n : Nat) : List Byte :=
  (List.range n).flatMap fun k => w.readVa (w.dev.feedArea f + f.off 16 + (start + k) % f.ledgerCap * 32) 32

/-- FEED_LEDGER_READ (R465). -/
def feedLedgerRead : OpSpec where
  op := 0x0503
  targets := [7]
  set := .up
  len := fun n => n = 32
  handles := fun _ => [⟨0x14, [3], false⟩]
  check := fun c w =>
    match Tab.get w.dev.feeds c.idx, Tab.get w.dev.bufs (hIdx (c.f 0x14 4)) with
    | some f, some b =>
      firstBad [(0, f.ledgerOld ≤ c.f 0 8 && c.f 0 8 ≤ f.ledgerNext), (8, c.f 8 8 + 32 * f.copied (c.f 0 8) (c.f 0x10 4) ≤ b.size),
        (0x10, 1 ≤ c.f 0x10 4 && c.f 0x10 4 ≤ 1048576), (0x14, b.write), (0x18, c.f 0x18 1 ≤ 1), (0x19, zeroAt c.ps 0x19 7)]
    | _, _ => none
  body := fun c w =>
    match Tab.get w.dev.feeds c.idx, Tab.get w.dev.bufs (hIdx (c.f 0x14 4)) with
    | some f, some b =>
      let n := f.copied (c.f 0 8) (c.f 0x10 4)
      w.withPages c [(b.base + c.f 8 8, 32 * n)] fun w =>
        let w := w.writeVa (b.base + c.f 8 8) (w.ledgerBytes f (c.f 0 8) n)
        let w := if c.f 0x18 1 = 1 then w.onFeed c.idx fun f => { f with ledgerOld := max f.ledgerOld (c.f 0 8 + n) } else w
        match Tab.get w.dev.feeds c.idx with
        | some f => w.ok c (f.status n)
        | none => w
    | _, _ => w

/-- Address of window k of a ring. -/
def Dev.windowVa (d : Dev) (r : ResultRing) (k : Nat) : Nat :=
  ((Tab.get d.bufs (hIdx r.buf)).map Buf.base).getD 0 + r.off + k * r.winBytes

/-- Window of result s. -/
def ResultRing.window (r : ResultRing) (s : Nat) : Nat := (s - 1) % r.nwin

/-- A window header (Table 14.7). -/
def windowHeader (ready : Bool) (seq count window len pub : Nat) : List Byte :=
  toLe 4 0x4E575653 ++ toLe 1 1 ++ toLe 1 (b2n ready) ++ zeros 2 ++ toLe 8 seq ++ toLe 4 count ++ toLe 4 window ++ toLe 8 len
    ++ toLe 8 pub ++ zeros 24

/-- A change of the result ring of a graph. -/
def W.onRing (w : W) (i : Nat) (f : ResultRing → ResultRing) : W := w.onGraph i fun g => { g with ring := g.ring.map f }

/-- RESULT_RING_CONFIG (R469). -/
def resultRingConfig : OpSpec where
  op := 0x0504
  targets := [4]
  set := .live
  len := fun n => n = 32
  handles := fun _ => [⟨0, [3], false⟩, ⟨0x18, [5], false⟩, ⟨0x1C, [5], false⟩]
  check := fun c w =>
    match Tab.get w.dev.bufs (hIdx (c.f 0 4)) with
    | some b =>
      firstBad [(0, b.read && b.write), (4, 2 ≤ c.f 4 4 && c.f 4 4 ≤ 65536),
        (8, c.f 8 8 % 64 = 0 && c.f 8 8 + c.f 4 4 * c.f 0x10 4 ≤ b.size),
        (0x10, c.f 0x10 4 % 64 = 0 && 128 ≤ c.f 0x10 4 && c.f 0x10 4 ≤ 2 ^ 30), (0x14, c.f 0x14 1 ≤ 1), (0x15, zeroAt c.ps 0x15 3)]
    | none => none
  conflict := fun c w =>
    let h := w.dev.hstate 4 c.idx
    if h = 1 then none else some h
  body := fun c w =>
    let r : ResultRing := { buf := c.f 0 4, nwin := c.f 4 4, off := c.f 8 8, winBytes := c.f 0x10 4, overwrite := bit (c.f 0x14 1) 0
                            freeSync := c.f 0x18 4, pubSync := c.f 0x1C 4 }
    w.withPages c ((List.range r.nwin).map fun k => (w.dev.windowVa r k, 64)) fun w =>
      let w := (List.range r.nwin).foldl (fun w k => w.writeVa (w.dev.windowVa r k) (windowHeader false (k + 1) 0 k 0 0)) w
      let w := (w.onGraph c.idx fun g => { g with ring := some r }).syncOp (hIdx r.pubSync) (.set 0)
      (w.syncOp (hIdx r.freeSync) (.set (if r.overwrite then 1 else r.nwin))).ok c []

/-- READ_COUNT of the window of a header address rises by 1, and stops at its greatest value (R471). -/
def W.countRead (w : W) (va : Nat) : W := w.writeVa (va + 0x10) (toLe 4 (satAdd 32 (leNat (w.readVa (va + 0x10) 4)) 1))

/-- FETCH_RESULT (R473, R567). -/
def fetchResult : OpSpec where
  op := 0x0505
  targets := [4]
  set := .up
  len := fun n => n = 24
  handles := fun _ => [⟨8, [1], true⟩]
  check := fun c w =>
    match (Tab.get w.dev.graphs c.idx).bind Graph.ring with
    | none => none
    | some r =>
      let k := Tab.get w.dev.chans (hIdx (c.f 8 4))
      let va := w.dev.windowVa r (r.window (c.f 0 8))
      let held := r.released < c.f 0 8 && c.f 0 8 ≤ r.published
      firstBad [(8, (c.f 8 4 = 0 && !(held && 3968 < leNat (w.readVa (va + 0x18) 8)))
        || (c.f 8 4 != 0 && (k.map fun k => k.kind = 2 && k.state = 2).getD false))]
  res := fun c w =>
    match (Tab.get w.dev.graphs c.idx).bind Graph.ring with
    | none => some ⟨0x02, 0x01, []⟩
    | some r =>
      let va := w.dev.windowVa r (r.window (c.f 0 8))
      if r.published < c.f 0 8 then some ⟨0x02, 0x01, []⟩
      else if c.f 0 8 ≤ r.released then some ⟨0x02, 0x02, []⟩
      else if w.poisonVa va (64 + leNat (w.readVa (va + 0x18) 8)) then some ⟨0x0E, 0, []⟩
      else none
  body := fun c w =>
    match (Tab.get w.dev.graphs c.idx).bind Graph.ring with
    | none => w
    | some r =>
      let va := w.dev.windowVa r (r.window (c.f 0 8))
      w.withPages c [(va, r.winBytes)] fun w =>
        let w := w.countRead va
        let n := leNat (w.readVa (va + 0x18) 8)
        let bytes := w.readVa va (64 + n)
        if c.f 8 4 = 0 then w.ok c bytes
        else
          let ch := hIdx (c.f 8 4)
          let psn := ((Tab.get w.dev.chans ch).map Chan.txPsn).getD 0
          let w := w.pend c (.fetch ch psn (bytes.take 64))
          w.initiate ch (ceilDiv bytes.length 4096) (fun psn => .write ch psn (c.f 0x10 8) (c.f 0x0C 4) bytes none) none

/-- The window of result s awaits result s + NWIN (R472). -/
def W.recycle (w : W) (r : ResultRing) (s : Nat) : W :=
  w.writeVa (w.dev.windowVa r (r.window s)) (windowHeader false (s + r.nwin) 0 (r.window s) 0 0)

/-- RESULT_RELEASE (R472). -/
def resultRelease : OpSpec where
  op := 0x0506
  targets := [4]
  set := .up
  len := fun n => n = 8
  check := fun c w =>
    firstBad [(0, c.f 0 8 ≤ (((Tab.get w.dev.graphs c.idx).bind Graph.ring).map ResultRing.published).getD 0)]
  body := fun c w =>
    match (Tab.get w.dev.graphs c.idx).bind Graph.ring with
    | none => w.ok c []
    | some r =>
      let ss := (List.range (c.f 0 8 - r.released)).map (r.released + 1 + ·)
      w.withPages c (ss.map fun s => (w.dev.windowVa r (r.window s), 64)) fun w =>
        let w := ss.foldl (fun w s =>
          let w := w.recycle r s
          if r.overwrite then w else w.syncOp (hIdx r.freeSync) (.add 1)) w
        (w.onRing c.idx fun r => { r with released := max r.released (c.f 0 8) }).ok c []

/-- FEED_OPEN as a packet. -/
def execFeedOpen (ch : Nat) (p : Packet) (s : State) : Out := run s (hostCommand feedOpen ch p)

/-- FEED_CONFIG as a packet. -/
def execFeedConfig (ch : Nat) (p : Packet) (s : State) : Out := run s (hostCommand feedConfig ch p)

/-- FEED_ATTACH as a packet. -/
def execFeedAttach (ch : Nat) (p : Packet) (s : State) : Out := run s (hostCommand feedAttach ch p)

/-- FEED_LEDGER_READ as a packet. -/
def execFeedLedgerRead (ch : Nat) (p : Packet) (s : State) : Out := run s (hostCommand feedLedgerRead ch p)

/-- RESULT_RING_CONFIG as a packet. -/
def execResultRingConfig (ch : Nat) (p : Packet) (s : State) : Out := runT s (hostCommand resultRingConfig ch p)

/-- FETCH_RESULT as a packet. -/
def execFetchResult (ch : Nat) (p : Packet) (s : State) : Out := run s (hostCommand fetchResult ch p)

/-- RESULT_RELEASE as a packet. -/
def execResultRelease (ch : Nat) (p : Packet) (s : State) : Out := runT s (hostCommand resultRelease ch p)

/-- RESULT_PUBLISH (R470): one unit of PUB_SYNC not yet taken up publishes the next result; one whose header page is absent waits. -/
def execResultPublish (graph : Nat) (s : State) : Out :=
  runT s fun w =>
    match (Tab.get w.dev.graphs graph).bind Graph.ring with
    | none => w
    | some r =>
      let units := ((Tab.get w.dev.syncs (hIdx r.pubSync)).map Sync.val).getD 0
      if units ≤ r.seen || !w.dev.syncLive r.pubSync then w
      else
        let n := r.published + 1
        let k := r.window n
        let va := w.dev.windowVa r k
        match w.dev.access va true true with
        | .away b p => w.pageIn b p
        | _ =>
          let len := leNat (w.readVa (va + 0x18) 8)
          let tag := ((Tab.get w.dev.graphs graph).map Graph.tag).getD 0
          let w := if r.winBytes - 64 < len then w.logRec 0x000D 4 tag (w.dev.handleOf 4 graph) k va [] else w
          let w := w.writeVa va (windowHeader true n 0 k (min len (r.winBytes - 64)) w.dev.clk.now)
          let w := w.onRing graph fun r => { r with published := n, seen := r.seen + 1 }
          if r.overwrite then
            let w := if r.nwin ≤ n then w.recycle r (n + 1 - r.nwin) else w
            (w.onRing graph fun r => { r with released := max r.released (n + 1 - r.nwin) }).syncOp (hIdx r.freeSync) (.add 1)
          else w

/-- The free decode task of a die with the lowest number, or slow-lane task (R447, R449). -/
def Feed.freeLane (f : Feed) (die : Nat) (slow : Bool) : Option Nat :=
  let lanes := if slow then (List.range f.slowMax).map (f.decodeSlots + ·) else List.range f.decodeSlots
  lanes.find? fun t => f.samples.all fun s => !(s.die = die && s.lane = t)

/-- Whether the ordinal of a sample names a batch that has closed or a position that is resolved (R452). -/
def Feed.ordinalGone (f : Feed) (ord : Nat) : Bool :=
  let k := ord / f.batch + 1
  match f.batches.find? fun b => b.seq = k && b.st = 0 with
  | some b => b.resolved (ord % f.batch)
  | none => k < f.nextSeq

/-- Address of the intake record next in order on a die. -/
def Dev.intakeVa (d : Dev) (f : Feed) (die : Nat) : Nat :=
  d.feedArea f + f.off (4 * die) + Tab.getD f.intake die 0 % f.intakeSlots * 32

/-- An intake record taken: INTAKE_FULL falls by 1, INTAKE_EMPTY rises by 1 (R446). -/
def W.takeIntake (w : W) (i die : Nat) : W :=
  match Tab.get w.dev.feeds i with
  | some f =>
    ((w.takeNow (f.obj die 0) 1).syncOp (f.obj die 1) (.add 1)).onFeed i fun f => { f with intake := Tab.upd f.intake die 0 (· + 1) }
  | none => w

/-- The next intake record of a die, admitted where R447 permits: a FLUSH marker is noted, a sample of a passed ordinal is
dropped, any other is dispatched to a decode task. -/
def W.admitFrom (w : W) (i die : Nat) : Option W :=
  match Tab.get w.dev.feeds i with
  | none => none
  | some f =>
    if !((Tab.get w.dev.syncs (f.obj die 0)).map fun y => y.canTake 1).getD false then none
    else
      let r := w.readVa (w.dev.intakeVa f die) 32
      let ord := fld r 8 8
      if bit (fld r 0x18 4) 0 then
        some ((w.takeIntake i die).onFeed i fun f => { f with flushes := f.flushes ++ [f.sampleNo] })
      else if f.cfg.mode = 1 && f.ordinalGone ord then
        if f.ledgerRoom < 3 then none
        else some (((w.takeIntake i die).ledger i 2 4 (ord % f.batch) die (ord / f.batch + 1) (fld r 0 8)).onFeed i fun f =>
          { f with drops := f.drops + 1 })
      else
        let w := openUpTo w i (ord / f.batch + 1) 64
        match Tab.get w.dev.feeds i with
        | none => none
        | some f =>
          match f.freeLane die false with
          | none => none
          | some lane =>
            if f.ledgerRoom < 3 || (f.cfg.mode = 1 && f.nextSeq ≤ ord / f.batch + 1) then none
            else
              let place := if f.cfg.mode = 1 then some (ord / f.batch + 1, ord % f.batch) else none
              let s : Sample := { id := fld r 0 8, ord := ord, arg := fld r 0x10 8, die := die, start := w.dev.clk.now, lane := lane
                                  place := place, no := f.sampleNo }
              let w := (w.takeIntake i die).onFeed i fun f => { f with samples := f.samples ++ [s], sampleNo := f.sampleNo + 1 }
              some (w.dispatchStep i s)

/-- Whether the feed service works on a feed. -/
def Dev.feedRuns (d : Dev) (f : Feed) : Bool := d.diesRun && !f.faulted

/-- SAMPLE_ADMIT (R447): the next record of the lowest die whose record can be admitted; a draining feed admits nothing (R467). -/
def execSampleAdmit (feed : Nat) (s : State) : Out :=
  runT s fun w =>
    match Tab.get w.dev.feeds feed with
    | some f =>
      if !w.dev.feedRuns f || f.draining then w
      else match (maskDies f.dieMask).findSome? fun d => w.admitFrom feed d with
        | some w => w.settleFeed feed
        | none => w
    | none => w

/-- The positions of an ordered batch that no sample has resolved, recorded DROPPED with MISSING (R453). -/
def W.recordMissing (w : W) (i : Nat) (b : Batch) : W :=
  match Tab.get w.dev.feeds i with
  | some f =>
    if f.cfg.mode = 0 then w
    else ((List.range f.batch).filter fun p => !b.resolved p).foldl (fun w p =>
      (w.ledger i 2 5 p 0xFFFF b.seq 0).onFeed i fun f => { f with drops := f.drops + 1 }) w
  | none => w

/-- FLUSH_RESOLVE (R453): the oldest FLUSH marker resolves once every earlier sample is resolved or slow and no copy into the open
batch runs; the open batch closes with CAUSE FLUSH. -/
def execFlushResolve (feed : Nat) (s : State) : Out :=
  runT s fun w =>
    match Tab.get w.dev.feeds feed with
    | some f =>
      match f.flushes with
      | [] => w
      | t :: rest =>
        let waits := f.samples.any fun s =>
          (s.no < t && !s.slow && !s.dropped) || (s.copying && (f.openBatch.map Batch.seq) = s.place.map Prod.fst)
        if waits || !w.dev.feedRuns f then w
        else
          let w := w.onFeed feed fun f => { f with flushes := rest }
          let w := match f.openBatch with
            | some b => (w.recordMissing feed b).closeBatch feed b.seq 0x11
            | none => w
          w.settleFeed feed
    | none => w

/-- A sample ends READY or CORRUPT: its decode time enters the median (R454). -/
def W.endDecode (w : W) (i : Nat) (s : Sample) : W :=
  w.onFeed i fun f => { f with hist := ((w.dev.clk.now - s.start) :: f.hist).take 1024, ended := f.ended + 1 }

/-- A sample dropped as CORRUPT (R451, R452); its lane task is free. -/
def W.corrupt (w : W) (i : Nat) (s : Sample) : W :=
  ((w.recordDrop i s 1).dropSample i s.no).onFeedCnt fun c => { c with corrupt := satAdd 32 c.corrupt 1 }

/-- What follows of a sample's post (R448, R449, R457): of a dropped sample, discarded; of another SAMPLE_ID, or a KIND outside
Table 14.4, CORRUPT; a READY sample whose ordered position is gone, dropped as ORDINAL. -/
def W.handlePost (w : W) (i : Nat) (f : Feed) (s : Sample) (r : List Byte) : W :=
  if s.dropped then (w.dropSample i s.no).onFeedCnt fun c => { c with latepost := satAdd 32 c.latepost 1 }
  else if fld r 1 1 = 2 && fld r 8 8 = s.id then
    let lane := if s.slow && s.lane < f.decodeSlots then (f.freeLane s.die true).getD s.lane else s.lane
    let s := { s with steps := fld r 4 4, lane := lane }
    (w.onSample i s.no fun _ => s).dispatchStep i s
  else if fld r 1 1 = 3 && fld r 8 8 = s.id then
    let w := w.endDecode i s
    if f.cfg.mode = 1 && !s.slow && f.ordinalGone s.ord then (w.recordDrop i s 4).dropSample i s.no
    else w.onFeed i fun f =>
      { f with samples := (f.samples.filter fun x => x.no != s.no) ++ [{ s with row := some (fld r 0x10 8) }] }
  else (w.endDecode i s).corrupt i s

/-- POST (R448, R449): the post slot of a lane task, with VALID = 1 and counted in POSTED, read and cleared. -/
def execPost (feed die lane : Nat) (s : State) : Out :=
  runT s fun w =>
    match Tab.get w.dev.feeds feed with
    | some f =>
      let va := w.dev.feedArea f + f.off (4 * die + 2) + 32 * lane
      let r := w.readVa va 32
      let ready := ((Tab.get w.dev.syncs (f.obj die 2)).map fun y => y.canTake 1).getD false
      if !bit f.dieMask die || f.decodeSlots + f.slowMax ≤ lane || !w.dev.feedRuns f || !ready || fld r 0 1 != 1 then w
      else
        let w := (w.takeNow (f.obj die 2) 1).writeVa va (zeros 1)
        let w := match f.samples.find? fun s => s.die = die && s.lane = lane && s.row.isNone with
          | some s => w.handlePost feed f s r
          | none => w
        w.settleFeed feed
    | none => w

/-- ROW_COPY_COMPLETE (R449, R464): the row of a placed sample is in its position, recorded PLACED; one that reads a poisoned line,
or whose row cannot be read, makes the sample CORRUPT. A row with an absent page waits for it. -/
def execRowCopyComplete (feed sample : Nat) (s : State) : Out :=
  runT s fun w =>
    match (Tab.get w.dev.feeds feed).bind fun f => (f.samples.find? fun s => s.no = sample && s.copying).map fun s => (f, s) with
    | some (f, x) =>
      match x.row, x.place with
      | some va, some (seq, p) =>
        if !w.dev.feedRuns f then w
        else match w.dev.rangeFail va f.rowBytes true false with
          | some (.away b k) => w.pageIn b k
          | some _ => (w.corrupt feed x).settleFeed feed
          | none =>
            if w.poisonVa va f.rowBytes then (w.corrupt feed x).settleFeed feed
            else
              let w := w.writeVa (w.dev.batchVa f seq + 64 + f.maskBytes + f.idBytes + p * f.rowBytes) (w.readVa va f.rowBytes)
              let w := w.ledger feed 1 0 p x.die seq x.id
              let w := w.onBatch feed seq fun b => { b with taken := Tab.put b.taken p (some (x.id, x.die)) }
              (w.dropSample feed sample).settleFeed feed
      | _, _ => w
    | none => w

/-- One sample at an evaluation: to the slow lane (R455, R456), or dropped as TIMEOUT (R457). -/
def W.evalSample (w : W) (i : Nat) (f : Feed) (s : Sample) : W :=
  let t := w.dev.clk.now - s.start
  let m := medianOf f.hist
  let limit := if f.medianValid then min (f.cfg.dropMult * m) (1000 * f.cfg.dropUs) else 1000 * f.cfg.dropUs
  let slow := !s.slow && f.medianValid && f.cfg.slowMult * m ≤ t
  let w :=
    if slow then
      let w := (w.ledger i 3 0 0xFFFF s.die (f.batchOf s) s.id).onFeedCnt fun c => { c with slow := satAdd 32 c.slow 1 }
      let w :=
        if f.cfg.mode = 1 then
          w.onBatch i (s.ord / f.batch + 1) fun b => { b with empty := b.empty ++ [s.ord % f.batch] }
        else w
      w.onSample i s.no fun s => { s with slow := true, place := none }
    else w
  if limit ≤ t then
    match (Tab.get w.dev.feeds i).bind fun f => f.samples.find? fun x => x.no = s.no with
    | some s =>
      ((w.recordDrop i s 2).onSample i s.no fun s => { s with dropped := true }).onFeedCnt fun c =>
        { c with timeout := satAdd 32 c.timeout 1 }
    | none => w
  else w

/-- FEED_EVALUATION (R454 to R458, R466): written settings apply; every sample in decode is judged; a feed whose ledger lacks room
counts the evaluation. -/
def execFeedEvaluation (feed : Nat) (s : State) : Out :=
  runT s fun w =>
    match Tab.get w.dev.feeds feed with
    | some f =>
      if !w.dev.feedRuns f then w
      else
        let w := w.onFeed feed fun f => { f with cfg := f.cfgNext.getD f.cfg, cfgNext := none }
        match Tab.get w.dev.feeds feed with
        | some f =>
          let w := (f.samples.filter fun s => s.row.isNone && !s.dropped).foldl (fun w s => w.evalSample feed f s) w
          let w := if f.ledgerRoom < 3 then w.onFeedCnt fun c => { c with stall := satAdd 32 c.stall 1 } else w
          w.settleFeed feed
        | none => w
    | none => w

/-- The client that takes the next batch (R462): with a credit and a channel that serves, longest since it began one, ties to the
lower index. -/
def Dev.nextClient (d : Dev) (f : Feed) : Option Client :=
  let ok := f.clients.filter fun c => c.credits != 0 && ((Tab.get d.chans c.chan).map fun (k : Chan) => decide (k.state = 2)).getD false
  (sortBy (fun a b => a.lastBegin < b.lastBegin || (a.lastBegin = b.lastBegin && a.idx ≤ b.idx)) ok).head?

/-- The alarm at the start of a delivery (R459). -/
def W.checkAlarm (w : W) (i : Nat) : W :=
  match Tab.get w.dev.feeds i with
  | some f =>
    if f.armed && !f.alarm && f.prepared < f.cfg.lowWater then
      let w := (w.onFeed i fun f => { f with alarm := true }).onFeedCnt fun c => { c with lowwater := satAdd 32 c.lowwater 1 }
      if f.cfg.alarmSync != 0 && w.dev.syncLive f.cfg.alarmSync then w.syncOp (hIdx f.cfg.alarmSync) (.add 1) else w
    else w
  | none => w

/-- BATCH_DELIVERY (R462): the prepared batch of the lowest number goes to a client. -/
def execBatchDelivery (feed : Nat) (s : State) : Out :=
  runT s fun w =>
    match Tab.get w.dev.feeds feed with
    | some f =>
      match f.batches.find? (fun b => b.st = 1), w.dev.nextClient f with
      | some b, some c =>
        if f.faulted || w.dev.hub.st = .updatePause || w.dev.hub.st = .off then w
        else
          let w := w.onFeed feed fun f =>
            { f with
              beginNo := f.beginNo + 1
              clients := f.clients.map fun x =>
                if x.idx = c.idx then { x with credits := x.credits - 1, begun := x.begun + 1, lastBegin := f.beginNo + 1 } else x
              batches := f.batches.map fun x => if x.seq = b.seq then { x with st := 2, client := c.idx } else x }
          let w := w.checkAlarm feed
          let low := ((Tab.get w.dev.feeds feed).map Feed.alarm).getD false
          let va := w.dev.batchVa f b.seq
          let hd := f.header (w.dev.handleOf 7 feed) b low
          let w := w.writeVa va hd
          let slot := c.va + c.begun % c.cslots * c.stride
          let body := w.readVa (va + 64) (f.batchBytes - 64)
          let w := w.initiate c.chan (ceilDiv body.length 4096) (fun psn => .write c.chan psn (slot + 64) c.rkey body none) none
          w.initiate c.chan 1 (fun psn => .write c.chan psn slot c.rkey hd (some (b.seq % 2 ^ 32))) (some (feed, b.seq))
      | _, _ => w
    | none => w

/-- CREDIT_RETURN (R461): the oldest filled slot of the client's receive ring, taken under R105; a message that is no credit message
is discarded and counted. -/
def execCreditReturn (feed client : Nat) (s : State) : Out :=
  runT s fun w =>
    match (Tab.get w.dev.feeds feed).bind fun f => f.clients.find? fun c => c.idx = client with
    | none => w
    | some cl =>
      match Tab.get w.dev.chans cl.chan with
      | none => w
      | some k =>
        match Tab.get w.dev.bufs (hIdx k.rxBuf), Tab.get w.dev.syncs (hIdx k.rxSync) with
        | some b, some y =>
          let n := b.size / 4160
          if !w.dev.syncLive k.rxSync || !y.canTake 1 || n = 0 then w
          else
            let va := b.base + (k.ringPos + n - y.val % n) % n * 4160
            match w.dev.rangeFail va 80 false false with
            | some (.away p q) => w.pageIn p q
            | _ =>
              let m := w.readVa va 80
              let good := fld m 0 2 = 1 && fld m 2 2 = 16 && fld m 64 4 = 0x43465653 && fld m 68 2 = 1 && 1 ≤ fld m 70 2
                && fld m 70 2 ≤ 64 && zeroAt m 72 8
              let w := w.takeNow (hIdx k.rxSync) 1
              if good then
                w.onFeed feed fun f =>
                  { f with clients := f.clients.map fun x =>
                      if x.idx = client then { x with credits := min (x.credits + fld m 70 2) x.cslots } else x }
              else w.onFeedCnt fun c => { c with badmsg := satAdd 32 c.badmsg 1 }
        | _, _ => w

end Sys2Proof.Machine
end

