-- ==== Sys2Proof/Machine/ChanOps.lean ====
section
/-! DEFINITION. Channel contexts (chapter 3): faulting, closing, the arrival of RoCEv2 requests, the receive ring, acknowledgements
and their consequences. -/

namespace Sys2Proof.Machine

/-- A delivery that had not been acknowledged is undone (R463): its batch is prepared again. -/
def W.undoDeliveries (w : W) (ch : Nat) : W :=
  w.onDev fun d =>
    { d with feeds := d.feeds.map fun (i, f) =>
        (i, { f with batches := f.batches.map fun b =>
          if b.st = 2 && f.clients.any fun c => c.idx = b.client && c.chan = ch then { b with st := 1 } else b }) }

/-- A channel enters FAULTED (R93): it initiates no request any more. -/
def W.faultChan (w : W) (ch : Nat) : W :=
  ((w.undoDeliveries ch).onChan ch fun c => { c with state := 6, reqs := [] }).onDev fun d =>
    { d with cmds := d.cmds.filter fun p => match p.wait with
        | .fetch k _ _ => k != ch
        | _ => true }

/-- A negative acknowledgement sent, which faults the channel (R93); a remote access error counts (R91). -/
def W.nak (w : W) (ch psn : Nat) (code : Nak) : W :=
  let w := if code = .remoteAccess then w.onEth fun e => { e with raccErr := satAdd 32 e.raccErr 1 } else w
  (w.sendOn ch (.nak ch psn code)).faultChan ch

/-- The number under which the PENDING commands of a closed channel go on: no channel has it. -/
def closedNo (c : Chan) (ch : Nat) : Nat := 16384 * (c.gen + 1) + ch

/-- A waiter that names a command of a channel, renamed. -/
def Waiter.rename (old new : Nat) : Waiter → Waiter
  | .cmd c s => .cmd (if c = old then new else c) s
  | x => x

/-- A channel closed, its reply apart (R107): commands not begun are discarded, a feed client is detached (R463), DREQ goes on a
COMMAND channel, the context is freed. Commands PENDING run on, and their replies find no channel. -/
def W.closeChan (w : W) (ch : Nat) (dreq : Bool) : W :=
  match Tab.get w.dev.chans ch with
  | none => w
  | some c =>
    let w := w.undoDeliveries ch
    let w := if dreq && c.kind = 1 then w.sendOn ch (.dreq ch) else w
    let n := closedNo c ch
    w.onDev fun d =>
      { d with
        admitted := d.admitted.filter (· != ch)
        feeds := d.feeds.map fun (i, f) => (i, { f with clients := f.clients.filter fun x => x.chan != ch })
        cmds := d.cmds.map fun p => if p.ch = ch then { p with ch := n } else p
        syncs := d.syncs.map fun (i, y) =>
          (i, { y with
            takers := y.takers.map fun (t, a) => (t.rename ch n, a)
            reachers := y.reachers.map fun (t, a) => (t.rename ch n, a) })
        chans := Tab.del d.chans ch }

/-- The class of a received frame by its PCP (R108): 1 COMMAND, 0 BULK; none for a PCP of neither. -/
def Dev.classOf (d : Dev) (pcp : Option (BitVec 3)) : Option Nat :=
  match pcp with
  | none => some 0
  | some p =>
    if p.toNat = bits d.eth.cfg.toNat 29 3 then some 1 else if p.toNat = bits d.eth.cfg.toNat 26 3 then some 0 else none

/-- A congestion notification packet for a CE-marked packet, at most one per 50 us per channel (R110). -/
def W.answerCe (w : W) (ch : Nat) (ce : Bool) : W :=
  match Tab.get w.dev.chans ch with
  | some c =>
    if ce && (match c.lastCnpOut with
      | some t => decide (t + 50000 ≤ w.dev.clk.mono)
      | none => true) then
      (w.onChan ch fun c => { c with lastCnpOut := some w.dev.clk.mono }).sendOn ch (.cnp ch)
    else w
  | none => w

/-- A frame dropped and counted. -/
def W.dropFrame (w : W) : W := w.onEth fun e => { e with rxDrop := satAdd 32 e.rxDrop 1 }

/-- Whether the hub's port serves at all: not without power or before boot stage 3 (R691), nor in FAILED with cause HUB (Table 18.5). -/
def Dev.portUp (d : Dev) : Bool := d.hub.st != .off && 3 ≤ d.hub.stage && !(d.hub.st = .failed && d.hub.failCause = 3)

/-- The arrival of a RoCEv2 request of a channel (R90, R93, R108, R110, R53): dropped, answered RNR in UPDATE_PAUSE, acknowledged
again when it is a duplicate, refused when a PSN is missing; `go` serves it in its order. -/
def W.roce (w : W) (ch : Nat) (r : RoceHdr) (go : Chan → W → W) : W :=
  if !w.dev.portUp || !r.icrcOk then w
  else match w.dev.classOf r.pcp with
    | none => w.dropFrame
    | some _ =>
      match Tab.get w.dev.chans ch with
      | none => w
      | some c =>
        if c.state = 6 then w.dropFrame
        else
          let w := w.answerCe ch r.ce
          let psn := r.psn.toNat
          let ahead := (psn + 2 ^ 24 - c.psn) % 2 ^ 24
          if w.dev.hub.st = .updatePause then w.sendOn ch (.rnr ch psn 0x14)
          else if ahead = 0 then go c w
          else if 2 ^ 23 ≤ ahead then w.sendOn ch (.ack ch psn)
          else w.sendOn ch (.nak ch c.psn .sequenceError)

/-- A request of n packets served: the expected PSN advances and it is acknowledged. -/
def W.ackReq (w : W) (ch psn : Nat) : W :=
  (w.onChan ch fun c => { c with psn := (c.psn + 1) % 2 ^ 24 }).sendOn ch (.ack ch psn)

/-- What stands in the way of the next slot of a channel's receive ring (R692, R105), in the order of R692. -/
inductive RingBar where
  | invalid | rnr | access
  | away (buf page : Nat)

/-- Slots of a receive ring (R104). -/
def ringSlots (b : Buf) : Nat := b.size / 4160

/-- The address of the next slot, or what bars it. -/
def Dev.ringNext (d : Dev) (c : Chan) (bytes : Nat) : Except RingBar Nat :=
  if c.rxBuf = 0 || !d.liveHandle 3 c.rxBuf then .error .invalid
  else match Tab.get d.bufs (hIdx c.rxBuf), Tab.get d.syncs (hIdx c.rxSync) with
    | some b, some y =>
      if !d.syncLive c.rxSync then .error .invalid
      else if ringSlots b ≤ y.val then .error .rnr
      else
        let va := b.base + c.ringPos * 4160
        match d.rangeFail va (64 + bytes) false true with
        | none => .ok va
        | some (.away i k) => .error (.away i k)
        | some _ => .error .access
    | _, _ => .error .invalid

/-- The answer to a request whose slot is barred. -/
def W.ringBarred (w : W) (ch psn : Nat) : RingBar → W
  | .invalid => w.nak ch psn .invalidRequest
  | .rnr => w.sendOn ch (.rnr ch psn w.dev.rnrTimer)
  | .away i k => (w.sendOn ch (.rnr ch psn w.dev.rnrTimer)).pageIn i k
  | .access => w.nak ch psn .remoteAccess

/-- A slot filled (Table 3.5) and RX_SYNC signalled (R104). -/
def W.fillSlot (w : W) (ch va kind imm wrLen psn : Nat) (payload : List Byte) : W :=
  match Tab.get w.dev.chans ch with
  | some c =>
    let hd := toLe 2 kind ++ toLe 2 payload.length ++ toLe 4 imm ++ toLe 8 wrLen ++ toLe 4 psn ++ zeros 44
    let n := ((Tab.get w.dev.bufs (hIdx c.rxBuf)).map ringSlots).getD 1
    ((w.writeVa va (hd ++ payload)).onChan ch fun c => { c with ringPos := (c.ringPos + 1) % n }).syncOp (hIdx c.rxSync) (.add 1)
  | none => w

/-- A Send Only on a DATA or FEED channel (R104). -/
def W.recvSend (w : W) (ch : Nat) (c : Chan) (psn : Nat) (payload : List Byte) : W :=
  if 4096 < payload.length then w.nak ch psn .invalidRequest
  else match w.dev.ringNext c payload.length with
    | .error e => w.ringBarred ch psn e
    | .ok va => (w.fillSlot ch va 1 0 0 psn payload).ackReq ch psn

/-- Whether RDMA of a channel kind is refused outright: on a COMMAND channel (R97). -/
def Chan.noRdma (c : Chan) : Bool := c.kind = 1

/-- Whether memory answers RDMA: its rails are up (R675, Table 18.5). -/
def Dev.memUp (d : Dev) : Bool := d.hub.rails

/-- What an RDMA access to n bytes meets (R91, R92, R147): a refusal, an absent page, or nothing. A FILLING page accepts writes of
its buffer's NOTIFY_CHAN. -/
def Dev.rdmaCheck (d : Dev) (ch va rkey n : Nat) (write : Bool) : Option Acc :=
  match d.handleBad [3] rkey with
  | some _ => some .unmapped
  | none =>
    match Tab.get d.bufs (hIdx rkey) with
    | none => some .unmapped
    | some b =>
      if va < b.base || b.base + b.size < va + n || (if write then !b.write else !b.read) || !d.memUp
        || (write && d.hub.st = .failed) then some .prot
      else (pieces va n).findSome? fun (a, _) =>
        match d.access a false false with
        | .away i k =>
          if write && b.backing = 2 && hIdx b.notify = ch && ((d.page i k).map fun p => decide (p.st = .filling)).getD false then none
          else some (.away i k)
        | _ => none

/-- The answer to an RDMA access that is barred. -/
def W.rdmaBarred (w : W) (ch psn : Nat) : Acc → W
  | .away i k => (w.sendOn ch (.rnr ch psn w.dev.rnrTimer)).pageIn i k
  | _ => w.nak ch psn .remoteAccess

/-- Bytes stored by RDMA: a FILLING page takes them in its frame (R147). -/
def W.rdmaStore (w : W) (va : Nat) (bs : List Byte) : W :=
  ((pieces va bs.length).foldl (fun (st : W × List Byte) (a, k) =>
    let (w, bs) := st
    let p := match w.dev.lookup a with
      | .page _ _ _ p phys => if p.held then some phys else none
      | .claim phys _ _ => some phys
      | .none => none
    (match p with
      | some p => w.put p (bs.take k)
      | none => w, bs.drop k)) (w, bs)).1

/-- Address and R_Key of a packet of a write message: its own, or those that follow from the packet before (Table 3.2). -/
def Chan.writeAt (c : Chan) (part : WritePart) (va rkey : Nat) : Option (Nat × Nat) :=
  match part with
  | .first | .only => some (va, rkey)
  | .middle | .last => c.wrNext

/-- The state of the write message after a packet of n bytes. -/
def W.wroteOn (w : W) (ch : Nat) (part : WritePart) (va rkey n : Nat) : W :=
  w.onChan ch fun c =>
    match part with
    | .first => { c with wrNext := some (va + n, rkey), wrLen := n }
    | .middle => { c with wrNext := some (va + n, rkey), wrLen := c.wrLen + n }
    | .last | .only => { c with wrNext := none, wrLen := 0 }

/-- A packet of an RDMA Write (R91, R92, R94, R97). -/
def W.recvWrite (w : W) (ch : Nat) (c : Chan) (psn : Nat) (part : WritePart) (va rkey : Nat) (payload : List Byte) : W :=
  if c.noRdma || 4096 < payload.length then w.nak ch psn .invalidRequest
  else match c.writeAt part va rkey with
    | none => w.nak ch psn .invalidRequest
    | some (va, rkey) =>
      match w.dev.rdmaCheck ch va rkey payload.length true with
      | some e => w.rdmaBarred ch psn e
      | none => ((w.rdmaStore va payload).wroteOn ch part va rkey payload.length).ackReq ch psn

/-- The last packet of an RDMA Write with Immediate (R104, R105, R692): the ring is checked before anything is written. -/
def W.recvWriteImm (w : W) (ch : Nat) (c : Chan) (psn : Nat) (part : WritePart) (va rkey imm : Nat) (payload : List Byte) : W :=
  if c.noRdma || 4096 < payload.length then w.nak ch psn .invalidRequest
  else match c.writeAt part va rkey with
    | none => w.nak ch psn .invalidRequest
    | some (va, rkey) =>
      match w.dev.ringNext c 0 with
      | .error e => w.ringBarred ch psn e
      | .ok slot =>
        match w.dev.rdmaCheck ch va rkey payload.length true with
        | some e => w.rdmaBarred ch psn e
        | none =>
          let total := (if part = .only then 0 else c.wrLen) + payload.length
          let w := (w.rdmaStore va payload).wroteOn ch part va rkey payload.length
          let w := w.fillSlot ch slot 2 imm total psn []
          w.onChan ch (fun c => { c with psn := (c.psn + 1) % 2 ^ 24 }) |>.sendOn ch (.ack ch psn)

/-- The result window whose header starts at an address, if any graph has one there (R471): the address and whether it is READY. -/
def W.windowHit (w : W) (va : Nat) : Option Bool :=
  w.dev.graphs.findSome? fun (_, g) =>
    g.ring.bind fun r =>
      let base := w.dev.windowVa r 0
      if base ≤ va && (va - base) % r.winBytes = 0 && (va - base) / r.winBytes < r.nwin then
        some (fld (w.readVa va 8) 5 1 = 1)
      else none

/-- An RDMA Read (R91, R92, R471, R567): its PSNs are those of its responses. -/
def W.recvRead (w : W) (ch : Nat) (c : Chan) (psn va rkey n : Nat) : W :=
  if c.noRdma then w.nak ch psn .invalidRequest
  else match w.dev.rdmaCheck ch va rkey n false with
    | some e => w.rdmaBarred ch psn e
    | none =>
      if w.poisonVa va n then (w.logRec 0x000E 4 c.tag (w.dev.handleOf 1 ch) ch va []).nak ch psn .remoteAccess
      else
        let w := match w.windowHit va with
          | some true => w.countRead va
          | some false => w.onFeedCnt fun f => { f with early := satAdd 32 f.early 1 }
          | none => w
        let data := w.readVa va n
        (w.onChan ch fun c => { c with psn := (c.psn + max 1 (ceilDiv n 4096)) % 2 ^ 24 }).sendOn ch (.readResponse ch psn data)

/-- Whether the request r lies at or before an acknowledged PSN. -/
def DevReq.upTo (r : DevReq) (psn : Nat) : Bool := (psn + 2 ^ 24 - (r.psn + r.packets - 1)) % 2 ^ 24 < 2 ^ 23

/-- A batch whose header's write is acknowledged: its slot is freed, DELIVERED is recorded (R462 step 4). -/
def W.delivered (w : W) (i seq : Nat) : W :=
  match (Tab.get w.dev.feeds i).bind fun f => f.batches.find? fun b => b.seq = seq && b.st = 2 with
  | some b =>
    ((w.ledger i 5 0 b.client 0xFFFF seq 0).onFeed i fun f =>
      { f with batches := f.batches.filter (fun x => x.seq != seq), delivered := f.delivered + 1 }).settleFeed i
  | none => w

/-- The acknowledgement of a request: a delivery ends, a FETCH_RESULT completes with its header (R473). -/
def W.reqDone (w : W) (ch : Nat) (r : DevReq) : W :=
  let w := match r.feed with
    | some (i, seq) => w.delivered i seq
    | none => w
  match w.dev.cmds.find? (fun p => match p.wait with
    | .fetch k psn _ => k = ch && psn = r.psn
    | _ => false) with
  | some p => (match p.wait with
    | .fetch _ _ h => w.complete p 0 0 h
    | _ => w)
  | none => w

/-- Acknowledged requests leave, oldest first, with their consequences (R94). -/
def W.acked (w : W) (ch psn : Nat) : W :=
  match Tab.get w.dev.chans ch with
  | some c =>
    let done := c.reqs.filter fun r => r.upTo psn
    let w := w.onChan ch fun c => { c with reqs := c.reqs.filter fun r => !r.upTo psn }
    done.foldl (fun w r => w.reqDone ch r) w
  | none => w

/-- The requests of a channel that are not acknowledged, sent again. -/
def W.resend (w : W) (ch : Nat) : W :=
  match Tab.get w.dev.chans ch with
  | some c => c.reqs.foldl (fun w r => w.sendOn ch r.msg) w
  | none => w

/-- The greatest rate of a channel, Mb/s (R111). -/
def Chan.maxRate (c : Chan) : Rat := if c.rateCap = 0 then 800000 else c.rateCap

/-- The owner key (R591, R616): that of the highest slot with VALID. -/
def Fuse.ownerKey (f : Fuse) : Option (List Byte) := ((f.owner.filter Prod.snd).getLast?).map Prod.fst

/-- An AUTH_FAIL reply of R102, R629 or R648, counted (R650). -/
def W.authFail (w : W) (c : Ctx) (detail : Nat) : W :=
  (w.failWith c ⟨0x09, detail, []⟩).onFw fun f => { f with authFail := satAdd 32 f.authFail 1 }

end Sys2Proof.Machine
end

