-- ==== Sys2Proof/Machine/Crypto.lean ====
section
/-! DEFINITION. The cryptographic functions that the spec names by their standards (R35, R102, R615 to R620, R629, R649): SHAKE256
(FIPS 202), Ed448 and Ed448ph (RFC 8032), X448 (RFC 7748), AES-256-GCM (SP 800-38D). -/

namespace Sys2Proof

/-- A 64-bit lane rotated left. -/
def rotl64 (v n : Nat) : Nat := v * 2 ^ n % 2 ^ 64 + v / 2 ^ (64 - n)

/-- Rotation of each lane x + 5 y (FIPS 202 rho). -/
def keccakRot : List Nat :=
  [0, 1, 62, 28, 27, 36, 44, 6, 55, 20, 3, 10, 43, 25, 39, 41, 45, 15, 21, 8, 18, 2, 61, 56, 14]

/-- Round constants (FIPS 202 iota). -/
def keccakRc : List Nat :=
  [0x0000000000000001, 0x0000000000008082, 0x800000000000808A, 0x8000000080008000, 0x000000000000808B, 0x0000000080000001,
   0x8000000080008081, 0x8000000000008009, 0x000000000000008A, 0x0000000000000088, 0x0000000080008009, 0x000000008000000A,
   0x000000008000808B, 0x800000000000008B, 0x8000000000008089, 0x8000000000008003, 0x8000000000008002, 0x8000000000000080,
   0x000000000000800A, 0x800000008000000A, 0x8000000080008081, 0x8000000000008080, 0x0000000080000001, 0x8000000080008008]

/-- One round of Keccak-f[1600] on 25 lanes. -/
def keccakRound (s : List Nat) (rc : Nat) : List Nat :=
  let a := s.toArray
  let g := fun (x y : Nat) => a.getD (x % 5 + 5 * (y % 5)) 0
  let c := ((List.range 5).map fun x => (List.range 5).foldl (fun v y => Nat.xor v (g x y)) 0).toArray
  let d := ((List.range 5).map fun x => Nat.xor (c.getD ((x + 4) % 5) 0) (rotl64 (c.getD ((x + 1) % 5) 0) 1)).toArray
  let r := keccakRot.toArray
  let t := fun (x y : Nat) => rotl64 (Nat.xor (g x y) (d.getD (x % 5) 0)) (r.getD (x % 5 + 5 * (y % 5)) 0)
  let b := ((List.range 25).map fun i => t (i % 5 + 3 * (i / 5)) (i % 5)).toArray
  let h := fun (x y : Nat) => b.getD (x % 5 + 5 * y) 0
  (List.range 25).map fun i =>
    let x := i % 5
    let y := i / 5
    let v := Nat.xor (h x y) (Nat.land (2 ^ 64 - 1 - h (x + 1) y) (h (x + 2) y))
    if i = 0 then Nat.xor v rc else v

/-- Keccak-f[1600]. -/
def keccakF (s : List Nat) : List Nat := keccakRc.foldl keccakRound s

/-- Bytes cut into blocks of n, at most `fuel` of them. -/
def blocksOf (n : Nat) : Nat → List Byte → List (List Byte)
  | 0, _ => []
  | fuel + 1, bs => if bs.isEmpty then [] else bs.take n :: blocksOf n fuel (bs.drop n)

/-- A block of 136 bytes absorbed. -/
def keccakAbsorb (s : List Nat) (b : List Byte) : List Nat :=
  keccakF (s.mapIdx fun i v => if i < 17 then Nat.xor v (fld b (8 * i) 8) else v)

/-- Output blocks of 136 bytes. -/
def keccakSqueeze : Nat → List Nat → List Byte
  | 0, _ => []
  | n + 1, s => (s.take 17).flatMap (toLe 8) ++ keccakSqueeze n (keccakF s)

/-- SHAKE256, n bytes of output. -/
def shake256 (n : Nat) (bs : List Byte) : List Byte :=
  let k := 136 - bs.length % 136
  let pad : List Byte := if k = 1 then [0x9F] else 0x1F :: zeros (k - 2) ++ [0x80]
  let s := (blocksOf 136 (bs.length / 136 + 1) (bs ++ pad)).foldl keccakAbsorb (List.replicate 25 0)
  (keccakSqueeze (n / 136 + 1) s).take n

/-- b ^ e modulo m, over the low `fuel` bits of e. -/
def powMod (m b : Nat) : Nat → Nat → Nat
  | 0, _ => 1 % m
  | fuel + 1, e =>
    let h := powMod m (b * b % m) fuel (e / 2)
    if e % 2 = 1 then h * b % m else h

/-- The field of curve448. -/
def p448 : Nat := 2 ^ 448 - 2 ^ 224 - 1

/-- The order of the base point. -/
def l448 : Nat := 2 ^ 446 - 13818066809895115352007386748515426880336692474882178609894547503885

/-- The curve constant d = -39081. -/
def d448 : Nat := p448 - 39081

/-- a - b in the field. -/
def sub448 (a b : Nat) : Nat := (a + (p448 - b % p448)) % p448

/-- The inverse in the field. -/
def inv448 (a : Nat) : Nat := powMod p448 a 448 (p448 - 2)

/-- A point in projective coordinates. -/
structure Pt448 where
  x : Nat
  y : Nat
  z : Nat

/-- The neutral point. -/
def ptZero : Pt448 := ⟨0, 1, 1⟩

/-- The base point (RFC 8032). -/
def ptBase : Pt448 :=
  ⟨224580040295924300187604334099896036246789641632564134246125461686950415467406032909029192869357953282578032075146446173674602635247710,
   298819210078481492676017930443930673437544040154080242095928241372331506189835876003536878655418784733982303233503462500531545062832660,
   1⟩

/-- The sum of two points (RFC 8032, section 5.2.4). -/
def ptAdd (p q : Pt448) : Pt448 :=
  let a := p.z * q.z % p448
  let b := a * a % p448
  let c := p.x * q.x % p448
  let d := p.y * q.y % p448
  let e := d448 * (c * d % p448) % p448
  let f := sub448 b e
  let g := (b + e) % p448
  let h := (p.x + p.y) * (q.x + q.y) % p448
  ⟨a * f % p448 * sub448 (sub448 h c) d % p448, a * g % p448 * sub448 d c % p448, f * g % p448⟩

/-- n times a point, over the low `fuel` bits of n. -/
def ptMul : Nat → Nat → Pt448 → Pt448
  | 0, _, _ => ptZero
  | fuel + 1, n, p =>
    let h := ptMul fuel (n / 2) (ptAdd p p)
    if n % 2 = 1 then ptAdd h p else h

/-- Whether two points are equal. -/
def ptEq (p q : Pt448) : Bool := p.x * q.z % p448 = q.x * p.z % p448 && p.y * q.z % p448 = q.y * p.z % p448

/-- A point encoded in 57 bytes. -/
def ptEncode (p : Pt448) : List Byte :=
  let zi := inv448 p.z
  toLe 56 (p.y * zi % p448) ++ toLe 1 (p.x * zi % p448 % 2 * 128)

/-- The point that 57 bytes encode. -/
def ptDecode (bs : List Byte) : Option Pt448 :=
  let y := fld bs 0 56
  let last := fld bs 56 1
  if bs.length != 57 || p448 ≤ y || last % 128 != 0 then none
  else
    let y2 := y * y % p448
    let u := sub448 y2 1
    let v := sub448 (d448 * y2 % p448) 1
    let u2 := u * u % p448
    let u3v := u2 * u % p448 * v % p448
    let u5v3 := u3v * u2 % p448 * (v * v % p448) % p448
    let x := u3v * powMod p448 u5v3 448 ((p448 - 3) / 4) % p448
    if v * (x * x % p448) % p448 != u then none
    else if x = 0 && last / 128 = 1 then none
    else some ⟨if x % 2 = last / 128 then x else p448 - x, y, 1⟩

/-- dom4 of RFC 8032. -/
def dom4 (ph : Nat) (ctx : List Byte) : List Byte := ascii "SigEd448" ++ toLe 1 ph ++ toLe 1 ctx.length ++ ctx

/-- The secret scalar and the prefix of a private key of 57 bytes. -/
def ed448Expand (key : List Byte) : Nat × List Byte :=
  let h := shake256 114 key
  let s := fld h 0 55
  (s - s % 4 + (fld h 55 1 % 128 + 128) * 2 ^ 440, h.drop 57)

/-- The public key of a private key. -/
def ed448Public (key : List Byte) : List Byte := ptEncode (ptMul 456 (ed448Expand key).1 ptBase)

/-- An Ed448 signature with a context; `ph` is 1 for Ed448ph, whose message is the prehash. -/
def ed448Sign (ph : Nat) (key ctx msg : List Byte) : List Byte :=
  let (s, pre) := ed448Expand key
  let pub := ptEncode (ptMul 456 s ptBase)
  let r := leNat (shake256 114 (dom4 ph ctx ++ pre ++ msg)) % l448
  let rb := ptEncode (ptMul 456 r ptBase)
  let k := leNat (shake256 114 (dom4 ph ctx ++ rb ++ pub ++ msg)) % l448
  rb ++ toLe 57 ((r + k * s) % l448)

/-- Whether a signature of 114 bytes is valid (RFC 8032, section 5.2.7). -/
def ed448Verify (ph : Nat) (pub ctx msg sig : List Byte) : Bool :=
  match ptDecode pub, ptDecode (sig.take 57) with
  | some a, some r =>
    let s := leNat (sig.drop 57)
    let k := leNat (shake256 114 (dom4 ph ctx ++ sig.take 57 ++ pub ++ msg)) % l448
    sig.length = 114 && s < l448
      && ptEq (ptMul 3 4 (ptMul 456 s ptBase)) (ptMul 3 4 (ptAdd r (ptMul 456 k a)))
  | _, _ => false

/-- One step of the Montgomery ladder of RFC 7748 on (x2, z2, x3, z3), for base u. -/
def ladder448 (u : Nat) (t : Nat × Nat × Nat × Nat) : Nat × Nat × Nat × Nat :=
  let (x2, z2, x3, z3) := t
  let a := (x2 + z2) % p448
  let aa := a * a % p448
  let b := sub448 x2 z2
  let bb := b * b % p448
  let e := sub448 aa bb
  let da := sub448 x3 z3 * a % p448
  let cb := (x3 + z3) * b % p448
  let s := (da + cb) % p448
  let d := sub448 da cb
  (aa * bb % p448, e * ((aa + 39081 * e) % p448) % p448, s * s % p448, u * (d * d % p448) % p448)

/-- The ladder over the bits of k below n, the highest first. -/
def ladderRun (u k : Nat) : Nat → Nat × Nat × Nat × Nat → Nat × Nat × Nat × Nat
  | 0, t => t
  | n + 1, t =>
    let swap := fun (t : Nat × Nat × Nat × Nat) => (t.2.2.1, t.2.2.2, t.1, t.2.1)
    let t := if bit k n then swap (ladder448 u (swap t)) else ladder448 u t
    ladderRun u k n t

/-- X448 of a scalar and a u-coordinate, 56 bytes each. -/
def x448 (scalar u : List Byte) : List Byte :=
  let k := leNat (scalar.take 56)
  let k := (k - k % 4) % 2 ^ 447 + 2 ^ 447
  let u := leNat (u.take 56) % p448
  let t := ladderRun u k 448 (1, 0, u, 1)
  toLe 56 (t.1 * inv448 t.2.1 % p448)

/-- The X448 public key of a scalar. -/
def x448Public (scalar : List Byte) : List Byte := x448 scalar (toLe 56 5)

/-- Doubling in the field of AES. -/
def aesDouble (a : Nat) : Nat := if a < 128 then 2 * a else Nat.xor (2 * a - 256) 0x1B

/-- Multiplication in the field of AES, over the low n bits of b. -/
def aesMul (a : Nat) : Nat → Nat → Nat
  | 0, _ => 0
  | n + 1, b => Nat.xor (if b % 2 = 1 then a else 0) (aesMul (aesDouble a) n (b / 2))

/-- The S-box at a byte: the inverse, then the affine map (FIPS 197). -/
def aesSubOne (x : Nat) : Nat :=
  let sq := fun a => aesMul a 8 a
  let x2 := sq x
  let x4 := sq x2
  let x8 := sq x4
  let x16 := sq x8
  let x32 := sq x16
  let x64 := sq x32
  let x128 := sq x64
  let inv := [x2, x4, x8, x16, x32, x64, x128].foldl (fun a b => aesMul a 8 b) 1
  let rot := fun n => inv * 2 ^ n % 256 + inv / 2 ^ (8 - n)
  Nat.xor (Nat.xor (Nat.xor (Nat.xor inv (rot 1)) (Nat.xor (rot 2) (rot 3))) (rot 4)) 0x63

/-- The S-box. -/
def aesSbox : Array Nat := ((List.range 256).map aesSubOne).toArray

/-- The next 8 words of the key schedule of AES-256 from the last 8 words (words of 4 bytes), with round constant rc. -/
def aesKeyStep (ws : List (List Nat)) (rc : Nat) : List (List Nat) :=
  let sub := fun (w : List Nat) => w.map fun b => aesSbox.getD b 0
  let x := fun (a b : List Nat) => List.zipWith Nat.xor a b
  let t := sub ((ws.getD 7 []).drop 1 ++ (ws.getD 7 []).take 1)
  let t := x t [rc, 0, 0, 0]
  let w0 := x (ws.getD 0 []) t
  let w1 := x (ws.getD 1 []) w0
  let w2 := x (ws.getD 2 []) w1
  let w3 := x (ws.getD 3 []) w2
  let w4 := x (ws.getD 4 []) (sub w3)
  let w5 := x (ws.getD 5 []) w4
  let w6 := x (ws.getD 6 []) w5
  [w0, w1, w2, w3, w4, w5, w6, x (ws.getD 7 []) w6]

/-- The 15 round keys of AES-256, as lists of 16 bytes. -/
def aesKeys (key : List Byte) : List (List Nat) :=
  let k := (padTo 32 key).map BitVec.toNat
  let w0 := (List.range 8).map fun i => (k.drop (4 * i)).take 4
  let (_, ws) := [1, 2, 4, 8, 16, 32, 64].foldl (fun (last, all) rc =>
    let n := aesKeyStep last rc
    (n, all ++ n)) (w0, w0)
  (List.range 15).map fun r => ((ws.drop (4 * r)).take 4).flatten

/-- SubBytes and ShiftRows on 16 bytes in column order. -/
def aesSubShift (s : List Nat) : List Nat :=
  let a := s.toArray
  (List.range 16).map fun i => aesSbox.getD (a.getD ((i + 4 * (i % 4)) % 16) 0) 0

/-- MixColumns. -/
def aesMix (s : List Nat) : List Nat :=
  let a := s.toArray
  (List.range 16).map fun i =>
    let g := fun k => a.getD (i / 4 * 4 + (i + k) % 4) 0
    let dbl := aesDouble
    Nat.xor (Nat.xor (dbl (g 0)) (Nat.xor (dbl (g 1)) (g 1))) (Nat.xor (g 2) (g 3))

/-- One block enciphered with the round keys of AES-256. -/
def aesBlock (keys : List (List Nat)) (b : List Byte) : List Byte :=
  let x := fun (a b : List Nat) => List.zipWith Nat.xor a b
  let s := x ((padTo 16 b).map BitVec.toNat) (keys.getD 0 [])
  let s := (List.range 13).foldl (fun s r => x (aesMix (aesSubShift s)) (keys.getD (r + 1) [])) s
  (x (aesSubShift s) (keys.getD 14 [])).map (BitVec.ofNat 8)

/-- Multiplication in the field of GHASH, over the top n bits of x. -/
def ghashMul (x : Nat) : Nat → Nat → Nat → Nat
  | 0, _, z => z
  | n + 1, v, z =>
    let z := if bit x n then Nat.xor z v else z
    ghashMul x n (if v % 2 = 1 then Nat.xor (v / 2) (0xE1 * 2 ^ 120) else v / 2) z

/-- GHASH of a byte sequence whose length is a multiple of 16. -/
def ghash (h : Nat) (bs : List Byte) : Nat :=
  (blocksOf 16 (bs.length / 16 + 1) bs).foldl (fun y b => ghashMul (Nat.xor y (beNat b)) 128 h 0) 0

/-- Zero-extension to a multiple of 16 bytes. -/
def pad16 (bs : List Byte) : List Byte := bs ++ zeros (alignUp bs.length 16 - bs.length)

/-- Exclusive-OR of byte sequences, to the shorter length. -/
def xorBytes (a b : List Byte) : List Byte := List.zipWith (fun x y => x ^^^ y) a b

/-- The counter mode of GCM with a nonce of 12 bytes: encipherment and decipherment. -/
def gcmCrypt (keys : List (List Nat)) (nonce bs : List Byte) : List Byte :=
  let n := ceilDiv bs.length 16
  xorBytes bs ((List.range n).flatMap fun i => aesBlock keys (nonce ++ toBe 4 (i + 2)))

/-- The tag of GCM. -/
def gcmTag (keys : List (List Nat)) (nonce aad ct : List Byte) : List Byte :=
  let h := beNat (aesBlock keys (zeros 16))
  let s := ghash h (pad16 aad ++ pad16 ct ++ toBe 8 (8 * aad.length) ++ toBe 8 (8 * ct.length))
  xorBytes (toBe 16 s) (aesBlock keys (nonce ++ toBe 4 1))

/-- AES-256-GCM: the enciphered bytes and then their 16-byte tag. -/
def gcmSeal (key nonce aad pt : List Byte) : List Byte :=
  let keys := aesKeys key
  let ct := gcmCrypt keys nonce pt
  ct ++ gcmTag keys nonce aad ct

/-- The plaintext of sealed bytes; none where the tag is wrong. -/
def gcmOpen (key nonce aad bs : List Byte) : Option (List Byte) :=
  let keys := aesKeys key
  let ct := bs.take (bs.length - 16)
  if 16 ≤ bs.length && gcmTag keys nonce aad ct = bs.drop (bs.length - 16) then some (gcmCrypt keys nonce ct) else none

end Sys2Proof
end

