-- ==== Sys2Proof/Machine/Channels.lean ====
section
/-! DEFINITION. The commands of channels (R99 to R107) and the events of the Ethernet port (R84 to R114). -/

namespace Sys2Proof.Machine

/-- The parameters of CHAN_OPEN, in ascending offset order (Table 3.4, R104, R692). -/
def chanOpenFields (c : Ctx) (d : Dev) : List (Nat × Bool) :=
  let rx := c.f 0x0C 4
  let buf := Tab.get d.bufs (hIdx rx)
  [(0, c.f 0 1 = 2 || c.f 0 1 = 3), (1, c.f 1 1 ≤ 1), (2, c.f 2 1 = 4 || c.f 2 1 = 6), (3, 1 ≤ c.f 3 1 && c.f 3 1 ≤ 16),
   (4, c.f 4 4 < 2 ^ 24), (8, c.f 8 4 < 2 ^ 24),
   (0x0C, rx = 0 || (buf.map fun b => b.write && 1 ≤ ringSlots b).getD false), (0x10, (c.f 0x10 4 = 0) = (rx = 0)),
   (0x14, zeroAt c.ps 0x14 4), (0x18, c.f 2 1 = 6 || zeroAt c.ps 0x1C 12), (0x2E, zeroAt c.ps 0x2E 2)]

/-- CHAN_OPEN (R103). -/
def chanOpen : OpSpec where
  op := 0x0100
  targets := [0]
  set := .hub
  len := fun n => n = 48
  handles := fun _ => [⟨0x0C, [3], true⟩, ⟨0x10, [5], true⟩]
  check := fun c w => firstBad (chanOpenFields c w.dev)
  res := fun _ w => if (Tab.firstFree w.dev.chans 0 16384).isNone then noResource 0x01 1 else none
  body := fun c w =>
    match Tab.firstFree w.dev.chans 0 16384 with
    | none => w
    | some i =>
      let (g, w) := w.nextGen 1 i
      let (r, w) := w.free
      let psn := r % 2 ^ 24
      let k : Chan :=
        { gen := g, tag := c.tag, kind := c.f 0 1, state := 2, prio := c.f 1 1, ipVer := c.f 2 1, rdDepth := c.f 3 1
          remoteQpn := c.f 4 4, psn := c.f 8 4, txPsn := psn, remoteIp := slice c.ps 0x18 16, remoteMac := slice c.ps 0x28 6
          rxBuf := c.f 0x0C 4, rxSync := c.f 0x10 4, ecn := bit w.dev.eth.cfg.toNat 24 }
      (w.onDev fun d => { d with chans := Tab.put d.chans i k }).ok c
        (toLe 4 (mkHandle 1 g i) ++ toLe 4 (0x010000 + i) ++ toLe 4 psn)

/-- CHAN_AUTH_CHALLENGE (R102). -/
def chanAuthChallenge : OpSpec where
  op := 0x0101
  targets := [1]
  set := .stat
  len := fun n => n = 0
  conflict := fun c w => if w.dev.hstate 1 c.idx = 1 then none else some (w.dev.hstate 1 c.idx)
  body := fun c w =>
    let (nonce, w) := w.freeBytes 32
    (w.onChan c.idx fun k => { k with nonce := some (nonce, w.dev.clk.mono) }).ok c (nonce ++ toLe 8 w.dev.fuse.serial)

/-- The message that an authentication signs (R102). -/
def Dev.authMessage (d : Dev) (nonce : List Byte) (i : Nat) : List Byte := nonce ++ toLe 4 (d.handleOf 1 i) ++ toLe 4 (0x010000 + i)

/-- CHAN_AUTH_RESPONSE (R102, Table 3.3a). -/
def chanAuthResponse : OpSpec where
  op := 0x0102
  targets := [1]
  set := .stat
  len := fun n => n = 116
  check := fun c _ => firstBad [(0x72, zeroAt c.ps 0x72 2)]
  conflict := fun c w => if w.dev.hstate 1 c.idx = 1 then none else some (w.dev.hstate 1 c.idx)
  body := fun c w =>
    match (Tab.get w.dev.chans c.idx).bind fun k => k.nonce.map fun n => (k, n) with
    | none => w.authFail c 0x03
    | some (k, nonce, t) =>
      if t + 10000000000 < w.dev.clk.mono then w.authFail c 0x03
      else
        let good := match w.dev.fuse.ownerKey with
          | some key => ed448Verify 0 key (ascii "SV24-CHAN-AUTH") (w.dev.authMessage nonce c.idx) (slice c.ps 0 114)
          | none => false
        let w := w.onChan c.idx fun k => { k with nonce := none }
        if good then (w.onChan c.idx fun k => { k with state := 2 }).ok c []
        else
          let w := (w.onChan c.idx fun k => { k with badSigs := k.badSigs + 1 }).authFail c 0x02
          if 2 ≤ k.badSigs then w.closeChan c.idx true else w

/-- CHAN_MODIFY (R106): the values hold from the channel's next packet. -/
def chanModify : OpSpec where
  op := 0x0103
  targets := [1]
  set := .hub
  len := fun n => n = 8
  check := fun c _ => firstBad [(0, c.f 0 1 ≤ 1), (1, c.f 1 1 ≤ 1), (2, 1 ≤ c.f 2 1 && c.f 2 1 ≤ 64), (3, zeroAt c.ps 3 1),
    (4, c.f 4 4 = 0 || (100 ≤ c.f 4 4 && c.f 4 4 ≤ 800000))]
  conflict := fun c w => if w.dev.hstate 1 c.idx = 2 then none else some (w.dev.hstate 1 c.idx)
  body := fun c w =>
    (w.onChan c.idx fun k =>
      let k := { k with prio := c.f 0 1, ecn := c.f 1 1 = 1, queueLimit := c.f 2 1, rateCap := c.f 4 4 }
      { k with rc := min k.rc k.maxRate, rt := min k.rt k.maxRate }).ok c []

/-- CHAN_CLOSE (R107). -/
def chanClose : OpSpec where
  op := 0x0104
  targets := [1]
  set := .stat
  len := fun n => n = 0
  body := fun c w => (w.ok c []).closeChan c.idx true

/-- CHAN_OPEN as a packet. -/
def execChanOpen (ch : Nat) (p : Packet) (s : State) : Out := run s (hostCommand chanOpen ch p)

/-- CHAN_AUTH_CHALLENGE as a packet. -/
def execChanAuthChallenge (ch : Nat) (p : Packet) (s : State) : Out := run s (hostCommand chanAuthChallenge ch p)

/-- CHAN_AUTH_RESPONSE as a packet. -/
def execChanAuthResponse (ch : Nat) (p : Packet) (s : State) : Out := run s (hostCommand chanAuthResponse ch p)

/-- CHAN_MODIFY as a packet. -/
def execChanModify (ch : Nat) (p : Packet) (s : State) : Out := run s (hostCommand chanModify ch p)

/-- CHAN_CLOSE as a packet. -/
def execChanClose (ch : Nat) (p : Packet) (s : State) : Out := run s (hostCommand chanClose ch p)

/-- Why a connection request is rejected (R89, R90, R100). -/
def Dev.connBar (d : Dev) (r : ConnReq) : Option String :=
  let cmds := d.chans.filter fun (_, c) => c.kind = 1
  if r.pathMtu < 4096 then some "path MTU"
  else if r.rnrRetry != 7 then some "RNR retry count"
  else if 256 ≤ cmds.length || 64 ≤ (cmds.filter fun (_, c) => c.state = 1).length || (Tab.firstFree d.chans 0 16384).isNone then
    some "no QP available"
  else none

/-- CONNECTION_REQ (R99, R100): a COMMAND channel in state IDLE and its REP, or REJ; discarded in UPDATE_PAUSE. -/
def execConnectionReq (r : ConnReq) (s : State) : Out :=
  run s fun w =>
    if !w.dev.portUp || w.dev.hub.st = .updatePause then w
    else match w.dev.connBar r with
      | some why => w.send (.rej why)
      | none =>
        match Tab.firstFree w.dev.chans 0 16384 with
        | none => w
        | some i =>
          let (g, w) := w.nextGen 1 i
          let (psn, w) := w.free
          let k : Chan :=
            { gen := g, tag := 0, kind := 1, state := 1, prio := 1, ipVer := r.ipVer, remoteQpn := r.remoteQpn.toNat
              psn := r.remotePsn.toNat, txPsn := psn % 2 ^ 24, remoteIp := r.remoteIp, remoteMac := r.sourceMac
              ecn := bit w.dev.eth.cfg.toNat 24 }
          (w.onDev fun d => { d with chans := Tab.put d.chans i k }).send (.rep (mkHandle 1 g i))

/-- RTU (R99, R101): the time from which an IDLE channel may wait. -/
def execRtu (ch : Nat) (s : State) : Out :=
  run s fun w => w.onChan ch fun c =>
    if c.kind = 1 && c.rtuAt.isNone && w.dev.portUp then { c with rtuAt := some w.dev.clk.mono } else c

/-- DREQ of the peer (R99): DREP, and the channel closes. -/
def execDreq (ch : Nat) (s : State) : Out :=
  run s fun w =>
    if (Tab.get w.dev.chans ch).isSome && w.dev.portUp then (w.send (.drep ch)).closeChan ch false else w

/-- COMMAND_CHANNEL_IDLE_TIMEOUT (R101). -/
def execCommandChannelIdleTimeout (ch : Nat) (s : State) : Out :=
  run s fun w =>
    match Tab.get w.dev.chans ch with
    | some c =>
      (match c.rtuAt with
        | some t => if c.kind = 1 && c.state = 1 && t + 30000000000 ≤ w.dev.clk.mono then w.closeChan ch true else w
        | none => w)
    | none => w

/-- RDMA_WRITE (R91). -/
def execRdmaWrite (ch : Nat) (r : RoceHdr) (part : WritePart) (va : DWord) (rkey : Word) (payload : List Byte) (s : State) : Out :=
  run s fun w => w.roce ch r fun c w => w.recvWrite ch c r.psn.toNat part va.toNat rkey.toNat payload

/-- RDMA_WRITE_WITH_IMMEDIATE (R104): immediate data travel in the last or the only packet. -/
def execRdmaWriteWithImmediate (ch : Nat) (r : RoceHdr) (part : WritePart) (va : DWord) (rkey imm : Word) (payload : List Byte)
    (s : State) : Out :=
  runT s fun w => w.roce ch r fun c w =>
    if part = .first || part = .middle then w.recvWrite ch c r.psn.toNat part va.toNat rkey.toNat payload
    else w.recvWriteImm ch c r.psn.toNat part va.toNat rkey.toNat imm.toNat payload

/-- RDMA_READ_REQUEST (R91). -/
def execRdmaReadRequest (ch : Nat) (r : RoceHdr) (va : DWord) (rkey len : Word) (s : State) : Out :=
  run s fun w => w.roce ch r fun c w => w.recvRead ch c r.psn.toNat va.toNat rkey.toNat len.toNat

/-- INVALID_REQUEST (R88, R97): NAK Invalid Request, which faults the channel. -/
def execInvalidRequest (ch : Nat) (r : RoceHdr) (_opcode : Byte) (s : State) : Out :=
  run s fun w => w.roce ch r fun _ w => w.nak ch r.psn.toNat .invalidRequest

/-- ACKNOWLEDGE (R94, R462). -/
def execAcknowledge (ch : Nat) (psn : BitVec 24) (_payload : List Byte) (s : State) : Out :=
  runT s fun w =>
    match Tab.get w.dev.chans ch with
    | some c => if c.state = 6 then w.dropFrame else w.acked ch psn.toNat
    | none => w

/-- NAK_RECEIVED (R93). -/
def execNakReceived (ch : Nat) (_code : NakCode) (s : State) : Out :=
  run s fun w =>
    match Tab.get w.dev.chans ch with
    | some c => if c.state = 6 then w.dropFrame else w.faultChan ch
    | none => w

/-- The time that an RNR timer code stands for, ns (InfiniBand table of R90's standard). -/
def rnrDelay (code : Nat) : Nat :=
  10000 * ([65536, 1, 2, 3, 4, 6, 8, 12, 16, 24, 32, 48, 64, 96, 128, 192, 256, 384, 512, 768, 1024, 1536, 2048, 3072, 4096, 6144,
    8192, 12288, 16384, 24576, 32768, 49152].getD code 0)

/-- RNR_NAK_RECEIVED (R90): what went before is acknowledged; the request and those behind it go again, not before the delay of the
timer code has passed; the RNR retries have no limit. -/
def execRnrNakReceived (ch : Nat) (psn : BitVec 24) (timer : BitVec 5) (s : State) : Out :=
  runT s fun w =>
    match Tab.get w.dev.chans ch with
    | some c =>
      if c.state = 6 then w.dropFrame
      else
        let w := w.acked ch ((psn.toNat + 2 ^ 24 - 1) % 2 ^ 24)
        (w.onChan ch fun c => { c with rnrUntil := w.dev.clk.mono + rnrDelay timer.toNat }).resend ch
    | none => w

/-- LOCAL_ACK_TIMEOUT (R90): the oldest unacknowledged request and those behind it go again; after 7 retries the channel is FAULTED.
A request delayed by an RNR NAK has not timed out. -/
def execLocalAckTimeout (ch : Nat) (s : State) : Out :=
  run s fun w =>
    match Tab.get w.dev.chans ch with
    | some c =>
      match c.reqs with
      | [] => w
      | r :: rest =>
        if w.dev.clk.mono < c.rnrUntil || w.dev.hub.st = .updatePause then w
        else if 7 ≤ r.tries then w.faultChan ch
        else (w.onChan ch fun c => { c with reqs := { r with tries := r.tries + 1 } :: rest }).resend ch
    | none => w

/-- CONGESTION_NOTIFICATION (R111). -/
def execCongestionNotification (ch : Nat) (s : State) : Out :=
  run s fun w =>
    match Tab.get w.dev.chans ch with
    | some c =>
      if c.state = 6 then w.dropFrame
      else if !c.ecn then w
      else w.onChan ch fun c =>
        { c with
          rt := c.rc, rc := max (c.rc * (1 - c.alpha / 2)) 100, alpha := (1 - 1 / 256) * c.alpha + 1 / 256, stage := 0
          lastCnpIn := some w.dev.clk.mono }
    | none => w

/-- Whether no notification came to a channel in the last n ns. -/
def Chan.quiet (c : Chan) (now n : Nat) : Bool :=
  match c.lastCnpIn with
  | some t => t + n ≤ now
  | none => true

/-- ECN_ALPHA_TIMER (R111). -/
def execEcnAlphaTimer (ch : Nat) (s : State) : Out :=
  run s fun w => w.onChan ch fun c =>
    if c.ecn && c.state != 6 && c.quiet w.dev.clk.mono 55000 then { c with alpha := (1 - 1 / 256) * c.alpha } else c

/-- ECN_RATE_TIMER (R111). -/
def execEcnRateTimer (ch : Nat) (s : State) : Out :=
  run s fun w => w.onChan ch fun c =>
    if c.ecn && c.state != 6 && c.quiet w.dev.clk.mono 300000 then
      let c := { c with stage := c.stage + 1 }
      let c := if 5 < c.stage then { c with rt := min (c.rt + 40) c.maxRate } else c
      { c with rc := min ((c.rt + c.rc) / 2) c.maxRate }
    else c

/-- The pause of a class begun or ended. -/
def W.pauseClass (w : W) (cls : Nat) (on : Bool) : W :=
  (w.onEth fun e => if cls = 1 then { e with pausedCmd := on } else { e with pausedBulk := on }).releaseHeld

/-- PFC_FRAME (R109): quanta of 0 are XON; frames for other priorities, or with ETH_PFC_EN 0, are ignored. -/
def execPfcFrame (pcp : BitVec 3) (quanta : BitVec 16) (s : State) : Out :=
  run s fun w =>
    if !bit w.dev.eth.cfg.toNat 25 || !w.dev.portUp then w
    else match w.dev.classOf (some pcp) with
      | some cls => w.pauseClass cls (quanta != 0)
      | none => w

/-- PFC_QUANTA_EXPIRY (R109). -/
def execPfcQuantaExpiry (prio : PrioClass) (s : State) : Out :=
  run s fun w => w.pauseClass (match prio with
    | .command => 1
    | .bulk => 0) false

/-- A frame that the hub firmware answers within the rate of R85; further ones in the same second are dropped and counted. -/
def W.answer (w : W) (toDevice : Bool) (t : Tx) : W :=
  if !toDevice || !w.dev.portUp then w
  else
    let sec := w.dev.sec
    let w := w.onEth fun e => if e.rateSec = sec then e else { e with rateSec := sec, rateCnt := 0 }
    if 10000 ≤ w.dev.eth.rateCnt then w.dropFrame else (w.onEth fun e => { e with rateCnt := e.rateCnt + 1 }).send t

/-- ARP_REQUEST (R85). -/
def execArpRequest (toDevice : Bool) (sender : List Byte) (s : State) : Out := run s fun w => w.answer toDevice (.arpReply sender)

/-- NEIGHBOR_SOLICITATION (R85). -/
def execNeighborSolicitation (toDevice : Bool) (sender : List Byte) (s : State) : Out :=
  run s fun w => w.answer toDevice (.neighbourAdvert sender)

/-- ECHO_REQUEST (R85). -/
def execEchoRequest (toDevice : Bool) (_ipVer : Nat) (sender data : List Byte) (s : State) : Out :=
  run s fun w => w.answer toDevice (.echoReply sender data)

/-- UNSUPPORTED_FRAME (R84). -/
def execUnsupportedFrame (s : State) : Out := run s fun w => if w.dev.portUp then w.dropFrame else w

/-- ETH_LINK_UP (R691): the port trains once boot stage 3 has been reached and REFCLK is present. -/
def execEthLinkUp (lanes : Byte) (s : State) : Out :=
  run s fun w =>
    if !w.dev.portUp || !w.dev.pin.refclk || w.dev.hub.stage < 3 then w
    else w.onEth fun e => { e with linkUp := true, pcs := true, laneLock := lanes, upSince := some w.dev.clk.mono }

/-- ETH_LINK_LOSS (R114): every channel context stays. -/
def execEthLinkLoss (s : State) : Out :=
  run s fun w => w.onEth fun e => { e with linkUp := false, pcs := false, laneLock := 0, upSince := none }

/-- ETH_PRESET_SAVE (R87): after every 24 hours of link-up the adapted settings become the presets. -/
def execEthPresetSave (presets : List Byte) (s : State) : Out :=
  run s fun w =>
    match w.dev.eth.upSince with
    | some t =>
      if t + dayNs ≤ w.dev.clk.mono then
        (w.onEth fun e => { e with upSince := some w.dev.clk.mono }).journal1 0x0021 0 presets
      else w
    | none => w

end Sys2Proof.Machine
end

