-- ==== Sys2Proof/Machine/EngRun.lean ====
section
/-! DEFINITION. How an engine runs a work item (R301 to R313): the queue it takes from, what the item reads and writes, and how
it ends. An item's work is one step (DESIGN CHOICE, log entry 54): its effects on memory and state appear when it ends. -/

namespace Sys2Proof.Machine

/-- A work item at work: the device, the item, and the ranges written so far. -/
structure Work where
  w : W
  it : Item
  outs : List (Nat × Nat) := []

/-- What becomes of the effects of an item that fails (R311). -/
inductive Keep where
  /-- None is applied. -/
  | no
  /-- The output remains, poisoned. -/
  | poisoned
  /-- All remains. -/
  | all
  /-- None is applied, but bit 0 of a byte is set: POISONED of a table header (Table 10.4). -/
  | flag (va : Nat)
  deriving DecidableEq, Repr

/-- Why an item's work stops. -/
inductive Stop where
  /-- A page is ABSENT or FILLING (R307). -/
  | away (va buf page : Nat)
  /-- An access fails under R130 (R306). -/
  | xlate (va : Nat)
  /-- The item ends with a status and a reason. -/
  | fail (status reason : Nat) (keep : Keep)

/-- The work of an engine. -/
abbrev Eng := ExceptT Stop (StateM Work)

/-- The device as the item has left it. -/
def Eng.w : Eng W := do return (← get).w

/-- A change of the device. -/
def Eng.onW (f : W → W) : Eng Unit := modify fun e => { e with w := f e.w }

/-- A change of the item. -/
def Eng.onItem (f : Item → Item) : Eng Unit := modify fun e => { e with it := f e.it }

/-- The item ends with a status and a reason, without effects. -/
def Eng.fail {α : Type} (status reason : Nat) : Eng α := throw (.fail status reason .no)

/-- BAD_DESC unless a condition holds (Table 9.4). -/
def Eng.need (ok : Bool) : Eng Unit := if ok then pure () else Eng.fail 4 0x02

/-- How a failed access stops an item. -/
def accStop (va : Nat) : Acc → Stop
  | .away b k => .away va b k
  | _ => .xlate va

/-- An access that must succeed. -/
def Eng.reach (va n : Nat) (r wr : Bool) : Eng Unit := do
  let w ← Eng.w
  match (pieces va n).findSome? fun (a, _) => match w.dev.access a r wr with
      | .ok _ => none
      | e => some (accStop a e) with
  | some e => throw e
  | none => Eng.onW fun w => (pieces va n).foldl (fun w (a, _) => w.touch a) w

/-- Bytes read (R306). -/
def Eng.read (va n : Nat) : Eng (List Byte) := do
  Eng.reach va n true false
  return (← Eng.w).readVa va n

/-- A number read. -/
def Eng.num (va n : Nat) : Eng Nat := do return leNat (← Eng.read va n)

/-- Whether a range holds a poisoned line. -/
def Eng.poison (va n : Nat) : Eng Bool := do return (← Eng.w).poisonVa va n

/-- Bytes written, in pieces: those before a failing access remain (R311). -/
def writePieces : List (Nat × Nat) → List Byte → Eng Unit
  | [], _ => pure ()
  | (a, k) :: t, bs => do
    Eng.reach a k false true
    Eng.onW fun w => w.writeVa a (bs.take k)
    modify fun e => { e with outs := (a, k) :: e.outs }
    writePieces t (bs.drop k)

/-- Output bytes written (R306). -/
def Eng.write (va : Nat) (bs : List Byte) : Eng Unit := writePieces (pieces va bs.length) bs

/-- State kept in memory written (a table, an array of counts): it is no output to poison. -/
def Eng.store (va : Nat) (bs : List Byte) : Eng Unit := do
  Eng.reach va bs.length true true
  Eng.onW fun w => w.writeVa va bs

/-- The lines of a range poisoned, and POISONED set. -/
def Eng.mark (va n : Nat) : Eng Unit := do
  Eng.onW fun w => w.poisonRange va n
  Eng.onItem fun i => { i with flags := Nat.lor i.flags 4 }

/-- The bytes of an input up to the first access that fails, with that failure. -/
def Eng.source (va n : Nat) : Eng (List Byte × Option Stop) := do
  let w ← Eng.w
  let bad := (pieces va n).findSome? fun (a, _) => match w.dev.access a true false with
    | .ok _ => none
    | e => some (a - va, accStop a e)
  let k := (bad.map Prod.fst).getD n
  return (← Eng.read va k, bad.map Prod.snd)

/-- An item in its queue, replaced by what its work made of it. -/
def W.endWork (w : W) (key : Nat) (it : Item) (status reason flags : Nat) : W :=
  w.setItem key { it with st := if it.st = 0 then 1 else it.st, status := status, reason := reason, flags := flags }

/-- The output ranges of an item poisoned. -/
def W.poisonOuts (w : W) (outs : List (Nat × Nat)) : W := outs.foldl (fun w (a, n) => w.poisonRange a n) w

/-- An item's work done and its outcome settled (R306, R307, R311). -/
def W.runItem (w : W) (key : Nat) (it : Item) (work : Eng Unit) : W :=
  match work.run.run { w := w, it := { it with st := 0 } } with
  | (.ok _, e) => e.w.endWork key e.it 0 0 e.it.flags
  | (.error (.away va b k), _) => (w.pageIn b k).setItem key { it with st := 0, va := va }
  | (.error (.xlate va), e) =>
    ((e.w.poisonOuts e.outs).engFault key 0 va).endWork key { e.it with st := 1 } 0x0B 0x0B
      (if e.outs.isEmpty then e.it.flags else Nat.lor e.it.flags 4)
  | (.error (.fail s r .no), e) =>
    w.endWork key { e.it with st := 1, outDone := 0, outBytes := 0, rejected := 0, inUsed := 0 } s r 0
  | (.error (.fail s r .poisoned), e) =>
    (e.w.poisonOuts e.outs).endWork key { e.it with st := 1 } s r
      (if e.outs.isEmpty then e.it.flags else Nat.lor e.it.flags 4)
  | (.error (.fail s r (.flag va)), e) =>
    (w.writeVa va (toLe 1 (Nat.lor ((w.readVa va 1).headD 0).toNat 1))).endWork key
      { e.it with st := 1, outDone := 0, outBytes := 0, rejected := 0, inUsed := 0 } s r 0
  | (.error (.fail s r .all), e) => e.w.endWork key { e.it with st := 1 } s r e.it.flags

/-- Engines of a class on a die (R301, R344, R371, R404, R419). -/
def engines (cls : Nat) : Nat := [4, 4, 8, 2, 4, 6].getD cls 0

/-- Queues that an engine serves. -/
def engQueues (cls eng : Nat) : List Nat :=
  if cls = 3 then (List.range 4).map (4 * eng + ·)
  else if cls = 5 then (List.range 4).map ((if eng < 4 then 0 else 4) + ·)
  else List.range 8

/-- E, the engines that serve a queue (R307). -/
def queueEngines (cls q : Nat) : Nat := if cls = 3 then 1 else if cls = 5 then (if q < 4 then 4 else 2) else engines cls

/-- The items that an engine holds, with the keys of their queues. -/
def Dev.engItems (d : Dev) (die cls eng : Nat) : List (Nat × Item) :=
  (engQueues cls eng).flatMap fun q =>
    let key := queueKey die cls q
    ((d.queue key).items.filter fun i => i.eng = eng).map fun i => (key, i)

/-- Whether an item is parked, it or its record. -/
def Item.parked (i : Item) : Bool := i.st = 0 || i.st = 3

/-- Whether an engine runs an item. -/
def Dev.engBusy (d : Dev) (die cls eng : Nat) : Bool := (d.engItems die cls eng).any fun x => x.2.st = 1 || x.2.st = 4 || x.2.st = 5

/-- Whether the page that a parked item waits for is present, or can no longer come: a page that is gone ends the wait too. -/
def Dev.itemReady (d : Dev) (i : Item) : Bool :=
  i.parked && match d.access i.va false false with
    | .away _ _ => false
    | _ => true

/-- The oldest parked item of an engine whose page has become present (R307). -/
def Dev.resumable (d : Dev) (die cls eng : Nat) : Option (Nat × Item) :=
  ((d.engItems die cls eng).filter fun x => d.itemReady x.2).foldl (fun best x => match best with
    | some b => if x.2.no < b.2.no then some x else some b
    | none => some x) none

/-- Whether an engine may take an item (R307): it resumes none and holds fewer than 4 parked items. -/
def Dev.mayTake (d : Dev) (die cls eng : Nat) : Bool :=
  (d.resumable die cls eng).isNone && ((d.engItems die cls eng).filter fun x => x.2.parked).length < 4

/-- Whether a queue offers an item (R304, R307): it is enabled, below its limit, and its submit object holds at least 1. -/
def Dev.offers (d : Dev) (key : Nat) : Bool :=
  let q := d.queue key
  q.en && q.items.length < 5 * queueEngines (key % 64 / 8) (key % 8) &&
    ((Tab.get d.syncs (2048 * (key / 64) + q.submit)).map fun s => s.canTake 1).getD false

/-- The head entry of a queue. -/
inductive Head where
  | desc (bytes : List Byte)
  | away (buf page : Nat)
  | bad (va : Nat)

/-- The head entry of a queue as the engine reads it. -/
def W.head (w : W) (key : Nat) : Head :=
  let q := w.dev.queue key
  let va := q.ring + 128 * q.head
  match w.dev.access va true false with
  | .ok _ => .desc (w.readVa va 128)
  | .away b k => .away b k
  | _ => .bad va

/-- The tag of a head entry (R304); an entry that cannot be read has the time of the take. -/
def W.headTag (w : W) (key : Nat) : Nat :=
  w.dev.clk.now + match w.head key with
    | .desc b => w.dev.scale (key / 64) (fld b 0x30 4)
    | _ => 0

/-- Page-ins begun for the head entries that are away (DESIGN CHOICE, log entry 55: such a queue is passed over until the page is there). -/
def W.fetchHeads (w : W) (keys : List Nat) : W :=
  keys.foldl (fun w key => match w.head key with
    | .away b k => w.pageIn b k
    | _ => w) w

/-- The queue to take from (R304): of those given that offer an item, the one with the earliest tag, the lower number first. -/
def W.choose (w : W) (keys : List Nat) : Option Nat :=
  (keys.filter fun key => w.dev.offers key && match w.head key with
    | .away _ _ => false
    | _ => true).foldl (fun best key => match best with
    | some b => if tagEarlier (w.headTag key) (w.headTag b) then some key else some b
    | none => some key) none

/-- The item taken from a queue (R302, R304): the TAKE, the ring entry, the sequence number. -/
def W.takeItem (w : W) (key eng : Nat) (desc : List Byte) : W × Item :=
  let q := w.dev.queue key
  let it : Item := { no := w.dev.itemNo, seq := (q.seq + 1) % 2 ^ 32, desc := desc, eng := eng, st := 0 }
  let w := w.takeNow (2048 * (key / 64) + q.submit) 1
  let w := w.onQueue key fun q =>
    { q with head := (q.head + 1) % q.count, seq := (q.seq + 1) % 2 ^ 32, items := q.items ++ [it] }
  (w.onDev fun d => { d with itemNo := d.itemNo + 1 }, it)

/-- Keys of the queues that an engine serves. -/
def engKeys (die cls eng : Nat) : List Nat := (engQueues cls eng).map (queueKey die cls)

/-- An engine takes the next item of some queues when its operation is `op`, and does its work. -/
def W.takeOp (w : W) (keys : List Nat) (eng op : Nat) (work : Nat → Eng Unit) : W :=
  let w := w.fetchHeads (keys.filter w.dev.offers)
  match w.choose keys with
  | some key => match w.head key with
    | .desc b =>
      if fld b 0 1 = op then
        let (w, it) := w.takeItem key eng b
        w.runItem key it (work key)
      else w
    | _ => w
  | none => w

/-- An engine operation (R304, R307): a free engine of a running die takes an item of that operation. -/
def W.engineOp (w : W) (die cls eng op : Nat) (work : Nat → Eng Unit) : W :=
  if die < 4 && eng < engines cls && w.dev.dieRuns die && !w.dev.engBusy die cls eng && w.dev.mayTake die cls eng then
    w.takeOp (engKeys die cls eng) eng op work
  else w

/-- The descriptor of the item. -/
def Eng.desc : Eng (List Byte) := do return (← get).it.desc

/-- A change made row by row: `f` answers the state after row r, or that the item stops before it. -/
def rowLoop {σ : Type} (f : Nat → σ → Eng (Option σ)) : Nat → Nat → σ → Eng σ
  | 0, _, x => pure x
  | n + 1, r, x => do
    match ← f r x with
    | some y => rowLoop f n (r + 1) y
    | none => pure x

/-- Checks of the fields common to every descriptor (Table 9.2, R310). -/
def commonOk (b : List Byte) : Bool := zeroAt b 1 3 && zeroAt b 0x34 4 && fld b 0x28 8 % 64 = 0

end Sys2Proof.Machine
end

