-- ==== Sys2Proof/Machine/Hash.lean ====
section
/-! DEFINITION. The hash functions of R339 and R341. -/

namespace Sys2Proof.Machine

/-- A number modulo 2^64. -/
def m64 (x : Nat) : Nat := x % 2 ^ 64

/-- Rotation left of a 64-bit number (R339). -/
def rotl (x k : Nat) : Nat := m64 (x * 2 ^ k) + x / 2 ^ (64 - k)

/-- K1 to K3 of R339. -/
def svhK1 : Nat := 0xB5E31A7C48D9F26B
def svhK2 : Nat := 0x8C47D29E63A15F0D
def svhK3 : Nat := 0xE3F15B289C0A74D7

/-- mix of R339. -/
def svhMix (x : Nat) : Nat :=
  let x := m64 (Nat.xor x (x / 2 ^ 32) * svhK2)
  let x := m64 (Nat.xor x (x / 2 ^ 29) * svhK3)
  Nat.xor x (x / 2 ^ 32)

/-- A word taken into the state. -/
def svhStep (h t : Nat) : Nat := m64 (Nat.xor (rotl h 27) (svhMix t) * svhK1)

/-- The words of a string, the last filled up with zero bytes. -/
def svhWords : Nat → List Byte → Nat → Nat
  | 0, _, h => h
  | n + 1, bs, h => if bs.isEmpty then h else svhWords n (bs.drop 8) (svhStep h (leNat (bs.take 8)))

/-- SVH64 (R339). -/
def svh64 (seed : Nat) (bs : List Byte) : Nat :=
  svhMix (svhWords (bs.length / 8 + 1) bs (Nat.xor (m64 seed) (m64 (bs.length * svhK1))))

/-- The primes of XXH64. -/
def xxP1 : Nat := 0x9E3779B185EBCA87
def xxP2 : Nat := 0xC2B2AE3D27D4EB4F
def xxP3 : Nat := 0x165667B19E3779F9
def xxP4 : Nat := 0x85EBCA77C2B2AE63
def xxP5 : Nat := 0x27D4EB2F165667C5

/-- A lane of 8 bytes taken into an accumulator. -/
def xxRound (acc v : Nat) : Nat := m64 (rotl (m64 (acc + m64 (v * xxP2))) 31 * xxP1)

/-- An accumulator merged into the hash. -/
def xxMerge (h v : Nat) : Nat := m64 (Nat.xor h (xxRound 0 v) * xxP1 + xxP4)

/-- The stripes of 32 bytes. -/
def xxStripes : Nat → List Byte → List Nat → List Nat × List Byte
  | 0, bs, vs => (vs, bs)
  | n + 1, bs, vs =>
    if bs.length < 32 then (vs, bs)
    else xxStripes n (bs.drop 32) ((List.range 4).map fun k => xxRound (vs.getD k 0) (fld bs (8 * k) 8))

/-- The tail: words of 8 bytes, a word of 4, single bytes. -/
def xxTail : Nat → List Byte → Nat → Nat
  | 0, _, h => h
  | n + 1, bs, h =>
    if 8 ≤ bs.length then
      xxTail n (bs.drop 8) (m64 (rotl (Nat.xor h (xxRound 0 (leNat (bs.take 8)))) 27 * xxP1 + xxP4))
    else if 4 ≤ bs.length then
      xxTail n (bs.drop 4) (m64 (rotl (Nat.xor h (m64 (leNat (bs.take 4) * xxP1))) 23 * xxP2 + xxP3))
    else match bs with
      | [] => h
      | b :: t => xxTail n t (m64 (rotl (Nat.xor h (m64 (b.toNat * xxP5))) 11 * xxP1))

/-- XXH64, by its published specification (R341). -/
def xxh64 (seed : Nat) (bs : List Byte) : Nat :=
  let seed := m64 seed
  let n := bs.length
  let (h, rest) :=
    if n < 32 then (m64 (seed + xxP5), bs)
    else
      let (vs, rest) := xxStripes (n / 32) bs [m64 (seed + xxP1 + xxP2), m64 (seed + xxP2), seed, m64 (seed + 2 ^ 64 - xxP1)]
      let v := fun (k : Nat) => vs.getD k 0
      let h := m64 (rotl (v 0) 1 + rotl (v 1) 7 + rotl (v 2) 12 + rotl (v 3) 18)
      ([v 0, v 1, v 2, v 3].foldl xxMerge h, rest)
  let h := xxTail (rest.length + 1) rest (m64 (h + n))
  let h := m64 (Nat.xor h (h / 2 ^ 33) * xxP2)
  let h := m64 (Nat.xor h (h / 2 ^ 29) * xxP3)
  Nat.xor h (h / 2 ^ 32)

end Sys2Proof.Machine
end

