-- ==== Sys2Proof/Machine/Inflate.lean ====
section
/-! DEFINITION. Decoding of compressed containers (R330 to R337): the reader and its errors, DEFLATE (RFC 1951), zlib (RFC 1950),
gzip (RFC 1952) and raw framing (Table 9.14). -/

namespace Sys2Proof.Machine

/-- A decoder at work: the input left and the bytes used, the bits left of the last byte, the output and where the present member or
frame began in it, the capacity, the check values of the present member, and whether a frame carried none. -/
structure Dec where
  rest : List Byte
  used : Nat := 0
  cur : Nat := 0
  left : Nat := 0
  out : Array Byte := #[]
  base : Nat := 0
  cap : Nat
  calc' : Nat := 0
  exp : Nat := 0
  unchecked : Bool := false
  /-- The decoder has looked for more input where the bytes given end. -/
  atEnd : Bool := false

/-- The work of a decoder: an error is a reason of Table 9.4 and the input offset. -/
abbrev DecM := ExceptT (Nat × Nat) (StateM Dec)

/-- A decoder that goes on to the end of its input has come to the end of the bytes given. -/
def DecM.atEnd : DecM Unit := modify fun d => { d with atEnd := true }

/-- An error at the last byte used. -/
def DecM.bad {α : Type} (reason : Nat) : DecM α := do throw (reason, (← get).used - 1)

/-- The next byte; bits left of the one before are dropped. -/
def DecM.byte : DecM Byte := do
  let d ← get
  match d.rest with
  | b :: t =>
    set { d with rest := t, used := d.used + 1, left := 0 }
    return b
  | [] => throw (0x03, d.used)

/-- n bytes. -/
def DecM.bytes : Nat → DecM (List Byte)
  | 0 => pure []
  | n + 1 => do
    let b ← DecM.byte
    return b :: (← DecM.bytes n)

/-- A little-endian number of n bytes. -/
def DecM.num (n : Nat) : DecM Nat := do return leNat (← DecM.bytes n)

/-- The next bit, from the least significant of each byte. -/
def DecM.bit : DecM Nat := do
  if (← get).left = 0 then
    let b ← DecM.byte
    modify fun d => { d with cur := b.toNat, left := 8 }
  let d ← get
  set { d with cur := d.cur / 2, left := d.left - 1 }
  return d.cur % 2

/-- n bits, the first the least significant. -/
def DecM.bits : Nat → DecM Nat
  | 0 => pure 0
  | n + 1 => do
    let b ← DecM.bit
    return b + 2 * (← DecM.bits n)

/-- A byte of output; one past the capacity ends the item (R334). -/
def DecM.emit (b : Byte) : DecM Unit := do
  let d ← get
  if d.cap ≤ d.out.size then throw (0x01, d.used)
  set { d with out := d.out.push b }

/-- Bytes of output. -/
def DecM.emitAll : List Byte → DecM Unit
  | [] => pure ()
  | b :: t => do
    DecM.emit b
    DecM.emitAll t

/-- n bytes of output copied from a distance back. -/
def DecM.copy (dist : Nat) : Nat → DecM Unit
  | 0 => pure ()
  | n + 1 => do
    let d ← get
    DecM.emit (d.out.getD (d.out.size - dist) 0)
    DecM.copy dist n

/-- The output of the present member or frame. -/
def Dec.member (d : Dec) : List Byte := d.out.toList.drop d.base

/-- The check values noted, and a difference reported (R332). -/
def DecM.check (calc' exp : Nat) : DecM Unit := do
  modify fun d => { d with calc' := calc', exp := exp }
  if calc' != exp then throw (0x05, (← get).used - 4)

/-- A Huffman code of DEFLATE: how many codes have each length from 1, and the symbols in the order of their codes. -/
structure Huff where
  count : List Nat
  syms : List Nat

/-- The code with given lengths; none where it is over-subscribed (R334). -/
def mkHuff (lens : List Nat) : Option Huff :=
  let count := (List.range 15).map fun k => lens.countP (· = k + 1)
  let room : Int := count.foldl (fun r c => if r < 0 then r else 2 * r - c) 1
  if room < 0 then none
  else some ⟨count, (List.range 15).flatMap fun k => (lens.zipIdx.filter fun x => x.1 = k + 1).map Prod.snd⟩

/-- A symbol read, its code from the most significant bit (RFC 1951, 3.1.1). -/
def huffRead (syms : List Nat) : List Nat → Nat → Nat → Nat → DecM Nat
  | [], _, _, _ => DecM.bad 0x04
  | c :: cs, code, first, index => do
    let code := code + (← DecM.bit)
    if code < first + c then
      match syms[index + (code - first)]? with
      | some s => return s
      | none => DecM.bad 0x04
    else huffRead syms cs (2 * code) (2 * (first + c)) (index + c)

/-- A symbol of a code. -/
def Huff.read (h : Huff) : DecM Nat := huffRead h.syms h.count 0 0 0

/-- Length of a match: base and extra bits, by symbol from 257. -/
def lenBase : List Nat :=
  [3, 4, 5, 6, 7, 8, 9, 10, 11, 13, 15, 17, 19, 23, 27, 31, 35, 43, 51, 59, 67, 83, 99, 115, 131, 163, 195, 227, 258]

def lenExtra (k : Nat) : Nat := if k < 8 || k = 28 then 0 else (k - 4) / 4

/-- Distance of a match: base and extra bits. -/
def distExtra (k : Nat) : Nat := if k < 4 then 0 else (k - 2) / 2

def distBase (k : Nat) : Nat := if k < 4 then k + 1 else 2 ^ (distExtra k) * (2 + k % 2) + 1

/-- The symbols of a block up to its end; fuel: the bits of the input. -/
def inflateCodes (lit dist : Huff) : Nat → DecM Unit
  | 0 => DecM.bad 0x03
  | n + 1 => do
    let s ← lit.read
    if s < 256 then
      DecM.emit (BitVec.ofNat 8 s)
      inflateCodes lit dist n
    else if s = 256 then pure ()
    else if 285 < s then DecM.bad 0x04
    else
      let len := lenBase.getD (s - 257) 0 + (← DecM.bits (lenExtra (s - 257)))
      let k ← dist.read
      if 29 < k then DecM.bad 0x04
      let d := distBase k + (← DecM.bits (distExtra k))
      let st ← get
      if st.out.size - st.base < d || 32768 < d then DecM.bad 0x04
      DecM.copy d len
      inflateCodes lit dist n

/-- Order of the lengths of the code-length code. -/
def clOrder : List Nat := [16, 17, 18, 0, 8, 7, 9, 6, 10, 5, 11, 4, 12, 3, 13, 2, 14, 1, 15]

/-- n lengths of 3 bits. -/
def clLens : Nat → DecM (List Nat)
  | 0 => pure []
  | n + 1 => do
    let x ← DecM.bits 3
    return x :: (← clLens n)

/-- Code lengths up to n of them (latest first); fuel: n. -/
def readLens (h : Huff) (n : Nat) : Nat → List Nat → DecM (List Nat)
  | 0, acc => pure acc
  | fuel + 1, acc => do
    if n ≤ acc.length then return acc
    let s ← h.read
    if s < 16 then readLens h n fuel (s :: acc)
    else
      if s = 16 && acc.isEmpty then DecM.bad 0x04
      let k ← if s = 16 then do pure (3 + (← DecM.bits 2)) else if s = 17 then do pure (3 + (← DecM.bits 3))
        else do pure (11 + (← DecM.bits 7))
      if n < acc.length + k then DecM.bad 0x04
      readLens h n fuel (List.replicate k (if s = 16 then acc.headD 0 else 0) ++ acc)

/-- A code, or BAD_STREAM. -/
def huffOrBad (lens : List Nat) : DecM Huff :=
  match mkHuff lens with
  | some h => pure h
  | none => DecM.bad 0x04

/-- The codes of a dynamic block. -/
def dynCodes : DecM (Huff × Huff) := do
  let hlit := 257 + (← DecM.bits 5)
  let hdist := 1 + (← DecM.bits 5)
  let hclen := 4 + (← DecM.bits 4)
  if 286 < hlit then DecM.bad 0x04
  let cl ← clLens hclen
  let h ← huffOrBad ((List.range 19).map fun s => (cl.zip clOrder).findSome? (fun x => if x.2 = s then some x.1 else none) |>.getD 0)
  let lens := (← readLens h (hlit + hdist) (hlit + hdist) []).reverse
  return (← huffOrBad (lens.take hlit), ← huffOrBad (lens.drop hlit))

/-- The codes of a fixed block. -/
def fixedLit : List Nat := List.replicate 144 8 ++ List.replicate 112 9 ++ List.replicate 24 7 ++ List.replicate 8 8

/-- DEFLATE data up to its last block (RFC 1951); fuel: the bits of the input. -/
def inflate (fuel : Nat) : Nat → DecM Unit
  | 0 => DecM.bad 0x03
  | n + 1 => do
    let last ← DecM.bit
    let ty ← DecM.bits 2
    if ty = 0 then
      let len ← DecM.num 2
      let nlen ← DecM.num 2
      if len + nlen != 65535 then DecM.bad 0x04
      DecM.emitAll (← DecM.bytes len)
    else if ty = 1 then inflateCodes (← huffOrBad fixedLit) (← huffOrBad (List.replicate 32 5)) fuel
    else if ty = 2 then
      let (l, d) ← dynCodes
      inflateCodes l d fuel
    else DecM.bad 0x04
    if last = 0 then inflate fuel n

/-- DEFLATE data from where the reader stands; its history begins here. -/
def inflateHere : DecM Unit := do
  modify fun d => { d with base := d.out.size, left := 0 }
  let n := 8 * (← get).rest.length + 1
  inflate n n
  modify fun d => { d with left := 0 }

/-- Adler-32 (RFC 1950). -/
def adler32 (bs : List Byte) : Nat :=
  let (a, b) := bs.foldl (fun (p : Nat × Nat) x =>
    let a := (p.1 + x.toNat) % 65521
    (a, (p.2 + a) % 65521)) (1, 0)
  b * 65536 + a

/-- A zlib stream (RFC 1950): FCHECK, then CM and CINFO, then FDICT (DEDUCED, log entry 57). -/
def unzlib : DecM Unit := do
  let cmf := (← DecM.byte).toNat
  let flg := (← DecM.byte).toNat
  if (cmf * 256 + flg) % 31 != 0 then throw (0x05, 1)
  if cmf % 16 != 8 || 7 < cmf / 16 then throw (0x04, 0)
  if bit flg 5 then throw (0x09, 1)
  inflateHere
  let exp := beNat (← DecM.bytes 4)
  DecM.check (adler32 (← get).member) exp

/-- A zero-terminated field. -/
def skipText : Nat → DecM Unit
  | 0 => pure ()
  | n + 1 => do if (← DecM.byte) = 0 then pure () else skipText n

/-- A gzip member (RFC 1952) of an input. -/
def gunzipMember (input : List Byte) : DecM Unit := do
  let start := (← get).used
  let id1 ← DecM.byte
  if id1 != 0x1F then DecM.bad 0x04
  let id2 ← DecM.byte
  if id2 != 0x8B then DecM.bad 0x04
  let h ← DecM.bytes 8
  let flg := fld h 1 1
  if fld h 0 1 != 8 then throw (0x04, start + 2)
  if 32 ≤ flg then throw (0x04, start + 3)
  if bit flg 2 then
    let n ← DecM.num 2
    let _ ← DecM.bytes n
  let n := (← get).rest.length + 1
  if bit flg 3 then skipText n
  if bit flg 4 then skipText n
  if bit flg 1 then
    let off := (← get).used
    let exp ← DecM.num 2
    let calc' := crc32 (slice input start (off - start)) % 65536
    if calc' != exp then
      modify fun d => { d with calc' := calc', exp := exp }
      throw (0x05, off)
  inflateHere
  let out := (← get).member
  let exp ← DecM.num 4
  DecM.check (crc32 out) exp
  let size ← DecM.num 4
  if size != out.length % 2 ^ 32 then throw (0x05, (← get).used - 4)

/-- Members after the first (R334): trailing zero bytes are consumed; other trailing bytes are BAD_STREAM. -/
def gunzipMore (input : List Byte) : Nat → DecM Unit
  | 0 => pure ()
  | n + 1 => do
    let d ← get
    match d.rest with
    | [] => DecM.atEnd
    | b :: _ =>
      if b = 0 then
        match d.rest.findIdx? (· != 0) with
        | some k => throw (0x04, d.used + k)
        | none => set { d with rest := [], used := d.used + d.rest.length, atEnd := true }
      else
        gunzipMember input
        gunzipMore input n

/-- gzip members: the first, or all with MULTI (R334). -/
def gunzip (multi : Bool) (input : List Byte) : DecM Unit := do
  gunzipMember input
  if multi then gunzipMore input input.length

/-- A zlib item: with MULTI bytes after the stream are BAD_STREAM (R334). -/
def unzlibItem (multi : Bool) : DecM Unit := do
  unzlib
  let d ← get
  if multi then
    if d.rest.isEmpty then DecM.atEnd else throw (0x04, d.used)

/-- A body of DEFLATE data that must fill exactly the bytes given (DEDUCED, log entry 58). -/
def inflateBody (body : List Byte) : DecM Unit := do
  let d ← get
  set { d with rest := body }
  try inflateHere
  catch e => throw (if e.1 = 0x03 then (0x04, e.2) else e)
  if !(← get).rest.isEmpty then throw (0x04, (← get).used)
  modify fun e => { e with rest := d.rest }

/-- A raw frame (R337, Table 9.14). -/
def unrawFrame : DecM Unit := do
  let start := (← get).used
  let h ← DecM.bytes 16
  let orig := fld h 8 4
  if fld h 0 4 != 0x57525653 || 1 < fld h 4 1 || 16777216 < orig then throw (0x04, start)
  let d ← get
  let n := fld h 0xC 4
  if d.rest.length < n then throw (0x03, d.used + d.rest.length)
  let body := d.rest.take n
  set { d with rest := d.rest.drop n, base := d.out.size }
  if fld h 4 1 = 0 then
    DecM.emitAll body
    modify fun e => { e with used := e.used + n }
  else inflateBody body
  let out := (← get).member
  let exp ← DecM.num 4
  modify fun e => { e with calc' := crc32c out, exp := exp }
  if out.length != orig then throw (0x05, start + 8)
  DecM.check (crc32c out) exp

/-- Every raw frame within the input. -/
def unraw : Nat → DecM Unit
  | 0 => pure ()
  | n + 1 => do
    if (← get).rest.isEmpty then DecM.atEnd
    else
      unrawFrame
      unraw n

/-- A decoder run over an input: how it ended, and what it has made. -/
def DecM.over (m : DecM Unit) (input : List Byte) (cap : Nat) : Except (Nat × Nat) Unit × Dec :=
  m.run.run { rest := input, cap := cap }

end Sys2Proof.Machine
end

