-- ==== Sys2Proof/Machine/Zstd.lean ====
section
/-! DEFINITION. Zstandard frames (RFC 8878), as R330 to R334 accept them. -/

namespace Sys2Proof.Machine

/-- A bit stream read from its end: its bytes as a number, and the bits below the reading position. -/
structure Back where
  v : Nat
  pos : Int

/-- A backward stream of bytes: its last byte holds the mark that ends it. -/
def back (bs : List Byte) : Option Back :=
  match bs.getLast? with
  | some b => if b = 0 then none else some ⟨leNat bs, 8 * (bs.length - 1) + Nat.log2 b.toNat⟩
  | none => none

/-- n bits; bits below the start read 0. -/
def Back.peek (s : Back) (n : Nat) : Nat :=
  if s.pos < 0 then 0
  else
    let p := s.pos.toNat
    if n ≤ p then bits s.v (p - n) n else s.v % 2 ^ p * 2 ^ (n - p)

/-- n bits taken. -/
def Back.take (s : Back) (n : Nat) : Nat × Back := (s.peek n, { s with pos := s.pos - n })

/-- A decoding table of a finite state entropy code: accuracy, and for each state its symbol, bits and base. -/
structure Fse where
  al : Nat
  cells : Array (Nat × Nat × Nat)

/-- The cell of a state. -/
def Fse.cell (t : Fse) (s : Nat) : Nat × Nat × Nat := t.cells.getD s (0, 0, 0)

/-- The next free position of the spread of symbols. -/
def fseNext (size high step : Nat) : Nat → Nat → Nat
  | 0, p => p
  | n + 1, p =>
    let p := (p + step) % size
    if high ≤ p then fseNext size high step n p else p

/-- The decoding table of a distribution (RFC 8878, 4.1.1): counts by symbol, -1 for less than one. -/
def mkFse (al : Nat) (norm : List Int) : Fse :=
  let size := 2 ^ al
  let low := (norm.zipIdx.filter fun x => x.1 = -1).map Prod.snd
  let high := size - low.length
  let start : Array Nat := (low.zipIdx.foldl (fun (a : Array Nat) x => a.setIfInBounds (size - 1 - x.2) x.1) (Array.replicate size 0))
  let step := size / 2 + size / 8 + 3
  let spread := (norm.zipIdx.foldl (fun (acc : Array Nat × Nat) x =>
    iter (fun (p : Array Nat × Nat) => (p.1.setIfInBounds p.2 x.2, fseNext size high step size p.2)) x.1.toNat acc) (start, 0)).1
  let cells := (spread.toList.foldl (fun (acc : Array (Nat × Nat × Nat) × Array Nat) s =>
    let d := acc.2.getD s 1
    let n := al - Nat.log2 d
    (acc.1.push (s, n, d * 2 ^ n - size), acc.2.setIfInBounds s (d + 1)))
    (#[], (norm.map fun c => if c = -1 then 1 else c.toNat).toArray)).1
  ⟨al, cells⟩

/-- A table of one symbol. -/
def oneFse (s : Nat) : Fse := ⟨0, #[(s, 0, 0)]⟩

/-- Zero counts that follow a zero count. -/
def fseZeros (v : Nat) : Nat → Nat → Nat × Nat
  | 0, p => (0, p)
  | n + 1, p =>
    let r := bits v p 2
    if r = 3 then
      let (k, q) := fseZeros v n (p + 2)
      (k + 3, q)
    else (r, p + 2)

/-- The counts of a distribution (latest first) until they sum up; answers them and the bit position. -/
def fseCounts (v most : Nat) : Nat → Nat → Nat → List Int → Option (List Int × Nat)
  | 0, _, _, _ => none
  | n + 1, p, remaining, acc =>
    if remaining = 0 then some (acc, p)
    else if most < acc.length + 1 then none
    else
      let k := Nat.log2 (remaining + 1)
      let low := bits v p k
      let threshold := 2 ^ (k + 1) - 1 - (remaining + 1)
      let (x, p) :=
        if low < threshold then (low, p + k)
        else
          let y := low + bits v (p + k) 1 * 2 ^ k
          (if 2 ^ k ≤ y then y - threshold else y, p + k + 1)
      let c : Int := (x : Int) - 1
      if remaining < c.natAbs then none
      else
        let acc := c :: acc
        if c = 0 then
          let (z, p) := fseZeros v 256 p
          fseCounts v most n p remaining (List.replicate z 0 ++ acc)
        else fseCounts v most n p (remaining - c.natAbs) acc

/-- A table description at the head of bytes (RFC 8878, 4.1.1): the table and the bytes used. -/
def readFse (maxAl most : Nat) (bs : List Byte) : Option (Fse × Nat) :=
  let v := leNat (bs.take 600)
  let al := 5 + bits v 0 4
  if bs.isEmpty || maxAl < al then none
  else match fseCounts v most (most + 2) 4 (2 ^ al) [] with
    | some (acc, p) =>
      let used := ceilDiv p 8
      if bs.length < used || most < acc.length then none else some (mkFse al acc.reverse, used)
    | none => none

/-- A Huffman code of literals: its greatest length, and for each value of that many bits the symbol and its length. -/
structure ZHuff where
  max : Nat
  table : Array (Nat × Nat)

/-- The code with given weights, the last weight deduced (RFC 8878, 4.2.1). -/
def zhuff (ws : List Nat) : Option ZHuff :=
  let sum := (ws.map fun w => if w = 0 then 0 else 2 ^ (w - 1)).sum
  if sum = 0 || ws.any (11 < ·) then none
  else
    let max := Nat.log2 sum + 1
    let left := 2 ^ max - sum
    if 11 < max || 2 ^ Nat.log2 left != left then none
    else
      let ws := (ws ++ [Nat.log2 left + 1]).zipIdx
      some ⟨max, ((List.range max).flatMap fun k =>
        (ws.filter fun x => x.1 = k + 1).flatMap fun x => List.replicate (2 ^ k) (x.2, max - k)).toArray⟩

/-- Weights from two interleaved states (latest first); fuel: 256. -/
def zweights (t : Fse) : Nat → Nat → Nat → Back → List Nat → List Nat
  | 0, _, _, _, acc => acc
  | n + 1, a, b, s, acc =>
    let (sym, k, base) := t.cell a
    let (x, s) := s.take k
    let acc := sym :: acc
    if s.pos < 0 then (t.cell b).1 :: acc else zweights t n b (base + x) s acc

/-- A Huffman tree description (RFC 8878, 4.2.1): the code and the bytes used. -/
def readZHuff (bs : List Byte) : Option (ZHuff × Nat) :=
  match bs with
  | [] => none
  | h :: t =>
    if 128 ≤ h.toNat then
      let n := h.toNat - 127
      let k := (n + 1) / 2
      if t.length < k then none
      else (zhuff ((List.range n).map fun i =>
        let b := (t.getD (i / 2) 0).toNat
        if i % 2 = 0 then b / 16 else b % 16)).map fun z => (z, 1 + k)
    else
      let body := t.take h.toNat
      if body.length < h.toNat then none
      else do
        let (f, used) ← readFse 6 256 body
        let s ← back (body.drop used)
        let (a, s) := s.take f.al
        let (b, s) := s.take f.al
        if s.pos < 0 then none
        else
          let ws := (zweights f 256 a b s []).reverse
          if 255 < ws.length then none else (zhuff ws).map fun z => (z, 1 + h.toNat)

/-- n literals of a Huffman stream, which they must use up. -/
def zstream (z : ZHuff) : Nat → Back → List Byte → Option (List Byte)
  | 0, s, acc => if s.pos = 0 then some acc.reverse else none
  | n + 1, s, acc =>
    let (sym, k) := z.table.getD (s.peek z.max) (0, 0)
    if s.pos < k || k = 0 then none else zstream z n { s with pos := s.pos - k } (BitVec.ofNat 8 sym :: acc)

/-- What one block leaves to the next: the Huffman code, the three tables, the repeated offsets. -/
structure ZState where
  huff : Option ZHuff := none
  ll : Option Fse := none
  off : Option Fse := none
  ml : Option Fse := none
  reps : List Nat := [1, 4, 8]

/-- The Huffman streams of compressed literals: one, or four after a jump table (RFC 8878, 3.1.1.3.1.6). -/
def zliterals (z : ZHuff) (four : Bool) (regen : Nat) (bs : List Byte) : Option (List Byte) :=
  if !four then (back bs).bind fun s => zstream z regen s []
  else
    let a := fld bs 0 2
    let b := fld bs 2 2
    let c := fld bs 4 2
    let body := bs.drop 6
    let k := (regen + 3) / 4
    if bs.length < 6 || body.length < a + b + c || regen < 3 * k then none
    else do
      let w ← zstream z k (← back (body.take a)) []
      let x ← zstream z k (← back (slice body a b)) []
      let y ← zstream z k (← back (slice body (a + b) c)) []
      let u ← zstream z (regen - 3 * k) (← back (body.drop (a + b + c))) []
      return w ++ x ++ y ++ u

/-- The literals section of a block: the literals, the state and the bytes used. -/
def zlitSection (st : ZState) (bs : List Byte) : Option (List Byte × ZState × Nat) :=
  let v := leNat (bs.take 5)
  let ty := bits v 0 2
  let sf := bits v 2 2
  if bs.isEmpty then none
  else if ty < 2 then
    let (hd, n) := if sf % 2 = 0 then (1, bits v 3 5) else if sf = 1 then (2, bits v 4 12) else (3, bits v 4 20)
    let size := if ty = 0 then n else 1
    if bs.length < hd + size || 0x20000 < n then none
    else some (if ty = 0 then slice bs hd n else List.replicate n (bs.getD hd 0), st, hd + size)
  else
    let (hd, w) := if sf < 2 then (3, 10) else if sf = 2 then (4, 14) else (5, 18)
    let regen := bits v 4 w
    let comp := bits v (4 + w) w
    if bs.length < hd + comp || 0x20000 < regen then none
    else do
      let body := slice bs hd comp
      let (z, used) ← if ty = 2 then readZHuff body else st.huff.map fun z => (z, 0)
      let lits ← zliterals z (sf != 0) regen (body.drop used)
      return (lits, { st with huff := some z }, hd + comp)

/-- Predefined distributions (RFC 8878, 3.1.1.3.2.2). -/
def llDefault : List Int :=
  [4, 3, 2, 2, 2, 2, 2, 2, 2, 2, 2, 2, 2, 1, 1, 1, 2, 2, 2, 2, 2, 2, 2, 2, 2, 3, 2, 1, 1, 1, 1, 1, -1, -1, -1, -1]
def mlDefault : List Int :=
  [1, 4, 3, 2, 2, 2, 2, 2, 2, 1, 1, 1, 1, 1, 1, 1, 1, 1, 1, 1, 1, 1, 1, 1, 1, 1, 1, 1, 1, 1, 1, 1, 1, 1, 1, 1, 1, 1, 1, 1, 1, 1,
    1, 1, 1, 1, -1, -1, -1, -1, -1, -1, -1]
def offDefault : List Int := [1, 1, 1, 1, 1, 1, 2, 2, 2, 1, 1, 1, 1, 1, 1, 1, 1, 1, 1, 1, 1, 1, 1, 1, -1, -1, -1, -1, -1]

/-- Base and extra bits of a literal length code. -/
def llCode (c : Nat) : Nat × Nat :=
  if c < 16 then (c, 0)
  else [(16, 1), (18, 1), (20, 1), (22, 1), (24, 2), (28, 2), (32, 3), (40, 3), (48, 4), (64, 6), (128, 7), (256, 8), (512, 9),
    (1024, 10), (2048, 11), (4096, 12), (8192, 13), (16384, 14), (32768, 15), (65536, 16)].getD (c - 16) (0, 0)

/-- Base and extra bits of a match length code. -/
def mlCode (c : Nat) : Nat × Nat :=
  if c < 32 then (c + 3, 0)
  else [(35, 1), (37, 1), (39, 1), (41, 1), (43, 2), (47, 2), (51, 3), (59, 3), (67, 4), (83, 4), (99, 5), (131, 7), (259, 8),
    (515, 9), (1027, 10), (2051, 11), (4099, 12), (8195, 13), (16387, 14), (32771, 15), (65539, 16)].getD (c - 32) (0, 0)

/-- A table by its mode: predefined, of one symbol, described, or the one before; with the bytes used. -/
def ztable (mode maxAl most dAl : Nat) (dflt : List Int) (old : Option Fse) (bs : List Byte) : Option (Fse × Nat) :=
  match mode with
  | 0 => some (mkFse dAl dflt, 0)
  | 1 => bs.head?.bind fun b => if b.toNat < most then some (oneFse b.toNat, 1) else none
  | 2 => readFse maxAl most bs
  | _ => old.map fun t => (t, 0)

/-- A sequence: literals to copy, match length, offset value. -/
abbrev ZSeq := Nat × Nat × Nat

/-- n sequences of a backward stream, which they must use up (RFC 8878, 3.1.1.3.2.1). -/
def zsequences (ll off ml : Fse) : Nat → Nat → Nat → Nat → Back → List ZSeq → Option (List ZSeq)
  | 0, _, _, _, s, acc => if s.pos = 0 then some acc.reverse else none
  | n + 1, a, b, c, s, acc =>
    let (lsym, lk, lb) := ll.cell a
    let (osym, ok, ob) := off.cell b
    let (msym, mk, mb) := ml.cell c
    if 31 < osym then none
    else
      let (ox, s) := s.take osym
      let (mx, s) := s.take (mlCode msym).2
      let (lx, s) := s.take (llCode lsym).2
      let acc := ((llCode lsym).1 + lx, (mlCode msym).1 + mx, 2 ^ osym + ox) :: acc
      if s.pos < 0 then none
      else if n = 0 then zsequences ll off ml 0 a b c s acc
      else
        let (x, s) := s.take lk
        let (z, s) := s.take mk
        let (y, s) := s.take ok
        zsequences ll off ml n (lb + x) (ob + y) (mb + z) s acc

/-- The sequences section of a block. -/
def zseqSection (st : ZState) (bs : List Byte) : Option (List ZSeq × ZState) :=
  match bs with
  | [] => none
  | b0 :: t =>
    let x := b0.toNat
    let (n, rest) :=
      if x < 128 then (x, t) else if x < 255 then ((x - 128) * 256 + fld t 0 1, t.drop 1) else (fld t 0 2 + 0x7F00, t.drop 2)
    if x = 0 then (if t.isEmpty then some ([], st) else none)
    else match rest with
      | [] => none
      | m :: r =>
        if m.toNat % 4 != 0 then none
        else do
          let (ll, u) ← ztable (bits m.toNat 6 2) 9 36 6 llDefault st.ll r
          let r := r.drop u
          let (off, u) ← ztable (bits m.toNat 4 2) 8 32 5 offDefault st.off r
          let r := r.drop u
          let (ml, u) ← ztable (bits m.toNat 2 2) 9 53 6 mlDefault st.ml r
          let s ← back (r.drop u)
          let (a, s) := s.take ll.al
          let (b, s) := s.take off.al
          let (c, s) := s.take ml.al
          let l ← zsequences ll off ml n a b c s []
          return (l, { st with ll := some ll, off := some off, ml := some ml })

/-- The offset of a sequence from its offset value, and the repeated offsets after it (RFC 8878, 3.1.1.5). -/
def zoffset (reps : List Nat) (lits value : Nat) : Nat × List Nat :=
  let r := fun (k : Nat) => reps.getD k 0
  if 3 < value then (value - 3, [value - 3, r 0, r 1])
  else
    let k := value - 1 + (if lits = 0 then 1 else 0)
    if k = 0 then (r 0, reps)
    else
      let o := if k < 3 then r k else r 0 - 1
      (o, if k = 1 then [o, r 0, r 2] else [o, r 0, r 1])

/-- A dictionary: its identifier, the state it gives, its content. -/
structure ZDict where
  st : ZState := {}
  content : Array Byte := #[]

/-- n bytes copied from an offset back, into the dictionary before the frame's start. -/
def zcopy (dict : Array Byte) (off : Nat) : Nat → DecM Unit
  | 0 => pure ()
  | n + 1 => do
    let d ← get
    let k := d.out.size - d.base
    DecM.emit (if off ≤ k then d.out.getD (d.out.size - off) 0 else dict.getD (dict.size + k - off) 0)
    zcopy dict off n

/-- A block's sequences carried out; answers the literals left and the repeated offsets. -/
def zexec (dict : Array Byte) (window : Nat) : List ZSeq → List Byte → List Nat → DecM (List Byte × List Nat)
  | [], lits, reps => pure (lits, reps)
  | (l, m, v) :: t, lits, reps => do
    if lits.length < l then DecM.bad 0x04
    DecM.emitAll (lits.take l)
    let (off, reps) := zoffset reps l v
    let d ← get
    let k := d.out.size - d.base
    if off = 0 || (if k ≤ window then k + dict.size < off else window < off) then DecM.bad 0x04
    zcopy dict off m
    zexec dict window t (lits.drop l) reps

/-- A compressed block. -/
def zblock (dict : Array Byte) (window most : Nat) (st : ZState) (body : List Byte) : DecM ZState := do
  let before := (← get).out.size
  match (do
      let (lits, st, used) ← zlitSection st body
      let (seqs, st) ← zseqSection st (body.drop used)
      some (lits, seqs, st)) with
  | none => DecM.bad 0x04
  | some (lits, seqs, st) =>
    if most < lits.length + (seqs.map fun x => x.2.1).sum then DecM.bad 0x04
    let (rest, reps) ← zexec dict window seqs lits st.reps
    DecM.emitAll rest
    if most < (← get).out.size - before then DecM.bad 0x04
    return { st with reps := reps }

/-- The blocks of a frame; fuel: the bytes of the input. -/
def zblocks (dict : Array Byte) (window most : Nat) : Nat → ZState → DecM Unit
  | 0, _ => DecM.bad 0x03
  | n + 1, st => do
    let h ← DecM.num 3
    let size := h / 8
    let ty := bits h 1 2
    if most < size || ty = 3 then DecM.bad 0x04
    let st ← if ty = 0 then do
        DecM.emitAll (← DecM.bytes size)
        pure st
      else if ty = 1 then do
        let b ← DecM.byte
        DecM.emitAll (List.replicate size b)
        pure st
      else do
        let body ← DecM.bytes size
        zblock dict window most st body
    if h % 2 = 0 then zblocks dict window most n st

/-- A dictionary in the format of RFC 8878 with an identifier (R334). -/
def zdict (id : Nat) (bs : List Byte) : Option ZDict := do
  if bs.length < 8 || fld bs 0 4 != 0xEC30A437 || fld bs 4 4 != id then none
  let r := bs.drop 8
  let (h, u) ← readZHuff r
  let r := r.drop u
  let (off, u) ← readFse 8 32 r
  let r := r.drop u
  let (ml, u) ← readFse 9 53 r
  let r := r.drop u
  let (ll, u) ← readFse 9 36 r
  let r := r.drop u
  let content := r.drop 12
  let reps := [fld r 0 4, fld r 4 4, fld r 8 4]
  if r.length < 12 || reps.any (fun x => x = 0 || content.length < x) then none
  return ⟨⟨some h, some ll, some off, some ml, reps⟩, content.toArray⟩

/-- A Zstandard frame after its magic number (R330 to R334). -/
def zframe (reqCheck : Bool) (dictBytes : Option (List Byte)) : DecM Unit := do
  let start := (← get).used - 4
  modify fun d => { d with base := d.out.size, calc' := 0, exp := 0 }
  let fhd := (← DecM.byte).toNat
  let single := bit fhd 5
  if bit fhd 3 then DecM.bad 0x04
  let wd ← if single then pure 0 else do pure (← DecM.byte).toNat
  let id ← DecM.num ([0, 1, 2, 4].getD (fhd % 4) 0)
  let fcsN := if fhd / 64 = 0 then (if single then 1 else 0) else 2 ^ (fhd / 64)
  let fcs ← DecM.num fcsN
  let size := if fcsN = 2 then fcs + 256 else fcs
  let window := if single then size else 2 ^ (10 + wd / 8) + 2 ^ (10 + wd / 8) / 8 * (wd % 8)
  if 0x800000 < window then throw (0x07, start)
  let dict ← match (if id = 0 then (dictBytes.map fun b => (⟨{}, b.toArray⟩ : ZDict)).orElse fun _ => some {}
      else dictBytes.bind (zdict id)) with
    | some d => pure d
    | none => throw (0x08, start)
  zblocks dict.content window (min window 0x20000) ((← get).rest.length + 1) dict.st
  let out := (← get).member
  let calc' := xxh64 0 out % 2 ^ 32
  modify fun d => { d with calc' := calc' }
  if fcsN != 0 && size != out.length then throw (0x05, start)
  if bit fhd 2 then
    let exp ← DecM.num 4
    DecM.check calc' exp
  else
    if reqCheck then throw (0x06, start)
    modify fun d => { d with unchecked := true }

/-- Frames of an item: skippable frames are skipped; the first frame, or all with MULTI (R330, R334). -/
def zframes (multi reqCheck : Bool) (dict : Option (List Byte)) : Nat → DecM Unit
  | 0 => pure ()
  | n + 1 => do
    if (← get).rest.isEmpty then DecM.atEnd
    else
      let start := (← get).used
      let magic ← DecM.num 4
      if magic = 0xFD2FB528 then
        zframe reqCheck dict
        if multi then zframes multi reqCheck dict n
      else if magic / 16 = 0x184D2A5 then
        let k ← DecM.num 4
        let d ← get
        if d.rest.length < k then throw (0x03, d.used + d.rest.length)
        set { d with rest := d.rest.drop k, used := d.used + k }
        zframes multi reqCheck dict n
      else throw (0x04, start)

end Sys2Proof.Machine
end

