-- ==== Sys2Proof/Machine/Cmp.lean ====
section
/-! DEFINITION. The compression engines' items (R330 to R337). -/

namespace Sys2Proof.Machine

/-- Offset of the first poisoned line of a range. -/
def W.firstPoison (w : W) (va n : Nat) : Option Nat :=
  if !w.poisonVa va n then none
  else ((0 :: (List.range (n / 64 + 1)).map fun k => (va / 64 + 1 + k) * 64 - va).filter (· < n)).find? fun k =>
    w.poisonVa (va + k) 1

/-- The input of a CMP item up to the first thing that stops it: a page away, a failed access, a poisoned line (R306, R336). -/
def Eng.cmpSource (va n : Nat) : Eng (List Byte × Option Stop) := do
  let (bytes, obstacle) ← Eng.source va n
  match (← Eng.w).firstPoison va bytes.length with
  | some k => return (bytes.take k, some (.fail 0x0E 0x0A .poisoned))
  | none => return (bytes, obstacle)

/-- Checks of the fields of R331; `enc`: an encoding item, `zstd`: fields of Zstandard used. -/
def cmpDescOk (b : List Byte) (enc zstd : Bool) : Bool :=
  let level := fld b 0x38 1
  let wl := fld b 0x3C 1
  commonOk b && fld b 0x10 8 < 2 ^ 32 && fld b 0x18 8 % 64 = 0 && fld b 0x20 8 % 64 = 0 &&
    (if enc then 1 ≤ level && level ≤ 9 && fld b 0x39 1 = 0 else level = 0 && fld b 0x39 1 < 4) &&
    zeroAt b 0x3A 2 && zeroAt b 0x3D 3 && zeroAt b 0x4C 52 && (wl = 0 || (enc && zstd && 10 ≤ wl && wl ≤ 23)) &&
    (if zstd && !enc then fld b 0x48 4 ≤ 0x200000 else zeroAt b 0x40 12)

/-- The work of a decoding item (R332 to R334, R336). -/
def decodeItem (zstd : Bool) (dec : Bool → Bool → Option (List Byte) → List Byte → DecM Unit) : Eng Unit := do
  let b ← Eng.desc
  Eng.need (cmpDescOk b false zstd)
  let va := fld b 8 8
  let len := fld b 0x10 8
  let dictVa := fld b 0x40 8
  let dictLen := fld b 0x48 4
  let dict ← if dictVa = 0 then pure none else do
    if ← Eng.poison dictVa dictLen then throw (.fail 0x0E 0x0A .poisoned)
    pure (some (← Eng.read dictVa dictLen))
  let (bytes, obstacle) ← Eng.cmpSource va len
  let cf := fld b 0x39 1
  let (r, d) := (if len = 0 then throw (0x03, 0) else dec (bit cf 0) (bit cf 1) dict bytes).over bytes (fld b 0x20 8)
  match r with
  | .error (0x01, _) => Eng.fail 8 0x01
  | _ => pure ()
  Eng.onItem fun i =>
    { i with
      inUsed := d.used, outDone := d.out.size, outBytes := d.out.size, check := d.calc', checkExp := d.exp
      flags := match r with
        | .ok _ => b2n (d.used < len) + 2 * b2n d.unchecked
        | .error _ => 0
      errOff := match r with
        | .ok _ => 0
        | .error e => e.2 }
  Eng.write (fld b 0x18 8) d.out.toList
  match r with
  | .ok _ => match (if d.atEnd then obstacle else none) with
    | some s => throw s
    | none => pure ()
  | .error (reason, _) => match (if reason = 0x03 then obstacle else none) with
    | some s => throw s
    | none => throw (.fail 0x0E reason .poisoned)

/-- GZIP_DEC (R330, R334). -/
def execGzipDec (die eng : Nat) (s : State) : Out :=
  runT s fun w => w.engineOp die 1 eng 0x10 fun _ => decodeItem false fun _ multi _ bs => gunzip multi bs

/-- ZLIB_DEC. -/
def execZlibDec (die eng : Nat) (s : State) : Out :=
  runT s fun w => w.engineOp die 1 eng 0x12 fun _ => decodeItem false fun _ multi _ _ => unzlibItem multi

/-- ZSTD_DEC. -/
def execZstdDec (die eng : Nat) (s : State) : Out :=
  runT s fun w => w.engineOp die 1 eng 0x14 fun _ => decodeItem true fun req multi dict bs => zframes multi req dict (bs.length + 1)

/-- RAW_DEC (R337). -/
def execRawDec (die eng : Nat) (s : State) : Out :=
  runT s fun w => w.engineOp die 1 eng 0x16 fun _ => decodeItem false fun _ _ _ bs => unraw (bs.length + 1)

/-- Stored blocks of DEFLATE. -/
def storedBlocks : Nat → List Byte → List Byte
  | 0, _ => []
  | n + 1, bs =>
    let k := min bs.length 65535
    toLe 1 (b2n (bs.length ≤ 65535)) ++ toLe 2 k ++ toLe 2 (65535 - k) ++ bs.take k ++
      (if bs.length ≤ 65535 then [] else storedBlocks n (bs.drop k))

/-- Whether a compressed form decodes to the data and is used up. -/
def decodesTo (m : DecM Unit) (comp data : List Byte) : Bool :=
  let (r, d) := m.over comp data.length
  (match r with | .ok _ => true | .error _ => false) && d.rest.isEmpty && d.out.toList = data

/-- DEFLATE data of an input: which, the spec leaves open (R335, DESIGN CHOICE, log entry 9), so long as it decodes to the input and
fits. -/
def deflate (key : Nat) (data : List Byte) : List Byte :=
  let comp := Config.encoded key data
  if comp.length ≤ data.length + data.length / 16 + 64 && decodesTo inflateHere comp data then comp
  else storedBlocks (data.length / 65535 + 1) data

/-- A gzip member: no optional fields, MTIME 0, XFL 0, OS 255 (Table 9.12). -/
def gzipOf (level : Nat) (data : List Byte) : List Byte :=
  [0x1F, 0x8B, 8, 0, 0, 0, 0, 0, 0, 255] ++ deflate (0x110 + level) data ++ toLe 4 (crc32 data) ++ toLe 4 data.length

/-- A zlib stream: CINFO 7, FLEVEL from LEVEL (DESIGN CHOICE, log entry 59: how, the spec leaves open). -/
def zlibOf (level : Nat) (data : List Byte) : List Byte :=
  let flg := 64 * (Config.freeUlp 0x1950 level % 4)
  let flg := flg + (31 - (0x7800 + flg) % 31) % 31
  [0x78, BitVec.ofNat 8 flg] ++ deflate (0x130 + level) data ++ toBe 4 (adler32 data)

/-- Raw blocks of Zstandard of at most `most` bytes. -/
def zrawBlocks (most : Nat) : Nat → List Byte → List Byte
  | 0, _ => []
  | n + 1, bs =>
    let k := min bs.length most
    toLe 3 (8 * k + b2n (bs.length ≤ most)) ++ bs.take k ++ (if bs.length ≤ most then [] else zrawBlocks most n (bs.drop k))

/-- Whether the header of a frame is as ZSTD_ENC writes it (Table 9.12): content size, content checksum, window 2^WINDOW_LOG, no
dictionary, one frame. -/
def zheaderOk (wl : Nat) (data comp : List Byte) : Bool :=
  let fhd := fld comp 4 1
  fld comp 0 4 = 0xFD2FB528 && bit fhd 2 && fhd % 4 = 0 && !bit fhd 5 && 64 ≤ fhd && fld comp 5 1 = 8 * (wl - 10) &&
    comp.length ≤ data.length + data.length / 16 + 256

/-- A Zstandard frame of an input: which, the spec leaves open (R335, DESIGN CHOICE, log entry 9). -/
def zstdOf (level wl : Nat) (data : List Byte) : List Byte :=
  let comp := Config.encoded (0x1500 + 32 * level + wl) data
  if zheaderOk wl data comp && decodesTo (zframes false true none 1) comp data then comp
  else
    let most := min (2 ^ wl) 0x20000
    toLe 4 0xFD2FB528 ++ toLe 1 0xC4 ++ toLe 1 (8 * (wl - 10)) ++ toLe 8 data.length ++ zrawBlocks most (data.length / most + 1) data
      ++ toLe 4 (xxh64 0 data % 2 ^ 32)

/-- Raw frames of at most 16 MiB (R337); stored where DEFLATE is not shorter. -/
def rawOf (level : Nat) : Nat → List Byte → List Byte
  | 0, _ => []
  | n + 1, data =>
    let part := data.take 16777216
    let comp := deflate (0x170 + level) part
    let (m, body) := if comp.length < part.length then (1, comp) else (0, part)
    toLe 4 0x57525653 ++ toLe 1 m ++ zeros 3 ++ toLe 4 part.length ++ toLe 4 body.length ++ body ++ toLe 4 (crc32c part) ++
      (if data.length ≤ 16777216 then [] else rawOf level n (data.drop 16777216))

/-- The work of an encoding item (R332, R335, R336): the container and the check value of the original data. -/
def encodeItem (zstd : Bool) (enc : Nat → Nat → List Byte → List Byte × Nat) : Eng Unit := do
  let b ← Eng.desc
  Eng.need (cmpDescOk b true zstd)
  let va := fld b 8 8
  let len := fld b 0x10 8
  if 16 * fld b 0x20 8 < 17 * len + 4096 then Eng.fail 8 0x01
  let (bytes, obstacle) ← Eng.cmpSource va len
  match obstacle with
  | some (.fail s r _) =>
    Eng.onItem fun i => { i with errOff := bytes.length }
    throw (.fail s r .no)
  | some s => throw s
  | none => pure ()
  let wl := fld b 0x3C 1
  let (comp, chk) := enc (fld b 0x38 1) (if wl = 0 then 20 else wl) bytes
  Eng.onItem fun i => { i with inUsed := len, outDone := comp.length, outBytes := comp.length, check := chk }
  Eng.write (fld b 0x18 8) comp

/-- GZIP_ENC (R335). -/
def execGzipEnc (die eng : Nat) (s : State) : Out :=
  runT s fun w => w.engineOp die 1 eng 0x11 fun _ => encodeItem false fun level _ bs => (gzipOf level bs, crc32 bs)

/-- ZLIB_ENC (R335). -/
def execZlibEnc (die eng : Nat) (s : State) : Out :=
  runT s fun w => w.engineOp die 1 eng 0x13 fun _ => encodeItem false fun level _ bs => (zlibOf level bs, adler32 bs)

/-- ZSTD_ENC (R335). -/
def execZstdEnc (die eng : Nat) (s : State) : Out :=
  runT s fun w => w.engineOp die 1 eng 0x15 fun _ => encodeItem true fun level wl bs => (zstdOf level wl bs, xxh64 0 bs % 2 ^ 32)

/-- RAW_ENC (R337). -/
def execRawEnc (die eng : Nat) (s : State) : Out :=
  runT s fun w => w.engineOp die 1 eng 0x17 fun _ => encodeItem false fun level _ bs => (rawOf level (bs.length / 16777216 + 1) bs, crc32c bs)

end Sys2Proof.Machine
end

