-- ==== Sys2Proof/Machine/Float.lean ====
section
/-! DEFINITION. Number formats (Table 5.1), rounding and special values (R247, R256 to R260), on exact rational numbers; the
functions that R247 and R390 bound to one unit in the last place. -/

namespace Sys2Proof.Machine

/-- 2 to an integer power. -/
def pow2 (e : Int) : Rat := if 0 ≤ e then ((2 ^ e.toNat : Nat) : Rat) else 1 / ((2 ^ (-e).toNat : Nat) : Rat)

/-- The floor of the binary logarithm of a positive rational. -/
def flog2 (q : Rat) : Int :=
  let k : Int := (Nat.log2 q.num.toNat : Int) - (Nat.log2 q.den : Int)
  if pow2 k ≤ q then k else k - 1

/-- The absolute value of a rational. -/
def ratAbs (q : Rat) : Rat := if q < 0 then -q else q

/-- The floor of a rational that is not negative. -/
def ratFloor (q : Rat) : Nat := q.num.toNat / q.den

/-- The nearest integer to a rational that is not negative, ties to even. -/
def roundEven (q : Rat) : Nat :=
  let n := 2 * (q.num.toNat % q.den)
  let f := ratFloor q
  if n < q.den then f else if q.den < n then f + 1 else f + f % 2

/-- A floating-point format: exponent and mantissa bits; kind 0 with infinities and NaN (IEEE 754), 1 with one NaN per sign and no
infinity (E4M3), 2 with finite values alone (MX elements). -/
structure FFmt where
  e : Nat
  m : Nat
  kind : Nat
  deriving DecidableEq, Repr

/-- FP32. -/
def fp32 : FFmt := ⟨8, 23, 0⟩

/-- BF16. -/
def bf16 : FFmt := ⟨8, 7, 0⟩

/-- FP16. -/
def fp16 : FFmt := ⟨5, 10, 0⟩

/-- FP64. -/
def fp64 : FFmt := ⟨11, 52, 0⟩

/-- FP8_E4M3. -/
def e4m3 : FFmt := ⟨4, 3, 1⟩

/-- FP8_E5M2. -/
def e5m2 : FFmt := ⟨5, 2, 0⟩

/-- MXFP6_E3M2 elements. -/
def e3m2 : FFmt := ⟨3, 2, 2⟩

/-- MXFP6_E2M3 elements. -/
def e2m3 : FFmt := ⟨2, 3, 2⟩

/-- MXFP4_E2M1 elements. -/
def e2m1 : FFmt := ⟨2, 1, 2⟩

/-- Exponent bias. -/
def FFmt.bias (f : FFmt) : Int := (2 ^ (f.e - 1) - 1 : Nat)

/-- The exponent of the largest finite value. -/
def FFmt.emax (f : FFmt) : Int := (2 ^ f.e - (if f.kind = 0 then 2 else 1) : Nat) - f.bias

/-- The least normal exponent. -/
def FFmt.emin (f : FFmt) : Int := 1 - f.bias

/-- The largest finite value. -/
def FFmt.big (f : FFmt) : Rat :=
  (2 ^ (f.m + 1) - (if f.kind = 1 then 2 else 1) : Nat) * pow2 (f.emax - f.m)

/-- Width in bits. -/
def FFmt.width (f : FFmt) : Nat := 1 + f.e + f.m

/-- A floating-point datum: NaN, an infinity, or a sign and an exact magnitude. -/
inductive FV where
  | nan
  | inf (neg : Bool)
  | num (neg : Bool) (q : Rat)
  deriving DecidableEq, Repr

/-- Sign of a datum; NaN has none. -/
def FV.neg : FV → Bool
  | .nan => false
  | .inf s | .num s _ => s

/-- Whether a datum is NaN. -/
def FV.isNan (v : FV) : Bool := v = .nan

/-- The signed value of a finite datum. -/
def FV.val : FV → Rat
  | .num s q => if s then -q else q
  | _ => 0

/-- A datum with its sign flipped. -/
def FV.flip : FV → FV
  | .nan => .nan
  | .inf s => .inf (!s)
  | .num s q => .num (!s) q

/-- The datum of a format that a bit pattern spells. -/
def FFmt.decode (f : FFmt) (b : Nat) : FV :=
  let s := bit b (f.e + f.m)
  let x := bits b f.m f.e
  let m := bits b 0 f.m
  let top := 2 ^ f.e - 1
  if f.kind = 0 && x = top then (if m = 0 then .inf s else .nan)
  else if f.kind = 1 && x = top && m = 2 ^ f.m - 1 then .nan
  else if x = 0 then .num s (m * pow2 (f.emin - f.m))
  else .num s ((2 ^ f.m + m : Nat) * pow2 ((x : Int) - f.bias - f.m))

/-- The NaN that an operation produces (R259); with a sign for E4M3 (Table 7.6). -/
def FFmt.nanBits (f : FFmt) (neg : Bool) : Nat :=
  if f.kind = 1 then b2n neg * 2 ^ (f.e + f.m) + 2 ^ (f.e + f.m) - 1 else (2 ^ f.e - 1) * 2 ^ f.m + 2 ^ (f.m - 1)

/-- The bit pattern of a datum that the format represents. -/
def FFmt.encode (f : FFmt) : FV → Nat
  | .nan => f.nanBits false
  | .inf s => b2n s * 2 ^ (f.e + f.m) + (2 ^ f.e - 1) * 2 ^ f.m
  | .num s q =>
    let sign := b2n s * 2 ^ (f.e + f.m)
    if q = 0 then sign
    else
      let x := max (flog2 q) f.emin
      let t := ratFloor (q / pow2 (x - f.m))
      if t < 2 ^ f.m then sign + t else sign + ((x + f.bias).toNat - 1) * 2 ^ f.m + t

/-- The rounding modes of Table 7.5; SR carries the lane's generator value. -/
inductive Mode where
  | rne | rtz | rdn | rup
  | sr (s : Nat)
  deriving DecidableEq, Repr

/-- t, a magnitude in units of the spacing, rounded to an integer in a mode (R256, R258). -/
def Mode.round (md : Mode) (neg : Bool) (t : Rat) : Nat :=
  let f := ratFloor t
  if t = f then f
  else match md with
    | .rne => roundEven t
    | .rtz => f
    | .rdn => if neg then f + 1 else f
    | .rup => if neg then f else f + 1
    | .sr s => if (s : Rat) / (2 ^ 32 : Nat) < t - f then f + 1 else f

/-- The sticky flags of Table 7.7, by bit. -/
def flNX : Nat := 1
def flUF : Nat := 2
def flOF : Nat := 4
def flDZ : Nat := 8
def flNV : Nat := 16
def flIOVF : Nat := 32
def flCVSAT : Nat := 64
def flTREE : Nat := 128

/-- The spacing of a format's values at a positive magnitude (R258). -/
def FFmt.spacing (f : FFmt) (q : Rat) : Rat := pow2 (max (flog2 q) f.emin - f.m)

/-- What an overflow gives: IEEE 754 for an operation in modes 0 to 3, Table 7.6 for a conversion and for SR (R258, R260). -/
def FFmt.overflow (f : FFmt) (md : Mode) (neg conv sat : Bool) : FV × Nat :=
  let big := FV.num neg f.big
  let byTable := if sat || f.kind = 2 then (big, flCVSAT + flOF + flNX) else (if f.kind = 1 then FV.nan else .inf neg, flOF + flNX)
  if conv then byTable
  else match md with
    | .rne => (.inf neg, flOF + flNX)
    | .rtz => (big, flOF + flNX)
    | .rdn => (if neg then .inf neg else big, flOF + flNX)
    | .rup => (if neg then big else .inf neg, flOF + flNX)
    | .sr _ => byTable

/-- An exact finite result rounded once to a format (R247, R256, R258, R260): the datum and its flags. -/
def FFmt.round (f : FFmt) (md : Mode) (conv sat ftz : Bool) (neg : Bool) (q : Rat) : FV × Nat :=
  if q = 0 then (.num neg 0, 0)
  else
    let u := f.spacing q
    let r := (md.round neg (q / u) : Rat) * u
    let nx := if r = q then 0 else flNX
    if f.big < r then f.overflow md neg conv sat
    else if r < pow2 f.emin then
      if ftz then (.num neg 0, flUF + (if r = 0 then nx else flNX)) else (.num neg r, if nx = 0 then 0 else flUF + flNX)
    else (.num neg r, nx)

/-- A source operand under CORE_FTZ (R260): a subnormal reads as zero of the same sign. -/
def FFmt.flush (f : FFmt) (ftz : Bool) : FV → FV
  | .num s q => if ftz && q < pow2 f.emin then .num s 0 else .num s q
  | v => v

/-- A signed exact result rounded; the sign of an exact zero is given. -/
def FFmt.roundSigned (f : FFmt) (md : Mode) (sat ftz zneg : Bool) (q : Rat) : FV × Nat :=
  if q = 0 then (.num zneg 0, 0) else f.round md false sat ftz (q < 0) (ratAbs q)

/-- The sign of an exact zero sum (IEEE 754): that of both operands, else minus under RDN alone. -/
def zeroSign (md : Mode) (a b : Bool) : Bool := if a = b then a else decide (md = .rdn)

/-- An operation's NaN with the NV flag where no operand was NaN (Table 7.7). -/
def invalid (nan : Bool) : FV × Nat := (.nan, if nan then 0 else flNV)

/-- Addition (R247, R259). -/
def FFmt.add (f : FFmt) (md : Mode) (sat ftz : Bool) (a b : FV) : FV × Nat :=
  match a, b with
  | .nan, _ | _, .nan => (.nan, 0)
  | .inf s, .inf t => if s = t then (.inf s, 0) else invalid false
  | .inf s, _ => (.inf s, 0)
  | _, .inf t => (.inf t, 0)
  | .num s _, .num t _ => f.roundSigned md sat ftz (zeroSign md s t) (a.val + b.val)

/-- Multiplication. -/
def FFmt.mul (f : FFmt) (md : Mode) (sat ftz : Bool) (a b : FV) : FV × Nat :=
  let s := a.neg != b.neg
  match a, b with
  | .nan, _ | _, .nan => (.nan, 0)
  | .inf _, .num _ q | .num _ q, .inf _ => if q = 0 then invalid false else (.inf s, 0)
  | .inf _, .inf _ => (.inf s, 0)
  | .num _ p, .num _ q => if p * q = 0 then (.num s 0, 0) else f.round md false sat ftz s (p * q)

/-- Fused multiply-add a × b + c, rounded once. -/
def FFmt.fma (f : FFmt) (md : Mode) (sat ftz : Bool) (a b c : FV) : FV × Nat :=
  let s := a.neg != b.neg
  let addInf := fun (s : Bool) => match c with
    | .nan => ((.nan, 0) : FV × Nat)
    | .inf t => if s = t then (.inf s, 0) else invalid false
    | .num _ _ => (.inf s, 0)
  match a, b with
  | .nan, _ | _, .nan => (.nan, 0)
  | .inf _, .num _ q | .num _ q, .inf _ => if q = 0 then invalid c.isNan else addInf s
  | .inf _, .inf _ => addInf s
  | .num _ p, .num _ q =>
    match c with
    | .nan => (.nan, 0)
    | .inf t => (.inf t, 0)
    | .num t r => f.roundSigned md sat ftz (zeroSign md s t) ((if s then -(p * q) else p * q) + (if t then -r else r))

/-- Division. -/
def FFmt.div (f : FFmt) (md : Mode) (sat ftz : Bool) (a b : FV) : FV × Nat :=
  let s := a.neg != b.neg
  match a, b with
  | .nan, _ | _, .nan => (.nan, 0)
  | .inf _, .inf _ => invalid false
  | .inf _, _ => (.inf s, 0)
  | _, .inf _ => (.num s 0, 0)
  | .num _ p, .num _ q =>
    if q = 0 then (if p = 0 then invalid false else (.inf s, flDZ)) else if p = 0 then (.num s 0, 0) else f.round md false sat ftz s (p / q)

/-- The integer square root, a bit at a time from bit k - 1. -/
def isqrtGo (n : Nat) : Nat → Nat → Nat
  | 0, r => r
  | k + 1, r => if (r + 2 ^ k) * (r + 2 ^ k) ≤ n then isqrtGo n k (r + 2 ^ k) else isqrtGo n k r

/-- The floor of the square root. -/
def isqrt (n : Nat) : Nat := isqrtGo n (Nat.log2 n / 2 + 1) 0

/-- The square root of a positive rational, exact where it is a multiple of 2^-(k), and otherwise with an odd last bit that marks
it inexact: enough for every rounding to a format of fewer bits. -/
def sqrtSticky (q : Rat) (k : Nat) : Rat :=
  let e : Int := flog2 q / 2
  let t := q / pow2 (2 * e) * ((4 ^ k : Nat) : Rat)
  let s := isqrt (ratFloor t)
  (if ((s * s : Nat) : Rat) = t then (2 * s : Nat) else (2 * s + 1 : Nat)) / ((2 ^ (k + 1) : Nat) : Rat) * pow2 e

/-- Square root. -/
def FFmt.sqrt (f : FFmt) (md : Mode) (sat ftz : Bool) : FV → FV × Nat
  | .nan => (.nan, 0)
  | .inf s => if s then invalid false else (.inf false, 0)
  | .num s q => if q = 0 then (.num s 0, 0) else if s then invalid false else f.round md false sat ftz false (sqrtSticky q 96)

/-- The order of two data that are not NaN, +0 and -0 equal: a < b. -/
def FV.lt : FV → FV → Bool
  | .nan, _ | _, .nan => false
  | .inf s, .inf t => s && !t
  | .inf s, .num _ _ => s
  | .num _ _, .inf t => !t
  | .num s p, .num t q => (FV.num s p).val < (FV.num t q).val

/-- Equality of two data that are not NaN. -/
def FV.eq : FV → FV → Bool
  | .nan, _ | _, .nan => false
  | a, b => !a.lt b && !b.lt a

/-- The bit patterns from which an approximate result may come (R247): those within one spacing of the exact value, which is
known to within 2^-40 of a spacing; the pattern is a free choice among them (DESIGN CHOICE, log entry 9). `key` names the operation and its
operand. -/
def FFmt.within1 (f : FFmt) (sat ftz : Bool) (key op : Nat) (neg : Bool) (approx : Rat) : FV × Nat :=
  if approx = 0 then (.num neg 0, 0)
  else
    let u := f.spacing approx
    let t := approx / u
    let k := ratFloor t
    let eps : Rat := 1 / ((2 ^ 40 : Nat) : Rat)
    let cands := if t - k < eps then [k - 1, k, k + 1] else if 1 - eps < t - k then [k, k + 1, k + 2] else [k, k + 1]
    let c := cands.getD (Config.freeUlp key op % cands.length) k
    let (v, fl) := f.round .rne false sat ftz neg ((c : Rat) * u)
    (v, Nat.lor fl flNX)

/-- Fraction bits of the fixed-point approximations. -/
def apxBits : Nat := 128

/-- 1 in fixed point. -/
def apxOne : Nat := 2 ^ apxBits

/-- The series z + z^3/3 + z^5/5 + ... in fixed point, for 2 artanh z. -/
def atanhGo (z2 : Nat) : Nat → Nat → Nat → Nat → Nat
  | 0, _, _, acc => acc
  | n + 1, p, k, acc => atanhGo z2 n (p * z2 / apxOne) (k + 2) (acc + p / k)

/-- ln x in fixed point for x in [1, 2], x given in fixed point. -/
def lnFix (x : Nat) : Nat :=
  let z := (x - apxOne) * apxOne / (x + apxOne)
  2 * atanhGo (z * z / apxOne) 60 z 1 0

/-- ln 2 in fixed point. -/
def ln2Fix : Nat := lnFix (2 * apxOne)

/-- ln of a positive rational. -/
def lnApprox (q : Rat) : Rat :=
  let e := flog2 q
  let m := q / pow2 e
  let series := fun (z : Rat) => 2 * (z + z * z * z / 3 + z * z * z * z * z / 5 + z * z * z * z * z * z * z / 7)
  let near : Rat := 1 / ((2 ^ 16 : Nat) : Rat)
  if q - 1 < near && 1 - q < near then series ((q - 1) / (q + 1))
  else ((lnFix (ratFloor (m * apxOne)) : Int) + e * (ln2Fix : Int) : Int) / (apxOne : Rat)

/-- log2 of a positive rational; exact for powers of two. -/
def log2Approx (q : Rat) : Rat := if q = pow2 (flog2 q) then flog2 q else lnApprox q / ((ln2Fix : Rat) / (apxOne : Rat))

/-- The exponential series in fixed point. -/
def expGo (y : Nat) : Nat → Nat → Nat → Nat → Nat
  | 0, _, _, acc => acc
  | n + 1, p, k, acc => expGo y n (p * y / apxOne / k) (k + 1) (acc + p)

/-- 2^f for a fraction f in [0, 1). -/
def exp2Frac (f : Rat) : Rat :=
  let y := ratFloor (f * apxOne) * ln2Fix / apxOne
  (expGo y 40 apxOne 1 0 : Rat) / (apxOne : Rat)

/-- 2^x; exact for integers. -/
def exp2Approx (x : Rat) : Rat :=
  let n := x.floor
  let f := x - n
  if f = 0 then pow2 n else exp2Frac f * pow2 n

end Sys2Proof.Machine
end

