-- ==== Sys2Proof/Machine/Tasks.lean ====
section
/-! DEFINITION. The rows of tasks and of the scheduler (R273 to R284), and sync messages (R286). A SYNC operand is a SYNC handle. -/

namespace Sys2Proof.Machine

/-- The slot in RUN on a core that works (R269, R281), with its key. -/
def Dev.running (d : Dev) (core : Nat) : Option (Nat × Slot) :=
  if core < 256 && d.dieRuns (dieOfCore core) && !(d.core core).offline then
    (d.core core).run.bind fun k => (Tab.get d.slots (slotKey (dieOfCore core) k)).map fun s => (k, s)
  else none

/-- An instruction of the running task has completed: where the next one stands is a matter of the encoding, which is no interface
of the device (R239): a free offset of the core store (DESIGN CHOICE, log entry 24). -/
def W.retire (w : W) (core : Nat) : W :=
  let (x, w) := w.free
  w.onCore core fun c => { c with pc := 4 * (x % (coreBytes / 4)) }

/-- The running task leaves its core: scalar registers and program offset are saved in its slot (R278). A slot of a stage that has
ended is freed (R486). -/
def W.leaveCore (w : W) (core slot : Nat) (st : SlotState) : W :=
  let c := w.dev.core core
  let key := slotKey (dieOfCore core) slot
  (w.onSlot key fun s => { s with st := st, sregs := c.sregs, pc := c.pc }).onCore core fun c => { c with run := none }

/-- Whether a slot's stage has ended, so that the slot is freed at its next blocking operation or END (R486). -/
def Dev.stageOver (d : Dev) (s : Slot) : Bool := ((Tab.get d.graphs s.graph).map Graph.ending).getD false

/-- Scalar register r of a core set. -/
def W.setSreg (w : W) (core r v : Nat) : W := w.onCore core fun c => { c with sregs := setReg c.sregs r v }

/-- The outcome of a task's operation on an object of a die under reset (R298): the operation is discarded, a record of kind DIE_LOST
is written, the task's stage is frogged. -/
def W.taskLost (w : W) (slot : Slot) (die : Nat) : W :=
  (w.logRec 0x0007 die (((Tab.get w.dev.graphs slot.graph).map Graph.tag).getD 0xFF) (w.dev.handleOf 4 slot.graph) die 0 []).frog
    slot.graph 0x03 0x02

/-- A wait of the running task (R277): satisfied at once it stays in RUN, or it enters WAIT, with an entry of the delay list when
it has a limit (R284). A dead object never satisfies it. -/
def W.taskBlock (w : W) (core obj limit : Nat) (now : Bool) (direct : W → W) (op : Waiter → SyncOp) : W :=
  match w.dev.running core with
  | none => w
  | some (k, s) =>
    let die := dieOfCore core
    let w := w.retire core
    if w.dev.stageOver s then w.freeSlot (slotKey die k)
    else if !w.dev.dieUp (syncDie (hIdx obj)) then w.taskLost s (syncDie (hIdx obj))
    else if now then (direct w).setSreg core 0 0
    else
      let w := w.leaveCore core k .wait
      let w := if limit = 0 then w else w.joinDelay die ⟨w.dev.tickNo + limit, k, true⟩
      if w.dev.syncLive obj then w.taskWait die k (hIdx obj) (op (.task die k))
      else w.onSlot (slotKey die k) fun s => { s with obj := some (hIdx obj) }

/-- Whether an object of the core's own die is live and satisfies a test. -/
def Dev.localSync (d : Dev) (core obj : Nat) (p : Sync → Bool) : Bool :=
  d.syncLive obj && syncDie (hIdx obj) = dieOfCore core && ((Tab.get d.syncs (hIdx obj)).map p).getD false

/-- WAIT_TAKE (R277). -/
def execWaitTake (core obj amount limit : Nat) (s : State) : Out :=
  runT s fun w =>
    if amount = 0 || 2 ^ 32 ≤ amount then w
    else w.taskBlock core obj limit (w.dev.localSync core obj fun y => y.canTake amount) (fun w => w.takeNow (hIdx obj) amount)
      fun wt => .take wt amount

/-- WAIT_REACH (R277). -/
def execWaitReach (core obj value limit : Nat) (s : State) : Out :=
  runT s fun w =>
    w.taskBlock core obj limit (w.dev.localSync core obj fun y => value ≤ y.val) id fun wt => .reach wt value

/-- A signal of the running task (R277, R279): the task runs on. A signal to a dead object is discarded. -/
def W.taskSignal (w : W) (core obj : Nat) (op : SyncOp) : W :=
  match w.dev.running core with
  | none => w
  | some (k, s) =>
    let die := dieOfCore core
    let w := w.retire core
    if !w.dev.dieUp (syncDie (hIdx obj)) then w.taskLost s (syncDie (hIdx obj))
    else if w.dev.syncLive obj then w.issueSync die (hIdx obj) op (.task die k) else w

/-- SIGNAL_ADD (R277, R279, R287). -/
def execSignalAdd (core obj amount : Nat) (s : State) : Out := runT s fun w => w.taskSignal core obj (.add amount)

/-- SIGNAL_SET (R277, R279, R287). -/
def execSignalSet (core obj value : Nat) (s : State) : Out := runT s fun w => w.taskSignal core obj (.set (value % 2 ^ 64))

/-- DELAY (R277, R284): the task joins the delay list with the wake tick t + n. -/
def execDelay (core ticks : Nat) (s : State) : Out :=
  runT s fun w =>
    match w.dev.running core with
    | none => w
    | some (k, sl) =>
      if ticks = 0 || 2 ^ 24 ≤ ticks then w
      else
        let w := w.retire core
        if w.dev.stageOver sl then w.freeSlot (slotKey (dieOfCore core) k)
        else (w.leaveCore core k .delay).joinDelay (dieOfCore core) ⟨w.dev.tickNo + ticks, k, false⟩

/-- YIELD (R277): the task joins the tail of its level. -/
def execYieldTask (core : Nat) (s : State) : Out :=
  runT s fun w =>
    match w.dev.running core with
    | none => w
    | some (k, sl) =>
      let w := w.retire core
      if w.dev.stageOver sl then w.freeSlot (slotKey (dieOfCore core) k)
      else (w.leaveCore core k .ready).joinReady (dieOfCore core) k

/-- END (R276): DONE after the last run, or the wait for the next run's trigger. -/
def execEndTask (core : Nat) (s : State) : Out :=
  runT s fun w =>
    match w.dev.running core with
    | none => w
    | some (k, sl) =>
      let key := slotKey (dieOfCore core) k
      if w.dev.stageOver sl then w.freeSlot key
      else
        let w := w.leaveCore core k .done
        if sl.rec'.rep != 0 && sl.run + 1 = sl.rec'.rep then w else w.beginRun key (sl.run + 1)

/-- The head of the highest non-empty ready list of a core (R281). -/
def Dev.nextReady (d : Dev) (core : Nat) : Option (Nat × Nat) :=
  ((List.range 16).reverse).findSome? fun lv => ((Tab.getD d.ready (readyKey core lv) []).head?).map fun k => (lv, k)

/-- TASK_DISPATCH (R281): an idle core takes the head of its highest non-empty ready list. -/
def execTaskDispatch (core : Nat) (s : State) : Out :=
  runT s fun w =>
    if !(core < 256 && w.dev.dieRuns (dieOfCore core) && !(w.dev.core core).offline && (w.dev.core core).run.isNone) then w
    else match w.dev.nextReady core with
      | none => w
      | some (lv, k) =>
        let key := slotKey (dieOfCore core) k
        match Tab.get w.dev.slots key with
        | none => w
        | some sl =>
          let w := w.onDev fun d => { d with ready := Tab.mod d.ready (readyKey core lv) (List.drop 1) }
          (w.onSlot key fun s => { s with st := .run }).onCore core fun c => { c with run := some k, sregs := sl.sregs, pc := sl.pc }

/-- The head of a die's delay list, where its wake tick has come (R284). -/
def Dev.dueDelay (d : Dev) (die : Nat) : Option DelayEnt :=
  if d.dieRuns die then ((d.die die).delay.head?).filter fun e => e.wake ≤ d.tickNo else none

/-- DELAY_EXPIRY (R284): the head of the delay list, a DELAY whose wake tick has come, goes to READY. -/
def execDelayExpiry (die : Nat) (s : State) : Out :=
  runT s fun w =>
    match w.dev.dueDelay die with
    | some e => if e.isWait then w else (w.leaveDelay die e.slot).joinReady die e.slot
    | none => w

/-- TASK_WAIT_EXPIRY (R284): the head of the delay list, a limited wait whose wake tick has come, expires: READY with 1 in scalar
register 0. -/
def execTaskWaitExpiry (die : Nat) (s : State) : Out :=
  runT s fun w =>
    match w.dev.dueDelay die with
    | some e =>
      if e.isWait then
        ((w.unwait (.task die e.slot)).wakeTask die e.slot 1).onDie die fun d => { d with schedTo := satAdd 32 d.schedTo 1 }
      else w
    | none => w

/-- SYNC_MESSAGE (R286): the oldest message of the die's queue is applied; one for a dead object is discarded, and faults the
stream that issued it (R232). -/
def execSyncMessage (die : Nat) (s : State) : Out :=
  runT s fun w =>
    if !w.dev.dieRuns die then w
    else match (w.dev.die die).syncQ with
      | [] => w
      | m :: rest =>
        let w := w.onDie die fun d => { d with syncQ := rest }
        if (Tab.get w.dev.syncs m.obj).isSome then w.syncOp m.obj m.op
        else match m.issuer with
          | .stream i _ => w.formatStrm i 0x04 (((Tab.get w.dev.strms i).map Strm.runAddr).getD 0)
          | _ => w

end Sys2Proof.Machine
end

