-- ==== Sys2Proof/Machine/CoreOps.lean ====
section
/-! DEFINITION. What the instructions of a feature core share (R236 to R243, R256 to R263, R566): accesses to the core store through the
frame table, core faults, registers, rounding modes and generators, flags and poison. -/

namespace Sys2Proof.Machine

/-- What an instruction does: its effect, or a core fault, by kind and address (Table 7.2). -/
abbrev Ins := W → Except (Nat × Nat) W

/-- Core fault kinds (Table 7.2, R566). -/
def faultIllegal : Nat × Nat := (0x01, 0)

/-- A condition of an instruction, and the fault that its failure raises. -/
def need (ok : Bool) (e : Nat × Nat) : Except (Nat × Nat) Unit := if ok then .ok () else .error e

/-- The first local offset of a range at which an access fails (R240, R241): outside the store, or in a frame without the right: 0 R,
1 W. -/
def Dev.coreBad (d : Dev) (core off n right : Nat) : Option Nat :=
  if n = 0 then none
  else if coreBytes ≤ off then some off
  else
    let fs := (List.range ((off + n - 1) / 0x10000 - off / 0x10000 + 1)).map (off / 0x10000 + ·)
    (fs.find? fun f => 96 ≤ f || !bit (Tab.getD (d.core core).frames f 0) right).map fun f => max off (f * 0x10000)

/-- An access that R241 does not allow raises ADDR. -/
def W.coreAcc (w : W) (core off n right : Nat) : Except (Nat × Nat) Unit :=
  match w.dev.coreBad core off n right with
  | some a => .error (0x02, a)
  | none => .ok ()

/-- Bytes read from a core's store. -/
def W.coreRd (w : W) (core off n : Nat) : Except (Nat × Nat) (List Byte) := do
  w.coreAcc core off n 0
  return w.rdN (coreBase core + off) n

/-- Whether a range of a core's store touches a poisoned line. -/
def W.corePoison (w : W) (core off n : Nat) : Bool := (linesOf (coreBase core + off) n).any w.poisoned

/-- Bytes stored into a core's store; data from a poisoned lane poisons the lines (R566). -/
def W.coreWr (w : W) (core off : Nat) (bs : List Byte) (poison : Bool) : Except (Nat × Nat) W := do
  w.coreAcc core off bs.length 1
  let w := w.put (coreBase core + off) bs
  return if poison then w.op (.mark (coreBase core + off) bs.length) else w

/-- The uncorrectable line of a core's own store among those that its code reported. -/
def ownUe (core : Nat) (es : List EccReport) : Option Nat :=
  (es.find? fun e => !e.corrected && coreBase core ≤ e.line && e.line < coreBase core + coreBytes).map fun e => lineOf e.line - coreBase core

/-- The vector unit or the matrix unit has issued an instruction (CORE_VEC_CYC, CORE_MAT_CYC; DESIGN CHOICE, log entry 45). -/
def Core.issued (c : Core) (unit : Nat) : Core :=
  if unit = 1 then { c with vecCyc := (c.vecCyc + 1) % 2 ^ 32 } else if unit = 2 then { c with matCyc := (c.matCyc + 1) % 2 ^ 32 } else c

/-- An instruction of the running task (R237, R240, R243): fetched through the frame table; the lines that its reads found in error are
handled, an uncorrectable one raising SRAM_UE; then its effect, or its fault. `unit`: 0 scalar, 1 vector, 2 matrix. -/
def W.coreIns (w : W) (core unit : Nat) (ecc : List EccReport) (f : Ins) : W :=
  if (w.dev.running core).isNone then w
  else match w.dev.coreBad core (w.dev.core core).pc 1 0 with
    | some a => w.coreFault core 0x02 a
    | none =>
      let w := w.eccLines ecc
      if (w.dev.running core).isNone then w
      else match ownUe core ecc with
        | some a => w.coreFault core 0x04 a
        | none =>
          match f w with
          | .error (k, a) => w.coreFault core k a
          | .ok w => (w.onCore core (·.issued unit)).retire core

/-- The bytes of a vector register; one never written holds 0. -/
def Core.vreg (c : Core) (r : Nat) : List Byte := Tab.getD c.vregs r (zeros 1024)

/-- The poison bits of a vector register, lane 0 in bit 0 (R566). -/
def Core.vpois (c : Core) (r : Nat) : Nat := Tab.getD c.vpoison r 0

/-- A mask register. -/
def Core.mreg (c : Core) (r : Nat) : Nat := Tab.getD c.masks r 0

/-- A scalar register. -/
def Core.sreg (c : Core) (r : Nat) : Nat := (c.sregs.getD r 0).toNat

/-- A vector register set, with its poison bits. -/
def Core.setV (c : Core) (r : Nat) (bs : List Byte) (poison : Nat) : Core :=
  { c with vregs := Tab.put c.vregs r bs, vpoison := Tab.put c.vpoison r poison }

/-- Sticky flags set (R263). -/
def Core.flag (c : Core) (fl : Nat) : Core := { c with fpStat := BitVec.ofNat 32 (Nat.lor c.fpStat.toNat fl) }

/-- CORE_FTZ. -/
def Core.ftz (c : Core) : Bool := bit c.fpCtl.toNat 7

/-- CORE_SAT. -/
def Core.satC (c : Core) : Bool := bit c.fpCtl.toNat 6

/-- n elements of w bytes of a byte sequence, as numbers. -/
def takeElems (w : Nat) : Nat → List Byte → List Nat
  | 0, _ => []
  | n + 1, bs => leNat (bs.take w) :: takeElems w n (bs.drop w)

/-- The elements of a register's bytes. -/
def elemsOf (w : Nat) (bs : List Byte) : List Nat := takeElems w (bs.length / w) bs

/-- The lane in which element i of w bytes begins (R245). -/
def laneOf (w i : Nat) : Nat := i * w / 4

/-- All 256 lanes. -/
def allLanes : Nat := 2 ^ 256 - 1

/-- The lanes that a mask register selects; all without one. -/
def Core.lanes (c : Core) (mask : Option Nat) : Nat :=
  match mask with
  | some m => c.mreg m % 2 ^ 256
  | none => allLanes

/-- Bits of a, with those in m taken from b. -/
def mergeBits (a b m : Nat) : Nat := a - Nat.land a m + Nat.land b m

/-- For elements of 64 bits, the two lanes of an element share their poison. -/
def pairUp (p : Nat) : Nat :=
  (List.range 128).foldl (fun acc i => if bits p (2 * i) 2 = 0 then acc else acc + 3 * 4 ^ i) 0

/-- The lanes of 64-bit elements that a mask selects: both of each element whose first lane it selects. -/
def pairMask (m : Nat) : Nat := (List.range 128).foldl (fun acc i => if bit m (2 * i) then acc + 3 * 4 ^ i else acc) 0

/-- Whether vector registers, and a mask register where one is named, exist. -/
def regsOk (rs : List Nat) (mask : Option Nat) : Bool := rs.all (· < 32) && (mask.map fun m => decide (m < 8)).getD true

/-- The state with which CORE_SR_SEED seeds the generator of a lane (R257). -/
def seedGen (seed l : Nat) : Nat :=
  let s := (seed + 0x9E3779B9 * (l + 1)) % 2 ^ 32
  if s = 0 then 1 else s

/-- A step of a generator (R257). -/
def genStep (s : Nat) : Nat :=
  let s := Nat.xor s (s * 2 ^ 13 % 2 ^ 32)
  let s := Nat.xor s (s / 2 ^ 17)
  Nat.xor s (s * 2 ^ 5 % 2 ^ 32)

/-- The generator of a lane. -/
def Core.gen (c : Core) (l : Nat) : Nat := Tab.getD c.gens l (seedGen c.srSeed.toNat l)

/-- How an instruction rounds: in a mode of IEEE 754, or stochastically. -/
inductive RMode where
  | fixed (m : Mode)
  | sr
  deriving DecidableEq, Repr

/-- The mode of a code of Table 7.5 but DYN; none for a reserved one. -/
def modeOf (c : Nat) : Option RMode :=
  match c with
  | 0 => some (.fixed .rne) | 1 => some (.fixed .rtz) | 2 => some (.fixed .rdn) | 3 => some (.fixed .rup) | 4 => some .sr | _ => none

/-- The mode that an instruction names (R256): DYN takes CORE_RM, a reserved value of which gives RNE; a reserved code is ILLEGAL. -/
def Core.mode (c : Core) (code : BitVec 3) : Except (Nat × Nat) RMode :=
  if code.toNat = 7 then .ok ((modeOf (bits c.fpCtl.toNat 0 3)).getD (.fixed .rne))
  else match modeOf code.toNat with
    | some m => .ok m
    | none => .error faultIllegal

/-- The mode of one rounding with a generator value, and the generator after it (R257). -/
def RMode.use (r : RMode) (s : Nat) : Mode × Nat :=
  match r with
  | .fixed m => (m, s)
  | .sr => (.sr s, genStep s)

/-- What one lane computes: from its generator and its operands, the result, its flags and the generator. -/
abbrev LaneFn := Nat → List Nat → Nat × Nat × Nat

/-- The elements of a lane-wise operation in ascending order: old elements stay where the mask leaves a lane out. -/
def laneGo (w : Nat) (on : Nat) (f : LaneFn) (gen : Nat → Nat) : List (Nat × Nat × List Nat) → Tab Nat → Nat → List Nat × Tab Nat × Nat
  | [], gens, fl => ([], gens, fl)
  | (i, old, xs) :: t, gens, fl =>
    let l := laneOf w i
    if bit on l then
      let (r, fl', g) := f (Tab.getD gens l (gen l)) xs
      let (rs, gens, fl) := laneGo w on f gen t (if g = gen l && (Tab.get gens l).isNone then gens else Tab.put gens l g) (Nat.lor fl fl')
      (r :: rs, gens, fl)
    else
      let (rs, gens, fl) := laneGo w on f gen t gens fl
      (old :: rs, gens, fl)

/-- Operand lists per element: the columns of several registers. -/
def columns (n : Nat) (srcs : List (List Nat)) : List (List Nat) := (List.range n).map fun i => srcs.map fun s => s.getD i 0

/-- A lane-wise operation of a core on elements of w bytes (R245, R566): results, flags, generators, poison; lanes that the mask leaves out
stay as they are. -/
def Core.lanewise (c : Core) (w dst : Nat) (srcs : List Nat) (mask : Option Nat) (f : LaneFn) : Core :=
  let n := 1024 / w
  let on := c.lanes mask
  let old := elemsOf w (c.vreg dst)
  let cols := columns n (srcs.map fun r => elemsOf w (c.vreg r))
  let work := (List.range n).zip (old.zip cols)
  let (rs, gens, fl) := laneGo w on f c.gen work c.gens 0
  let p := srcs.foldl (fun p r => Nat.lor p (c.vpois r)) 0
  let act := if w = 8 then pairMask on else on
  ({ c with gens := gens }.setV dst (rs.flatMap (toLe w)) (mergeBits (c.vpois dst) (if w = 8 then pairUp p else p) act)).flag fl

end Sys2Proof.Machine
end

