-- ==== Sys2Proof/Machine/VectorOps.lean ====
section
/-! DEFINITION. The element functions of the vector unit (R246, R247, R259, R261): floating-point and integer operations by type. -/

namespace Sys2Proof.Machine

/-- The floating-point format of an element type that the vector unit computes in. -/
def fmtOf (ty : Nat) : Option FFmt :=
  match ty with
  | 0x01 => some fp32 | 0x02 => some bf16 | 0x03 => some fp16 | 0x19 => some fp64 | _ => none

/-- The types of a format that a conversion reads or writes, FP8 and MX elements too. -/
def fmtOfAny (ty : Nat) : Option FFmt :=
  match ty with
  | 0x01 => some fp32 | 0x02 => some bf16 | 0x03 => some fp16 | 0x19 => some fp64
  | 0x04 | 0x06 => some e4m3 | 0x05 | 0x07 => some e5m2 | 0x08 => some e3m2 | 0x09 => some e2m3 | 0x0A => some e2m1
  | _ => none

/-- Whether an integer type is signed (Table 5.1): INT8 to INT64, INT4, TS64. -/
def intSigned (ty : Nat) : Bool := ty = 0x10 || ty = 0x12 || ty = 0x14 || ty = 0x16 || ty = 0x18 || ty = 0x40

/-- Width in bits of an integer type; none for another type. -/
def intBits (ty : Nat) : Option Nat :=
  match ty with
  | 0x10 | 0x11 => some 8 | 0x12 | 0x13 => some 16 | 0x14 | 0x15 => some 32 | 0x16 | 0x17 => some 64 | 0x18 => some 4 | 0x40 => some 64
  | _ => if 0x20 ≤ ty && ty ≤ 0x3F then some (ty - 0x1F) else none

/-- The value of an integer element. -/
def intVal (n : Nat) (signed : Bool) (v : Nat) : Int := if signed then sext n v else (v % 2 ^ n : Nat)

/-- The least and the greatest value of an integer type. -/
def intRange (n : Nat) (signed : Bool) : Int × Int :=
  if signed then (-(2 ^ (n - 1) : Nat), (2 ^ (n - 1) : Nat) - 1) else (0, (2 ^ n : Nat) - 1)

/-- An exact integer result in a type (R261): wrapped, or clamped under saturation; a clamp, and a wrapped signed overflow, set IOVF. -/
def intFit (n : Nat) (signed sat : Bool) (r : Int) : Nat × Nat :=
  let (lo, hi) := intRange n signed
  if lo ≤ r && r ≤ hi then (unsext n r, 0)
  else if sat then (unsext n (if r < lo then lo else hi), flIOVF)
  else (unsext n r, if signed then flIOVF else 0)

/-- Whether a lane-wise operation accepts a type (Table 7.3). -/
def vecAccepts (op : VecOp) (ty : Nat) : Bool :=
  let fp := ty = 0x01 || ty = 0x02 || ty = 0x03
  let i64 := ty = 0x16 || ty = 0x17 || ty = 0x40
  let small := 0x10 ≤ ty && ty ≤ 0x15
  match op with
  | .add | .cmp => fp || ty = 0x19 || small || i64
  | .sub | .sel => fp || small || i64
  | .mul => fp || ty = 0x19 || ty = 0x14 || ty = 0x15
  | .fma => fp || ty = 0x19
  | .min | .max => fp
  | .and | .or | .xor | .shl | .shr | .sar => small
  | .div | .sqrt | .exp2 | .log2 | .rsqrt => ty = 0x01

/-- What min and max give where a datum is a NaN (R259): NaN where both are; where one is, NaN or the other, as the one or the other of
the operations of IEEE 754 has it. Which of these the unit performs is open: it is a constant without a body (DESIGN CHOICE, log entry
46). -/
def FV.ofNan (a b : FV) : FV :=
  if (a.isNan && b.isNan) || Config.freeUlp 0x0246 0 % 2 = 0 then .nan else if a.isNan then b else a

/-- The lesser of two data: -0 below +0. -/
def FV.min (a b : FV) : FV :=
  if a.isNan || b.isNan then a.ofNan b else if a.lt b then a else if b.lt a then b else if a.neg then a else b

/-- The greater of two data. -/
def FV.max (a b : FV) : FV :=
  if a.isNan || b.isNan then a.ofNan b else if a.lt b then b else if b.lt a then a else if a.neg then b else a

/-- A relation of two data; with a NaN only `ne` holds. -/
def FV.rel (r : Rel) (a b : FV) : Bool :=
  match r with
  | .lt => a.lt b | .le => a.lt b || a.eq b | .eq => a.eq b | .ne => !a.eq b | .ge => b.lt a || a.eq b | .gt => b.lt a

/-- A relation of two integers. -/
def intRel (r : Rel) (a b : Int) : Bool :=
  match r with
  | .lt => a < b | .le => a ≤ b | .eq => a = b | .ne => a != b | .ge => b ≤ a | .gt => b < a

/-- 2^x (R247): exact special cases, else within one unit in the last place. -/
def exp2Op (f : FFmt) (sat ftz : Bool) (key : Nat) (v : FV) : FV × Nat :=
  match v with
  | .nan => (.nan, 0)
  | .inf s => (if s then .num false 0 else .inf false, 0)
  | .num _ _ =>
    let x := v.val
    if 2000 < x then f.overflow .rne false false sat
    else if x < -2000 then (.num false 0, flUF + flNX)
    else f.within1 sat ftz key 0 false (exp2Approx x)

/-- log2 x. -/
def log2Op (f : FFmt) (sat ftz : Bool) (key : Nat) (v : FV) : FV × Nat :=
  match v with
  | .nan => (.nan, 0)
  | .inf s => if s then invalid false else (.inf false, 0)
  | .num s q =>
    if q = 0 then (.inf true, 0) else if s then invalid false
    else
      let y := log2Approx q
      f.within1 sat ftz key 1 (y < 0) (ratAbs y)

/-- The reciprocal square root. -/
def rsqrtOp (f : FFmt) (sat ftz : Bool) (key : Nat) (v : FV) : FV × Nat :=
  match v with
  | .nan => (.nan, 0)
  | .inf s => if s then invalid false else (.num false 0, 0)
  | .num s q => if q = 0 then (.inf s, 0) else if s then invalid false else f.within1 sat ftz key 2 false (sqrtSticky (1 / q) 96)

/-- A floating-point operation on element bit patterns (R247, R259, R260). -/
def fpLane (f : FFmt) (op : VecOp) (rel : Rel) (r : RMode) (satC ftz : Bool) : LaneFn := fun s xs =>
  let v := fun (k : Nat) => f.flush ftz (f.decode (xs.getD k 0))
  let (md, s') := r.use s
  let out := fun (x : FV × Nat) => (f.encode x.1, x.2, s')
  let same := fun (x : FV × Nat) => (f.encode x.1, x.2, s)
  let key := xs.getD 0 0
  match op with
  | .add => out (f.add md satC ftz (v 0) (v 1))
  | .sub => out (f.add md satC ftz (v 0) (v 1).flip)
  | .mul => out (f.mul md satC ftz (v 0) (v 1))
  | .fma => out (f.fma md satC ftz (v 0) (v 1) (v 2))
  | .div => out (f.div md satC ftz (v 0) (v 1))
  | .sqrt => out (f.sqrt md satC ftz (v 0))
  | .exp2 => same (exp2Op f satC ftz key (v 0))
  | .log2 => same (log2Op f satC ftz key (v 0))
  | .rsqrt => same (rsqrtOp f satC ftz key (v 0))
  | .min => same ((v 0).min (v 1), 0)
  | .max => same ((v 0).max (v 1), 0)
  | .cmp => (if (v 0).rel rel (v 1) then 2 ^ f.width - 1 else 0, 0, s)
  | .sel => (if xs.getD 2 0 != 0 then xs.getD 0 0 else xs.getD 1 0, 0, s)
  | _ => (0, 0, s)

/-- An integer operation on elements of n bits (R261). -/
def intLane (n : Nat) (signed sat : Bool) (op : VecOp) (rel : Rel) : LaneFn := fun s xs =>
  let u := fun (k : Nat) => xs.getD k 0 % 2 ^ n
  let v := fun (k : Nat) => intVal n signed (xs.getD k 0)
  let fit := fun (r : Int) => let (x, fl) := intFit n signed sat r; (x, fl, s)
  match op with
  | .add => fit (v 0 + v 1)
  | .sub => fit (v 0 - v 1)
  | .mul => fit (v 0 * v 1)
  | .and => (Nat.land (u 0) (u 1), 0, s)
  | .or => (Nat.lor (u 0) (u 1), 0, s)
  | .xor => (Nat.xor (u 0) (u 1), 0, s)
  | .shl => if n ≤ u 1 then (0, if signed && u 0 != 0 then flIOVF else 0, s) else fit (v 0 * (2 ^ u 1 : Nat))
  | .shr => (u 0 / 2 ^ min (u 1) n, 0, s)
  | .sar => (unsext n (sext n (u 0) / (2 ^ min (u 1) n : Nat)), 0, s)
  | .cmp => (if intRel rel (v 0) (v 1) then 2 ^ n - 1 else 0, 0, s)
  | .sel => (if u 2 != 0 then u 0 else u 1, 0, s)
  | _ => (0, 0, s)

/-- The element function of an operation on a type, and the element's bytes; none where Table 7.3 does not list it. -/
def vecFn (op : VecOp) (ty : Nat) (rel : Rel) (r : RMode) (sat satC ftz : Bool) : Option (Nat × LaneFn) :=
  if !vecAccepts op ty then none
  else match fmtOf ty with
    | some f => some (f.width / 8, fpLane f op rel r satC ftz)
    | none => (intBits ty).map fun n => (n / 8, intLane n (intSigned ty) sat op rel)

end Sys2Proof.Machine
end

