-- ==== Sys2Proof/Machine/Convert.lean ====
section
/-! DEFINITION. Conversions of the vector unit (R245, R256 to R262) and the MX block formats (R165, R252, R262). -/

namespace Sys2Proof.Machine

/-- Whether CORE_FTZ concerns a type (R260). -/
def ftzType (ty : Nat) : Bool := (fmtOf ty).isSome

/-- The datum of an element of a type (MX elements without their scale). -/
def datumOf (ty : Nat) (ftz : Bool) (v : Nat) : FV :=
  if ty = 0x0B then let i := sext 8 v; .num (i < 0) (i.natAbs * pow2 (-6))
  else match fmtOfAny ty with
    | some f => f.flush (ftz && ftzType ty) (f.decode v)
    | none =>
      let i := intVal ((intBits ty).getD 8) (intSigned ty) v
      .num (i < 0) (i.natAbs : Nat)

/-- A datum converted to an integer type (R258, R260): clamped with CVSAT; NaN gives 0. -/
def toInt (n : Nat) (signed : Bool) (md : Mode) (v : FV) : Nat × Nat :=
  let (lo, hi) := intRange n signed
  match v with
  | .nan => (0, flNV)
  | .inf s => (unsext n (if s then lo else hi), flCVSAT)
  | .num s q =>
    let m := md.round s q
    let r : Int := if s then -(m : Int) else m
    if r < lo then (unsext n lo, flCVSAT) else if hi < r then (unsext n hi, flCVSAT)
    else (unsext n r, if (m : Rat) = q then 0 else flNX)

/-- A datum converted to a floating-point format (R260, Table 7.6). -/
def toFloat (f : FFmt) (md : Mode) (sat ftz : Bool) (v : FV) : Nat × Nat :=
  match v with
  | .nan => (f.nanBits false, 0)
  | .inf s =>
    if f.kind = 0 then (f.encode (.inf s), 0)
    else if sat then (f.encode (.num s f.big), flCVSAT) else (f.nanBits s, 0)
  | .num s q =>
    let (r, fl) := f.round md true sat ftz s q
    (if r = .nan then f.nanBits s else f.encode r, fl)

/-- An element converted from a type to a type, neither of MX class. -/
def convElem (srcTy dstTy : Nat) (md : Mode) (sat ftz : Bool) (v : FV) : Nat × Nat :=
  match fmtOfAny dstTy with
  | some f => toFloat f md sat (ftz && ftzType dstTy) v
  | none => if srcTy = 0 then (0, 0) else toInt ((intBits dstTy).getD 8) (intSigned dstTy) md v

/-- Element bits of an MX type: of an element, of a block in bytes (Table 5.2). -/
def mxBlockBytes (ty : Nat) : Nat := 4 * elemBits ty

/-- Bytes of a group of G blocks (R165). -/
def mxGroupBytes (ty g : Nat) (pad : Bool) : Nat :=
  let n := g + g * mxBlockBytes ty
  if pad then alignUp n 64 else n

/-- Offsets in a row of the scale byte and of the data of block b (R165). -/
def mxPlace (ty g : Nat) (pad : Bool) (b : Nat) : Nat × Nat :=
  let gb := mxGroupBytes ty g pad
  let start := b / g * gb
  (start + b % g, start + gb - g * mxBlockBytes ty + b % g * mxBlockBytes ty)

/-- The datum of element e of a block with a scale (R262: a scale of 0xFF reads as NaN). -/
def mxDatum (ty scale : Nat) (data : Nat) (e : Nat) : FV :=
  if scale = 0xFF then .nan
  else match datumOf ty false (bits data (e * elemBits ty) (elemBits ty)) with
    | .num s q => .num s (q * pow2 ((scale : Int) - 127))
    | v => v

/-- The exponent of the largest element value (R262). -/
def mxEmax (ty : Nat) : Int :=
  match ty with
  | 0x06 => 8 | 0x07 => 15 | 0x08 => 4 | 0x09 => 2 | 0x0A => 2 | _ => 0

/-- One element of an MX block: x / 2^X rounded and clamped (R262). -/
def mxElem (ty : Nat) (md : Mode) (x : FV) (X : Int) : Nat × Nat :=
  match x with
  | .num s q =>
    let q := q / pow2 X
    if ty = 0x0B then toInt 8 true md (.num s (q * 64))
    else match fmtOfAny ty with
      | some f => toFloat f md true false (.num s q)
      | none => (0, 0)
  | _ => (0, 0)

/-- The elements of an MX block one after another, each with a generator value (R257, R262). -/
def mxElems (ty : Nat) (r : RMode) (X : Int) : List (Nat × FV) → (Nat → Nat) → Tab Nat → Nat → List Nat × Tab Nat × Nat
  | [], _, gens, fl => ([], gens, fl)
  | (l, x) :: t, gen, gens, fl =>
    let (md, g) := r.use (Tab.getD gens l (gen l))
    let (v, fl') := mxElem ty md x X
    let (vs, gens, fl) := mxElems ty r X t gen (if r = .sr then Tab.put gens l g else gens) (Nat.lor fl fl')
    (v :: vs, gens, fl)

/-- 32 values converted to one MX block (R262): scale, element patterns, generators, flags. Values come with the lanes whose generators
round them. -/
def toMx (ty : Nat) (r : RMode) (xs : List (Nat × FV)) (gen : Nat → Nat) (gens : Tab Nat) : Nat × List Nat × Tab Nat × Nat :=
  let mags := xs.map fun e => match e.2 with
    | .num _ q => some q
    | _ => none
  if mags.any Option.isNone then (0xFF, List.replicate 32 0, gens, flNV)
  else
    let amax := mags.foldl (fun m q => max m (q.getD 0)) 0
    if amax = 0 then (0x7F, List.replicate 32 0, gens, 0)
    else
      let X := min (max (flog2 amax - mxEmax ty) (-127)) 127
      let (vs, gens, fl) := mxElems ty r X xs gen gens 0
      ((X + 127).toNat, vs, gens, fl)

/-- Element patterns packed LSB-first (R163). -/
def packBits (n : Nat) (vs : List Nat) : List Byte :=
  toLe (ceilDiv (n * vs.length) 8) (vs.zipIdx.foldl (fun acc (v, k) => acc + v % 2 ^ n * 2 ^ (n * k)) 0)

/-- Whether the sides of a conversion exist (R245, R246). -/
def convOk (ty reg : Nat) (row : PackedRow) : Bool :=
  match elemClass ty with
  | .byte => reg < 32
  | .packed => true
  | .mx => row.group = 1 || row.group = 2 || row.group = 4 || row.group = 8
  | _ => false

/-- The elements of a conversion: those of the wider register. -/
def convCount (i : VecConv) : Nat :=
  let w := fun (ty : Nat) => if elemClass ty = .byte then elemBytes ty else 0
  1024 / max 1 (max (w i.srcTy) (w i.dstTy))

/-- First element of a register side: the narrower of two registers takes a part (DESIGN CHOICE, log entry 48). -/
def convFirst (i : VecConv) (ty : Nat) : Nat := if elemBytes ty * convCount i = 1024 then 0 else i.part * convCount i

/-- The bytes of a row of n packed or MX elements. -/
def rowBytes (ty n : Nat) (row : PackedRow) : Nat :=
  if elemClass ty = .mx then ceilDiv (n / 32) row.group * mxGroupBytes ty row.group row.pad else ceilDiv (n * elemBits ty) 8

/-- Source elements with their poison. -/
def W.convSource (w : W) (core : Nat) (i : VecConv) : Except (Nat × Nat) (List (FV × Bool)) :=
  let c := w.dev.core core
  let n := convCount i
  if elemClass i.srcTy = .byte then
    let b := elemBytes i.srcTy
    let k := convFirst i i.srcTy
    let xs := ((elemsOf b (c.vreg i.src)).drop k).take n
    .ok (xs.zipIdx.map fun (x, e) =>
      (datumOf i.srcTy c.ftz x, (elemLanes' b (k + e)).any fun l => bit (c.vpois i.src) l))
  else do
    let off := i.row.off
    let bs ← w.coreRd core off (rowBytes i.srcTy n i.row)
    if elemClass i.srcTy = .packed then
      let v := leNat bs
      let nb := elemBits i.srcTy
      return (List.range n).map fun e =>
        (datumOf i.srcTy false (bits v (e * nb) nb), w.corePoison core (off + e * nb / 8) (ceilDiv (e * nb % 8 + nb) 8))
    else
      return (List.range n).map fun e =>
        let (so, d) := mxPlace i.srcTy i.row.group i.row.pad (e / 32)
        let bb := mxBlockBytes i.srcTy
        (mxDatum i.srcTy (fld bs so 1) (fld bs d bb) (e % 32), w.corePoison core (off + so) 1 || w.corePoison core (off + d) bb)
where
  /-- Lanes of element k of b bytes. -/
  elemLanes' (b k : Nat) : List Nat := if b = 8 then [2 * k, 2 * k + 1] else [k * b / 4]

/-- Elements converted one after another, each with the generator of its lane. -/
def convGo (srcTy dstTy : Nat) (r : RMode) (sat ftz : Bool) (gen : Nat → Nat) :
    List (Nat × FV) → Tab Nat → Nat → List Nat × Tab Nat × Nat
  | [], gens, fl => ([], gens, fl)
  | (l, x) :: t, gens, fl =>
    let (md, g) := r.use (Tab.getD gens l (gen l))
    let (v, fl') := convElem srcTy dstTy md sat ftz x
    let (vs, gens, fl) := convGo srcTy dstTy r sat ftz gen t (if r = .sr then Tab.put gens l g else gens) (Nat.lor fl fl')
    (v :: vs, gens, fl)

/-- Blocks converted one after another: each block's place in the row and its patterns (R262). -/
def blocksGo (ty : Nat) (r : RMode) (gen : Nat → Nat) : List (List (Nat × FV)) → Tab Nat → Nat → List (Nat × List Nat) × Tab Nat × Nat
  | [], gens, fl => ([], gens, fl)
  | xs :: t, gens, fl =>
    let (s, vs, gens, fl') := toMx ty r xs gen gens
    let (bs, gens, fl) := blocksGo ty r gen t gens (Nat.lor fl fl')
    ((s, vs) :: bs, gens, fl)

/-- A list cut into pieces of k. -/
def groupsOf {α : Type} (k : Nat) : Nat → List α → List (List α)
  | 0, _ => []
  | n + 1, l => if l.isEmpty then [] else l.take k :: groupsOf k n (l.drop k)

/-- MX blocks written into a row: scale, then elements. -/
def W.writeBlocks (w : W) (core ty : Nat) (row : PackedRow) (poison : Bool) : List (Nat × Nat × List Nat) → Except (Nat × Nat) W
  | [] => .ok w
  | (b, s, vs) :: t => do
    let (so, d) := mxPlace ty row.group row.pad b
    let w ← w.coreWr core (row.off + so) (toLe 1 s) poison
    let w ← w.coreWr core (row.off + d) (packBits (elemBits ty) vs) poison
    w.writeBlocks core ty row poison t

/-- A conversion (R246, R256 to R262). -/
def vecConv (core : Nat) (i : VecConv) : Ins := fun w => do
  let c := w.dev.core core
  let r ← c.mode i.mode
  need (convOk i.srcTy i.src i.row && convOk i.dstTy i.dst i.row
    && (elemClass i.srcTy = .byte || elemClass i.dstTy = .byte)) faultIllegal
  let n := convCount i
  let dw := elemBytes i.dstTy
  let k := convFirst i i.dstTy
  need ((elemClass i.srcTy != .byte || (convFirst i i.srcTy + n) * elemBytes i.srcTy ≤ 1024)
    && (elemClass i.dstTy != .byte || (k + n) * dw ≤ 1024)) faultIllegal
  let xs ← w.convSource core i
  let lane := fun (e : Nat) => if elemClass i.dstTy = .byte then (k + e) * dw / 4 else laneOf (elemBytes i.srcTy) e
  let ls := xs.zipIdx.map fun (x, e) => (lane e, x.1)
  if elemClass i.dstTy = .mx then
    let (bs, gens, fl) := blocksGo i.dstTy r c.gen (groupsOf 32 (n / 32) ls) c.gens 0
    let w := w.onCore core fun c => { c with gens := gens }.flag fl
    w.writeBlocks core i.dstTy i.row (xs.any Prod.snd) (bs.zipIdx.map fun (b, k) => (k, b.1, b.2))
  else
    let (vs, gens, fl) := convGo i.srcTy i.dstTy r c.satC c.ftz c.gen ls c.gens 0
    let w := w.onCore core fun c => { c with gens := gens }.flag fl
    if elemClass i.dstTy = .byte then
      let old := c.vreg i.dst
      let bs := old.take (k * dw) ++ vs.flatMap (toLe dw) ++ old.drop ((k + n) * dw)
      let touched := (List.range n).flatMap fun e => if dw = 8 then [2 * e, 2 * e + 1] else [lane e]
      let on := touched.eraseDups.foldl (fun m l => m + 2 ^ l) 0
      let pl := (xs.zipIdx.filter fun (x, _) => x.2).flatMap fun (_, e) => if dw = 8 then [2 * e, 2 * e + 1] else [lane e]
      let p := pl.eraseDups.foldl (fun m l => m + 2 ^ l) 0
      return w.onCore core fun c => c.setV i.dst bs (mergeBits (c.vpois i.dst) p on)
    else w.coreWr core i.row.off (packBits (elemBits i.dstTy) vs) (xs.any Prod.snd)

/-- CONVERSION (R260). -/
def execConversion (core : Nat) (i : VecConv) (s : State) : Out := runT s fun w => w.coreIns core 1 i.ecc (vecConv core i)

/-- A conversion of 32 elements of a register to one MX block (R262). -/
def mxConv (core : Nat) (i : MxConv) : Ins := fun w => do
  let c := w.dev.core core
  let r ← c.mode i.mode
  let b := elemBytes i.srcTy
  need (elemClass i.srcTy = .byte && elemClass i.dstTy = .mx && i.src < 32 && (i.first + 32) * b ≤ 1024) faultIllegal
  let xs := ((elemsOf b (c.vreg i.src)).drop i.first).take 32
  let ls := xs.zipIdx.map fun (x, e) => (laneOf b (i.first + e), datumOf i.srcTy c.ftz x)
  let (s, vs, gens, fl) := toMx i.dstTy r ls c.gen c.gens
  let p := ls.any fun e => bit (c.vpois i.src) e.1 || (b = 8 && bit (c.vpois i.src) (e.1 + 1))
  let w := w.onCore core fun c => { c with gens := gens }.flag fl
  let w ← w.coreWr core i.scaleOff (toLe 1 s) p
  w.coreWr core i.dataOff (packBits (elemBits i.dstTy) vs) p

/-- MX_BLOCK_CONVERSION (R262). -/
def execMxBlockConversion (core : Nat) (i : MxConv) (s : State) : Out := runT s fun w => w.coreIns core 1 [] (mxConv core i)

end Sys2Proof.Machine
end

