-- ==== Sys2Proof/Machine/TextConv.lean ====
section
/-! DEFINITION. Conversions of text to values (Tables 9.8, R317, R326): numbers, times, UTF-8. -/

namespace Sys2Proof.Machine

/-- The character code of a byte. -/
def isDigit (b : Byte) : Bool := 0x30 ≤ b.toNat && b.toNat ≤ 0x39

/-- A letter in lower case. -/
def lower (b : Byte) : Byte := if 0x41 ≤ b.toNat && b.toNat ≤ 0x5A then b + 0x20 else b

/-- Whether a text is a word, in any case. -/
def isWord (bs : List Byte) (s : String) : Bool := bs.map lower = ascii s

/-- The value of a hexadecimal digit. -/
def hexDigit (b : Byte) : Option Nat :=
  let c := (lower b).toNat
  if isDigit b then some (c - 0x30) else if 0x61 ≤ c && c ≤ 0x66 then some (c - 0x57) else none

/-- The value of decimal digits. -/
def decVal (bs : List Byte) : Nat := bs.foldl (fun n b => 10 * n + (b.toNat - 0x30)) 0

/-- An optional sign: whether it is minus, and the rest. -/
def signOf : List Byte → Bool × List Byte
  | b :: t => if b = 0x2D then (true, t) else if b = 0x2B then (false, t) else (false, b :: t)
  | [] => (false, [])

/-- A decimal integer with an optional sign. -/
def decInt (bs : List Byte) : Option (Bool × Nat) :=
  let (neg, t) := signOf bs
  if !t.isEmpty && t.all isDigit then some (neg, decVal t) else none

/-- A decimal number with an optional fraction and exponent: its sign, and m and e of m x 10^e. -/
def decimal (bs : List Byte) : Option (Bool × Nat × Int) :=
  let (neg, t) := signOf bs
  let (a, t) := t.span isDigit
  let (f, t) := match t with
    | b :: t' => if b = 0x2E then t'.span isDigit else ([], t)
    | [] => ([], [])
  if a.isEmpty && f.isEmpty then none
  else
    let m := decVal (a ++ f)
    let e : Int := -(f.length : Int)
    match t with
    | [] => some (neg, m, e)
    | b :: t' =>
      if lower b = 0x65 then (decInt t').map fun (s, x) => (neg, m, e + (if s then -(x : Int) else x)) else none

/-- A decimal number rounded once under RNE (Table 9.8): beyond the range infinite. Exponents far beyond every format's range
are settled without the power. -/
def decFloat (f : FFmt) (neg : Bool) (m : Nat) (e : Int) : Nat :=
  if m = 0 then f.encode (.num neg 0)
  else
    let g : Int := Nat.log2 m
    if 0 < e && 1100 < g + 3 * e then f.encode (.inf neg)
    else if e < 0 && g + 1 + 3 * e < -1300 then f.encode (.num neg 0)
    else
      let q : Rat := if 0 ≤ e then ((m * 10 ^ e.toNat : Nat) : Rat) else (m : Rat) / ((10 ^ (-e).toNat : Nat) : Rat)
      f.encode (f.round .rne true false false neg q).1

/-- The integer that m x 10^e is, where it is one of fewer than 1,000 bits. -/
def decWhole (m : Nat) (e : Int) : Option Nat :=
  if m = 0 then some 0
  else if 0 ≤ e then (if e < 300 then some (m * 10 ^ e.toNat) else none)
  else
    let k := (-e).toNat
    if k ≤ Nat.log2 m && m % 10 ^ k = 0 then some (m / 10 ^ k) else none

/-- Signedness and width of an integer type (Table 5.1). -/
def intType (ty : Nat) : Option (Bool × Nat) :=
  if 0x10 ≤ ty && ty ≤ 0x17 then some (ty % 2 = 0, 8 * 2 ^ ((ty - 0x10) / 2))
  else if ty = 0x18 then some (true, 4)
  else if 0x20 ≤ ty && ty ≤ 0x3F then some (false, ty - 0x1F)
  else none

/-- An integer stored in a type, where it lies in range. -/
def intElem (ty : Nat) (v : Int) : Option Nat :=
  match intType ty with
  | some (s, n) =>
    let lo : Int := if s then -(2 ^ (n - 1) : Nat) else 0
    let hi : Int := if s then (2 ^ (n - 1) : Nat) - 1 else (2 ^ n : Nat) - 1
    if lo ≤ v && v ≤ hi then some (unsext n v) else none
  | none => none

/-- A signed integer. -/
def signed (neg : Bool) (m : Nat) : Int := if neg then -(m : Int) else m

/-- Nanoseconds as a TS64 value, where they lie in range. -/
def ts64 (v : Int) : Option Nat := if -(2 ^ 63 : Nat) ≤ v && v < (2 ^ 63 : Nat) then some (unsext 64 v) else none

/-- Nanoseconds of the unit of TS_S, TS_MS, TS_US, TS_NS. -/
def tsUnit (conv : Nat) : Nat := [1000000000, 1000000, 1000, 1].getD (conv - 4) 1

/-- Days from 1970-01-01 of a date. -/
def dayNumber (y m d : Int) : Int :=
  let y := if m ≤ 2 then y - 1 else y
  let era := y / 400
  let yoe := y - era * 400
  let doy := (153 * (m + (if 2 < m then -3 else 9)) + 2) / 5 + d - 1
  era * 146097 + (yoe * 365 + yoe / 4 - yoe / 100 + doy) - 719468

/-- Days of a month. -/
def monthDays (y m : Nat) : Nat :=
  if m = 2 then (if (y % 4 = 0 && y % 100 != 0) || y % 400 = 0 then 29 else 28)
  else if m = 4 || m = 6 || m = 9 || m = 11 then 30 else 31

/-- n digits at the head of a text, and the rest. -/
def takeDigits (n : Nat) (bs : List Byte) : Option (Nat × List Byte) :=
  let a := bs.take n
  if a.length = n && a.all isDigit then some (decVal a, bs.drop n) else none

/-- A byte that a text must begin with. -/
def expect (ok : Byte → Bool) : List Byte → Option (List Byte)
  | b :: t => if ok b then some t else none
  | [] => none

/-- A zone: Z, or an offset in minutes. -/
def zone : List Byte → Option Int
  | b :: t =>
    if b = 0x5A || b = 0x7A then (if t.isEmpty then some 0 else none)
    else if b = 0x2B || b = 0x2D then do
      let (h, t) ← takeDigits 2 t
      let t ← expect (· = 0x3A) t
      let (m, t) ← takeDigits 2 t
      if t.isEmpty && h < 24 && m < 60 then some (signed (b = 0x2D) (60 * h + m)) else none
    else none
  | [] => none

/-- An RFC 3339 date-time, or a full date for midnight UTC, in nanoseconds from 1970 (R317). -/
def tsText (bs : List Byte) : Option Int := do
  let (y, t) ← takeDigits 4 bs
  let t ← expect (· = 0x2D) t
  let (mo, t) ← takeDigits 2 t
  let t ← expect (· = 0x2D) t
  let (d, t) ← takeDigits 2 t
  if mo < 1 || 12 < mo || d < 1 || monthDays y mo < d then none
  else
    let day := dayNumber y mo d
    if t.isEmpty then some (day * 86400 * 1000000000)
    else
      let t ← expect (fun b => b = 0x54 || b = 0x74 || b = 0x20) t
      let (h, t) ← takeDigits 2 t
      let t ← expect (· = 0x3A) t
      let (mi, t) ← takeDigits 2 t
      let t ← expect (· = 0x3A) t
      let (s, t) ← takeDigits 2 t
      let (frac, t) ← match t with
        | b :: t' =>
          if b = 0x2E then
            let (ds, r) := t'.span isDigit
            if ds.isEmpty then none else some (decVal (ds.take 9 ++ List.replicate (9 - ds.length) 0x30), r)
          else some (0, t)
        | [] => some (0, [])
      let z ← zone t
      if 24 ≤ h || 60 ≤ mi || 60 < s then none
      else some ((day * 86400 + 3600 * h + 60 * mi + s - 60 * z) * 1000000000 + frac)

/-- A number m x 10^e converted (Table 9.8, R326), where the conversion takes numbers. -/
def convNumber (conv ty : Nat) (neg : Bool) (m : Nat) (e : Int) : Option Nat :=
  if conv = 0 then (decWhole m e).bind fun v => intElem ty (signed neg v)
  else if conv = 2 then (fmtOf ty).map fun f => decFloat f neg m e
  else if 4 ≤ conv && conv ≤ 7 then (decWhole m e).bind fun v => ts64 (signed neg v * tsUnit conv)
  else none

/-- A text converted to an element of a value type (Table 9.8); none where it is not accepted. -/
def convText (conv ty : Nat) (bs : List Byte) : Option Nat :=
  if conv = 0 then (decInt bs).bind fun (neg, m) => intElem ty (signed neg m)
  else if conv = 1 then
    let t := match bs with
      | a :: b :: t => if a = 0x30 && lower b = 0x78 then t else bs
      | _ => bs
    match t.mapM hexDigit with
    | some ds =>
      let v := ds.foldl (fun n x => 16 * n + x) 0
      if 1 ≤ ds.length && ds.length ≤ 16 && v < 2 ^ ((intType ty).map Prod.snd |>.getD 0) then some v else none
    | none => none
  else if conv = 2 then
    match fmtOf ty with
    | some f =>
      let (neg, t) := signOf bs
      if isWord t "inf" || isWord t "infinity" then some (f.encode (.inf neg))
      else if isWord t "nan" then some (f.nanBits neg)
      else (decimal bs).map fun (neg, m, e) => decFloat f neg m e
    | none => none
  else if conv = 3 then (tsText bs).bind ts64
  else if conv ≤ 7 then (decInt bs).bind fun (neg, m) => ts64 (signed neg m * tsUnit conv)
  else if conv = 8 then
    if isWord bs "true" || bs = [0x31] then some 1 else if isWord bs "false" || bs = [0x30] then some 0 else none
  else if conv = 0x0A then some (svh64 0 bs)
  else none

/-- Whether ELEM is one that CONV allows (Table 9.8). -/
def convElemOk (conv ty : Nat) : Bool :=
  if conv ≤ 1 then (intType ty).isSome
  else if conv = 2 then ty = 0x01 || ty = 0x02 || ty = 0x03 || ty = 0x19
  else if conv ≤ 7 then ty = 0x40
  else if conv = 8 then ty = 0x11
  else if conv = 9 then ty = 0x50
  else conv = 0x0A && ty = 0x17

/-- UTF-8 (RFC 3629): what the bytes of a sequence yet to come must be, as pairs of least and greatest. -/
def utf8Next (b : Nat) : Option (List (Nat × Nat)) :=
  let c := (0x80, 0xBF)
  if b < 0x80 then some []
  else if 0xC2 ≤ b && b ≤ 0xDF then some [c]
  else if b = 0xE0 then some [(0xA0, 0xBF), c]
  else if b = 0xED then some [(0x80, 0x9F), c]
  else if 0xE1 ≤ b && b ≤ 0xEF then some [c, c]
  else if b = 0xF0 then some [(0x90, 0xBF), c, c]
  else if 0xF1 ≤ b && b ≤ 0xF3 then some [c, c, c]
  else if b = 0xF4 then some [(0x80, 0x8F), c, c]
  else none

/-- Whether bytes are valid UTF-8, with the bytes that an open sequence still needs. -/
def utf8Go : List Byte → List (Nat × Nat) → Bool
  | [], due => due.isEmpty
  | b :: t, (lo, hi) :: due => lo ≤ b.toNat && b.toNat ≤ hi && utf8Go t due
  | b :: t, [] => match utf8Next b.toNat with
    | some due => utf8Go t due
    | none => false

/-- Whether bytes are valid UTF-8. -/
def utf8Ok (bs : List Byte) : Bool := utf8Go bs []

/-- UTF-8 of a code point. -/
def utf8Of (c : Nat) : List Byte :=
  let b := fun (x : Nat) => BitVec.ofNat 8 x
  if c < 0x80 then [b c]
  else if c < 0x800 then [b (0xC0 + c / 64), b (0x80 + c % 64)]
  else if c < 0x10000 then [b (0xE0 + c / 4096), b (0x80 + c / 64 % 64), b (0x80 + c % 64)]
  else [b (0xF0 + c / 262144), b (0x80 + c / 4096 % 64), b (0x80 + c / 64 % 64), b (0x80 + c % 64)]

end Sys2Proof.Machine
end

