-- ==== Sys2Proof/Machine/Parse.lean ====
section
/-! DEFINITION. The parse engines on delimited text and line-delimited JSON (R314 to R326). -/

namespace Sys2Proof.Machine

/-- A column entry (Table 9.7). -/
structure Col where
  src : Nat
  elem : Nat
  conv : Nat
  cflags : Nat
  sep : Nat
  pathLen : Nat
  dst : Nat
  valid : Nat
  dflt : Nat
  aux : Nat
  auxCap : Nat
  pathVa : Nat
  keys : List (List Byte) := []

def Col.nullable (c : Col) : Bool := bit c.cflags 0
def Col.trim (c : Col) : Bool := bit c.cflags 1
def Col.emptyNull (c : Col) : Bool := bit c.cflags 2
def Col.list (c : Col) : Bool := bit c.cflags 3
def Col.quotedNum (c : Col) : Bool := bit c.cflags 4

/-- The column entry of 64 bytes. -/
def parseCol (b : List Byte) : Col where
  src := fld b 0 2
  elem := fld b 2 1
  conv := fld b 3 1
  cflags := fld b 4 1
  sep := fld b 5 1
  pathLen := fld b 6 2
  dst := fld b 8 8
  valid := fld b 0x10 8
  dflt := fld b 0x18 8
  aux := fld b 0x20 8
  auxCap := fld b 0x28 8
  pathVa := fld b 0x30 8

/-- A column whose values are of no fixed size: it has offsets at DST_VA and bytes at AUX_VA. -/
def Col.offsets (c : Col) : Bool := c.list || c.elem = 0x50

/-- Whether a column entry keeps the ranges of Table 9.7 (R316). -/
def Col.ok (json : Bool) (c : Col) : Bool :=
  c.conv ≤ 0x0A && convElemOk c.conv c.elem && c.cflags < 32 && c.dst % 64 = 0 && c.valid % 64 = 0 && c.aux % 64 = 0 &&
    !(c.list && (c.elem = 0x50 || elemClass c.elem != .byte)) && (c.offsets || (c.aux = 0 && c.auxCap = 0)) &&
    (if json then c.src = 0 && c.sep = 0 && 1 ≤ c.pathLen && c.pathLen ≤ 255
     else c.src < 1024 && (c.list || c.sep = 0) && c.pathLen = 0 && c.pathVa = 0)

/-- What a row gives a column. -/
inductive Cell where
  | null
  | val (v : Nat)
  | str (bs : List Byte)
  | list (vs : List Nat)

/-- Bytes that a cell takes at AUX_VA. -/
def Cell.auxBytes (elem : Nat) : Cell → Nat
  | .str bs => bs.length
  | .list vs => vs.length * elemBytes elem
  | _ => 0

/-- Reasons of Table 9.9 as errors of a field. -/
abbrev FieldRes := Except Nat Cell

/-- A field or value that has no content (R320). -/
def Col.empty (c : Col) : FieldRes :=
  if c.conv = 9 then .ok (if c.nullable && c.emptyNull then .null else .str [])
  else if c.nullable then .ok .null
  else .error 0x0B

/-- A null value (R320, Table 9.9). -/
def Col.none (c : Col) : FieldRes := if c.nullable then .ok .null else .error 0x0B

/-- A text converted for a column that is no list. -/
def Col.text (c : Col) (bs : List Byte) : FieldRes :=
  if bs.isEmpty then c.empty
  else if c.conv = 9 then (if utf8Ok bs then .ok (.str bs) else .error 0x04)
  else match convText c.conv c.elem bs with
    | some v => .ok (.val v)
    | Option.none => .error 0x02

/-- A field as parsed: its bytes, each with whether quotes or a backslash protect it; whether bytes follow its closing quote. -/
structure RawField where
  bytes : List (Byte × Bool) := []
  badQuote : Bool := false

/-- A list without its leading elements that pass a test. -/
def dropHead {α : Type} (p : α → Bool) : List α → List α
  | [] => []
  | x :: t => if p x then dropHead p t else x :: t

/-- TRIM (R318): spaces and tabs outside quotes removed at both ends. -/
def trimField (bs : List (Byte × Bool)) : List (Byte × Bool) :=
  let p := fun (x : Byte × Bool) => !x.2 && (x.1 = 0x20 || x.1 = 0x09)
  (dropHead p (dropHead p bs).reverse).reverse

/-- A list field split at each separator outside quotes. -/
def splitField (sep : Byte) : List (Byte × Bool) → List (List Byte)
  | [] => [[]]
  | (b, q) :: t =>
    match splitField sep t with
    | p :: ps => if !q && b = sep then [] :: p :: ps else (b :: p) :: ps
    | [] => [[b]]

/-- A field of delimited text converted for a column (R318, R320). -/
def Col.field (c : Col) (f : RawField) : FieldRes :=
  let bs := if c.trim then trimField f.bytes else f.bytes
  if c.list then
    if bs.isEmpty then .ok (.list [])
    else match (splitField (BitVec.ofNat 8 c.sep) bs).mapM (convText c.conv c.elem) with
      | some vs => .ok (.list vs)
      | Option.none => .error 0x02
  else c.text (bs.map Prod.fst)

/-- Options of delimited text (Table 9.6). -/
structure DelimOpts where
  delim : Byte
  quote : Byte
  backslash : Bool
  strict : Bool

/-- A row as scanned: where the scan stands in the present field (0 its start, 1 outside quotes, 2 inside quotes, 3 past the closing
quote), the fields, the bytes used, those of the line end, and whether a line end was found. -/
structure Scan where
  st : Nat := 0
  cur : List (Byte × Bool) := []
  bad : Bool := false
  fields : List RawField := []
  used : Nat := 0
  lineEnd : Nat := 0

/-- A byte taken into the present field. -/
def Scan.push (s : Scan) (b : Byte) (prot : Bool) (st n : Nat) : Scan :=
  { s with st := st, cur := (b, prot) :: s.cur, used := s.used + n, bad := s.bad || s.st = 3 }

/-- The present field closed. -/
def Scan.close (s : Scan) (n : Nat) : Scan :=
  { s with st := 0, cur := [], bad := false, fields := ⟨s.cur.reverse, s.bad⟩ :: s.fields, used := s.used + n }

/-- The special byte pairs of BACKSLASH (R318). -/
def unescape (b : Byte) : Byte :=
  if b = 0x6E then 0x0A else if b = 0x72 then 0x0D else if b = 0x74 then 0x09 else if b = 0x30 then 0x00 else b

/-- One row of delimited text scanned (R318); fuel: its bytes. -/
def scanRow (o : DelimOpts) : Nat → List Byte → Scan → Scan
  | 0, _, s => s.close 0
  | _, [], s => s.close 0
  | n + 1, b :: t, s =>
    let out := if s.st = 0 then 1 else s.st
    if o.backslash && b = 0x5C && !t.isEmpty then scanRow o n (t.drop 1) (s.push (unescape (t.headD 0)) true out 2)
    else if s.st = 2 then
      if b = o.quote then
        if t.head? = some b then scanRow o n (t.drop 1) (s.push b true 2 2)
        else scanRow o n t { s with st := 3, used := s.used + 1 }
      else scanRow o n t (s.push b true 2 1)
    else if b = 0x0A then { s.close 1 with lineEnd := 1 }
    else if b = 0x0D && t.head? = some 0x0A then { s.close 2 with lineEnd := 2 }
    else if s.st = 0 && o.quote != 0 && b = o.quote then scanRow o n t { s with st := 2, used := s.used + 1 }
    else if b = o.delim then scanRow o n t (s.close 1)
    else scanRow o n t (s.push b false out 1)

/-- Whether the quotes of a row are open where its bytes end. -/
def scanOpen (o : DelimOpts) : Nat → List Byte → Nat → Bool
  | 0, _, st => st = 2
  | _, [], st => st = 2
  | n + 1, b :: t, st =>
    let out := if st = 0 then 1 else st
    if o.backslash && b = 0x5C && !t.isEmpty then scanOpen o n (t.drop 1) out
    else if st = 2 then
      if b = o.quote then (if t.head? = some b then scanOpen o n (t.drop 1) 2 else scanOpen o n t 3) else scanOpen o n t 2
    else if b = 0x0A then false
    else if st = 0 && o.quote != 0 && b = o.quote then scanOpen o n t 2
    else if b = o.delim then scanOpen o n t 0
    else scanOpen o n t out

/-- A row: its first error (field and reason), whether that error rejects under NULL too (R321), a cell for each column with the
failing ones null, and its number of fields. -/
structure RowVals where
  fault : Option (Nat × Nat)
  hard : Bool
  cells : List Cell
  fields : Nat

/-- A row rejected as a whole. -/
def rowFault (reason : Nat) : RowVals := ⟨some (0xFFFF, reason), true, [], 0⟩

/-- Cells of a row from the columns' results, with the first failure. -/
def rowCells (first : Option (Nat × Nat)) (fields : Nat) (rs : List (Nat × FieldRes)) : RowVals where
  fault := first.orElse fun _ => rs.findSome? fun r => match r.2 with
    | .error e => some (r.1, e)
    | .ok _ => none
  hard := (first.orElse fun _ => rs.findSome? fun r => match r.2 with
    | .error e => some (r.1, e)
    | .ok _ => none).elim false fun f => f.2 = 0x04
  cells := rs.map fun r => match r.2 with
    | .ok c => c
    | .error _ => .null
  fields := fields

/-- A row of delimited text (R318 to R321); `count` is the field count of the item's first data row. -/
def delimRow (o : DelimOpts) (cols : List Col) (line : List Byte) (s : Scan) (count : Option Nat) : RowVals :=
  if 0x100000 < s.used - s.lineEnd then rowFault 0x05
  else if s.lineEnd = 0 && scanOpen o (line.length + 1) line 0 then rowFault 0x03
  else
    let fs := s.fields.reverse
    let badQ := if o.strict then (fs.zipIdx.find? fun f => f.1.badQuote).map fun f => (f.2, 0x0A) else none
    let badN := if o.strict && count.getD fs.length != fs.length then some (0xFFFF, 0x01) else none
    rowCells (badQ.orElse fun _ => badN) fs.length (cols.map fun c =>
      let f := fs.getD c.src {}
      (c.src, if o.strict && f.badQuote then .error 0x0A else c.field f))

/-- A JSON value; a number keeps its text (R326). -/
inductive Json where
  | null
  | bool (b : Bool)
  | num (text : List Byte)
  | str (bs : List Byte)
  | arr (l : List Json)
  | obj (l : List (List Byte × Json))

/-- Errors of the JSON reader: reasons of Table 9.9, 0x03 for a string open at the end. -/
abbrev JRes (α : Type) := Except Nat (α × List Byte)

/-- White space skipped. -/
def jSkip (bs : List Byte) : List Byte := dropHead (fun b => b = 0x20 || b = 0x09 || b = 0x0A || b = 0x0D) bs

/-- Four hexadecimal digits. -/
def hex4 (bs : List Byte) : Option Nat :=
  if bs.length < 4 then none else ((bs.take 4).mapM hexDigit).map fun ds => ds.foldl (fun n x => 16 * n + x) 0

/-- The rest of a JSON string after its opening quote, unescaped (RFC 8259, R325). -/
def jString : Nat → List Byte → List Byte → JRes (List Byte)
  | 0, _, _ => .error 0x03
  | _, [], _ => .error 0x03
  | n + 1, b :: t, acc =>
    if b = 0x22 then .ok (acc.reverse, t)
    else if b.toNat < 0x20 then .error 0x06
    else if b != 0x5C then jString n t (b :: acc)
    else match t with
      | [] => .error 0x03
      | c :: u =>
        let esc : Option Byte :=
          if c = 0x22 || c = 0x5C || c = 0x2F then some c
          else if c = 0x62 then some 0x08 else if c = 0x66 then some 0x0C else if c = 0x6E then some 0x0A
          else if c = 0x72 then some 0x0D else if c = 0x74 then some 0x09 else none
        match esc with
        | some e => jString n u (e :: acc)
        | none =>
          if c != 0x75 then .error 0x06
          else match hex4 u with
            | none => .error (if u.length < 4 && u.all (fun x => (hexDigit x).isSome) then 0x03 else 0x06)
            | some v =>
              let r := u.drop 4
              if 0xDC00 ≤ v && v ≤ 0xDFFF then .error 0x04
              else if 0xD800 ≤ v && v ≤ 0xDBFF then
                match r with
                | x :: y :: r' =>
                  match (if x = 0x5C && y = 0x75 then hex4 r' else none) with
                  | some lo =>
                    if 0xDC00 ≤ lo && lo ≤ 0xDFFF then
                      jString n (r'.drop 4) ((utf8Of (0x10000 + (v - 0xD800) * 1024 + (lo - 0xDC00))).reverse ++ acc)
                    else .error 0x04
                  | none => .error 0x04
                | _ => .error 0x04
              else jString n r ((utf8Of v).reverse ++ acc)

/-- A JSON number: its text and the rest. -/
def jNumber (bs : List Byte) : JRes (List Byte) :=
  let (sg, t) := match bs with
    | b :: t => if b = 0x2D then ([b], t) else ([], bs)
    | [] => ([], [])
  let (int, t) := t.span isDigit
  let (frac, t) := match t with
    | b :: u =>
      if b = 0x2E then
        let (d, r) := u.span isDigit
        (b :: d, r)
      else ([], t)
    | [] => ([], [])
  let (exp, t) := match t with
    | b :: u =>
      if lower b = 0x65 then
        let (s, u) := match u with
          | c :: v => if c = 0x2B || c = 0x2D then ([c], v) else ([], u)
          | [] => ([], [])
        let (d, r) := u.span isDigit
        (b :: (s ++ d), r)
      else ([], t)
    | [] => ([], [])
  let ok := !int.isEmpty && (int.length = 1 || int.head? != some 0x30) && frac.length != 1 &&
    (exp.isEmpty || (exp.getLast?.map isDigit).getD false)
  if ok then .ok (sg ++ int ++ frac ++ exp, t) else .error 0x06

/-- A word that must follow. -/
def jWord (s : String) (v : Json) (bs : List Byte) : JRes Json :=
  let k := (ascii s).length
  if bs.take k = ascii s then .ok (v, bs.drop k) else .error 0x06

mutual
/-- A JSON value at a nesting depth (RFC 8259, R324). -/
def jValue : Nat → Nat → List Byte → JRes Json
  | 0, _, _ => .error 0x06
  | n + 1, depth, bs =>
    match jSkip bs with
    | [] => .error 0x06
    | b :: t =>
      if b = 0x7B then
        if 32 ≤ depth then .error 0x08
        else match jSkip t with
          | c :: u => if c = 0x7D then .ok (.obj [], u) else jMembers n (depth + 1) (c :: u) []
          | [] => .error 0x06
      else if b = 0x5B then
        if 32 ≤ depth then .error 0x08
        else match jSkip t with
          | c :: u => if c = 0x5D then .ok (.arr [], u) else jItems n (depth + 1) (c :: u) []
          | [] => .error 0x06
      else if b = 0x22 then (jString t.length.succ t []).map fun (s, r) => (.str s, r)
      else if b = 0x74 then jWord "true" (.bool true) (b :: t)
      else if b = 0x66 then jWord "false" (.bool false) (b :: t)
      else if b = 0x6E then jWord "null" .null (b :: t)
      else (jNumber (b :: t)).map fun (s, r) => (.num s, r)
/-- The elements of an array up to its closing bracket. -/
def jItems : Nat → Nat → List Byte → List Json → JRes Json
  | 0, _, _, _ => .error 0x06
  | n + 1, depth, bs, acc =>
    match jValue n depth bs with
    | .error e => .error e
    | .ok (v, r) =>
      match jSkip r with
      | c :: u => if c = 0x2C then jItems n depth u (v :: acc) else if c = 0x5D then .ok (.arr (v :: acc).reverse, u) else .error 0x06
      | [] => .error 0x06
/-- The members of an object up to its closing brace. -/
def jMembers : Nat → Nat → List Byte → List (List Byte × Json) → JRes Json
  | 0, _, _, _ => .error 0x06
  | n + 1, depth, bs, acc =>
    match jSkip bs with
    | q :: t =>
      if q != 0x22 then .error 0x06
      else match jString t.length.succ t [] with
        | .error e => .error e
        | .ok (k, r) =>
          match jSkip r with
          | c :: u =>
            if c != 0x3A then .error 0x06
            else match jValue n depth u with
              | .error e => .error e
              | .ok (v, r) =>
                match jSkip r with
                | c :: u =>
                  if c = 0x2C then jMembers n depth u ((k, v) :: acc)
                  else if c = 0x7D then .ok (.obj ((k, v) :: acc).reverse, u)
                  else .error 0x06
                | [] => .error 0x06
          | [] => .error 0x06
    | [] => .error 0x06
end

/-- The JSON text of a line, or why it is none. -/
def jText (bs : List Byte) : Except Nat Json :=
  if !utf8Ok bs then .error 0x04
  else match jValue (2 * bs.length + 2) 0 bs with
    | .error e => .error e
    | .ok (v, r) => if (jSkip r).isEmpty then .ok v else .error 0x06

/-- The member that a path selects (R325): none where it is missing or passes through a value that is no object. -/
def jPath : List (List Byte) → Json → Option Json
  | [], j => some j
  | k :: ks, .obj l =>
    match l.find? fun m => m.1 = k with
    | some m => jPath ks m.2
    | none => none
  | _ :: _, _ => none

/-- A JSON value converted to one element of a value type (R326). -/
def jElem (c : Col) : Json → Option Nat
  | .num t =>
    if c.conv = 0x0A then some (svh64 0 t)
    else (decimal t).bind fun (neg, m, e) => convNumber c.conv c.elem neg m e
  | .str bs =>
    if c.conv = 3 || c.conv = 0x0A || (c.quotedNum && (c.conv ≤ 2 || c.conv = 8)) then convText c.conv c.elem bs else none
  | .bool b => if c.conv = 8 then some (b2n b) else none
  | _ => none

/-- A JSON value converted for a column (R325, R326). -/
def jCell (c : Col) : Option Json → FieldRes
  | none => c.none
  | some .null => c.none
  | some j =>
    if c.list then
      match j with
      | .arr l => match l.mapM (jElem c) with
        | some vs => .ok (.list vs)
        | Option.none => .error 0x02
      | _ => .error 0x02
    else match j with
      | .str bs =>
        if c.conv = 9 then c.text bs
        else match jElem c j with
          | some v => .ok (.val v)
          | Option.none => .error 0x02
      | _ => match jElem c j with
        | some v => .ok (.val v)
        | Option.none => .error 0x02

/-- A line of JSON (R324 to R326). The field of a record is the column's number: JSONL has no field index (DEDUCED, log entry 56). -/
def jsonRow (cols : List Col) (body : List Byte) (ended : Bool) : RowVals :=
  if 0x100000 < body.length then rowFault 0x05
  else match jText body with
    | .error e => rowFault (if e = 0x03 && ended then 0x06 else e)
    | .ok (.obj l) => rowCells none 0 (cols.zipIdx.map fun (c, k) => (k, jCell c (jPath c.keys (.obj l))))
    | .ok _ => rowFault 0x07

/-- A line: the bytes it uses, whether a line end closes it, whether it is skipped, and its row. -/
structure TextLine where
  used : Nat
  ended : Bool
  blank : Bool
  row : Option Nat → RowVals

/-- The next line of delimited text. -/
def delimLine (o : DelimOpts) (cols : List Col) (bs : List Byte) : TextLine :=
  let s := scanRow o (bs.length + 1) bs {}
  ⟨s.used, s.lineEnd != 0, s.used = s.lineEnd, delimRow o cols (bs.take s.used) s⟩

/-- The next line of JSON. -/
def jsonLine (cols : List Col) (bs : List Byte) : TextLine :=
  let (body, r) := bs.span (· != 0x0A)
  let body' := if !r.isEmpty && body.getLast? = some 0x0D then body.dropLast else body
  ⟨body.length + b2n !r.isEmpty, !r.isEmpty, (jSkip body).isEmpty, fun _ => jsonRow cols body' !r.isEmpty⟩

/-- How the reading of rows ends. -/
inductive RowsEnd where
  | done | outFull | rowError
  | stop (s : Stop)

/-- The rows read so far: position and bytes left, rows still to skip, data rows, rows written (latest first), reject records
(latest first), bytes used of each auxiliary area, the first row's field count, the offset of the first error. -/
structure RowsAt where
  pos : Nat := 0
  rest : List Byte
  skip : Nat
  ord : Nat := 0
  rows : List (List Cell) := []
  rejects : List (Nat × Nat × Nat × Nat) := []
  aux : List Nat
  count : Option Nat := none
  err : Option Nat := none

/-- What an item of rows is given: whether FINAL, ON_ERROR, ROW_CAP, the columns, the poison of a range of the input. -/
structure RowsOpts where
  final : Bool
  onError : Nat
  cap : Nat
  cols : List Col
  poison : Nat → Nat → Bool

/-- A row written, where its auxiliary bytes fit. -/
def RowsAt.add (a : RowsAt) (o : RowsOpts) (cells : List Cell) (used : Nat) : Option RowsAt :=
  let aux := (a.aux.zip (o.cols.zip cells)).map fun (n, c, x) => n + x.auxBytes c.elem
  if (aux.zip o.cols).all fun (n, c) => n ≤ c.auxCap || !c.offsets then
    some { a with pos := a.pos + used, rest := a.rest.drop used, ord := a.ord + 1, rows := cells :: a.rows, aux := aux }
  else none

/-- Rows read until the input, the capacity or an error ends them (R318 to R323); fuel: the input's bytes. -/
def readRows (o : RowsOpts) (next : List Byte → TextLine) (obstacle : Option Stop) : Nat → RowsAt → RowsAt × RowsEnd
  | 0, a => (a, .done)
  | n + 1, a =>
    if a.rows.length = o.cap then (a, .done)
    else if a.rest.isEmpty then (a, (obstacle.map RowsEnd.stop).getD .done)
    else
      let l := next a.rest
      let past := { a with pos := a.pos + l.used, rest := a.rest.drop l.used }
      if !l.ended && (obstacle.isSome || !o.final) then (a, (obstacle.map RowsEnd.stop).getD .done)
      else if l.blank then readRows o next obstacle n past
      else if 0 < a.skip then readRows o next obstacle n { past with skip := a.skip - 1 }
      else
        let v := if o.poison a.pos l.used then rowFault 0x09 else l.row a.count
        let a := { a with
          count := a.count.orElse fun _ => if v.cells.isEmpty then none else some v.fields
          err := if v.fault.isSome then a.err.orElse fun _ => some a.pos else a.err }
        let full := if a.ord = 0 then RowsEnd.outFull else .done
        match v.fault with
        | some (field, reason) =>
          if o.onError = 2 then (a, .rowError)
          else if o.onError = 0 || v.hard then
            readRows o next obstacle n
              { past with
                ord := a.ord + 1, rejects := (a.ord, a.pos, field, reason) :: a.rejects, count := a.count, err := a.err }
          else match a.add o v.cells l.used with
            | some b => readRows o next obstacle n b
            | none => (a, full)
        | none => match a.add o v.cells l.used with
          | some b => readRows o next obstacle n b
          | none => (a, full)

/-- A bitmap of flags, LSB-first (R316). -/
def bitmap (bs : List Bool) : List Byte := packBits 1 (bs.map b2n)

/-- Elements of n bits written from a byte address; bits of the last byte that belong to none keep their values (R163, R164). -/
def Eng.writeBits (va n : Nat) (vs : List Nat) : Eng Unit := do
  let bs := packBits n vs
  let k := n * vs.length % 8
  if k = 0 then Eng.write va bs
  else
    let last := va + bs.length - 1
    let old := ((← Eng.w).readVa last 1).headD 0
    let new := (bs.getLastD 0).toNat + old.toNat / 2 ^ k * 2 ^ k
    Eng.write va (bs.dropLast ++ toLe 1 new)

/-- One element of a column's values: a null one holds DEFAULT. -/
def Col.elemOf (c : Col) : Cell → Nat
  | .val v => v
  | _ => c.dflt % 2 ^ elemBits c.elem

/-- Bytes of a cell at AUX_VA. -/
def Col.auxOf (c : Col) : Cell → List Byte
  | .str bs => bs
  | .list vs => vs.flatMap (toLe (elemBytes c.elem))
  | _ => []

/-- Running sums from 0. -/
def offsets : Nat → List Nat → List Nat
  | s, [] => [s]
  | s, n :: t => s :: offsets (s + n) t

/-- A column's rows written: values or offsets and auxiliary bytes, validity (R316). -/
def Eng.writeCol (c : Col) (cells : List Cell) : Eng Unit := do
  if c.offsets then
    let unit := if c.elem = 0x50 then 1 else elemBytes c.elem
    let aux := cells.map c.auxOf
    Eng.write c.dst ((offsets 0 (aux.map fun b => b.length / unit)).flatMap (toLe 4))
    Eng.write c.aux aux.flatten
  else Eng.writeBits c.dst (elemBits c.elem) (cells.map c.elemOf)
  if c.valid != 0 then
    Eng.write c.valid (bitmap (cells.map fun x => match x with
      | .null => false
      | _ => true))

/-- Columns written in order, each of the cells at its place in the rows. -/
def writeCols (rows : List (List Cell)) : Nat → List Col → Eng Unit
  | _, [] => pure ()
  | k, c :: t => do
    Eng.writeCol c (rows.map fun r => r.getD k .null)
    writeCols rows (k + 1) t

/-- A reject record of 24 bytes (R322). -/
def rejectRecord (base : Nat) (r : Nat × Nat × Nat × Nat) : List Byte :=
  toLe 8 (base + r.1) ++ toLe 8 r.2.1 ++ toLe 2 r.2.2.1 ++ toLe 1 r.2.2.2 ++ zeros 5

/-- Bytes written so far. -/
def Eng.outBytes : Eng Nat := do return ((← get).outs.map Prod.snd).sum

/-- The keys of a path: each followed by a zero byte. -/
def pathKeys : List Byte → List Byte → List (List Byte)
  | [], _ => []
  | b :: t, acc => if b = 0 then acc.reverse :: pathKeys t [] else pathKeys t (b :: acc)

/-- The column entries of an item, with the keys of their paths, checked (Table 9.7, R325). -/
def Eng.columns (json : Bool) : List (List Byte) → Eng (List Col)
  | [] => pure []
  | b :: t => do
    let c := parseCol b
    Eng.need (c.ok json && zeroAt b 0x38 8)
    let keys ← if json then do
        let p ← Eng.read c.pathVa c.pathLen
        Eng.need (p.getLast? = some 0)
        pure (pathKeys p [])
      else pure []
    Eng.need (!json || (1 ≤ keys.length && keys.length ≤ 4))
    return { c with keys := keys } :: (← Eng.columns json t)

/-- The work of DELIM and JSONL (R314 to R326). -/
def parseText (json : Bool) : Eng Unit := do
  let b ← Eng.desc
  let va := fld b 8 8
  let len := fld b 0x10 8
  let n := fld b 0x40 1
  let pf := fld b 0x43 1
  let delim := fld b 0x41 1
  let quote := fld b 0x42 1
  Eng.need (commonOk b && len < 2 ^ 32 && zeroAt b 0x18 16 && fld b 0x38 8 % 64 = 0 && 1 ≤ n && n ≤ 64 && pf < 32 &&
    bits pf 3 2 != 3 && zeroAt b 0x46 2 && 1 ≤ fld b 0x48 4 && fld b 0x50 8 % 64 = 0 && zeroAt b 0x60 32 &&
    (if json then delim = 0 && quote = 0 else delim != 0x0D && delim != 0x0A && (quote = 0 || delim != quote)))
  let schema ← Eng.read (fld b 0x38 8) (64 * n)
  let cols ← Eng.columns json (groupsOf 64 n schema)
  let (bytes, obstacle) ← Eng.source va len
  let w ← Eng.w
  let o : DelimOpts := ⟨BitVec.ofNat 8 delim, BitVec.ofNat 8 quote, bit pf 1, bit pf 2⟩
  let bom := !json && fld b 0x58 8 = 0 && bytes.take 3 = [0xEF, 0xBB, 0xBF]
  let k := if bom then 3 else 0
  let start : RowsAt := { pos := k, rest := bytes.drop k, skip := fld b 0x44 2, aux := cols.map fun _ => 0 }
  let (a, fin) := readRows ⟨bit pf 0, bits pf 3 2, fld b 0x48 4, cols, fun p m => w.poisonVa (va + p) m⟩
    (if json then jsonLine cols else delimLine o cols) obstacle (bytes.length + 1) start
  match fin with
  | .outFull => Eng.fail 8 0x01
  | _ => pure ()
  Eng.onItem fun i =>
    { i with
      inUsed := a.pos, outDone := a.rows.length, rejected := a.rejects.length, errOff := a.err.getD 0
      flags := b2n (a.pos < len) }
  writeCols a.rows.reverse 0 cols
  let recs := a.rejects.reverse.take (if fld b 0x50 8 = 0 then 0 else fld b 0x4C 4)
  Eng.write (fld b 0x50 8) (recs.flatMap (rejectRecord (fld b 0x58 8)))
  let out ← Eng.outBytes
  Eng.onItem fun i => { i with outBytes := out }
  match fin with
  | .rowError =>
    Eng.onItem fun i => { i with flags := 0 }
    throw (.fail 4 0x0D .all)
  | .stop s => throw s
  | _ => pure ()

/-- DELIM (R314 to R323). -/
def execDelim (die eng : Nat) (s : State) : Out := runT s fun w => w.engineOp die 0 eng 0x01 fun _ => parseText false

/-- JSONL (R324 to R326). -/
def execJsonl (die eng : Nat) (s : State) : Out := runT s fun w => w.engineOp die 0 eng 0x02 fun _ => parseText true

end Sys2Proof.Machine
end

