-- ==== Sys2Proof/Machine/ColPage.lean ====
section
/-! DEFINITION. Column pages (R327 to R329). -/

namespace Sys2Proof.Machine

/-- Header of a column page (Table 9.10). -/
structure PageHdr where
  enc : Nat
  elem : Nat
  hasNulls : Bool
  rows : Nat
  values : Nat
  dictCount : Nat
  width : Nat
  nullBytes : Nat
  dictBytes : Nat
  dataBytes : Nat
  crc : Nat

/-- The header of 64 bytes. -/
def parsePage (b : List Byte) : PageHdr :=
  ⟨fld b 5 1, fld b 6 1, bit (fld b 7 1) 0, fld b 8 4, fld b 0xC 4, fld b 0x10 4, fld b 0x14 1, fld b 0x18 4, fld b 0x1C 4,
    fld b 0x20 4, fld b 0x3C 4⟩

/-- Bytes of the three sections. -/
def PageHdr.body (h : PageHdr) : Nat := h.nullBytes + h.dictBytes + h.dataBytes

/-- Whether an encoding takes an element type (Table 9.11). -/
def PageHdr.encOk (h : PageHdr) : Bool :=
  match h.enc with
  | 0 | 1 => elemClass h.elem = .byte || elemClass h.elem = .packed || h.elem = 0x50
  | 2 => elemClass h.elem = .byte
  | 3 => (intType h.elem).isSome || h.elem = 0x40
  | _ => false

/-- Whether a header is in range (R328); `left` is the input from the header on. -/
def pageOk (b : List Byte) (elem left : Nat) : Bool :=
  let h := parsePage b
  fld b 0 4 = 0x31504353 && fld b 4 1 = 1 && h.elem = elem && fld b 7 1 ≤ 1 && h.encOk && 1 ≤ h.rows && h.rows ≤ 1048576 &&
    (if h.hasNulls then h.values ≤ h.rows && h.nullBytes = alignUp (ceilDiv h.rows 8) 8 else h.values = h.rows && h.nullBytes = 0) &&
    (if h.enc = 1 then 1 ≤ h.dictCount && h.dictCount ≤ 2 ^ 24 && 1 ≤ h.width && h.width ≤ 32
     else h.dictCount = 0 && h.width = 0 && h.dictBytes = 0) &&
    h.dictBytes % 8 = 0 && h.dataBytes % 8 = 0 && zeroAt b 0x15 3 && zeroAt b 0x24 4 && zeroAt b 0x30 12 && 64 + h.body ≤ left

/-- n fields of k bits, packed LSB-first. -/
def unpackBits (k n : Nat) (bs : List Byte) : Option (List Nat) :=
  if 8 * bs.length < k * n then none
  else
    let v := leNat bs
    some ((List.range n).map fun i => bits v (k * i) k)

/-- Strings of n + 1 offsets and the bytes that follow. -/
def unpackStrs (n : Nat) (bs : List Byte) : Option (List Cell) :=
  if bs.length < 4 * (n + 1) then none
  else
    let data := bs.drop (4 * (n + 1))
    (List.range n).mapM fun i =>
      let a := fld bs (4 * i) 4
      let b := fld bs (4 * i + 4) 4
      if a ≤ b && b ≤ data.length then some (.str (slice data a (b - a))) else none

/-- n values in PLAIN form (Table 9.11). -/
def plainVals (elem n : Nat) (bs : List Byte) : Option (List Cell) :=
  if elem = 0x50 then unpackStrs n bs else (unpackBits (elemBits elem) n bs).map fun vs => vs.map .val

/-- Runs of RLE up to n values, then less than 8 bytes of padding; none where their total differs. -/
def rleVals (w : Nat) : Nat → Nat → List Byte → Option (List Nat)
  | 0, n, bs => if n = 0 && bs.length < 8 then some [] else none
  | fuel + 1, n, bs =>
    if n = 0 then (if bs.length < 8 then some [] else none)
    else if bs.length < 4 + w then none
    else
      let r := fld bs 0 4
      if r = 0 || n < r then none
      else (rleVals w fuel (n - r) (bs.drop (4 + w))).map fun t => List.replicate r (fld bs 4 w) ++ t

/-- Values from deltas: those of one block after another, modulo 2^64. -/
def deltaBlocks : Nat → Nat → Nat → List Byte → Option (List Nat)
  | 0, _, n, bs => if n = 0 && bs.isEmpty then some [] else none
  | fuel + 1, prev, n, bs =>
    if n = 0 then (if bs.isEmpty then some [] else none)
    else if bs.length < 16 then none
    else
      let mn := fld bs 0 8
      let width := fld bs 8 1
      let k := min n 128
      let size := alignUp (ceilDiv (width * k) 8) 8
      if 64 < width || !zeroAt bs 9 7 || bs.length < 16 + size then none
      else
        (unpackBits width k (slice bs 16 size)).bind fun ds =>
          let vs := (ds.foldl (fun (p : Nat × List Nat) d =>
            let v := (p.1 + mn + d) % 2 ^ 64
            (v, v :: p.2)) (prev, [])).2
          (deltaBlocks fuel (vs.headD prev) (n - k) (bs.drop (16 + size))).map fun t => vs.reverse ++ t

/-- Values of DELTA in the element type's range. -/
def deltaVals (elem n : Nat) (bs : List Byte) : Option (List Cell) :=
  if n = 0 then some []
  else if bs.length < 8 then none
  else
    let first := fld bs 0 8
    (deltaBlocks n first (n - 1) (bs.drop 8)).bind fun t =>
      (first :: t).mapM fun v =>
        if elem = 0x40 || elem = 0x17 then some (.val v)
        else (intElem elem (sext 64 v)).map .val

/-- The values of a page; none where it cannot be decoded (R328). -/
def pageVals (h : PageHdr) (body : List Byte) : Option (List Cell) :=
  let dict := slice body h.nullBytes h.dictBytes
  let data := slice body (h.nullBytes + h.dictBytes) h.dataBytes
  match h.enc with
  | 0 => plainVals h.elem h.values data
  | 1 =>
    (plainVals h.elem h.dictCount dict).bind fun ds =>
      (unpackBits h.width h.values data).bind fun ks => ks.mapM fun k => ds[k]?
  | 2 => (rleVals (elemBytes h.elem) h.values h.values data).map fun vs => vs.map .val
  | _ => deltaVals h.elem h.values data

/-- Values placed at the valid rows; none where their numbers differ. -/
def placeVals : List Bool → List Cell → Option (List Cell)
  | [], [] => some []
  | [], _ :: _ => none
  | false :: t, vs => (placeVals t vs).map (.null :: ·)
  | true :: t, v :: vs => (placeVals t vs).map (v :: ·)
  | true :: _, [] => none

/-- The rows of a page; none where it cannot be decoded. -/
def pageRows (h : PageHdr) (body : List Byte) : Option (List Cell) :=
  let valid := if h.hasNulls then (List.range h.rows).map fun r => bit ((body.getD (r / 8) 0).toNat) (r % 8)
    else List.replicate h.rows true
  (pageVals h body).bind (placeVals valid)

/-- How the reading of pages ends. -/
inductive PagesEnd where
  | done | full
  | bad (reason : Nat)
  | stop (s : Stop)

/-- The pages decoded so far: position, rows (latest first), auxiliary bytes, ranges of rows from poisoned pages, the check values of
the last page. -/
structure PagesAt where
  pos : Nat := 0
  rows : List Cell := []
  aux : Nat := 0
  poison : Bool := false
  check : Nat := 0
  checkExp : Nat := 0

/-- Pages decoded until the input, the capacity or an error ends them (R328, R329). -/
def readPages (c : Col) (cap len : Nat) (poison : Nat → Nat → Bool) (bytes : List Byte) (obstacle : Option Stop) :
    Nat → PagesAt → PagesAt × PagesEnd
  | 0, a => (a, .done)
  | n + 1, a =>
    let cut := fun (e : PagesEnd) => (obstacle.map PagesEnd.stop).getD e
    if len ≤ a.pos then (a, .done)
    else
      let hd := slice bytes a.pos 64
      if hd.length < 64 then (a, cut (.bad 0x0C))
      else if !pageOk hd c.elem (len - a.pos) then (a, .bad 0x0C)
      else
        let h := parsePage hd
        let body := slice bytes (a.pos + 64) h.body
        if body.length < h.body then (a, cut (.bad 0x0C))
        else if cap < a.rows.length + h.rows then (a, .full)
        else
          let crc := crc32c body
          let a := { a with check := crc, checkExp := h.crc }
          if crc != h.crc then (a, .bad 0x05)
          else match pageRows h body with
            | none => (a, .bad 0x04)
            | some cells =>
              let aux := a.aux + (cells.map fun x => x.auxBytes c.elem).sum
              if c.offsets && c.auxCap < aux then (a, .full)
              else readPages c cap len poison bytes obstacle n
                { a with
                  pos := min len (a.pos + alignUp (64 + h.body) 64), rows := cells.reverse ++ a.rows, aux := aux
                  poison := a.poison || poison a.pos (64 + h.body) }

/-- The work of COLPAGE (R327 to R329). Output of an item that read a poisoned line is poisoned (R333). -/
def parsePages : Eng Unit := do
  let b ← Eng.desc
  let va := fld b 8 8
  let len := fld b 0x10 8
  let c : Col := ⟨0, fld b 0x64 1, 0, 0, 0, 0, fld b 0x38 8, fld b 0x40 8, fld b 0x58 8, fld b 0x48 8, fld b 0x50 8, 0, []⟩
  let cap := fld b 0x60 4
  Eng.need (commonOk b && len < 2 ^ 32 && va % 64 = 0 && zeroAt b 0x18 16 && c.dst % 64 = 0 && c.valid % 64 = 0 && c.aux % 64 = 0 &&
    1 ≤ cap && zeroAt b 0x65 27 && elemBits c.elem != 0 && (c.elem = 0x50 || (c.aux = 0 && c.auxCap = 0)))
  let (bytes, obstacle) ← Eng.source va len
  let w ← Eng.w
  let (a, fin) := readPages c cap len (fun p n => w.poisonVa (va + p) n) bytes obstacle (len / 64 + 1) {}
  match fin with
  | .full => if a.rows.isEmpty then Eng.fail 8 0x01
  | _ => pure ()
  Eng.onItem fun i =>
    { i with
      inUsed := a.pos, outDone := a.rows.length, check := a.check, checkExp := a.checkExp
      flags := b2n (a.pos < len && match fin with | .full => true | _ => false)
      errOff := match fin with | .bad _ => a.pos | _ => 0 }
  if a.rows.isEmpty && (match fin with | .done => false | _ => true) then pure () else Eng.writeCol c a.rows.reverse
  if a.poison then
    modify fun e => { e with w := e.w.poisonOuts e.outs, it := { e.it with flags := Nat.lor e.it.flags 4 } }
  let out ← Eng.outBytes
  Eng.onItem fun i => { i with outBytes := out }
  match fin with
  | .bad r => throw (.fail 0x0E r .poisoned)
  | .stop s => throw s
  | _ => pure ()

/-- COLPAGE (R327 to R329). -/
def execColpage (die eng : Nat) (s : State) : Out := runT s fun w => w.engineOp die 0 eng 0x03 fun _ => parsePages

end Sys2Proof.Machine
end

