-- ==== Sys2Proof/Machine/Graphs.lean ====
section
/-! DEFINITION. The rows of jobs and graphs but GRAPH_LOAD (R69, R475, R484 to R490). -/

namespace Sys2Proof.Machine

/-- JOB_CREATE (R475): the tag's energy counts from 0 (R551). -/
def jobCreate : OpSpec where
  op := 0x0400
  targets := [0]
  set := .live
  len := fun n => n = 0
  check := fun c _ => if c.tag = 0 then some ⟨0x04, 0x0010, []⟩ else none
  conflict := fun c w => if (Tab.get w.dev.jobs c.tag).isSome then some (w.dev.hstate 8 c.tag) else none
  body := fun c w =>
    let (g, w) := w.nextGen 8 c.tag
    ((w.onDev fun d => { d with jobs := Tab.put d.jobs c.tag { gen := g } }).onPwr fun p => { p with en := Tab.del p.en c.tag }).ok c (toLe 4 (mkHandle 8 g c.tag) ++ zeros 4)

/-- Q_EN set (R303): ring entry 0 is next and the count of items begins anew; with Q_COUNT 0 or above 4,096 it stays 0. -/
def W.enableQueue (w : W) (key : Nat) : W :=
  w.onQueue key fun q => if q.count = 0 || 4096 < q.count then { q with en := false } else { q with en := true, head := 0, seq := 0 }

/-- The queues of a graph written and enabled (R484 step 1). -/
def W.startQueues (w : W) (g : Graph) : W :=
  g.queues.foldl (fun w q =>
    let key := queueKey q.die (classCode q.cls) q.queue
    (w.onQueue key fun e => { e with ring := q.ring, count := q.count, submit := q.submit, job := g.tag }).enableQueue key) w

/-- GRAPH_RUN (R484, R269). -/
def graphRun : OpSpec where
  op := 0x0402
  targets := [4]
  set := .live
  len := fun n => n = 8
  check := fun c w => firstBad [(0, c.f 0 2 < ((Tab.get w.dev.graphs c.idx).map fun g => g.stages.length).getD 0),
    (2, c.f 2 1 ≤ 1), (3, zeroAt c.ps 3 5)]
  conflict := fun c w =>
    let h := w.dev.hstate 4 c.idx
    if h = 1 then none else some h
  res := fun c w =>
    match ((Tab.get w.dev.graphs c.idx).map Graph.tasks).bind fun ts => ts.find? fun t => (w.dev.core t.core).offline with
    | some t => noResource 0x03 t.core
    | none => none
  body := fun c w =>
    match Tab.get w.dev.graphs c.idx with
    | none => w
    | some g =>
      let w := w.startQueues g
      let w := if bit (c.f 2 1) 0 then w else g.syncs.foldl W.initSync w
      let w := g.feeds.foldl (fun w f => w.onFeed f.feed fun x => { x with draining := false }) w
      let w := w.onGraph c.idx fun g => { g with state := 2, runTime := w.dev.clk.now, ending := false, startNext := none }
      let w := if w.dev.hub.st = .ready then w.setState .running else w
      (w.startStage c.idx (c.f 0 2)).ok c []

/-- GRAPH_DRAIN applied to an ACTIVE graph (R487). -/
def W.drainGraph (w : W) (i : Nat) : W :=
  match Tab.get w.dev.graphs i with
  | some g =>
    let w := g.feeds.foldl (fun w f => (w.onFeed f.feed fun x => { x with draining := true }).settleFeed f.feed) w
    w.onGraph i fun g => if g.startNext.isSome then { g with state := 5, startNext := none, ending := true } else { g with state := 5 }
  | none => w

/-- GRAPH_DRAIN (R487). -/
def graphDrain : OpSpec where
  op := 0x0403
  targets := [4]
  set := .up
  len := fun n => n = 0
  conflict := fun c w =>
    let h := w.dev.hstate 4 c.idx
    if h = 2 then none else some h
  body := fun c w => (w.pend c (.graphDrain c.idx)).drainGraph c.idx

/-- GRAPH_FROG (R488). -/
def graphFrog : OpSpec where
  op := 0x0404
  targets := [4]
  set := .up
  len := fun n => n = 0
  conflict := fun c w =>
    let h := w.dev.hstate 4 c.idx
    if h = 2 || h = 5 then none else some h
  body := fun c w => (w.frog c.idx 0x01 0x02).ok c []

/-- GRAPH_QUERY (R490). -/
def graphQuery : OpSpec where
  op := 0x0405
  targets := [4]
  set := .up
  len := fun n => n = 0
  body := fun c w =>
    match Tab.get w.dev.graphs c.idx with
    | some g =>
      w.ok c (toLe 1 g.state ++ toLe 1 g.frogReason ++ toLe 2 g.stage ++ toLe 2 g.frogStage ++ zeros 2 ++ toLe 8 g.stagesDone
        ++ toLe 8 g.runTime ++ toLe 4 g.frogs ++ zeros 4)
    | none => w

/-- The work of JOB_ABORT (R69, R228, R312): every running graph of the tag is frogged, every stream stopped at once, every queue of
the tag disabled with its items ABORTED. -/
def W.abortJob (w : W) (tag : Nat) : W :=
  let w := ((w.dev.graphs.filter fun (_, g) => g.tag = tag).map Prod.fst).foldl (fun w i => w.frog i 0x02 0x01) w
  let w := ((w.dev.strms.filter fun (_, s) => s.tag = tag).map Prod.fst).foldl (fun w i => w.stopStrm i 1) w
  ((w.dev.queues.filter fun (_, q) => q.job = tag).map Prod.fst).foldl W.abortQueue w

/-- JOB_ABORT (R69). -/
def jobAbort : OpSpec where
  op := 0x0406
  targets := [8]
  set := .up
  len := fun n => n = 0
  body := fun c w => (w.abortJob c.idx).ok c []

/-- JOB_CREATE as a packet. -/
def execJobCreate (ch : Nat) (p : Packet) (s : State) : Out := run s (hostCommand jobCreate ch p)

/-- GRAPH_RUN as a packet. -/
def execGraphRun (ch : Nat) (p : Packet) (s : State) : Out := runT s (hostCommand graphRun ch p)

/-- GRAPH_DRAIN as a packet. -/
def execGraphDrain (ch : Nat) (p : Packet) (s : State) : Out := runT s (hostCommand graphDrain ch p)

/-- GRAPH_FROG as a packet. -/
def execGraphFrog (ch : Nat) (p : Packet) (s : State) : Out := runT s (hostCommand graphFrog ch p)

/-- GRAPH_QUERY as a packet. -/
def execGraphQuery (ch : Nat) (p : Packet) (s : State) : Out := run s (hostCommand graphQuery ch p)

/-- JOB_ABORT as a packet. -/
def execJobAbort (ch : Nat) (p : Packet) (s : State) : Out := runT s (hostCommand jobAbort ch p)

/-- STAGE_START (R485, R486): the stage that waits for the previous one to be clear starts. -/
def execStageStart (graph : Nat) (s : State) : Out :=
  runT s fun w =>
    match (Tab.get w.dev.graphs graph).bind fun g => if g.state = 2 then g.startNext else none with
    | some n => if w.dev.diesRun then w.startStage graph n else w
    | none => w

end Sys2Proof.Machine
end

