-- ==== Sys2Proof/Machine/PowerOps.lean ====
section
/-! DEFINITION. Power control (chapter 17): the ceiling and its reason, the change of the device step in and out of a frequency
group, what the power controller measures and reports. -/

namespace Sys2Proof.Machine

/-- One millisecond in ns. -/
def msNs : Nat := 1000000

/-- PWR_CEILING (R540, R591): the value of the highest slot with VALID. -/
def Fuse.ceilingW (f : Fuse) : Nat := ((f.ceiling.filter fun s => s.2).getLast?.map Prod.fst).getD 0

/-- The counts of PWR_CEILING used (R591). -/
def Fuse.ceilingUsed (f : Fuse) : Nat := f.ceiling.length - 1

/-- Whether the fuse slot programmed next matches its read-back (R591, R592): a free value (DESIGN CHOICE, log entry 26). -/
def Dev.slotReads (d : Dev) : Bool := Config.freeNat d.freeCtr % 2 = 0

/-- The device with the next slot of a counter programmed, VALID only where its read-back matches (R591, R592). -/
def W.burn (w : W) (f : Bool → Fuse → Fuse) : W :=
  w.onDev fun d => { d with freeCtr := d.freeCtr + 1, fuse := f d.slotReads d.fuse }

/-- The effective gauge in W (R536, R539). -/
def Dev.gauge (d : Dev) : Nat := min (max d.pwr.capSet 1200) d.fuse.ceilingW

/-- PWR_STEP_LIMIT as it acts (R541). -/
def Pwr.stepCap (p : Pwr) : Nat := min 18 p.stepLim

/-- The lowest limit of the loops of Table 17.1. -/
def Limits.low (l : Limits) : Nat := [l.guard, l.gauge, l.thermal, l.coolant, l.age, l.service].foldl min 18

/-- The limits with their reasons (Tables 17.1 and 17.2). -/
def Pwr.reasons (p : Pwr) : List (Nat × Nat) :=
  [(1, p.lim.thermal), (2, if p.divergence then 18 else p.lim.gauge), (3, p.lim.guard), (6, p.lim.coolant),
   (7, if p.divergence then p.lim.gauge else 18), (8, p.lim.age), (9, p.lim.service)]

/-- The limiting reason (R530, R554): NONE when PWR_STEP_LIMIT alone is lowest, and when nothing limits. -/
def Pwr.limitReason (p : Pwr) : Nat :=
  let m := p.lim.low
  if m = 18 || p.stepCap < m then 0 else ((p.reasons.find? fun r => r.2 = m).map Prod.fst).getD 0

/-- The lowest of the limits and PWR_STEP_LIMIT. -/
def Pwr.rawCeil (p : Pwr) : Nat := min p.lim.low p.stepCap

/-- V_base(d, s) + TRIM_d in mV (R528). -/
def Pwr.volts (p : Pwr) (d s : Nat) : Nat := p.vBase.getD (19 * d + s) 0 + 5 * p.trim.getD d 0

/-- The ageing limit (R549). -/
def Pwr.ageLimit (p : Pwr) : Nat :=
  ((List.range 19).filter fun s => (List.range 4).all fun d => p.volts d s ≤ 900).foldl max 0

/-- A device step noted for the telemetry record. -/
def W.noteStep (w : W) : W :=
  w.onPwr fun p => { p with secStepMin := some (min p.step (p.secStepMin.getD p.step)), secStepMax := max p.step p.secStepMax }

/-- The device step lowered at once; a raise in progress is cancelled (R529). -/
def W.lowerStep (w : W) (s : Nat) : W := (w.onPwr fun p => { p with step := s, raise := none }).noteStep

/-- A raise to a step begins: the rails slew up first (R529). -/
def W.raiseStep (w : W) (s : Nat) : W :=
  match w.dev.pwr.raise with
  | some (t, _) => if t = s then w else w.onPwr fun p => { p with raise := some (s, []) }
  | none => w.onPwr fun p => { p with raise := some (s, []) }

/-- A FREQ_STEP of the device's own (R517), which counts among those since the last boundary. -/
def W.floodStep (w : W) (s reason : Nat) : W :=
  match w.dev.sys.group with
  | some g =>
    (w.onSys fun y => { y with group := some { g with freqMin := min g.freqMin s } }).flood 0x03 g.id (toLe 1 s ++ toLe 1 reason)
  | none => w

/-- The group member's lowest ceiling since the last boundary noted (R518). -/
def W.noteCeil (w : W) : W :=
  w.onSys fun y => { y with group := y.group.map fun g => { g with lowCeil := min g.lowCeil w.dev.pwr.ceil } }

/-- The ceiling follows the limits (R530): it falls at once and rises by one step per 1 ms. -/
def W.settleCeil (w : W) : W :=
  let now := w.dev.clk.mono
  (w.onPwr fun p =>
    if p.rawCeil < p.ceil then { p with ceil := p.rawCeil }
    else if p.ceil < p.rawCeil && (p.ceilUpAt.map fun t => decide (t + msNs ≤ now)).getD true then
      { p with ceil := p.ceil + 1, ceilUpAt := some now }
    else p).noteCeil

/-- The device step follows the ceiling (R516, R517, R530), where the feature-die rails are up. -/
def W.settleStep (w : W) : W :=
  if !w.dev.hub.rails then w
  else
    let w := w.settleCeil
    let p := w.dev.pwr
    if w.dev.sys.group.isSome then
      if p.ceil < p.step then (w.lowerStep p.ceil).floodStep p.ceil p.limitReason
      else match p.raise with
        | some (t, _) =>
          if p.ceil < t then
            let w := (w.onPwr fun p => { p with raise := none }).floodStep p.ceil p.limitReason
            if p.step < p.ceil then w.raiseStep p.ceil else w
          else w
        | none => w
    else if p.ceil < p.step then w.lowerStep p.ceil
    else if p.step < p.ceil then w.raiseStep p.ceil
    else if p.raise.isSome then w.onPwr fun p => { p with raise := none }
    else w

/-- A change of the limits, and the step that follows. -/
def W.onLim (w : W) (f : Limits → Limits) : W := (w.onPwr fun p => { p with lim := f p.lim }).settleStep

/-- Power control with the rails down: no step, no raise, no droop. -/
def Pwr.shed (p : Pwr) : Pwr := { p with step := 0, raise := none, ceil := 0, ceilUpAt := none, blkDroop := [] }

/-- The average of a list of rationals; 0 for none. -/
def ratMean (l : List Rat) : Rat := if l.isEmpty then 0 else l.foldl (· + ·) 0 / (l.length : Rat)

/-- P_est in W: the 1 ms average of the estimate (R536). -/
def Pwr.pEst (p : Pwr) : Rat := ratMean (p.estTicks.map Prod.fst) / 1000000

/-- P_dyn_est in W. -/
def Pwr.pDyn (p : Pwr) : Rat := ratMean (p.estTicks.map Prod.snd) / 1000000

/-- The average input power of the last n samples, W. -/
def Pwr.pIn (p : Pwr) (n : Nat) : Rat :=
  let l := p.inSamples.take n
  if l.isEmpty then 0 else (l.foldl (· + ·) 0 : Nat) / ((1000000 * l.length : Nat) : Rat)

/-- P_meas in W: the 1 ms average of the input power (R536). -/
def Pwr.pMeas (p : Pwr) : Rat := p.pIn 10000

/-- P_reg in W of the last window where formed (R556). -/
def Pwr.pRegW (p : Pwr) : Rat := (p.pReg.getD 0 : Nat) / (1000 : Rat)

/-- The power p on which the gauge loop works (R536, R556). -/
def Pwr.gaugePower (p : Pwr) : Rat :=
  let base := if p.divergence then max p.pEst p.pMeas else p.pEst
  if p.sensorSuspect && p.modelSuspect then max (max p.pEst p.pMeas) p.pRegW
  else if p.sensorSuspect then max p.pEst p.pRegW
  else if p.modelSuspect then max p.pEst p.pMeas
  else base

/-- Frequency of a step, MHz (R25). -/
def stepMHz (s : Nat) : Nat := 900 + 50 * s

/-- The highest rail voltage of a step, mV. -/
def Pwr.topVolts (p : Pwr) (s : Nat) : Nat := (List.range 4).foldl (fun m d => max m (p.volts d s)) 0

/-- The rise of power that one step up brings (R536). -/
def Pwr.rise (p : Pwr) : Rat :=
  let s := p.step
  let at' := fun (s : Nat) => ((stepMHz s * p.topVolts s * p.topVolts s : Nat) : Rat)
  p.pDyn * (at' (s + 1) / at' s - 1)

/-- FLAGS of Table 17.6. -/
def Pwr.flags (p : Pwr) : Nat :=
  b2n p.flowLost + 2 * b2n p.divergence + 4 * b2n p.sensorSuspect + 8 * b2n p.modelSuspect + 16 * b2n p.gaugeUnreached

/-- An integer part, stopping at the greatest value of w bits. -/
def satFloor (w : Nat) (q : Rat) : Nat := min (ratFloor q) (2 ^ w - 1)

/-- The gap of the last window in units of 0.1 %, stopping at 0xFFFF (Table 17.6). -/
def Pwr.gapTenths (p : Pwr) : Nat := satFloor 16 (p.gap * 1000)

/-- The FP32 pattern of a coefficient (Table 17.7). -/
def coefBits (c : Rat) : Nat := fp32.encode (.num (c < 0) (ratAbs c))

/-- An exact value rounded to FP32, to nearest even. -/
def toFp32 (q : Rat) : Rat := (fp32.round .rne true true false (q < 0) (ratAbs q)).1.val

/-- The telemetry record of the second that ends now (Table 17.6). -/
def Dev.telemetry (d : Dev) : List Byte :=
  let p := d.pwr
  let s16 := fun (i : Int) => toLe 2 (unsext 16 i)
  toLe 4 0x4D545653 ++ toLe 1 1 ++ toLe 1 d.stateByte ++ toLe 2 p.flags ++ toLe 8 p.telemSeq ++ toLe 8 d.clk.now
    ++ toLe 2 (satFloor 16 (p.secMeas / 1000000)) ++ toLe 2 (satFloor 16 p.secPeak) ++ toLe 2 (satFloor 16 (p.secEst / 1000000))
    ++ toLe 2 d.gauge ++ toLe 2 d.fuse.ceilingW ++ toLe 2 (min (p.secVinMin.getD d.pin.vin) 0xFFFF) ++ toLe 2 (min p.secIinMax 0xFFFF)
    ++ toLe 1 (p.secStepMin.getD p.step) ++ toLe 1 (max p.secStepMax p.step) ++ p.tjMax.flatMap (fun t => s16 t.2)
    ++ s16 p.hbmMax.2 ++ s16 d.pin.inlet ++ p.trim.flatMap (toLe 1) ++ toLe 8 (satFloor 64 p.secMeas) ++ toLe 8 (satFloor 64 p.secEst)
    ++ ((List.range 9).flatMap fun k => toLe 8 (Tab.getD p.throttle (k + 1) 0)) ++ zeros 8 ++ toLe 2 p.gapTenths
    ++ toLe 2 (satFloor 16 p.pRegW) ++ toLe 1 p.limitReason ++ toLe 1 (p.stepLim % 32) ++ zeros 98

/-- AGE_TRIM journalled (Table 19.6). -/
def W.saveAgeTrim (w : W) (trims : List Nat) : W := w.journal1 0x0022 0 (trims.flatMap (toLe 1))

/-- A committed AGE_TRIM takes effect (R548, R549). -/
def W.applyAgeTrim (w : W) (payload : List Byte) : W :=
  (w.onPwr fun p => { p with trim := payload.map BitVec.toNat, trimNext := none }).onLim fun l =>
    { l with age := ({ w.dev.pwr with trim := payload.map BitVec.toNat }).ageLimit }

end Sys2Proof.Machine
end

