-- ==== Sys2Proof/Machine/LinkOps.lean ====
section
/-! DEFINITION. Yarzan links in their system (chapter 16): lanes and spares, the loss of a link and of a device, the bringing up of
a link, groups, and what their events complete. -/

namespace Sys2Proof.Machine

/-- Lane positions of a five-bit map. -/
def lanesOut (m : Nat) : Nat := ((List.range 5).filter fun p => bit m p).length

/-- Data lanes that a direction with these positions retired runs on (Table 16.2). -/
def lanesLeft (retired : Nat) : Nat := min 4 (5 - lanesOut retired)

/-- Lane positions in use: the working ones in ascending order, the spare lane in the place of a retired one (Table 16.2). -/
def lanesUsed (retired : Nat) : List Nat := ((List.range 5).filter fun p => !bit retired p).take 4

/-- LANE_MASK of a direction (Table 16.5). -/
def laneMask (retired : Nat) : Nat := (lanesUsed retired).foldl (fun m p => m + 2 ^ p) 0

/-- The positions retired that a LANE_MASK shows: with every data lane in use the spare lane is idle. -/
def maskRetired (mask : Nat) : Nat := if mask % 32 = 15 then 0 else 31 - mask % 32

/-- Data lanes of a link: the lower of its directions. -/
def Link.lanes (l : Link) : Nat := min l.rxLanes l.txLanes

/-- The state that a number of lanes gives a link that is up (Table 16.2). -/
def laneState (n : Nat) : Nat := if n = 4 then 2 else if n = 3 then 3 else 4

/-- Coordinate k of a triple. -/
def coordAt (c : Nat × Nat × Nat) (k : Nat) : Nat := if k = 0 then c.1 else if k = 1 then c.2.1 else c.2.2

/-- A triple with coordinate k replaced. -/
def coordSet (c : Nat × Nat × Nat) (k v : Nat) : Nat × Nat × Nat :=
  if k = 0 then (v, c.2) else if k = 1 then (c.1, v, c.2.2) else (c.1, c.2.1, v)

/-- Whether logical link k exists: a link of role X, Y or Z. -/
def Dev.isRole (d : Dev) (k : Nat) : Bool := k < 32 && 1 ≤ (d.link k).role && (d.link k).role ≤ 3

/-- The coordinate expected at the peer of logical link k (R504). -/
def Dev.peerCoord (d : Dev) (k : Nat) : Nat × Nat × Nat := coordSet d.coord ((d.link k).role - 1) (d.link k).peer

/-- The role links of the device. -/
def Dev.roleLinks (d : Dev) : List Nat := (List.range 32).filter d.isRole

/-- The state of logical link k: that of its carrier, or of its own physical link. -/
def Dev.logicalState (d : Dev) (k : Nat) : Nat := (d.link ((d.carrier k).getD k)).state

/-- SPARE_LANE of a link journalled (Table 19.6): the lanes retired of each direction. -/
def W.saveLanes (w : W) (p : Nat) : W :=
  let l := w.dev.link p
  w.journal1 0x0013 p (toLe 1 l.rxRetired ++ toLe 1 l.txRetired)

/-- An IDLE flit on a physical link: acknowledgement and credits (Table 16.1). -/
def W.idleFlit (w : W) (p : Nat) : W :=
  let k := (w.dev.link p).logical
  let l := w.dev.llink k
  let c := min 15 (l.owed / 16)
  (w.onLLink k fun l => { l with owed := l.owed - 16 * c }).send (.link p (flitBytes (flitHeader 0 l.rxSeq 0 c) []))

/-- NAK on a physical link (R494). -/
def W.nakFlit (w : W) (p : Nat) : W :=
  w.send (.link p (flitBytes (flitHeader 0 (w.dev.llink (w.dev.link p).logical).rxSeq 3 0) []))

/-- The retry buffer of logical link k sent again on its carrier. -/
def W.resendRetry (w : W) (k : Nat) : W := (w.dev.llink k).retry.foldl (fun w f => w.emit k f.1 f.2.1 f.2.2) w

/-- The flits that an acknowledgement covers leave the retry buffer (R494). -/
def LLink.ackTo (l : LLink) (ack : Nat) : LLink :=
  { l with retry := l.retry.filter fun f => 2048 ≤ (ack + 4096 - f.1) % 4096 }

/-- A replay from the SEQ after an acknowledged one (R494); the 16th of one flit retrains the link. -/
def W.replay (w : W) (k ack : Nat) : W :=
  let w := w.onLLink k fun l => l.ackTo ack
  match (w.dev.llink k).retry.head?, w.dev.carrier k with
  | some f, some p =>
    let l := w.dev.llink k
    let n := if l.replayOf = f.1 && l.replayN != 0 then l.replayN + 1 else 1
    let w := (w.onLLink k fun l => { l with replayOf := f.1, replayN := n }).onLink p fun l =>
      { l with replays := satAdd 32 l.replays 1 }
    let w := w.resendRetry k
    if 16 ≤ n then ((w.onLLink k fun l => { l with replayN := 0 }).onLink p fun l => { l with state := 1 }).hello p else w
  | _, _ => w

/-- LINK_EVENT about a link, sent to its peer (R497, Table 16.5). -/
def W.sendLinkEvent (w : W) (p state : Nat) : W :=
  let l := w.dev.link p
  if l.logical = 0xFF then w
  else
    let (m, w) := w.ownMessage 0x05 ((w.dev.sys.group.map FGroup.id).getD 0)
      (toLe 1 l.logical ++ toLe 1 (laneMask l.rxRetired) ++ toLe 1 state)
    w.sendMsg l.logical m

/-- Streams with writes outstanding on logical link k fault (R501, R523). -/
def W.faultLinkStreams (w : W) (k : Nat) : W :=
  let hit := w.dev.strms.filter fun (_, s) =>
    s.ops.any fun o => !o.isRead && s.tiles.any fun t => t.g = o.g && t.link = some k
  hit.foldl (fun w (i, _) => w.loseStrm i) w

/-- The links that carry a logical link, and its own physical link, enter DOWN; a spare that was to carry it is idle again. -/
def W.downLogical (w : W) (k : Nat) : W :=
  let w := match (w.dev.llink k).spare with
    | some (q, _) => w.onLink q fun l => { l with state := 7 }
    | none => w
  let w := (w.dev.links.filter fun (p, l) => l.logical = k || p = k).foldl (fun w (p, _) =>
    w.onLink p fun l => { l with state := 5, upSince := none }) w
  (w.onLLink k fun l => { l with spare := none, queue := [], retry := [] }).faultLinkStreams k

/-- A spare request queued for the tray (R682): at most 8 are held; a ninth drops the oldest (DESIGN CHOICE, log entry 28). -/
def W.pushReq (w : W) (kind k q : Nat) : W :=
  w.onSys fun s =>
    { s with
      reqs := (s.reqs ++ [(⟨s.reqNext, kind, k, q, w.dev.peerCoord k⟩ : SpareReq)]).drop (s.reqs.length + 1 - 8)
      reqNext := (s.reqNext + 1) % 65536 }

/-- The spare request of logical link k withdrawn (R523, R682). -/
def W.withdraw (w : W) (k : Nat) : W :=
  match (w.dev.llink k).spare with
  | some (q, _) =>
    if w.dev.sys.reqs.any fun r => r.link = k && r.kind = 1 then
      w.onSys fun s => { s with reqs := s.reqs.filter fun r => !(r.link = k && r.kind = 1) }
    else w.pushReq 2 k q
  | none => w

/-- MEMBER_LOST about a device flooded (R501, R520, R522). -/
def W.floodLost (w : W) (coord : Nat × Nat × Nat) (serial cause group : Nat) : W :=
  w.flood 0x06 group (toLe 1 coord.1 ++ toLe 1 coord.2.1 ++ toLe 1 coord.2.2 ++ toLe 8 serial ++ toLe 1 cause)

/-- GROUP of the device's messages: its frequency group, or 0. -/
def Dev.groupId (d : Dev) : Nat := (d.sys.group.map FGroup.id).getD 0

/-- A logical link without a spare left (R501): it enters DOWN, and the device removes itself. -/
def W.linkDead (w : W) (k : Nat) : W :=
  let w := w.downLogical k
  if w.dev.sys.left then w
  else
    ((w.onSys fun s => { s with left := true }).floodLost w.dev.coord w.dev.fuse.serial 0x04 w.dev.groupId).declareFailed 0x04 4

/-- The lowest-numbered idle spare whose SPARE_DIMS has the dimension of logical link k (R499). -/
def Dev.spareFor (d : Dev) (k : Nat) : Option Nat :=
  (List.range 32).find? fun q => (d.link q).state = 7 && bit (d.link q).spareDims ((d.link k).role - 1)

/-- A spare link taken for logical link k: it trains, and the tray is asked (R499). -/
def W.takeSpare (w : W) (k q : Nat) : W :=
  (((w.onLink q fun l =>
      { l with state := 1, rxLanes := lanesLeft l.rxRetired, txLanes := lanesLeft l.txRetired, lastFlit := w.dev.clk.mono }).onLLink k
    fun l => { l with spare := some (q, w.dev.clk.mono) }).pushReq 1 k q).hello q

/-- A logical link in SWAPPING asks for a spare (R499); without one it goes DOWN (R501). -/
def W.requestSpare (w : W) (k : Nat) : W :=
  if (w.dev.llink k).spare.isSome then w
  else match w.dev.spareFor k with
    | some q => w.takeSpare k q
    | none => w.linkDead k

/-- A link's state after a change of its lanes (R498, Table 16.2). -/
def W.lanesChanged (w : W) (p : Nat) : W :=
  let l := w.dev.link p
  if !l.works then w
  else
    let st := max l.state (laneState l.lanes)
    let w := w.onLink p fun l => { l with state := st }
    let w := if l.lanes < 4 then w.degrade 1 else w
    if st = 4 && l.state != 4 && w.dev.isRole l.logical then w.requestSpare l.logical else w

/-- A lane position of the receive direction of a link retired (R497). -/
def W.retireLane (w : W) (p lane : Nat) : W :=
  if bit (w.dev.link p).rxRetired lane then w
  else
    let w := w.onLink p fun l =>
      let r := l.rxRetired + 2 ^ lane
      { l with rxRetired := r, rxLanes := lanesLeft r }
    let w := ((w.logRec 0x0020 (p / 8) 0xFF 0 (p * 8 + lane) 0 []).saveLanes p)
    let w := if (w.dev.link p).works then w.sendLinkEvent p (max (w.dev.link p).state (laneState (w.dev.link p).lanes)) else w
    w.lanesChanged p

/-- Whether every role link that has a peer at a coordinate works. -/
def Dev.allWorkTo (d : Dev) (c : Nat × Nat × Nat) : Bool :=
  (d.roleLinks.filter fun k => d.peerCoord k = c).all fun k => (d.carrier k).isSome

/-- A device is lost (R523): links to it go DOWN without a spare, its group counts one member fewer (R520). -/
def W.acceptLost (w : W) (c : Nat × Nat × Nat) (group : Nat) : W :=
  if c = w.dev.coord then w
  else
    let w := w.onSys fun s =>
      { s with
        lost := if s.lost.contains c then s.lost else s.lost ++ [c]
        group := s.group.map fun g =>
          if g.id = group then { g with members := g.members - 1, reports := Tab.del g.reports (coordCode c) } else g }
    let ks := if w.dev.sys.coord.isSome then w.dev.roleLinks.filter fun k => w.dev.peerCoord k = c else []
    let w := ks.foldl (fun w k => (w.withdraw k).downLogical k) w
    w.logRec 0x0024 4 0xFF 0 (coordCode c) 0 []

/-- The loss of a neighbour detected (R522): flooded and acted on; a device already marked lost is not lost again. -/
def W.detectLost (w : W) (c : Nat × Nat × Nat) (serial cause : Nat) : W :=
  if w.dev.sys.lost.contains c then w
  else (w.floodLost c serial cause w.dev.groupId).acceptLost c w.dev.groupId

/-- The first role link on fewer than four lanes (R577). -/
def Dev.shortLink (d : Dev) : Option Nat := d.roleLinks.find? fun k => d.logicalState k = 3

/-- The final reply of LINK_CONFIG or REMAP_ASSUME: DEGRADED where a role link runs on fewer than four lanes (R577). -/
def W.completeLinks (w : W) (which : PendCmd → Bool) : W :=
  match w.dev.shortLink with
  | some k => w.completeAll which 0x0F (0x04 + k * 65536) []
  | none => w.completeAll which 0 0 []

/-- LINK_CONFIG and REMAP_ASSUME complete once their role links have settled (R503, R524). -/
def W.settleLinks (w : W) : W :=
  let sts := w.dev.roleLinks.map w.dev.logicalState
  let w := if sts.all fun s => s = 2 || s = 3 || s = 6 then w.completeLinks fun p => p.wait = .linkConfig else w
  if sts.all fun s => s = 2 || s = 3 then w.completeLinks fun p => p.wait = .remap else w

/-- A physical link comes up and carries logical link k (R500, R504): what waits in the retry buffer goes again; REMAP_ASSUME
floods MEMBER_JOIN with its first link (R524). -/
def W.linkUp (w : W) (p k : Nat) : W :=
  let l := w.dev.link p
  let w := w.onLink p fun l =>
    { l with state := laneState l.lanes, logical := k, upSince := some w.dev.clk.mono, lastFlit := w.dev.clk.mono }
  let w := if l.lanes < 4 then w.degrade 1 else w
  let w := if l.lanes < 3 then w.requestSpare k else w
  let w := (w.resendRetry k).pump k
  let w :=
    if w.dev.sys.joining && (w.dev.link p).works then
      (w.onSys fun s => { s with joining := false }).flood 0x07 w.dev.groupId (toLe 8 w.dev.fuse.serial)
    else w
  w.settleLinks

/-- A HELLO that a link refuses (R504). -/
def W.refuseHello (w : W) (p : Nat) : W :=
  ((w.onLink p fun l => { l with state := 6 }).logRec 0x0022 (p / 8) 0xFF 0 p 0 []).settleLinks

/-- A HELLO on a role link (R504, R525). -/
def W.helloRole (w : W) (p : Nat) (m : List Byte) : W :=
  let l := w.dev.link p
  let b := msgBody m
  let c := w.dev.peerCoord p
  let serial := fld b 0 8
  let known := (w.dev.llink p).peerSerial
  let other := match known with
    | some s => s != serial
    | none => false
  if (w.dev.carrier p).getD p != p then w
  else if msgOrigin m != c || fld b 9 1 != l.peerLink || (other && !w.dev.sys.lost.contains c) then w.refuseHello p
  else
    let was := l.state
    let w := w.onLLink p fun y => if other then { peerSerial := some serial } else { y with peerSerial := some serial }
    let w := if l.works then w else w.linkUp p p
    let w := if w.dev.allWorkTo c then w.onSys fun s => { s with lost := s.lost.filter (· != c) } else w
    if was = 1 then w else w.hello p

/-- A HELLO on a spare link that trains for a logical link (R500): the logical link moves to it. -/
def W.helloSpare (w : W) (p : Nat) (m : List Byte) : W :=
  match w.dev.llinks.find? fun (_, l) => (l.spare.map Prod.fst) = some p with
  | none => if (w.dev.link p).works then w.hello p else w
  | some (k, _) =>
    let b := msgBody m
    if msgOrigin m != w.dev.peerCoord k || fld b 8 1 != 4 || fld b 10 1 != (w.dev.link k).peerLink then w.refuseHello p
    else
      let w := (w.dev.links.filter fun (q, l) => l.logical = k && q != p).foldl (fun w (q, _) =>
        w.onLink q fun l => { l with state := 5, logical := 0xFF, upSince := none }) w
      let w := (w.onLLink k fun l => { l with spare := none }).logRec 0x0021 (p / 8) 0xFF 0 (k * 256 + p) 0 []
      (w.linkUp p k).completeAll (fun q => q.wait = .linkSwap k) 0 0 []

/-- A frequency group joined (R515): the step drops to 0 until the first raise. -/
def W.joinGroup (w : W) (id members : Nat) : W :=
  (w.onSys fun s => { s with group := some { id := id, members := members, lowCeil := w.dev.pwr.ceil } }).lowerStep 0

/-- The frequency group left, with MEMBER_LOST about the device flooded (R520). -/
def W.leaveGroup (w : W) : W :=
  match w.dev.sys.group with
  | some g =>
    ((w.floodLost w.dev.coord w.dev.fuse.serial 0x01 g.id).onSys fun s => { s with group := none }).settleStep
  | none => w

/-- Every Yarzan link off: feature dies without power hold none (a link's retired lanes stay, R497). -/
def W.linksOff (w : W) : W :=
  w.onDev fun d =>
    { d with
      links := d.links.map fun (p, l) => (p, { rxRetired := l.rxRetired, txRetired := l.txRetired })
      llinks := []
      sys := { reqs := d.sys.reqs, reqNext := d.sys.reqNext } }

end Sys2Proof.Machine
end

