-- ==== Sys2Proof/Machine/StoreOps.lean ====
section
/-! DEFINITION. The persistent store (chapter 19): the FRAM frame, the flashes' heads and tails, the programming and commitment of
journal records, and what a start of the hub reads back of them. -/

namespace Sys2Proof.Machine

/-- The 1,024 bytes of a counter frame (Table 19.2). -/
def Frame.bytes (f : Frame) : List Byte :=
  let body := padTo 1016 (toLe 8 f.seq ++ toLe 4 f.bootCount ++ toLe 4 f.cutCount ++ toLe 8 f.uptimeS ++ toLe 8 f.energyUj
    ++ ((List.range 9).flatMap fun k => toLe 8 (f.throttle.getD k 0)) ++ toLe 8 f.flashBytes ++ toLe 4 f.holdupUs ++ zeros 4
    ++ (List.range 128).flatMap fun k => toLe 4 (Tab.getD f.kinds k 0))
  toLe 4 0x4D524653 ++ toLe 4 (crc32c body) ++ body

/-- The frame that 1,024 bytes hold. -/
def Frame.parse (bs : List Byte) : Frame :=
  { seq := fld bs 8 8, bootCount := fld bs 0x10 4, cutCount := fld bs 0x14 4, uptimeS := fld bs 0x18 8, energyUj := fld bs 0x20 8
    throttle := (List.range 9).map fun k => fld bs (0x28 + 8 * k) 8
    flashBytes := fld bs 0x70 8, holdupUs := fld bs 0x78 4
    kinds := (List.range 128).filterMap fun k => if fld bs (0x80 + 4 * k) 4 = 0 then none else some (k, fld bs (0x80 + 4 * k) 4) }

/-- The frame written to the copy with the lower FRAME_SEQ (R588). -/
def W.writeFrame (w : W) : W :=
  w.onStore fun s =>
    let f := { s.frame with seq := s.frame.seq + 1 }
    let age := fun (c : Option Frame) => (((c.map fun x => x.seq + 1).getD 0 : Nat))
    if age s.fram0 ≤ age s.fram1 then { s with frame := f, fram0 := some f } else { s with frame := f, fram1 := some f }

/-- Journal sectors of a flash (Table 19.1). -/
def journalSectors : Nat := 1536

/-- The next working sector after one, and the laps that passing to it completes (R604). -/
def Flash.after (f : Flash) (s : Nat) : Nat × Nat :=
  (((List.range journalSectors).map fun k => s + 1 + k).find? fun k => !f.retired.contains (k % journalSectors)).map
    (fun k => (k % journalSectors, k / journalSectors)) |>.getD (s, 0)

/-- The head moved on to the next working sector. -/
def Flash.advance (f : Flash) : Flash :=
  let (s, laps) := f.after f.head
  { f with head := s, used := 64, lap := f.lap + laps }

/-- Room for n bytes at the head: no record crosses a sector boundary (R594). -/
def Flash.room (f : Flash) (n : Nat) : Flash := if f.used + n ≤ 65536 then f else f.advance

/-- n bytes programmed at the head. -/
def Flash.append (f : Flash) (n : Nat) : Flash :=
  let f := f.room n
  { f with used := f.used + n }

/-- The sector at the head retired after a failed program (R604). -/
def Flash.retireHead (f : Flash) : Flash := { f with retired := f.retired ++ [f.head] }.advance

/-- Greatest and least ERASES of the working journal sectors (R604, R612): a sector is erased once per lap of the tail. -/
def Flash.erases (f : Flash) : Nat × Nat := (f.tailLap + b2n (f.tail != 0), f.tailLap)

/-- A flash taken out of use (R599). -/
def W.failFlash (w : W) (fb : Bool) : W :=
  let s := w.dev.store
  if !(if fb then s.fb.ok else s.fa.ok) then w
  else
    let w := w.onStore fun s =>
      if fb then { s with mirrorLost := true, fb := { s.fb with ok := false } }
      else { s with mirrorLost := true, fa := { s.fa with ok := false } }
    let w := w.logHub 0x0044 (b2n fb) []
    if !w.dev.store.fa.ok && !w.dev.store.fb.ok then w.declareFailed 0x07 4 else w

/-- What a committed transaction brings about: the ageing trims act (R548). -/
def W.onCommitted (w : W) (r : JRec) : W := if r.key = 0x0022 && !r.tomb && !r.commit then w.applyAgeTrim r.payload else w

/-- A transaction committed: its records become live (R595, R596). -/
def W.commitTxn (w : W) (txn : Nat) : W :=
  let rs := w.dev.store.pending.filter fun r => r.txn = txn
  let w := w.onStore fun s => { s with live := rs.foldl commitLive s.live }
  rs.foldl W.onCommitted w

/-- The pending records that no flash still needs, gone: those of a committed transaction that are in every flash in use. -/
def Store.prune (s : Store) : Store :=
  let isIn := fun (r : JRec) => (r.inA || !s.fa.ok) && (r.inB || !s.fb.ok)
  let committed := fun (t : Nat) => (s.pending.find? fun r => r.commit && r.txn = t).map (fun r => r.inA || r.inB) |>.getD true
  { s with pending := s.pending.filter fun r => !(isIn r && committed r.txn) }

/-- STORE_COMMIT completes once its transaction is in every flash in use (R610). -/
def W.finishCommits (w : W) : W :=
  (w.dev.cmds.filter fun p => match p.wait with
    | .storeCommit t _ => !((w.dev.store.pending ++ w.dev.store.waiting).any fun r => r.txn = t)
    | _ => false).foldl (fun w p => match p.wait with
      | .storeCommit t lost => w.complete p 0 0 (toLe 8 t ++ toLe 1 (b2n lost) ++ zeros 7)
      | _ => w) w

/-- The records that waited are written as the limits admit them (R597, R606). -/
def releaseWaiting (w : W) : Nat → W
  | 0 => w
  | fuel + 1 =>
    match w.dev.store.waiting with
    | [] => w
    | r :: rest =>
      let same := r :: rest.filter fun q => q.txn = r.txn
      let all := withCommit r.txn same
      if w.dev.store.admits w.dev.clk.mono (all.map JRec.bytes).sum (immediateKey r.key) then
        releaseWaiting ((w.onStore fun s => { s with waiting := s.waiting.filter fun q => q.txn != r.txn }).accept all) fuel
      else w

/-- The waiting records that the limits admit, written. -/
def W.release' (w : W) : W := releaseWaiting w w.dev.store.waiting.length

/-- The next record to program: the first that a flash in use lacks; its FA copy first (R596). -/
def Store.nextProgram (s : Store) : Option (JRec × Bool) :=
  (s.pending.find? fun r => (s.fa.ok && !r.inA) || (s.fb.ok && !r.inB)).map fun r => (r, s.fa.ok && !r.inA)

/-- A record's copy programmed and read back (R596): the COMMIT record's first copy commits its transaction. -/
def W.programmed (w : W) (r : JRec) (toA : Bool) : W :=
  let n := r.bytes
  let w := w.onStore fun s =>
    let fl := (if toA then s.fa else s.fb).append n
    let s := if toA then { s with fa := fl } else { s with fb := fl }
    { s with
      frame := { s.frame with flashBytes := s.frame.flashBytes + n }
      pending := s.pending.map fun x =>
        if x.seq = r.seq then
          (if toA then { x with inA := true, sector := fl.head } else { x with inB := true, sector := if s.fa.ok then x.sector else fl.head })
        else x }
  let w := if r.commit && (toA || !w.dev.store.fa.ok) then w.commitTxn r.txn else w
  ((w.onStore Store.prune).finishCommits).release'

/-- FLASH_PROGRAM_COMPLETE (R596, R604). -/
def W.flashDone (w : W) (ok : Bool) : W :=
  match w.dev.store.nextProgram with
  | none => w
  | some (r, toA) =>
    if ok then w.programmed r toA
    else
      let w := w.onStore fun s => if toA then { s with fa := s.fa.retireHead } else { s with fb := s.fb.retireHead }
      if 64 < (if toA then w.dev.store.fa else w.dev.store.fb).retired.length then (w.failFlash !toA).onStore Store.prune else w

/-- Every pending record written (R600): as many completions as it takes, two for each record. -/
def W.flushJournal (w : W) : W := iter (fun w => W.flashDone w true) (2 * w.dev.store.pending.length) w

/-- FW_SLOT_STATE (R622). -/
def Fw.stateBytes (f : Fw) : List Byte :=
  toLe 1 f.active ++ toLe 1 f.prev ++ toLe 1 (b2n f.confirmed) ++ toLe 1 f.failedBoots ++ toLe 8 f.actUptime ++ toLe 4 f.deadline
    ++ toLe 4 f.newDye ++ toLe 4 f.prevDye ++ zeros 8

/-- The firmware state that a FW_SLOT_STATE payload holds. -/
def Fw.load (f : Fw) (bs : List Byte) : Fw :=
  { f with
    active := fld bs 0 1, prev := fld bs 1 1, confirmed := fld bs 2 1 != 0, failedBoots := fld bs 3 1, actUptime := fld bs 4 8
    deadline := fld bs 12 4, newDye := fld bs 16 4, prevDye := fld bs 20 4 }

/-- A transaction with FW_SLOT_STATE and further records (key, format, instance, tombstone, payload). -/
def W.saveFw (w : W) (more : List (Nat × Nat × Nat × Bool × List Byte)) : W :=
  w.journal true ((0x0041, 1, 0, false, w.dev.fw.stateBytes) :: more)

/-- A firmware slot: 0 A, 1 B, 2 recovery. -/
def Fw.slot (f : Fw) (k : Nat) : FwSlot := if k = 0 then f.slotA else if k = 1 then f.slotB else f.slotR

/-- A firmware slot changed. -/
def W.onSlotFw (w : W) (k : Nat) (g : FwSlot → FwSlot) : W :=
  w.onFw fun f => if k = 0 then { f with slotA := g f.slotA } else if k = 1 then { f with slotB := g f.slotB } else f

/-- The tombstones of the formats that one image writes and another does not (R608). -/
def Store.formatTombs (s : Store) (gone kept : ImageInfo) : List (Nat × Nat × Nat × Bool × List Byte) :=
  (s.live.filter fun r => r.key != 0x0041 && r.key != 0x0030 && r.fmt = gone.writes r.key && r.fmt != kept.writes r.key).map fun r =>
    (r.key, r.fmt, r.inst, true, [])

/-- The transaction of a fall-back (R643): ACTIVE takes PREV, PREV becomes none, the new image's formats are removed. -/
def W.fallBackTxn (w : W) (unit : Nat) : W :=
  let f := w.dev.fw
  let tombs := w.dev.store.formatTombs (f.slot f.active).info (f.slot f.prev).info
  let w := w.onFw fun f => { f with active := f.prev, prev := 0xFF, confirmed := true, failedBoots := 0 }
  (w.logHub 0x0045 unit []).saveFw tombs

/-- The numbers below n whose bits a value has. -/
def bitSet (n v : Nat) : List Nat := (List.range n).filter fun k => bit v k

/-- A die's maps as the store holds them (R570, R571); the part's own where it holds none (R17). -/
def Dev.loadDie (d : Dev) (k : Nat) : Die :=
  let x : Die := match d.stored 0x0012 k with
    | some p => { bind := (List.range 64).map fun j => fld p j 1, coreRetired := fld p 64 9, coreMarked := fld p 73 9 }
    | none => {}
  match d.stored 0x0014 k with
  | some p =>
    { x with
      sliceRetired := bitSet 9 (fld p 0 2), sliceMarked := bitSet 9 (fld p 3 2)
      sliceSpare := if fld p 2 1 = 0xFF then none else some (fld p 2 1) }
  | none => x

/-- A stack's retired granules as the store holds them (R154). -/
def Dev.loadRetired (d : Dev) (s : Nat) : List Retired :=
  match d.stored 0x0011 s with
  | some p => ((bitSet 144 (fld p 0 18)).zipIdx).map fun (g, i) => ⟨s, g, fld p (18 + 5 * i) 1, fld p (19 + 5 * i) 4, false⟩
  | none => []

/-- The trims of every pseudo-channel as the store holds them (R126). -/
def Dev.loadTrims (d : Dev) : Tab Int :=
  (List.range 24).flatMap fun s => match d.stored 0x0020 s with
    | some p => (List.range 32).filterMap fun c =>
      let v := sext 8 (fld p c 1)
      if v = 0 then none else some (32 * s + c, v)
    | none => []

/-- The retired lanes of every link as the store holds them (R497). -/
def Dev.loadLanes (d : Dev) : Tab Link :=
  (List.range 32).filterMap fun p => (d.stored 0x0013 p).map fun b => (p, { rxRetired := fld b 0 1, txRetired := fld b 1 1 })

/-- DEVICE_CONFIG as the store holds it (Table 19.6), and the ETH_CFG with which the device starts. -/
def Dev.loadConfig (d : Dev) : DevConfig × Word :=
  match d.stored 0x0002 0 with
  | some p => ({ autoStart := fld p 0 1 != 0, fwDelivery := fld p 1 1, confirmMin := fld p 2 2, gaugeW := fld p 4 2 }, BitVec.ofNat 32 (fld p 8 4))
  | none => ({}, 0xCF001000)

/-- The energy coefficients as the store holds them (R553). -/
def Dev.loadCoef (d : Dev) : List Rat :=
  match d.stored 0x0023 0 with
  | some p => (List.range 13).map fun k => (fp32.decode (fld p (4 * k) 4)).val
  | none => d.pwr.coef0

/-- The ageing trims as the store holds them (R548). -/
def Dev.loadTrim (d : Dev) : List Nat :=
  match d.stored 0x0022 0 with
  | some p => (List.range 4).map fun k => fld p k 1
  | none => [0, 0, 0, 0]

/-- The updates that a start of the hub recreates (R633): their FW_PROGRESS record and their slot header are live. -/
def Dev.loadUpds (d : Dev) : Tab Upd :=
  match ([0, 1].find? fun k => k != d.fw.active && ((d.fw.slot k).st = 1 || (d.fw.slot k).st = 2) && (d.stored 0x0040 k).isSome) with
  | some k =>
    let x := d.fw.slot k
    let n := ceilDiv x.fileBytes 4096
    [(0, { gen := d.store.frame.bootCount % 4095 + 1, tag := 0, slot := k, imageId := x.imageId, fileBytes := x.fileBytes
           held := bitSet n (leNat ((d.stored 0x0040 k).getD [])), phase := if x.st = 2 then 2 else 0 })]
  | none => []

/-- The device as a start of the hub finds it (R581, R598, R676, Table 22.4): everything that no fuse, flash or FRAM holds is at its
reset value, and the maps are those of the journal. Global time and the hub's clock are given. -/
def Dev.restart (dev : Dev) (clk : Clk) : Dev :=
  let d := { dev with store := { dev.store with live := dev.store.pending.foldl commitLive dev.store.live } }
  let fw := match d.stored 0x0041 0 with
    | some p => d.fw.load p
    | none => d.fw
  let d := { d with fw := fw }
  let (cfg, ethCfg) := d.loadConfig
  let upds := d.loadUpds
  let net := (d.stored 0x0001 0).getD (zeros 32)
  let pwr : Pwr :=
    { capSet := cfg.gaugeW, vBase := d.pwr.vBase, coef0 := d.pwr.coef0, coef := d.loadCoef, trim := d.loadTrim
      flowLost := d.pwr.flowLost }
  { freeCtr := d.freeCtr
    clk := clk
    pin := d.pin
    hub :=
      { stage := 1, bootBase := d.store.frame.bootCount, tripAt := d.hub.tripAt, lastUe := d.hub.lastUe, regFault := d.hub.regFault
        resetHold := d.hub.resetHold }
    eth := { cfg := ethCfg, ip4 := net.take 4, ip6 := slice net 8 16 }
    ms :=
      { attached := d.ms.attached, repairs := d.ms.repairs, spareUsed := d.ms.spareUsed
        retired := (List.range 24).flatMap d.loadRetired, trims := d.loadTrims }
    dies := (List.range 4).map fun k => (k, d.loadDie k)
    store := dev.store
    fuse := d.fuse
    fw := { fw with upds := upds, pause := none, ka := [], relays := [], parts := [], authFail := 0 }
    hgen := upds.map fun (i, u) => (655360 + i, u.gen)
    cfg := cfg
    pwr := { pwr with lim := { age := pwr.ageLimit } }
    links := d.loadLanes }

end Sys2Proof.Machine
end

