-- ==== Sys2Proof/Machine/LifeOps.lean ====
section
/-! DEFINITION. The life of the device (chapters 2, 18, 20 and 22): shedding, INIT and its end, core and slice binding, warm and cold
starts, die resets, service. -/

namespace Sys2Proof.Machine

/-- 60 s in ns. -/
def minuteNs : Nat := 60000000000

/-- The feature dies and HBM lose power (R674): their memories lose their contents, every link is off, power control has no step. -/
def W.shed (w : W) : W :=
  if !w.dev.hub.rails then w
  else ((((w.op (.clear 0 tierBase)).onHub fun h => { h with rails := false, dieReset := [], dieOut := [] }).linksOff).onPwr Pwr.shed)

/-- The conditions of Table 18.3 that hold now. -/
def Dev.degCond (d : Dev) : Nat :=
  let short := fun (k : Nat) => let l := d.link ((d.carrier k).getD k); l.works && l.lanes < 4
  b2n ((List.range 4).any fun k => (d.die k).bound < 64 || (d.offline k != 0 && (d.die k).spares = 0))
    + 2 * b2n (d.roleLinks.any short) + 4 * b2n (!d.hub.cxlOut.isEmpty) + 8 * b2n (d.pwr.ageLimit < 18)

/-- DEGRADED set where a condition of Table 18.3 holds (R576). -/
def W.settleDegraded (w : W) : W :=
  match (List.range 4).find? fun k => bit w.dev.degCond k with
  | some k => w.degrade k
  | none => w

/-- What a die keeps through every reset: its maps (R569 to R571). -/
def Die.kept (x : Die) : Die :=
  { coreRetired := x.coreRetired, coreMarked := x.coreMarked, bind := x.bind, sliceRetired := x.sliceRetired
    sliceSpare := x.sliceSpare, sliceMarked := x.sliceMarked }

/-- Physical cores that index j of a die may take: working, and bound to no index of a list. -/
def Die.pool (x : Die) (used : List Nat) (marked : Bool) : Option Nat :=
  (List.range 68).find? fun p => !bit x.coreRetired p && (marked || !bit x.coreMarked p) && !used.contains p

/-- The physical core of an index of a die with at least 64 working cores (R570): its own unless that is retired or marked; else the
lowest unbound working one; a marked core without a spare stays. `kept` holds the cores that other indices keep. -/
def Die.pick (x : Die) (own : Nat) (kept : List Nat) : Nat :=
  let working := own < 68 && !bit x.coreRetired own
  if working && !bit x.coreMarked own then own
  else match x.pool kept false with
    | some p => p
    | none => if working && !kept.contains own then own else (x.pool kept true).getD 0xFF

/-- The binding of a die's logical cores at INIT or a die reset (R270, R570). -/
def Die.rebind (x : Die) : List Nat :=
  if x.working < 64 then
    let ps := (List.range 68).filter fun p => !bit x.coreRetired p
    (List.range 64).map fun j => ps.getD j 0xFF
  else
    let keeps := x.bind.filter fun p => p < 68 && !bit x.coreRetired p && !bit x.coreMarked p
    ((List.range 64).foldl (fun (acc : List Nat × List Nat) j =>
      let p := x.pick (x.bind.getD j 0xFF) acc.2
      (acc.1 ++ [p], acc.2 ++ [p])) ([], keeps)).1

/-- Cores bound and the spare slice put in place (R570, R571), with a record for each change. -/
def W.bindDie (w : W) (k : Nat) : W :=
  let x := w.dev.die k
  let b := x.rebind
  let changed := (List.range 64).filter fun j => b.getD j 0xFF != x.bind.getD j 0xFF
  let w := w.onDie k fun x => { x with bind := b }
  let w := (changed.filter fun j => b.getD j 0xFF < 68).foldl (fun w j =>
    w.logRec 0x001B k 0xFF 0 ((64 * k + j) * 256 + b.getD j 0xFF) 0 []) w
  let w := if changed.isEmpty then w else w.saveSpareCore k
  match x.sliceSpare, x.sliceRetired with
  | none, s :: _ => (w.onDie k fun x => { x with sliceSpare := some s }).saveSliceMap k
  | _, _ => w

/-- INIT goes on once PWR_EN and FLOW_OK are high (R672): the rails rise; without REFCLK stage 5 fails (R684). -/
def W.railsOn (w : W) : W :=
  let w := w.onHub fun h => { h with initWait := none, stage := 5 }
  if w.dev.pin.refclk then w.onHub fun h => { h with rails := true } else w.devFault 0

/-- An INIT that waits for PWR_EN and FLOW_OK goes on when both are high (R672). -/
def W.tryRails (w : W) : W :=
  if w.dev.hub.st = .init && w.dev.hub.initWait.isSome && w.dev.pin.pwrEn && w.dev.pin.flowOk then w.railsOn else w

/-- INIT begins (Table 20.5 stage 4, R602): BOOT_COUNT and FAILED_BOOTS count, a BOOT record is committed; the rails rise or INIT
waits (R673). PWR_FLOW_LOST clears (R547). -/
def W.beginInit (w : W) : W :=
  let now := w.dev.clk.mono
  let w := (w.setState .init).onHub fun h =>
    { h with stage := 4, initStart := now, initWait := some now, autoInit := false, flowHold := false }
  let w := w.onPwr fun p => { p with flowLost := false }
  let f := w.dev.fuse
  let w := w.onStore fun s => { s with abandoned := ((f.ceiling.filter fun x => !x.2).length, (f.owner.filter fun x => !x.2).length) }
  let w := (w.onStore fun s => { s with frame := { s.frame with bootCount := (s.frame.bootCount + 1) % 2 ^ 32 } }).writeFrame
  let n := w.dev.store.frame.bootCount
  let w := w.onHub fun h => { h with bootBase := n }
  let w := w.journal1 0x0003 0 (toLe 4 n ++ toLe 4 w.dev.fw.info.dye ++ toLe 1 w.dev.fw.run ++ zeros 7)
  ((w.onFw fun f => { f with failedBoots := min (f.failedBoots + 1) 255 }).saveFw []).tryRails

/-- INIT begins where nothing holds it: the management firmware runs, RESET_N is high, no coolant stop holds it (R547, R677). -/
def W.tryAutoInit (w : W) : W :=
  let h := w.dev.hub
  if h.st = .standby && h.stage = 3 && h.autoInit && !h.resetHold && !h.flowHold then w.beginInit else w

/-- The failures that end INIT in FAILED (R563, R571 to R574, R580), in the order of their checks. -/
def W.initFailures (w : W) (r : InitResult) : W :=
  let w := if r.hubFailed then w.declareFailed 0x03 4 else w
  let w := match r.stacksFailed.filter (· < 24) with
    | s :: _ => w.declareFailed 0x01 (dieOfStack s)
    | [] => w
  let w := if r.ringFailed then w.declareFailed 0x06 4 else w
  let w := (r.coresFailed.filter fun (k, p) => k < 4 && p < 68).foldl (fun w (k, p) =>
    if bit (w.dev.die k).coreRetired p then w else w.retireCore k p 1 0) w
  let w := (r.slicesFailed.filter fun (k, s) => k < 4 && s < 9).foldl (fun w (k, s) => w.retireSlice k s) w
  let w := (List.range 4).foldl (fun w k =>
    if (w.dev.die k).working < 56 || w.dev.hub.regFault.contains k then w.declareFailed 0x02 k
    else if 2 ≤ (w.dev.die k).sliceRetired.length then w.declareFailed 0x05 k else w) w
  w.onHub fun h => { h with cxlOut := (h.cxlOut ++ r.cxlFailed.filter (· < 4)).eraseDups }

/-- The end of INIT (R626, INIT_COMPLETE): FAILED, FAULT, or READY with the cores bound, FAILED_BOOTS 0 and DEVICE_START answered. -/
def W.endInit (w : W) (r : InitResult) : W :=
  let w := w.initFailures r
  if w.dev.hub.st != .init then w
  else if r.bootFailed then w.devFault 0
  else
    let w := ((List.range 4).foldl W.bindDie w).settleDegraded
    let w := (w.setState .ready).onHub fun h => { h with stage := 9 }
    let w := (w.onFw fun f => { f with failedBoots := 0 }).saveFw []
    (w.completeAll (fun p => p.wait = .init) 0 0 []).settleFault.strapIn

/-- A warm reset (R56, R544, R676): the hub starts again from the boot ROM, the dies and HBM are shed. Within 60 s of a trip it is
held (R544); one after an overvoltage takes effect only within the operating range (R669). -/
def W.warmReset (w : W) : W :=
  let d := w.dev
  if d.hub.st = .off then w
  else if (d.hub.tripAt.map fun t => decide (d.clk.mono < t + minuteNs)).getD false then w.onHub fun h => { h with warmHeld := true }
  else if d.hub.overvolt && !(40000 ≤ d.pin.vin && d.pin.vin ≤ 48000) then w
  else
    let w := w.shed
    w.onDev fun d =>
      let x := d.restart { now := d.clk.now, mono := d.clk.mono, unset := d.clk.unset }
      { x with
        hub := { x.hub with autoInit := true, flowHold := d.pwr.flowLost }
        svc := { x.svc with swatchMask := d.svc.swatchMask, swatch := d.svc.swatch, swatchAt := d.svc.swatchAt } }

/-- The counter frame with which a start finds the store (R588, R602): the newer copy, or what the journal holds. -/
def Dev.recoverFrame (d : Dev) : Frame × Bool :=
  match d.store.fram0, d.store.fram1 with
  | some a, some b => (if a.seq < b.seq then b else a, false)
  | some a, none => (a, false)
  | none, some b => (b, false)
  | none, none =>
    let f := ((d.stored 0x0031 0).map Frame.parse).getD {}
    ({ f with bootCount := ((d.stored 0x0003 0).map fun p => fld p 0 4 + 1).getD 0 }, true)

/-- The module starts from OFF (R601, R672, R676, R686): global time counts from 0, unset. -/
def W.coldStart (w : W) : W :=
  w.onDev fun d =>
    let (f, lost) := d.recoverFrame
    let d := { d with
      store := { d.store with frame := f, framLost := lost, appends := [], hostAppends := [], lastSnap := 0 }
      hub := { d.hub with tripAt := none, lastUe := none, resetHold := !d.pin.resetN, regFault := [] }
      pwr := { d.pwr with flowLost := false } }
    d.restart {}

/-- Power leaves the module (R600, R669): the dies are shed, the hub's memory is lost; what the stores hold remains. Accepted journal
records remain for the hold-up sequence where it runs. -/
def W.powerOff (w : W) (holdup : Bool) : W :=
  let w := w.shed
  w.onDev fun d =>
    let d := { d with store := { d.store with waiting := [], pending := if holdup then d.store.pending else [] } }
    let x := d.restart d.clk
    { x with hub := { x.hub with st := .off, stage := 0, holdup := if holdup then some false else none } }

/-- A slot that the boot ROM may run (R623): a verified header, and a SEC_VERSION not below the fused count but for the recovery
slot. -/
def Dev.slotGood (d : Dev) (k : Nat) : Bool :=
  k ≤ 2 && (d.fw.slot k).st = 2 && (k = 2 || d.fuse.secVersion ≤ (d.fw.slot k).info.secVersion)

/-- The candidates of the boot ROM in order (R623, R624). -/
def Fw.candidates (f : Fw) : List Nat :=
  let skip := !f.confirmed && 3 ≤ f.failedBoots
  (if skip then [] else [f.active]) ++ (if f.prev = 0xFF then [] else [f.prev]) ++ [2]

/-- The slot chosen and its firmware started (Table 20.5 stages 2 and 3, R623, R624, R643): copies that fail are logged; a start of
PREV in place of ACTIVE commits the fall-back; without any slot the boot ROM keeps the console (R654). -/
def W.bootSlot (w : W) : W :=
  let f := w.dev.fw
  let cs := f.candidates
  match cs.find? w.dev.slotGood with
  | none => (w.onHub fun h => { h with stage := 2 }).onSvc fun v => { v with rom := true }
  | some k =>
    let bad := (cs.takeWhile (· != k)).eraseDups
    let w := w.onFw fun f => { f with run := k, info := (f.slot k).info }
    let w := w.onHub fun h => { h with stage := 3 }
    let w := bad.foldl (fun w b => (w.logHub 0x0046 (2 * b) []).logHub 0x0046 (2 * b + 1) []) w
    if k = f.prev && k != f.active && k < 2 then w.fallBackTxn 2 else w

/-- The management firmware runs (stage 3): the strap may take the device to SERVICE, INIT may begin without a command. -/
def W.started (w : W) : W :=
  let w := w.strapIn
  if w.dev.hub.st = .standby && w.dev.hub.stage = 3 then
    let w := if w.dev.cfg.autoStart && w.dev.pin.pwrEn then w.onHub fun h => { h with autoInit := true } else w
    w.tryAutoInit
  else w

/-- The waiters of a sync object on other dies, and host commands, released as its die is reset (R298). -/
def W.loseSync (w : W) (i : Nat) : W :=
  match Tab.get w.dev.syncs i with
  | some y =>
    let h := mkHandle 5 y.gen i
    let ws := (y.takers ++ y.reachers).map Prod.fst
    let w := w.dropSync i
    let w := w.completeAll (fun p => pendsOn h p) 0x0D 0x03 []
    ws.foldl (fun w x => match x with
      | .task d k => match Tab.get w.dev.slots (slotKey d k) with
        | some s => w.frog s.graph 0x03 0x02
        | none => w
      | .stream s _ => w.loseStrm s
      | .cmd _ _ => w) w
  | none => w

/-- The register window of a die (R690). -/
def dieBase (k : Nat) : Nat := 0x1000000 * (k + 1)

/-- A die's memories and registers at their values after a reset (R66); buffers of its cores stay mapped. -/
def W.clearDie (w : W) (k : Nat) : W :=
  let w := (List.range 64).foldl (fun w j => w.op (.clear (coreBase (64 * k + j)) coreBytes)) w
  let w := w.op (.clear (joinBase k) joinBytes)
  w.onDev fun d =>
    { d with
      cores := d.cores.map fun (n, c) => (n, if n / 64 = k then { frames := c.frames } else c)
      queues := d.queues.filter fun e => e.1 / 64 != k
      dies := Tab.mod d.dies k fun x => { x.kept with cycBase := d.pwr.cyc }
      omas := d.omas.filter fun e => e.1 / 2 != k
      ruus := d.ruus.filter fun e => e.1 / 6 != k
      embSeed := Tab.del d.embSeed k
      engCnt := d.engCnt.filter fun e => !(dieBase k ≤ e.1 && e.1 < dieBase (k + 1))
      slots := d.slots.filter fun e => e.1 / 4096 != k
      ready := d.ready.filter fun e => e.1 / 1024 != k
      ms :=
        { d.ms with
          scrubCfg := Tab.del d.ms.scrubCfg k
          ceCnt := d.ms.ceCnt.filter fun e => e.1 / 6 != k
          ueCnt := d.ms.ueCnt.filter fun e => e.1 / 6 != k }
      sys := { d.sys with cfg := Tab.del d.sys.cfg k }
      links := d.links.map fun (p, l) =>
        (p, if p / 8 = k && l.role != 0 then { l with state := 1, upSince := none, delay := none, peerTx := 0, peerRx := 0 } else l) }

/-- A die reset begins (R66, R298, R468): the die's streams and sync objects are destroyed, graphs with tasks on it and feeds that use
it enter FAULTED, its memories and registers are cleared. -/
def W.beginDieReset (w : W) (k : Nat) : W :=
  let w := (w.completeAll (fun p => p.wait = .swatch) 0x0D 0x03 []).onSvc fun v => { v with swatchLeft := [] }
  let w := (w.dev.strms.filter fun (i, _) => strmDie i = k).foldl (fun w (i, s) =>
    (w.completeAll (pendsOn (mkHandle 2 s.gen i)) 0x0D 0x03 []).dropStrm i) w
  let w := (w.dev.graphs.filter fun (_, g) => g.tasks.any fun t => dieOfCore t.core = k).foldl (fun w (i, g) =>
    let (r, w) := w.free
    let w := w.frog i (r % 256) 0x03
    (w.onGraph i fun g => { g with state := 6 }).completeAll (pendsOn (mkHandle 4 g.gen i)) 0x0D 0x03 []) w
  let w := ((w.dev.syncs.filter fun (i, _) => syncDie i = k).map Prod.fst).foldl W.loseSync w
  let w := w.onDev fun d =>
    { d with feeds := d.feeds.map fun (i, f) => (i, if bit f.dieMask k then { f with faulted := true } else f) }
  ((w.clearDie k).onHub fun h =>
    { h with dieReset := Tab.put h.dieReset k w.dev.clk.mono, dieOut := h.dieOut.filter (· != k) }).deviceIdle

/-- A die reset asked for (R72): the die is reset once however many commands wait for it. -/
def W.askDieReset (w : W) (k : Nat) : W :=
  if (Tab.get w.dev.hub.dieReset k).isSome && !w.dev.hub.dieOut.contains k then w else w.beginDieReset k

/-- A die is back in service (R570 to R572, R625): its cores are bound, its links train, the commands that waited complete. -/
def W.endDieReset (w : W) (k : Nat) : W :=
  let w := (w.onHub fun h => { h with dieReset := Tab.del h.dieReset k, dieFails := Tab.del h.dieFails k }).bindDie k
  let w := if (w.dev.die k).working < 56 then w.declareFailed 0x02 k else w
  let w := ((w.dev.links.filter fun (p, l) => p / 8 = k && l.role != 0).map Prod.fst).foldl W.hello w
  (w.settleDegraded).completeAll (fun p => p.wait = .dieReset k) 0 0 []

/-- Every frog and abort of an entry to SERVICE (R55, R660), then SERVICE. The frog's reason has no code of its own: it is free
(DESIGN CHOICE, log entry 34). -/
def W.enterService (w : W) : W :=
  let st := w.dev.hub.st
  if st = .standby || st = .ready || st = .running || st = .draining || st = .fault || st = .failed then
    let back := if st = .running || st = .draining then .ready else st
    let w := ((w.dev.graphs.filter fun (_, g) => g.state = 2 || g.state = 5).map Prod.fst).foldl (fun w i =>
      let (r, w) := w.free
      w.frog i (r % 256) 0x02) w
    let w := (w.abortAll 0x04).onSvc fun v => { v with swatchLeft := [] }
    (w.setState .service).onHub fun h => { h with svcFrom := back }
  else w

/-- SERVICE left (R656, R657): the service limit is 18 again, held islands follow the device step, the seal is back. -/
def W.leaveService (w : W) : W :=
  let back := w.dev.hub.svcFrom
  let w := w.onSvc fun v => { v with unsealed := false, stepLimit := none }
  let w := w.onDev fun d => { d with cores := d.cores.map fun (n, c) => (n, { c with held := none }), pwr := { d.pwr with blkHeld := [] } }
  let w := (w.onLim fun l => { l with service := 18 }).setState back
  w.settleFault.tryAutoInit

/-- Every object but channels and updates gone (R78): nothing that names the dies' memories outlives their shedding. -/
def W.dropObjects (w : W) : W :=
  let w := w.completeAll (fun p => match p.wait with
    | .storeCommit _ _ | .fwCommit _ _ _ | .fwRelay _ | .fwActivate _ | .standby => false
    | _ => true) 0x0D 0x03 []
  w.onDev fun d =>
    { d with
      bufs := [], strms := [], syncs := [], slots := [], ready := [], jobs := [], graphs := [], tables := [], matchsets := []
      feeds := [], queues := [], cores := [], engCnt := [], omas := [], ruus := [], embSeed := [], dies := d.dies.map fun (k, x) => (k, x.kept)
      ms := { d.ms with pageins := [], migs := [], scrubCfg := [], ceCnt := [], ueCnt := [], pageinBytes := [], rowCe := [], ueTimes := [] }
      sys := { d.sys with cfg := [] } }

/-- The adapted settings of the ports and links that are up saved as presets (R78 step 3, R87, R496): their bytes are free
(DESIGN CHOICE, log entry 35). -/
def W.savePresets (w : W) : W :=
  let save := fun (w : W) (inst : Nat) =>
    let (bs, w) := w.freeBytes 8
    W.journal1 w 0x0021 inst bs
  let w := if w.dev.eth.linkUp then save w 0 else w
  ((w.dev.links.filter fun (_, l) => l.works).map Prod.fst).foldl (fun w p => save w (1 + p)) w

/-- The status ladder's code (Table 21.5): the highest row that applies. -/
def Dev.ladder (d : Dev) : Nat :=
  let h := d.hub
  if h.st = .off then 0
  else if !h.regFault.isEmpty then (if h.regFault.contains 8 then 16 else 15)
  else match h.st with
    | .off => 0
    | .failed => 14
    | .fault => if h.faultKind = 1 || h.faultKind = 2 then 12 else 13
    | .service => 11
    | .running | .draining | .updatePause => 10
    | .ready => 9
    | .init => max 4 (min h.stage 8)
    | .standby => min h.stage 3

end Sys2Proof.Machine
end

