-- ==== Sys2Proof/Machine/Placement.lean ====
section
/-! DEFINITION. What the memory system does by itself: page-ins and migrations (R144, R152), the placement loop (R150), scrubbing
(R121, R562), read timing (R125, R126), the loss of an expander (R142). -/

namespace Sys2Proof.Machine

/-- A page-in's end (R144 steps 2 to 4): the page is in its frame, PLACED_HBM; its waiters wake; a queued page-in starts (R146). -/
def W.endPageIn (w : W) (buf page : Nat) : W :=
  match w.dev.ms.pageins.find? fun q => q.buf = buf && q.page = page && q.st = 0 with
  | some q =>
    if !w.dev.diesRun then w
    else
      let w := (w.movePage buf page q.frame .placedHbm).countMoved
      let w := w.onPage buf page fun p => { p with count := 0, hold := 0 }
      let w := w.onMs fun m =>
        { m with pageIns := m.pageIns + 1, pageinBytes := Tab.upd m.pageinBytes q.die 0 (· + bigPage) }
      (w.wakePage buf page).startQueued q.die
  | none => w

/-- BUF_PROTECT commands that waited for a buffer's migrations finish (R134). -/
def W.retryPins (w : W) (buf : Nat) : W :=
  if w.dev.ms.migs.any fun m => m.buf = buf then w
  else w.dev.cmds.foldl (fun w p => match p.wait with
    | .pinPages b prot =>
      if b = buf then
        (match w.pinBuffer b prot with
          | .ok w => w.complete p 0 0 []
          | .error f => w.complete p f.status f.detail [])
      else w
    | _ => w) w

/-- Whether a held page, other than the one that moves, lies in the place where a migration ends. -/
def Dev.dstHeld (d : Dev) (m : Migration) : Bool :=
  d.bufs.any fun (i, b) => b.pages.zipIdx.any fun (p, k) =>
    p.held && !(i = m.buf && k = m.page) && overlaps p.phys b.page m.dst ((Tab.get d.bufs m.buf).map Buf.page |>.getD bigPage)

/-- A migration's end (R152): the page's contents are in the new place and the mapping switches; a swap's second page waits for the
first. -/
def W.endMigration (w : W) (buf page : Nat) : W :=
  match w.dev.ms.migs.find? fun m => m.buf = buf && m.page = page with
  | some m =>
    if !w.dev.diesRun || w.dev.dstHeld m then w
    else
      let w := w.finishMigration m
      let w := if m.why = 0 then w else w.countMoved
      let w := w.onMs fun x =>
        { x with
          promotions := if m.why = 1 then x.promotions + 1 else x.promotions
          demotions := if m.why = 2 then x.demotions + 1 else x.demotions }
      w.retryPins buf
  | none => w

/-- The counted pages of a die in a state (R148): buffer, page, address, page. -/
def Dev.countedOf (d : Dev) (die : Nat) (st : Resid) : List (Nat × Nat × Nat × Page) :=
  d.bufs.flatMap fun (i, b) =>
    (b.pages.zipIdx.filter fun (p, k) => p.st = st && b.home k = die && !(d.ms.migs.any fun m => m.buf = i && m.page = k)).map
      fun (p, k) => (i, k, b.base + k * b.page, p)

/-- The moves of one die's epoch (R150): hot pages in order, the cold pages left, the bytes still allowed. Moves begin as
migrations. -/
def epochMoves (w : W) : List (Nat × Nat × Nat × Page) → List (Nat × Nat × Nat × Page) → Int → W
  | [], _, _ => w
  | (i, k, _, _) :: hot, cold, allow =>
    match Tab.get w.dev.bufs i with
    | none => w
    | some b =>
      let ss := b.stacks k
      let hold := w.dev.ms.place.holdEpochs
      let move := fun (w : W) (i k dst : Nat) (st : Resid) (why : Nat) =>
        (w.onMs fun m => { m with migs := m.migs ++ [⟨i, k, dst, st, why⟩] }).onPage i k fun p => { p with hold := hold }
      let stop := fun (w : W) => w.onMs fun m => { m with budgetStops := satAdd 32 m.budgetStops 1 }
      match w.dev.frameFor ss bigPage with
      | some f =>
        if allow < bigPage then stop w else epochMoves (move w i k f .placedHbm 1) hot cold (allow - bigPage)
      | none =>
        match cold with
        | [] => w
        | (qi, qk, _, q) :: cold' =>
          if allow < (2 * bigPage : Nat) then stop w
          else match w.dev.tierFrame, Tab.get w.dev.bufs qi with
            | some t, some qb =>
              let w := move w qi qk t (tierState qb.backing) 2
              let w := if ss.contains (q.phys / 2 ^ 36) then move w i k q.phys .placedHbm 1 else w
              epochMoves w hot cold' (allow - (2 * bigPage : Nat))
            | _, _ => w

/-- A die's counters after its epoch: halved, and holds one less (R150). -/
def W.halveCounts (w : W) (die : Nat) : W :=
  w.onDev fun d =>
    { d with bufs := d.bufs.map fun (i, b) =>
        (i, { b with pages := b.pages.zipIdx.map fun (p, k) =>
          if (p.st = .placedHbm || p.st = .placedTier) && b.home k = die then { p with count := p.count / 2, hold := p.hold - 1 }
          else p }) }

/-- The end of an epoch on one die (R150). -/
def W.epochOf (w : W) (die : Nat) : W :=
  let c := w.dev.ms.place
  let allow : Int := (c.budget * c.epochUs : Nat) - (Tab.getD w.dev.ms.pageinBytes die 0 : Nat)
  let hot := (w.dev.countedOf die .placedTier).filter fun (_, _, _, p) => c.promoteMin ≤ p.count && p.hold = 0
  let hot := sortBy (fun a b => decide (b.2.2.2.count < a.2.2.2.count) || (decide (a.2.2.2.count = b.2.2.2.count) && decide (a.2.2.1 ≤ b.2.2.1))) hot
  let cold := (w.dev.countedOf die .placedHbm).filter fun (_, _, _, p) => p.count ≤ c.demoteMax && p.hold = 0
  let cold := sortBy (fun a b => decide (a.2.2.2.count < b.2.2.2.count) || (decide (a.2.2.2.count = b.2.2.2.count) && decide (a.2.2.1 ≤ b.2.2.1))) cold
  (epochMoves w hot cold allow).halveCounts die

/-- PLACEMENT_EPOCH (R149, R150): every die's epoch ends; new settings hold from the next. -/
def execPlacementEpoch (s : State) : Out :=
  runT s fun w =>
    if !w.dev.diesRun then w
    else
      let w := [0, 1, 2, 3].foldl W.epochOf w
      w.onMs fun m => { m with pageinBytes := [], place := m.placeNext.getD m.place, placeNext := none }

/-- Scrub period of a die in hours (Table 4.8): 0 stops the scrub, larger values act as 72. -/
def Dev.scrubHours (d : Dev) (die : Nat) : Nat := min 72 (bits (Tab.getD d.ms.scrubCfg die 0x0801).toNat 8 8)

/-- PATROL_SCRUB of a stack (R121): the lines that its read reports are corrected, or poisoned. -/
def execPatrolScrub (stack : Nat) (ecc : List EccReport) (s : State) : Out :=
  runT s fun w =>
    if stack < 24 && w.dev.diesRun && w.dev.scrubHours (dieOfStack stack) != 0 then
      w.eccLines (ecc.filter fun e => e.line / 2 ^ 36 = stack)
    else w

/-- RECENTRE_WINDOW (R125): the trim of a pseudo-channel moves toward the side with at least 8 fewer corrections; one that reaches
a limit is logged and stays. -/
def execRecentreWindow (stack pc plus minus : Nat) (s : State) : Out :=
  run s fun w =>
    let key := 32 * stack + pc
    let die := dieOfStack stack
    if 24 ≤ stack || 32 ≤ pc || !w.dev.diesRun || !bit (Tab.getD w.dev.ms.scrubCfg die 0x0801).toNat 0 then w
    else
      let t := Tab.getD w.dev.ms.trims key 0
      let t' := if plus + 8 ≤ minus then min 32 (t + 1) else if minus + 8 ≤ plus then max (-32) (t - 1) else t
      if t' = t then w
      else
        let w := w.onMs fun m => { m with trims := Tab.put m.trims key t' }
        if t' = 32 || t' = -32 then w.logRec 0x0014 die 0xFF 0 key 0 [] else w

/-- The trims of every stack saved (R126). -/
def W.saveTrims (w : W) : W :=
  let w := (List.range 24).foldl (fun (w : W) s =>
    w.journal1 0x0020 s ((List.range 32).flatMap fun pc => toLe 1 (unsext 8 (Tab.getD w.dev.ms.trims (32 * s + pc) 0)))) w
  w.onMs fun m => { m with trimSavedAt := w.dev.clk.mono }

/-- HBM_TRIM_SAVE (R126): after every 24 hours of operation. -/
def execHbmTrimSave (s : State) : Out :=
  run s fun w => if w.dev.diesRun && w.dev.ms.trimSavedAt + dayNs ≤ w.dev.clk.mono then w.saveTrims else w

/-- SRAM_SCRUB (R562): a core store, or a slice of a join store, is read and corrected. -/
def execSramScrub (unit : SramUnit) (ecc : List EccReport) (s : State) : Out :=
  runT s fun w =>
    if !w.dev.diesRun then w
    else match unit with
      | .core n => w.eccLines (ecc.filter fun e => n < 256 && coreBase n ≤ e.line && e.line < coreBase n + coreBytes)
      | .slice d k => w.eccLines (ecc.filter fun e =>
          d < 4 && k < 8 && joinBase d + k * 2 ^ 24 ≤ e.line && e.line < joinBase d + (k + 1) * 2 ^ 24)

/-- The tier pages that an expander holds (R141). -/
def Dev.pagesOfExpander (d : Dev) (port pos : Nat) : List (Nat × Nat) :=
  d.bufs.flatMap fun (_, b) => (b.pages.filter fun p => p.held && tierBase ≤ p.phys &&
    match tierOwner d.ms.rotation ((p.phys - tierBase) / bigPage + 1) ((p.phys - tierBase) / bigPage) 0 with
    | some e => e.port = port && e.pos = pos
    | none => false).map fun p => (p.phys, b.page)

/-- EXPANDER_LINK_FAIL (R142): every page that the expander holds is poisoned in whole, the tier shrinks, the event is logged. -/
def execExpanderLinkFail (port position : Nat) (s : State) : Out :=
  run s fun w =>
    if !(w.dev.ms.expanders.any fun e => e.port = port && e.pos = position && !e.failed) then w
    else
      let w := (w.dev.pagesOfExpander port position).foldl (fun w (a, n) => w.op (.mark a n)) w
      (w.onMs fun m => { m with expanders := m.expanders.map fun e =>
        if e.port = port && e.pos = position then { e with failed := true } else e }).logRec 0x0015 4 0xFF 0 (port * 4 + position) 0 []

end Sys2Proof.Machine
end

