-- ==== Sys2Proof/Machine/Device.lean ====
section
/-! DEFINITION. The commands of group 0x00 (R65, R70 to R80), the packet of an unknown opcode (R39) and the interim reply (R42). -/

namespace Sys2Proof.Machine

/-- NOP (R74). -/
def nop : OpSpec where
  op := 0x0000
  targets := [0]
  set := .stat
  len := fun n => n ≤ 4032
  body := fun c w => w.ok c c.ps

/-- FLAGS of DEVICE_INFO (Table 2.9a). -/
def Dev.infoFlags (d : Dev) : Nat :=
  b2n d.clk.unset + 2 * b2n (!d.fw.confirmed) + 4 * b2n d.hub.degraded + 8 * b2n d.clk.ppsValid

/-- The 128 bytes of Table 2.9a. -/
def Dev.info (d : Dev) : List Byte :=
  let f := d.fw.info
  let c := d.sys.coord.getD (0xFF, 0xFF, 0xFF)
  padTo 128 (toLe 8 d.fuse.serial ++ toLe 4 f.dye ++ toLe 1 d.fw.run ++ toLe 1 f.secVersion ++ toLe 1 d.fuse.secVersion
    ++ toLe 1 f.codeMin ++ toLe 1 f.codeMax ++ zeros 3 ++ toLe 4 d.infoFlags ++ ((List.range 4).flatMap fun k => toLe 1 (d.die k).bound)
    ++ padTo 6 d.fuse.mac ++ zeros 2 ++ toLe 4 d.store.frame.bootCount ++ toLe 8 d.visibleHbm ++ toLe 8 d.visibleTier
    ++ toLe 8 d.clk.now ++ toLe 2 d.fuse.ceilingW ++ toLe 2 d.gauge ++ toLe 1 c.1 ++ toLe 1 c.2.1 ++ toLe 1 c.2.2)

/-- DEVICE_INFO (R75). -/
def deviceInfo : OpSpec where
  op := 0x0001
  targets := [0]
  set := .stat
  len := fun n => n = 0
  body := fun c w => w.ok c w.dev.info

/-- The live indices of a handle kind, ascending. -/
def Dev.liveOf (d : Dev) (kind : Nat) : List Nat :=
  match kind with
  | 1 => d.chans.map Prod.fst | 2 => d.strms.map Prod.fst | 3 => d.bufs.map Prod.fst | 4 => d.graphs.map Prod.fst
  | 5 => d.syncs.map Prod.fst | 6 => d.tables.map Prod.fst | 7 => d.feeds.map Prod.fst | 8 => d.jobs.map Prod.fst
  | 9 => d.matchsets.map Prod.fst | 10 => d.fw.upds.map Prod.fst
  | _ => []

/-- Job tags with a running graph (R58, Table 2.9b). -/
def Dev.runningTags (d : Dev) : Nat := (((d.graphs.filter fun (_, g) => g.state = 2 || g.state = 5).map fun (_, g) => g.tag).eraseDups).length

/-- The 96 bytes of Table 2.9b. -/
def Dev.status (d : Dev) : List Byte :=
  padTo 96 (toLe 1 d.stateByte ++ toLe 1 d.hub.prev ++ toLe 1 d.pwr.step ++ toLe 1 d.pwr.limitReason ++ toLe 1 d.degCond
    ++ toLe 1 d.hub.failCause ++ toLe 2 d.runningTags ++ toLe 4 d.cmds.length ++ toLe 4 d.admitted.length
    ++ ((List.range 16).flatMap fun k => toLe 4 (d.liveOf k).length) ++ toLe 8 d.clk.now)

/-- DEVICE_STATUS (R76). -/
def deviceStatus : OpSpec where
  op := 0x0002
  targets := [0]
  set := .stat
  len := fun n => n = 0
  body := fun c w => w.ok c w.dev.status

/-- DEVICE_START (R77): while RESET_N is low the device stays in STANDBY (R677). -/
def deviceStart : OpSpec where
  op := 0x0003
  targets := [0]
  set := .stby
  len := fun n => n = 0
  body := fun c w => (w.pend c .init).onHub (fun h => { h with autoInit := true, flowHold := false }) |>.tryAutoInit

/-- DEVICE_STANDBY (R78). -/
def deviceStandby : OpSpec where
  op := 0x0004
  targets := [0]
  set := .idle
  len := fun n => n = 0
  body := fun c w =>
    let w := (w.leaveGroup.dropObjects.saveTrims).savePresets.shed
    (((w.setState .standby).onHub fun h => { h with stage := 3 }).ok c []).strapIn

/-- DEVICE_DRAIN (R79). -/
def deviceDrain : OpSpec where
  op := 0x0005
  targets := [0]
  set := .up
  len := fun n => n = 0
  conflict := fun _ w => if w.dev.hub.st = .running then none else some 0
  body := fun c w =>
    let w := (w.pend c .drain).setState .draining
    ((w.dev.graphs.filter fun (_, g) => g.state = 2).map Prod.fst).foldl W.drainGraph w

/-- DEVICE_RESET (R57, R72). -/
def deviceReset : OpSpec where
  op := 0x0006
  targets := [0]
  set := .rst
  len := fun n => n = 4
  check := fun c _ => firstBad [(0, c.f 0 1 = 1 || c.f 0 1 = 2), (1, c.f 0 1 = 1 || c.f 1 1 ≤ 3), (2, zeroAt c.ps 2 2)]
  conflict := fun c w =>
    let st := w.dev.hub.st
    if c.f 0 1 = 1 || st = .ready || st = .running || st = .draining || st = .fault then none else some 0
  body := fun c w =>
    if c.f 0 1 = 1 then (w.ok c []).warmReset else (w.pend c (.dieReset (c.f 1 1))).askDieReset (c.f 1 1)

/-- HANDLE_QUERY (R73). -/
def handleQuery : OpSpec where
  op := 0x0007
  targets := [0, 1, 2, 3, 4, 5, 6, 7, 8, 9, 10]
  set := .stat
  len := fun n => n = 0
  body := fun c w =>
    let k := hKind c.target
    let word := if k = 2 then ((Tab.get w.dev.strms c.idx).map Strm.sgen).getD 0
      else if k = 4 then ((Tab.get w.dev.graphs c.idx).map Graph.stage).getD 0 else 0
    w.ok c (toLe 1 (w.dev.hstate k c.idx) ++ toLe 1 k ++ toLe 1 (w.dev.objTag k c.idx) ++ zeros 1 ++ toLe 4 word)

/-- A feed removed with the sync objects that it created (R442). -/
def W.dropFeed (w : W) (i : Nat) : W :=
  match Tab.get w.dev.feeds i with
  | some f =>
    let w := f.base.foldl (fun w (die, b) =>
      (List.range (f.decodeSlots + f.slowMax + 3)).foldl (fun w k => w.dropSync (2048 * die + b + k)) w) w
    w.onDev fun d => { d with feeds := Tab.del d.feeds i }
  | none => w

/-- An UPDATE removed (R635): its slot is abandoned, its FW_PROGRESS record goes. -/
def W.dropUpd (w : W) (i : Nat) : W :=
  match Tab.get w.dev.fw.upds i with
  | some u =>
    let w := (w.onSlotFw u.slot fun x => { x with st := 3 }).onFw fun f => { f with upds := Tab.del f.upds i }
    w.journal false [(0x0040, w.dev.fw.info.writes 0x0040, u.slot, true, [])]
  | none => w

/-- The object at an index of a kind destroyed. -/
def W.dropObj (w : W) (kind i : Nat) : W :=
  match kind with
  | 1 => w.closeChan i true
  | 2 => w.dropStrm i
  | 3 => w.dropBuffer i
  | 4 => w.destroyGraph i
  | 5 => w.dropSync i
  | 6 => w.onDev fun d => { d with tables := Tab.del d.tables i }
  | 7 => w.dropFeed i
  | 8 => w.onDev fun d => { d with jobs := Tab.del d.jobs i }
  | 9 => w.onDev fun d => { d with matchsets := Tab.del d.matchsets i }
  | 10 => w.dropUpd i
  | _ => w

/-- The kinds of objects that a job destroys, in the order in which they leave: graphs before what they name. -/
def jobKinds : List Nat := [4, 2, 7, 6, 9, 5, 3, 10, 1]

/-- The objects that carry a tag: kind and index. -/
def Dev.tagged (d : Dev) (tag : Nat) : List (Nat × Nat) :=
  jobKinds.flatMap fun k => ((d.liveOf k).filter fun i => d.objTag k i = tag).map fun i => (k, i)

/-- Whether HANDLE_DESTROY may take an object: IDLE or FAULTED (R65). -/
def Dev.idleObj (d : Dev) (kind i : Nat) : Bool := d.hstate kind i = 1 || d.hstate kind i = 6

/-- HANDLE_DESTROY (R65, R70): the channel on which it travels is answered before it closes. -/
def handleDestroy : OpSpec where
  op := 0x0008
  targets := [1, 2, 3, 4, 5, 6, 7, 8, 9, 10]
  set := .up
  len := fun n => n = 0
  conflict := fun c w =>
    let k := hKind c.target
    let h := w.dev.hstate k c.idx
    if k = 8 then (if (w.dev.tagged c.idx).all fun (k, i) => w.dev.idleObj k i then none else some h)
    else if h = 1 || h = 6 || (k = 1 && h = 2) then none else some h
  body := fun c w =>
    let w := w.ok c []
    let w := if hKind c.target = 8 then (w.dev.tagged c.idx).foldl (fun w (k, i) => w.dropObj k i) w else w
    w.dropObj (hKind c.target) c.idx

/-- HANDLE_LIST (R80). -/
def handleList : OpSpec where
  op := 0x0009
  targets := [0]
  set := .stat
  len := fun n => n = 8
  check := fun c _ => firstBad [(0, 1 ≤ c.f 0 1 && c.f 0 1 ≤ 10), (1, zeroAt c.ps 1 1), (4, 1 ≤ c.f 4 2 && c.f 4 2 ≤ 1000), (6, zeroAt c.ps 6 2)]
  body := fun c w =>
    let all := (w.dev.liveOf (c.f 0 1)).filter fun i => c.f 2 2 ≤ i
    let hs := all.take (c.f 4 2)
    let next := if all.length ≤ hs.length then 0xFFFFFFFF else hs.getLast?.getD 0 + 1
    w.ok c (toLe 2 hs.length ++ zeros 2 ++ toLe 4 next ++ hs.flatMap fun i => toLe 4 (w.dev.handleOf (c.f 0 1) i))

/-- The opcodes of Table 2.9. -/
def knownOps : List Nat :=
  let group := fun (g n : Nat) => (List.range n).map fun k => g * 256 + k
  group 0 10 ++ group 1 5 ++ group 2 8 ++ group 3 5 ++ group 4 7 ++ group 5 7 ++ group 6 5 ++ group 7 5 ++ group 8 12 ++ group 9 7
    ++ group 10 5 ++ group 11 4 ++ group 12 2

/-- NOP as a packet. -/
def execNop (ch : Nat) (p : Packet) (s : State) : Out := run s (hostCommand nop ch p)

/-- DEVICE_INFO as a packet. -/
def execDeviceInfo (ch : Nat) (p : Packet) (s : State) : Out := run s (hostCommand deviceInfo ch p)

/-- DEVICE_STATUS as a packet. -/
def execDeviceStatus (ch : Nat) (p : Packet) (s : State) : Out := run s (hostCommand deviceStatus ch p)

/-- DEVICE_START as a packet. -/
def execDeviceStart (ch : Nat) (p : Packet) (s : State) : Out := run s (hostCommand deviceStart ch p)

/-- DEVICE_STANDBY as a packet. -/
def execDeviceStandby (ch : Nat) (p : Packet) (s : State) : Out := run s (hostCommand deviceStandby ch p)

/-- DEVICE_DRAIN as a packet. -/
def execDeviceDrain (ch : Nat) (p : Packet) (s : State) : Out := runT s (hostCommand deviceDrain ch p)

/-- DEVICE_RESET as a packet. -/
def execDeviceReset (ch : Nat) (p : Packet) (s : State) : Out := runT s (hostCommand deviceReset ch p)

/-- HANDLE_QUERY as a packet. -/
def execHandleQuery (ch : Nat) (p : Packet) (s : State) : Out := run s (hostCommand handleQuery ch p)

/-- HANDLE_DESTROY as a packet. -/
def execHandleDestroy (ch : Nat) (p : Packet) (s : State) : Out := runT s (hostCommand handleDestroy ch p)

/-- HANDLE_LIST as a packet. -/
def execHandleList (ch : Nat) (p : Packet) (s : State) : Out := run s (hostCommand handleList ch p)

/-- UNKNOWN_OPCODE_PACKET (R39 step 5): BAD_OPCODE with the opcode. -/
def execUnknownOpcodePacket (ch : Nat) (opcode : BitVec 16) (p : Packet) (s : State) : Out :=
  run s fun w =>
    if knownOps.contains opcode.toNat then w
    else arrive ch opcode.toNat p (fun _ w => w.reply ch p.hdr opcode.toNat 0x03 opcode.toNat []) w

/-- PENDING_INTERIM_REPLY (R42): a command that still runs 100 µs after its start sends PENDING once, where ACK_REQ is 1. -/
def execPendingInterimReply (ch : Nat) (seq : Word) (s : State) : Out :=
  run s fun w =>
    match w.dev.cmds.find? fun p => p.ch = ch && p.hdr.seq = seq && !p.interim with
    | some p =>
      if ackReq p.hdr && p.begun + 100000 ≤ w.dev.clk.mono then
        (w.onDev fun d => { d with cmds := d.cmds.map fun q => if q = p then { q with interim := true } else q }).reply ch p.hdr p.op 1 0 []
      else w
    | none => w

end Sys2Proof.Machine
end

