-- ==== Sys2Proof/Machine/JoinOps.lean ====
section
/-! DEFINITION. Hash tables of the probe engines (R347 to R354) and the aggregate functions (R360 to R364). -/

namespace Sys2Proof.Machine

/-- A hash table: its address and the fields of its header (Table 10.4). -/
structure Tbl where
  va : Nat
  mode : Nat
  kb : Nat
  pb : Nat
  nb : Nat
  stashCap : Nat
  entryCap : Nat
  seed : Nat
  stashed : Nat
  entries : Nat
  dups : Nat
  nulls : Nat
  poisons : Nat

/-- Address of bucket i. -/
def Tbl.bucket (t : Tbl) (i : Nat) : Nat := t.va + 64 + 64 * i

/-- Address of stash slot i. -/
def Tbl.stash (t : Tbl) (i : Nat) : Nat := t.va + 64 + 64 * t.nb + 8 * i

/-- Bytes of the key in an entry. -/
def Tbl.keyPad (t : Tbl) : Nat := alignUp t.kb 8

/-- E, the bytes of an entry (R347). -/
def Tbl.entryBytes (t : Tbl) : Nat := 16 + t.keyPad + t.pb

/-- Address of entry n. -/
def Tbl.entry (t : Tbl) (n : Nat) : Nat := t.va + 64 + 64 * t.nb + alignUp (8 * t.stashCap) 64 + n * t.entryBytes

/-- An entry index that names none. -/
def noEntry : Nat := 0xFFFFFFFF

/-- TABLE_POISON where a range of the table is poisoned (Table 10.3). -/
def Tbl.sound (t : Tbl) (va n : Nat) : Eng Unit := do
  if ← Eng.poison va n then throw (.fail 0x0E 0x12 (.flag (t.va + 7)))

/-- Bytes of the table read. -/
def Tbl.read (t : Tbl) (va n : Nat) : Eng (List Byte) := do
  let bs ← Eng.read va n
  t.sound va n
  return bs

/-- The table at an address, its header checked (BAD_TABLE); `kept`: also the fields that the engines keep. -/
def Eng.table (va : Nat) (kept : Bool) : Eng Tbl := do
  Eng.need (va % 64 = 0)
  let b ← Eng.read va 64
  let t : Tbl := ⟨va, fld b 4 1, fld b 5 1, fld b 6 1, fld b 8 4, fld b 0xC 2, fld b 0x10 4, fld b 0x18 8, fld b 0xE 2, fld b 0x14 4,
    fld b 0x20 4, fld b 0x24 4, fld b 0x28 4⟩
  if fld b 0 4 = 0x48545653 && t.mode ≤ 1 && 1 ≤ t.kb && t.kb ≤ 32 && t.pb ≤ 192 && t.pb % 8 = 0 && 2 ≤ t.nb && t.nb ≤ 2 ^ 30 &&
      t.stashCap ≤ 4096 && 1 ≤ t.entryCap && t.entryCap ≤ 2 ^ 32 - 2 && (!kept || (t.stashed ≤ t.stashCap && t.entries ≤ t.entryCap)) then
    return t
  else Eng.fail 4 0x11

/-- The fields that the engines keep, written back. -/
def Tbl.save (t : Tbl) : Eng Unit := do
  Eng.store (t.va + 0x0E) (toLe 2 t.stashed)
  Eng.store (t.va + 0x14) (toLe 4 t.entries)
  Eng.store (t.va + 0x20) (toLe 4 t.dups ++ toLe 4 t.nulls ++ toLe 4 t.poisons)

/-- TAG of a hash (Table 10.5). -/
def hashTag (h : Nat) : Nat :=
  let t := Nat.xor (h % 65536) (bits h 48 16)
  if t = 0 then 1 else t

/-- b1 and b2 of a hash (Table 10.5). -/
def Tbl.homes (t : Tbl) (h : Nat) : Nat × Nat :=
  let b1 := bits h 0 32 * t.nb / 2 ^ 32
  let b2 := bits h 20 32 * t.nb / 2 ^ 32
  (b1, if b2 = b1 then (b1 + 1) % t.nb else b2)

/-- The first of a list of slots (address and contents) that holds a key (R352). -/
def Tbl.findSlot (t : Tbl) (key : List Byte) (tag : Nat) : List (Nat × Nat) → Eng (Option (Nat × Nat))
  | [] => pure none
  | (a, v) :: rest => do
    if bits v 48 16 = tag then
      let n := bits v 0 32
      if (← t.read (t.entry n + 16) t.kb) = key then return some (a, n)
    t.findSlot key tag rest

/-- Slots of 8 bytes from an address. -/
def slotsFrom (va : Nat) (bs : List Byte) : List (Nat × Nat) := (List.range (bs.length / 8)).map fun i => (va + 8 * i, fld bs (8 * i) 8)

/-- The slots of a bucket. -/
def Tbl.slots (t : Tbl) (i : Nat) : Eng (List (Nat × Nat)) := do return slotsFrom (t.bucket i) (← t.read (t.bucket i) 64)

/-- A lookup (R352): the slot and the entry of a key. -/
def Tbl.lookup (t : Tbl) (key : List Byte) (h : Nat) : Eng (Option (Nat × Nat)) := do
  let (b1, b2) := t.homes h
  match ← t.findSlot key (hashTag h) (← t.slots b1) with
  | some x => return some x
  | none =>
    match ← t.findSlot key (hashTag h) (← t.slots b2) with
    | some x => return some x
    | none =>
      if t.stashed = 0 then return none
      else t.findSlot key (hashTag h) (slotsFrom (t.stash 0) (← t.read (t.stash 0) (8 * t.stashed)))

/-- A counter of the item's die and class. -/
def Eng.count (key off n : Nat) : Eng Unit := Eng.onW fun w => w.engCount (engBase (key / 64) (key % 64 / 8) + off) n

/-- A 64-bit counter of the item's die and class. -/
def Eng.count64 (key off n : Nat) : Eng Unit := Eng.onW fun w => w.engCount64 (engBase (key / 64) (key % 64 / 8) + off) n

/-- An entry written: hash, NEXT, EFLAGS 0, padded key, payload (R349). -/
def Tbl.writeEntry (t : Tbl) (n h next : Nat) (key pay : List Byte) : Eng Unit :=
  Eng.store (t.entry n) (toLe 8 h ++ toLe 4 next ++ zeros 4 ++ padTo t.keyPad key ++ pay)

/-- The shift of R353: the first resident whose other bucket has an empty slot moves there; answers the slot freed. -/
def Tbl.shift (t : Tbl) : List (Nat × Nat × Nat) → Eng (Option Nat)
  | [] => pure none
  | (b, a, v) :: rest => do
    let h := leNat (← t.read (t.entry (bits v 0 32)) 8)
    let (x1, x2) := t.homes h
    let other := if b = x1 then x2 else x1
    match (← t.slots other).find? fun s => s.2 = 0 with
    | some s =>
      Eng.store s.1 (toLe 8 v)
      Eng.store a (toLe 8 0)
      return some a
    | none => t.shift rest

/-- What an insertion gives (R353): no room, the key present in a UNIQUE table, or an entry created. -/
inductive Ins' where
  | full
  | present (n : Nat)
  | created (n : Nat) (found : Bool)

/-- A new key placed in a bucket, by a shift, or in the stash (R353). -/
def Tbl.place (t : Tbl) (qkey h n : Nat) : Eng (Option Tbl) := do
  let slot := toLe 8 (hashTag h * 2 ^ 48 + n)
  let (b1, b2) := t.homes h
  let s1 ← t.slots b1
  let s2 ← t.slots b2
  let f1 := s1.filter fun s => s.2 = 0
  let f2 := s2.filter fun s => s.2 = 0
  let t' := { t with entries := t.entries + 1 }
  match (if f2.length ≤ f1.length then f1.head? else f2.head?) with
  | some s =>
    Eng.store s.1 slot
    return some t'
  | none =>
    match ← t.shift ((s1.map fun s => (b1, s)) ++ (s2.map fun s => (b2, s))) with
    | some a =>
      Eng.count qkey 0x20 1
      Eng.store a slot
      return some t'
    | none =>
      if t.stashed < t.stashCap then
        Eng.count qkey 0x1C 1
        Eng.store (t.stash t.stashed) slot
        return some { t' with stashed := t.stashed + 1 }
      else return none

/-- A row inserted under R353. -/
def Tbl.insert (t : Tbl) (qkey : Nat) (key pay : List Byte) : Eng (Ins' × Tbl) := do
  let h := svh64 t.seed key
  Eng.count64 qkey 0x10 1
  match ← t.lookup key h with
  | some (slot, e) =>
    if t.mode = 0 then
      let t := { t with dups := (t.dups + 1) % 2 ^ 32 }
      return (.present e, t)
    else if t.entries = t.entryCap then return (.full, t)
    else
      let n := t.entries
      t.writeEntry n h e key pay
      Eng.store slot (toLe 4 n)
      Eng.count qkey 0x18 1
      return (.created n true, { t with entries := n + 1 })
  | none =>
    if t.entries = t.entryCap then return (.full, t)
    else
      let n := t.entries
      t.writeEntry n h noEntry key pay
      match ← t.place qkey h n with
      | some t =>
        Eng.count qkey 0x18 1
        return (.created n false, t)
      | none => return (.full, t)

/-- An element of the aggregate list (R360). -/
structure AggFn where
  func : Nat
  elem : Nat
  inOff : Nat
  stOff : Nat
  sketch : Nat

/-- The element of 16 bytes. -/
def parseAgg (b : List Byte) : AggFn := ⟨fld b 0 1, fld b 1 1, fld b 2 2, fld b 4 2, fld b 8 8⟩

/-- Whether the input type is floating-point with a computed format. -/
def wideFloat (ty : Nat) : Bool := ty = 0x01 || ty = 0x02 || ty = 0x03 || ty = 0x19

/-- Whether a type is a byte-class integer type. -/
def byteInt (ty : Nat) : Bool := elemClass ty = .byte && ((intType ty).isSome)

/-- Whether a function takes an input type (Table 10.7). -/
def AggFn.elemOk (f : AggFn) : Bool :=
  match f.func with
  | 1 | 9 => true
  | 2 => 0x10 ≤ f.elem && f.elem ≤ 0x16
  | 3 => wideFloat f.elem
  | 4 | 5 | 6 | 7 | 0x0A => elemClass f.elem = .byte
  | 8 => f.elem = 0x01 || f.elem = 0x19 || byteInt f.elem
  | _ => false

/-- Bytes of the input. -/
def AggFn.inBytes (f : AggFn) : Nat := if f.func = 1 then 0 else if f.func = 9 then 24 else elemBytes f.elem

/-- Bytes of the state in the payload. -/
def AggFn.stBytes (f : AggFn) : Nat :=
  match f.func with
  | 1 | 2 | 3 => 8 | 8 | 9 => 24 | 0x0A => 0 | _ => elemBytes f.elem

/-- Whether an element of the list is in range (R360). -/
def AggFn.ok (f : AggFn) (b : List Byte) (rec' pb : Nat) : Bool :=
  f.elemOk && f.inOff + f.inBytes ≤ rec' && f.stOff % 8 = 0 && f.stOff + f.stBytes ≤ pb && zeroAt b 6 2 && (f.func = 0x0A || f.sketch = 0)

/-- A datum of FP64. -/
def f64 (v : Nat) : FV := fp64.decode v

/-- FP64 operations under RNE. -/
def fadd (a b : FV) : FV := (fp64.add .rne false false a b).1
def fsub (a b : FV) : FV := (fp64.add .rne false false a b.flip).1
def fmul (a b : FV) : FV := (fp64.mul .rne false false a b).1
def fdiv (a b : FV) : FV := (fp64.div .rne false false a b).1

/-- An integer as FP64. -/
def fint (i : Int) : FV := (fp64.round .rne true false false (i < 0) (i.natAbs : Nat)).1

/-- An input value as FP64 (R362). -/
def toF64 (ty v : Nat) : FV :=
  match fmtOfAny ty with
  | some f => f.decode v
  | none => fint (intVal (elemBits ty) (intSigned ty) v)

/-- Least (or greatest) value of a type: the initial value of MAX (of MIN). -/
def extreme (ty : Nat) (top : Bool) : Nat :=
  match fmtOfAny ty with
  | some f => if f.kind = 0 then f.encode (.inf (!top)) else f.encode (.num (!top) f.big)
  | none =>
    let r := intRange (elemBits ty) (intSigned ty)
    unsext (elemBits ty) (if top then r.2 else r.1)

/-- Whether a comes strictly before b in the order of a type; a NaN precedes nothing. -/
def typeLt (ty a b : Nat) : Bool :=
  match fmtOfAny ty with
  | some f => (f.decode a).lt (f.decode b)
  | none => intVal (elemBits ty) (intSigned ty) a < intVal (elemBits ty) (intSigned ty) b

/-- Whether a value is a NaN of its type. -/
def typeNan (ty v : Nat) : Bool :=
  match fmtOfAny ty with
  | some f => (f.decode v).isNan
  | none => false

/-- Bytes stored at an offset of a payload. -/
def patch (p : List Byte) (off : Nat) (bs : List Byte) : List Byte := p.take off ++ bs ++ p.drop (off + bs.length)

/-- The initial value of a state (Table 10.7). -/
def AggFn.init (f : AggFn) (p : List Byte) : List Byte :=
  match f.func with
  | 4 => patch p f.stOff (toLe (elemBytes f.elem) (extreme f.elem true))
  | 5 => patch p f.stOff (toLe (elemBytes f.elem) (extreme f.elem false))
  | _ => p

/-- WELFORD (R362). -/
def welford (n : Nat) (mean m2 x : FV) : Nat × FV × FV :=
  let n : Nat := (n + 1) % 2 ^ 64
  let d := fsub x mean
  let mean := fadd mean (fdiv d (fint n))
  (n, mean, fadd m2 (fmul d (fsub x mean)))

/-- WELFORD_MERGE (R363). -/
def welfordMerge (na : Nat) (ma m2a : FV) (nb : Nat) (mb m2b : FV) : Nat × FV × FV :=
  if nb = 0 then (na, ma, m2a)
  else
    let n : Nat := (na + nb) % 2 ^ 64
    let d := fsub mb ma
    let mean := fadd ma (fmul d (fdiv (fint nb) (fint n)))
    (n, mean, fadd (fadd m2a m2b) (fmul (fmul d d) (fdiv (fmul (fint na) (fint nb)) (fint n))))

/-- The bytes of a Welford state. -/
def welfordBytes (s : Nat × FV × FV) : List Byte := toLe 8 s.1 ++ toLe 8 (fp64.encode s.2.1) ++ toLe 8 (fp64.encode s.2.2)

/-- One aggregate's update of a payload by a record (Table 10.7); answers too whether SUM_I saturated. -/
def AggFn.apply (f : AggFn) (created : Bool) (rec' p : List Byte) : List Byte × Bool :=
  let w := elemBytes f.elem
  let x := fld rec' f.inOff w
  let st := fld p f.stOff w
  let put := fun (k v : Nat) => patch p f.stOff (toLe k v)
  match f.func with
  | 1 => (put 8 (fld p f.stOff 8 + 1), false)
  | 2 =>
    let s := sext 64 (fld p f.stOff 8) + intVal (elemBits f.elem) (intSigned f.elem) x
    let (lo, hi) := intRange 64 true
    (put 8 (unsext 64 (max lo (min hi s))), s < lo || hi < s)
  | 3 => (put 8 (fp64.encode (fadd (f64 (fld p f.stOff 8)) (toF64 f.elem x))), false)
  | 4 => (if !typeNan f.elem x && typeLt f.elem x st then put w x else p, false)
  | 5 => (if !typeNan f.elem x && typeLt f.elem st x then put w x else p, false)
  | 6 => (if created then put w x else p, false)
  | 7 => (put w x, false)
  | 8 =>
    (patch p f.stOff (welfordBytes (welford (fld p f.stOff 8) (f64 (fld p (f.stOff + 8) 8)) (f64 (fld p (f.stOff + 16) 8))
      (toF64 f.elem x))), false)
  | 9 =>
    (patch p f.stOff (welfordBytes (welfordMerge (fld p f.stOff 8) (f64 (fld p (f.stOff + 8) 8)) (f64 (fld p (f.stOff + 16) 8))
      (fld rec' f.inOff 8) (f64 (fld rec' (f.inOff + 8) 8)) (f64 (fld rec' (f.inOff + 16) 8)))), false)
  | _ => (p, false)

/-- Register and rank of a value in a sketch (R364). -/
def hllSlot (bs : List Byte) : Nat × Nat :=
  let h := svh64 0 bs
  let v := h % 2 ^ 50
  (h / 2 ^ 50, if v = 0 then 51 else 50 - Nat.log2 v)

end Sys2Proof.Machine
end

