-- ==== Sys2Proof/Machine/EmbOps.lean ====
section
/-! DEFINITION. Embedding tables (R414 to R418) and their optimizers (R429 to R432). -/

namespace Sys2Proof.Machine

/-- A table descriptor (Table 13.1). -/
structure EmbTable where
  store : Nat
  opt : Nat
  mom : Nat
  dim : Nat
  sr : Bool
  base : Nat
  rows : Nat
  stride : Nat
  buffer : Nat
  p1 : Nat
  p2 : Nat
  eps : Nat
  wd : Nat
  fill : Nat

/-- The descriptor of 64 bytes. -/
def parseTable (b : List Byte) : EmbTable where
  store := fld b 1 1
  opt := fld b 2 1
  mom := fld b 3 1
  dim := fld b 4 2
  sr := bit (fld b 6 1) 0
  base := fld b 8 8
  rows := fld b 0x10 8
  stride := fld b 0x18 4
  buffer := fld b 0x1C 4
  p1 := fld b 0x20 4
  p2 := fld b 0x24 4
  eps := fld b 0x28 4
  wd := fld b 0x2C 4
  fill := fld b 0x30 8

/-- Bytes of n elements of a type in a row, without padding (R416). -/
def elemsBytes (ty n : Nat) : Nat := if ty = 0x0B then n / 32 * 33 else n * elemBytes ty

/-- Bytes of the weight section. -/
def EmbTable.weightBytes (t : EmbTable) : Nat := alignUp (elemsBytes t.store t.dim) 8

/-- Bytes of one padded list of moments. -/
def EmbTable.momBytes (t : EmbTable) : Nat := alignUp (elemsBytes t.mom t.dim) 8

/-- The row size (R416, Table 13.2). -/
def EmbTable.rowSize (t : EmbTable) : Nat :=
  t.weightBytes + [0, 0, t.momBytes, 8, 2 * t.momBytes + 8].getD t.opt 0

/-- Address of row r in a buffer with a page size (R417). -/
def EmbTable.rowVa (t : EmbTable) (page r : Nat) : Nat :=
  let rpp := page / t.stride
  t.base + r / rpp * page + r % rpp * t.stride

/-- The buffer's page size of a table. -/
def Dev.tablePage (d : Dev) (t : EmbTable) : Nat := ((Tab.get d.bufs (hIdx t.buffer)).map Buf.page).getD 1

/-- Address of row r of a table. -/
def Dev.rowVa (d : Dev) (t : EmbTable) (r : Nat) : Nat := t.rowVa (d.tablePage t) r

/-- The stack of the row at an address (R418). -/
def Dev.rowStack (d : Dev) (va : Nat) : Nat :=
  match d.lookup va with
  | .page _ k b p _ =>
    match p.st with
    | .placedTier | .absent | .filling => (b.stacks k).headD 0
    | _ => p.phys / 2 ^ 36
  | _ => 0

/-- Elements of a section, as data. -/
def readElems (ty n : Nat) (bs : List Byte) : List FV :=
  if ty = 0x0B then
    (List.range n).map fun i => mxDatum 0x0B (fld bs (i / 32 * 33) 1) (fld bs (i / 32 * 33 + 1) 32) (i % 32)
  else (List.range n).map fun i => datumOf ty false (fld bs (i * elemBytes ty) (elemBytes ty))

/-- The generator of a row update unit (R432): as EMB_SR_SEED of its die seeds it, until it steps. -/
def Dev.unitGen (d : Dev) (s : Nat) : Nat := (Tab.getD d.ruus s {}).gen.getD (seedGen (Tab.getD d.embSeed (dieOfStack s) 0) s)

/-- A change of a row update unit. -/
def W.onRuu (w : W) (s : Nat) (f : Ruu → Ruu) : W := w.onDev fun d => { d with ruus := Tab.upd d.ruus s {} f }

/-- Values stored as a byte-class type (R431): the patterns, the generator after them, the conversions that clamped. -/
def storeByte (ty : Nat) (r : RMode) : List FV → Nat → List Nat × Nat × Nat
  | [], g => ([], g, 0)
  | x :: t, g =>
    if ty = 0x01 then
      let (vs, g, n) := storeByte ty r t g
      (fp32.encode x :: vs, g, n)
    else
      let (md, g) := r.use g
      let (v, fl) := convElem 0x01 ty md true false x
      let (vs, g, n) := storeByte ty r t g
      (v :: vs, g, n + b2n (Nat.land fl flCVSAT != 0))

/-- Elements of one MX block with a scale already found (R262, R431). -/
def storeBlock (r : RMode) (X : Int) : List FV → Nat → List Nat × Nat × Nat
  | [], g => ([], g, 0)
  | x :: t, g =>
    let (md, g) := r.use g
    let (v, fl) := mxElem 0x0B md x X
    let (vs, g, n) := storeBlock r X t g
    (v :: vs, g, n + b2n (Nat.land fl flCVSAT != 0))

/-- Values stored block by block as MXINT8: each block its scale, then its elements; a block takes 32 generator values (R432). -/
def storeMx (r : RMode) : List (List FV) → Nat → List Byte × Nat × Nat
  | [], g => ([], g, 0)
  | b :: t, g =>
    let (scale, zero, _, _) := toMx 0x0B (.fixed .rne) (b.map fun x => (0, x)) (fun _ => 0) []
    let (vs, g, n) := storeBlock r ((scale : Int) - 127) b g
    let vs := if scale = 0xFF then zero else vs
    let n := if scale = 0xFF then 0 else n
    let (bs, g, m) := storeMx r t g
    (toLe 1 scale ++ vs.flatMap (toLe 1) ++ bs, g, n + m)

/-- A section of values stored, with the generator and the count of clamped conversions. -/
def storeElems (ty : Nat) (r : RMode) (xs : List FV) (g : Nat) : List Byte × Nat × Nat :=
  if ty = 0x0B then storeMx r (groupsOf 32 (xs.length / 32) xs) g
  else
    let (vs, g, n) := storeByte ty r xs g
    (vs.flatMap (toLe (elemBytes ty)), g, n)

/-- FP32 operations under RNE (R429). -/
def gadd (a b : FV) : FV := (fp32.add .rne false false a b).1
def gsub (a b : FV) : FV := (fp32.add .rne false false a b.flip).1
def gmul (a b : FV) : FV := (fp32.mul .rne false false a b).1
def gdiv (a b : FV) : FV := (fp32.div .rne false false a b).1
def gsqrt (a : FV) : FV := (fp32.sqrt .rne false false a).1

/-- 1 in FP32. -/
def gone : FV := .num false 1

/-- P^STEP, computed as exp2(STEP x log2 P) within 1 unit in the last place (R430), with the special cases of R247. -/
def powStep (p step : Nat) : FV :=
  match fp32.decode p with
  | .nan => .nan
  | .inf s => if s then .nan else .inf false
  | .num s q =>
    if q = 0 then .num false 0
    else if s then .nan
    else
      let x := (step : Rat) * log2Approx q
      if 200 < x then .inf false
      else (fp32.within1 false false p step false (if x < -200 then pow2 (-200) else exp2Approx x)).1

/-- A row as an optimizer step sees it: weights, first and second moments, the step count. -/
structure RowVals' where
  w : List FV
  m : List FV := []
  v : List FV := []
  step : Nat := 0

/-- A row read from its bytes. -/
def EmbTable.row (t : EmbTable) (bs : List Byte) : RowVals' :=
  let mo := bs.drop t.weightBytes
  let w := readElems t.store t.dim bs
  match t.opt with
  | 2 => { w := w, m := readElems t.mom t.dim mo }
  | 3 => { w := w, m := [fp32.decode (fld mo 0 4)] }
  | 4 =>
    { w := w, m := readElems t.mom t.dim mo, v := readElems t.mom t.dim (mo.drop t.momBytes), step := fld mo (2 * t.momBytes) 4 }
  | _ => { w := w }

/-- A row stored as bytes (R416, R431): the bytes, the generator, the conversions that clamped. -/
def EmbTable.rowBytes (t : EmbTable) (r : RowVals') (g : Nat) : List Byte × Nat × Nat :=
  let md : RMode := if t.sr then .sr else .fixed .rne
  let (w, g, n) := storeElems t.store md r.w g
  let w := padTo t.weightBytes w
  match t.opt with
  | 2 =>
    let (m, g, k) := storeElems t.mom md r.m g
    (w ++ padTo t.momBytes m, g, n + k)
  | 3 => (w ++ toLe 4 (fp32.encode (r.m.headD (.num false 0))) ++ zeros 4, g, n)
  | 4 =>
    let (m, g, k) := storeElems t.mom md r.m g
    let (v, g, l) := storeElems t.mom md r.v g
    (w ++ padTo t.momBytes m ++ padTo t.momBytes v ++ toLe 4 r.step ++ zeros 4, g, n + k + l)
  | _ => (w, g, n)

/-- One optimizer step (R430). -/
def EmbTable.apply (t : EmbTable) (lrBits : Nat) (grad : List FV) (r : RowVals') : RowVals' :=
  let lr := fp32.decode lrBits
  let wd := fp32.decode t.wd
  let eps := fp32.decode t.eps
  let p1 := fp32.decode t.p1
  let p2 := fp32.decode t.p2
  let decayed := if t.opt = 4 || wd.eq (.num false 0) then grad else List.zipWith (fun g w => gadd g (gmul wd w)) grad r.w
  match t.opt with
  | 1 => { r with w := List.zipWith (fun w g => gsub w (gmul lr g)) r.w decayed }
  | 2 =>
    let m := List.zipWith (fun m g => gadd (gmul p1 m) g) r.m decayed
    { r with w := List.zipWith (fun w m => gsub w (gmul lr m)) r.w m, m := m }
  | 3 =>
    let gs := gdiv (decayed.foldl (fun s g => gadd s (gmul g g)) (.num false 0)) (.num false (t.dim : Nat))
    let a := gadd (r.m.headD (.num false 0)) gs
    { r with w := List.zipWith (fun w g => gsub w (gdiv (gmul lr g) (gadd (gsqrt a) eps))) r.w decayed, m := [a] }
  | 4 =>
    let step := min (r.step + 1) (2 ^ 32 - 1)
    let c1 := gsub gone (powStep t.p1 step)
    let c2 := gsub gone (powStep t.p2 step)
    let m := List.zipWith (fun m g => gadd (gmul p1 m) (gmul (gsub gone p1) g)) r.m decayed
    let v := List.zipWith (fun v g => gadd (gmul p2 v) (gmul (gmul (gsub gone p2) g) g)) r.v decayed
    let upd := List.zipWith (fun m v => gdiv (gdiv m c1) (gadd (gsqrt (gdiv v c2)) eps)) m v
    let w := List.zipWith (fun w u => gsub w (gmul lr (gadd u (gmul wd w)))) r.w upd
    { w := w, m := m, v := v, step := step }
  | _ => r

end Sys2Proof.Machine
end

