-- ==== Sys2Proof/Machine/Join.lean ====
section
/-! DEFINITION. The probe engines' items (R344 to R365). -/

namespace Sys2Proof.Machine

/-- A JOIN descriptor (Tables 9.2, 10.2). -/
structure JDesc where
  raw : List Byte
  inVa : Nat
  inLen : Nat
  outVa : Nat
  outCap : Nat
  table : Nat
  recBytes : Nat
  keyOff : Nat
  payOff : Nat
  kind : Nat
  flags : Nat
  valid : Nat
  rowBase : Nat
  agg : Nat
  radix : Nat
  nagg : Nat
  partCap : Nat
  keyBytes : Nat
  fill : Nat

/-- The descriptor of 128 bytes. -/
def parseJoin (b : List Byte) : JDesc where
  raw := b
  inVa := fld b 8 8
  inLen := fld b 0x10 8
  outVa := fld b 0x18 8
  outCap := fld b 0x20 8
  table := fld b 0x38 8
  recBytes := fld b 0x40 2
  keyOff := fld b 0x42 2
  payOff := fld b 0x44 2
  kind := fld b 0x46 1
  flags := fld b 0x47 1
  valid := fld b 0x48 8
  rowBase := fld b 0x50 8
  agg := fld b 0x58 8
  radix := fld b 0x60 1
  nagg := fld b 0x61 1
  partCap := fld b 0x68 4
  keyBytes := fld b 0x6C 4
  fill := fld b 0x70 8

/-- Checks of the fields of every JOIN item: fields that the operation does not use are 0 (R309, Table 10.2). -/
def JDesc.ok (d : JDesc) : Bool :=
  let op := fld d.raw 0 1
  let rows := op = 0x21 || op = 0x22 || op = 0x23 || op = 0x25
  let used := fun (ops : List Nat) (v : Nat) => ops.contains op || v = 0
  commonOk d.raw && d.inLen < 2 ^ 32 && zeroAt d.raw 0x62 6 && zeroAt d.raw 0x78 8 && d.table % 64 = 0 &&
    (if rows then 8 ≤ d.recBytes && d.recBytes ≤ 128 && d.recBytes % 8 = 0 && d.inLen % d.recBytes = 0
     else d.recBytes = 0 && d.keyOff = 0 && d.valid = 0 && (op = 0x20 || d.inVa = 0)) &&
    used [0x20, 0x21, 0x22, 0x23, 0x24, 0x26] d.table && used [0x21] d.payOff && used [0x22, 0x24] d.kind && used [0x22] d.flags &&
    d.flags < 4 && (op != 0x22 || d.kind < 4) && (op != 0x24 || d.kind < 3) && used [0x21, 0x22, 0x23, 0x24, 0x25, 0x26] d.rowBase &&
    used [0x23, 0x25, 0x26] d.agg && used [0x25] d.radix && used [0x23] d.nagg && used [0x25] d.partCap && used [0x25] d.keyBytes &&
    used [0x22, 0x25] d.fill && (op = 0x22 || op = 0x24 || op = 0x25 || op = 0x26 || op = 0x20 || (d.outVa = 0 && d.outCap = 0)) &&
    (op != 0x25 || (1 ≤ d.radix && d.radix ≤ 12 && 1 ≤ d.keyBytes && d.keyBytes ≤ 32)) && (op != 0x23 || (1 ≤ d.nagg && d.nagg ≤ 8))

/-- The descriptor of the item, checked. -/
def Eng.join : Eng JDesc := do
  let d := parseJoin (← Eng.desc)
  Eng.need d.ok
  return d

/-- Records of the item. -/
def JDesc.rows (d : JDesc) : Nat := d.inLen / d.recBytes

/-- What a record is: its bytes, whether its key is null, whether it reads a poisoned line (R345, R361). -/
structure JoinRow where
  bytes : List Byte
  null : Bool
  poison : Bool

/-- Record r. -/
def JDesc.rec' (d : JDesc) (r : Nat) : Eng JoinRow := do
  let va := d.inVa + r * d.recBytes
  let bytes ← Eng.read va d.recBytes
  let poison ← Eng.poison va d.recBytes
  let null ← if d.valid = 0 then pure false else do pure !(bit (← Eng.num (d.valid + r / 8) 1) (r % 8))
  return ⟨bytes, null, poison⟩

/-- A row counted in the completion record: input used, output, rejected, created, matched (R346). -/
def Eng.row (used out rej created matched : Nat) : Eng Unit :=
  Eng.onItem fun i =>
    { i with
      inUsed := i.inUsed + used, outDone := i.outDone + out, rejected := i.rejected + rej, check := i.check + created
      checkExp := i.checkExp + matched }

/-- The item stops before a row, with MORE and another flag. -/
def Eng.more {α : Type} (flag : Nat) : Eng (Option α) := do
  Eng.onItem fun i => { i with flags := Nat.lor i.flags (1 + flag) }
  return none

/-- A row that finds no room (R353): the first ends the item. -/
def Eng.tableFull {α : Type} (r : Nat) : Eng (Option α) := if r = 0 then Eng.fail 8 0x10 else Eng.more 8

/-- CLEAR (R351). -/
def joinClear : Eng Unit := do
  let b ← Eng.desc
  Eng.need (commonOk b && zeroAt b 0x40 64)
  let t ← Eng.table (fld b 0x38 8) false
  Eng.store (t.va + 64) (zeros (64 * t.nb + 8 * t.stashCap))
  Eng.store (t.va + 7) [0]
  ({ t with stashed := 0, entries := 0, dups := 0, nulls := 0, poisons := 0 } : Tbl).save

/-- A record left out for a null key or a poisoned line (R345, R361). -/
def Tbl.skip (t : Tbl) (d : JDesc) (x : JoinRow) : Eng (Option Tbl) := do
  let t := if x.poison then { t with poisons := (t.poisons + 1) % 2 ^ 32 } else { t with nulls := (t.nulls + 1) % 2 ^ 32 }
  t.save
  Eng.row d.recBytes 0 1 0 0
  return some t

/-- BUILD (R353). -/
def joinBuild (qkey : Nat) : Eng Unit := do
  let d ← Eng.join
  let t ← Eng.table d.table true
  Eng.need (d.keyOff + t.kb ≤ d.recBytes && d.payOff + t.pb ≤ d.recBytes)
  let _ ← rowLoop (fun r (t : Tbl) => do
    let x ← d.rec' r
    if x.poison || x.null then t.skip d x
    else
      let (res, t) ← t.insert qkey (slice x.bytes d.keyOff t.kb) (slice x.bytes d.payOff t.pb)
      match res with
      | .full => Eng.tableFull r
      | .present _ =>
        t.save
        Eng.row d.recBytes 0 0 0 1
        return some t
      | .created _ found =>
        t.save
        Eng.row d.recBytes 1 0 1 (b2n found)
        return some t) d.rows 0 t

/-- The entries of a row from one on, along NEXT, newest first (R356). -/
def Tbl.chain (t : Tbl) : Nat → Nat → Eng (List Nat)
  | 0, _ => pure []
  | n + 1, e => do
    if e = noEntry then return []
    let next := leNat (← t.read (t.entry e + 8) 4)
    return e :: (← t.chain n next)

/-- Entries marked MATCHED (R357). -/
def Tbl.mark (t : Tbl) : List Nat → Eng Unit
  | [] => pure ()
  | e :: rest => do
    let fl := leNat (← t.read (t.entry e + 12) 4)
    if !bit fl 0 then Eng.store (t.entry e + 12) (toLe 4 (fl + 1))
    t.mark rest

/-- An output record of PROBE (R355). -/
def JDesc.outRec (d : JDesc) (r entry oflags : Nat) (pay : List Byte) : List Byte :=
  toLe 8 (d.rowBase + r) ++ toLe 4 entry ++ toLe 4 oflags ++ pay

/-- The output records of entries that a row matches. -/
def Tbl.outRecs (t : Tbl) (d : JDesc) (r : Nat) : List Nat → Eng (List Byte)
  | [] => pure []
  | e :: rest => do
    let pay ← if bit d.flags 0 then t.read (t.entry e + 16 + t.keyPad) t.pb else pure []
    return d.outRec r e 1 pay ++ (← t.outRecs d r rest)

/-- PROBE (R355 to R357, R361). The state is the bytes of output written. -/
def joinProbe (qkey : Nat) : Eng Unit := do
  let d ← Eng.join
  let t ← Eng.table d.table true
  Eng.need (d.keyOff + t.kb ≤ d.recBytes)
  let emit := bit d.flags 0
  let size := 16 + (if emit then t.pb else 0)
  let fillPay := if emit then (List.range (t.pb / 8)).flatMap fun _ => toLe 8 d.fill else []
  let _ ← rowLoop (fun r (out : Nat) => do
    let x ← d.rec' r
    let found ← if x.poison || x.null then pure [] else do
      let key := slice x.bytes d.keyOff t.kb
      Eng.count64 qkey 0x10 1
      match ← t.lookup key (svh64 t.seed key) with
      | some (_, e) => t.chain (t.entries + 1) e
      | none => pure []
    let recs ←
      if x.poison then pure (d.outRec r noEntry 2 fillPay)
      else if found.isEmpty then pure (if d.kind = 1 || d.kind = 3 then d.outRec r noEntry 0 fillPay else [])
      else t.outRecs d r (if d.kind = 2 then found.take 1 else if d.kind = 3 then [] else found)
    if d.outCap < out + recs.length then (if r = 0 then Eng.fail 8 0x01 else Eng.more 0)
    else
      Eng.write (d.outVa + out) recs
      if x.poison then Eng.mark (d.outVa + out) recs.length
      if bit d.flags 1 then t.mark found
      Eng.row d.recBytes (recs.length / size) (b2n (x.poison || x.null)) 0 (b2n !found.isEmpty)
      return some (out + recs.length)) d.rows 0 0

/-- SCAN (R357). The state is the bytes of output written. -/
def joinScan : Eng Unit := do
  let d ← Eng.join
  let t ← Eng.table d.table true
  let _ ← rowLoop (fun k (out : Nat) => do
    let e := d.rowBase + k
    if t.entries ≤ e then
      Eng.row 1 0 0 0 0
      return some out
    else
      let b ← t.read (t.entry e) t.entryBytes
      let matched := bit (fld b 12 4) 0
      if (d.kind = 1 && matched) || (d.kind = 2 && !matched) then
        Eng.row 1 0 0 0 0
        return some out
      else
        let bs := toLe 4 e ++ slice b 12 4 ++ b.drop 16
        if d.outCap < out + bs.length then (if k = 0 then Eng.fail 8 0x01 else Eng.more 0)
        else
          Eng.write (d.outVa + out) bs
          Eng.row 1 1 0 0 0
          return some (out + bs.length)) d.inLen 0 0

/-- Whether an address lies in a join store. -/
def Dev.inJoinStore (d : Dev) (va : Nat) : Bool :=
  match d.physOf va with
  | some p => joinBase 0 ≤ p && p < joinBase 4
  | none => false

/-- PARTITION (R358, R359, R361). -/
def joinPartition : Eng Unit := do
  let d ← Eng.join
  let parts := 2 ^ d.radix + 1
  Eng.need (d.keyOff + d.keyBytes ≤ d.recBytes && parts * d.partCap * d.recBytes ≤ d.outCap)
  Eng.reach d.agg (4 * parts) true true
  let w ← Eng.w
  Eng.need ((pieces d.agg (4 * parts)).all fun x => w.dev.inJoinStore x.1)
  let _ ← rowLoop (fun r (_ : Unit) => do
    let x ← d.rec' r
    if x.poison then
      Eng.row d.recBytes 0 1 0 0
      return some ()
    else
      let p := if x.null then 2 ^ d.radix else svh64 d.fill (slice x.bytes d.keyOff d.keyBytes) / 2 ^ (64 - d.radix)
      let c ← Eng.num (d.agg + 4 * p) 4
      if d.partCap ≤ c then Eng.more 16
      else
        Eng.write (d.outVa + (p * d.partCap + c) * d.recBytes) x.bytes
        Eng.store (d.agg + 4 * p) (toLe 4 (c + 1))
        Eng.row d.recBytes 1 (b2n x.null) 0 0
        return some ()) d.rows 0 ()

/-- The aggregates of a row applied to the payload of an entry (R360); HLL updates its sketch in memory (R364). -/
def applyAggs (qkey e : Nat) (created : Bool) (rec' : List Byte) : List AggFn → List Byte → Eng (List Byte)
  | [], p => pure p
  | f :: fs, p => do
    let (p, sat) := f.apply created rec' p
    if sat then Eng.count qkey 0x24 1
    if f.func = 0x0A then
      let (j, rho) := hllSlot (slice rec' f.inOff f.inBytes)
      let a := f.sketch + 16384 * e + j
      let old ← Eng.num a 1
      if old < rho then Eng.store a (toLe 1 rho)
    applyAggs qkey e created rec' fs p

/-- AGG (R360 to R364). -/
def joinAgg (qkey : Nat) : Eng Unit := do
  let d ← Eng.join
  let t ← Eng.table d.table true
  if t.mode != 0 then Eng.fail 4 0x11
  let list := groupsOf 16 d.nagg (← Eng.read d.agg (16 * d.nagg))
  let fns := list.map parseAgg
  Eng.need (d.keyOff + t.kb ≤ d.recBytes && list.all fun b => (parseAgg b).ok b d.recBytes t.pb)
  let _ ← rowLoop (fun r (t : Tbl) => do
    let x ← d.rec' r
    if x.poison || x.null then t.skip d x
    else
      let key := slice x.bytes d.keyOff t.kb
      let (res, t') ← t.insert qkey key (fns.foldl (fun p f => f.init p) (zeros t.pb))
      let update := fun (e : Nat) (created : Bool) (t : Tbl) => do
        let a := t.entry e + 16 + t.keyPad
        let p ← t.read a t.pb
        Eng.store a (← applyAggs qkey e created x.bytes fns p)
        t.save
        Eng.row d.recBytes 1 0 (b2n created) (b2n !created)
        return some t
      match res with
      | .full => Eng.tableFull r
      | .present e => update e false { t' with dups := t.dups }
      | .created e _ => update e true t') d.rows 0 t

/-- The sum of 2^-reg over registers, in FP64 in their order (DEDUCED, log entry 60). -/
def hllSum (regs : List Byte) : FV := regs.foldl (fun z r => fadd z ((fp64.round .rne true false false false (pow2 (-(r.toNat : Int)))).1)) (.num false 0)

/-- The estimate of a sketch (R365), in FP64. The logarithm's last place is left open (DESIGN CHOICE, log entry 9). -/
def hllEstimate (regs : List Byte) : Nat :=
  let m : FV := fint 16384
  let lit := fun (neg : Bool) (q : Rat) => (fp64.round .rne true false false neg q).1
  let alpha := fdiv (lit false (7213 / 10000)) (fadd (fint 1) (fdiv (lit false (1079 / 1000)) m))
  let z := hllSum regs
  let v := regs.countP (· = 0)
  let e := fdiv (fmul (fmul alpha m) m) z
  let e :=
    if !(fmul (lit false (5 / 2)) m).lt e && 0 < v then
      let q := fdiv m (fint v)
      let l := if q.val = 1 then .num false 0 else (fp64.within1 false false 0x365 v false (lnApprox q.val)).1
      fmul m l
    else e
  fp64.encode e

/-- HLL_EST (R365). -/
def joinHllEst : Eng Unit := do
  let d ← Eng.join
  if d.outCap < 8 && 0 < d.inLen then Eng.fail 8 0x01
  let _ ← rowLoop (fun k (_ : Unit) => do
    if d.outCap < 8 * k + 8 then Eng.more 0
    else
      let regs ← Eng.read (d.agg + 16384 * (d.rowBase + k)) 16384
      let bad ← Eng.poison (d.agg + 16384 * (d.rowBase + k)) 16384
      Eng.write (d.outVa + 8 * k) (toLe 8 (hllEstimate regs))
      if bad then Eng.mark (d.outVa + 8 * k) 8
      Eng.row 1 1 0 0 0
      return some ()) d.inLen 0 ()

/-- CLEAR (R351). -/
def execClear (die eng : Nat) (s : State) : Out := runT s fun w => w.engineOp die 2 eng 0x20 fun _ => joinClear

/-- BUILD (R353). -/
def execBuild (die eng : Nat) (s : State) : Out := runT s fun w => w.engineOp die 2 eng 0x21 joinBuild

/-- PROBE (R355). -/
def execProbe (die eng : Nat) (s : State) : Out := runT s fun w => w.engineOp die 2 eng 0x22 joinProbe

/-- AGG (R360). -/
def execAgg (die eng : Nat) (s : State) : Out := runT s fun w => w.engineOp die 2 eng 0x23 joinAgg

/-- SCAN (R357). -/
def execScan (die eng : Nat) (s : State) : Out := runT s fun w => w.engineOp die 2 eng 0x24 fun _ => joinScan

/-- PARTITION (R358). -/
def execPartition (die eng : Nat) (s : State) : Out := runT s fun w => w.engineOp die 2 eng 0x25 fun _ => joinPartition

/-- HLL_EST (R365). -/
def execHllEst (die eng : Nat) (s : State) : Out := runT s fun w => w.engineOp die 2 eng 0x26 fun _ => joinHllEst

end Sys2Proof.Machine
end

