-- ==== Sys2Proof/Machine/Order.lean ====
section
/-! DEFINITION. Key kinds (Table 11.1, R396) and the order of entries (R395 to R398). -/

namespace Sys2Proof.Machine

/-- A key as the device orders it: `kind` 0 unsigned, 1 two's complement, 2 floating-point, of w bytes; none for NaN. -0 reads as +0. -/
def keyOrd (kind w v : Nat) : Option Int :=
  let n := 8 * w
  let v := v % 2 ^ n
  if kind = 0 then some (v : Nat)
  else if kind = 1 then some (sext n v)
  else
    let m := v % 2 ^ (n - 1)
    let top := if n = 32 then 255 * 2 ^ 23 else 2047 * 2 ^ 52
    if top < m then none else some (if bit v (n - 1) then -(m : Int) else m)

/-- A floating-point key of -0 read as +0 (R372, R396). -/
def keyRead (kind w v : Nat) : Nat := if kind = 2 && v % 2 ^ (8 * w) = 2 ^ (8 * w - 1) then 0 else v % 2 ^ (8 * w)

/-- An entry of a list or sort (R395, R405): key pattern, index, carried bytes, whether it is valid. -/
structure Entry where
  key : Nat
  idx : Nat
  pay : Nat := 0
  valid : Bool
  deriving DecidableEq, Repr

/-- The rank of a key in a direction: lower comes first. -/
def rank (kind w : Nat) (maxDir : Bool) (v : Nat) : Int :=
  let k := (keyOrd kind w v).getD 0
  if maxDir then -k else k

/-- An entry read (R396): invalid with index 0xFFFF_FFFF, a NaN key or validity bit 0. -/
def mkEntry (kind w key idx pay : Nat) (valid : Bool) : Entry :=
  ⟨keyRead kind w key, idx, pay, valid && idx != 0xFFFFFFFF && (keyOrd kind w key).isSome⟩

/-- R395: x precedes y. -/
def precedes (kind w : Nat) (maxDir : Bool) (x y : Entry) : Bool :=
  if x.valid != y.valid then x.valid
  else if !x.valid then x.idx < y.idx
  else
    let a := rank kind w maxDir x.key
    let b := rank kind w maxDir y.key
    if a = b then x.idx < y.idx else a < b

/-- Two sorted lists merged by a strict order; of equals the one of the first list comes first. -/
def mergeBy {α : Type} (lt : α → α → Bool) : Nat → List α → List α → List α
  | 0, xs, ys => xs ++ ys
  | n + 1, xs, ys =>
    match xs, ys with
    | [], ys => ys
    | xs, [] => xs
    | x :: xt, y :: yt => if lt y x then y :: mergeBy lt n (x :: xt) yt else x :: mergeBy lt n xt (y :: yt)

/-- Adjacent lists merged in pairs. -/
def mergePairs {α : Type} (lt : α → α → Bool) : List (List α) → List (List α)
  | a :: b :: t => mergeBy lt (a.length + b.length) a b :: mergePairs lt t
  | l => l

/-- A stable sort by merging. -/
def msort {α : Type} (lt : α → α → Bool) (l : List α) : List α :=
  (iter (mergePairs lt) (Nat.log2 l.length + 1) (l.map fun x => [x])).flatten

/-- Entries in the order of R395. -/
def sortEntries (kind w : Nat) (maxDir : Bool) (l : List Entry) : List Entry := msort (precedes kind w maxDir) l

/-- Whether two keys are equal. -/
def sameKey (kind w : Nat) (x y : Nat) : Bool := keyOrd kind w x = keyOrd kind w y

/-- Entries without those whose index an earlier one has. -/
def dropDups : List Nat → List Entry → List Entry
  | _, [] => []
  | seen, e :: t => if seen.contains e.idx then dropDups seen t else e :: dropDups (e.idx :: seen) t

end Sys2Proof.Machine
end

