-- ==== Sys2Proof/Machine/Oma.lean ====
section
/-! DEFINITION. Ordered match arrays (R370 to R389). -/

namespace Sys2Proof.Machine

/-- Array a of a die (R370). -/
def Dev.oma (d : Dev) (die a : Nat) : Oma := Tab.getD d.omas (die * 2 + a) {}

/-- A change of an array. -/
def W.onOma (w : W) (die a : Nat) (f : Oma → Oma) : W :=
  w.onDev fun d => { d with omas := Tab.upd d.omas (die * 2 + a) {} f }

/-- Die and array of a queue of class OMA. -/
def omaOf (qkey : Nat) : Nat × Nat := (qkey / 64, qkey % 8 / 4)

/-- The array of a queue. -/
def Eng.oma (qkey : Nat) : Eng Oma := do return (← Eng.w).dev.oma (omaOf qkey).1 (omaOf qkey).2

/-- A change of the array of a queue. -/
def Eng.onOma (qkey : Nat) (f : Oma → Oma) : Eng Unit := Eng.onW fun w => w.onOma (omaOf qkey).1 (omaOf qkey).2 f

/-- The order of an entry's key. -/
def Oma.ord (a : Oma) (key : Nat) : Int := (keyOrd a.kind 8 key).getD 0

/-- The number of keys below x. -/
def Oma.below (a : Oma) (x : Int) : Nat := a.entries.countP fun e => a.ord e.1 < x

/-- The number of keys at or below x. -/
def Oma.upTo (a : Oma) (x : Int) : Nat := a.entries.countP fun e => a.ord e.1 ≤ x

/-- Bytes of a match set header (Table 11.2). -/
def setHeader (kind count : Nat) : List Byte := toLe 4 0x534D5653 ++ toLe 1 1 ++ toLe 1 kind ++ zeros 2 ++ toLe 4 count ++ zeros 52

/-- Search slots used by an item of the queue (R380). -/
def Eng.slots (qkey n : Nat) : Eng Unit := Eng.count64 qkey 0x20 n

/-- The entries of an image from entry k on, checked as they are read (R372, R377); `last` is the order of the one before. -/
def loadEntries (kind va : Nat) : Nat → Nat → Option Int → List (Nat × Nat) → Eng (List (Nat × Nat))
  | 0, _, _, acc => pure acc.reverse
  | n + 1, k, last, acc => do
    let a := va + 64 + 16 * k
    let b ← Eng.read a 16
    if ← Eng.poison a 16 then throw (.fail 0x0E 0x1B .all)
    let key := keyRead kind 8 (fld b 0 8)
    match keyOrd kind 8 key with
    | none => throw (.fail 4 0x1A .all)
    | some o =>
      match last with
      | some l => if o ≤ l then throw (.fail 0x0E 0x18 .all)
      | none => pure ()
      loadEntries kind va n (k + 1) (some o) ((key, fld b 8 4) :: acc)

/-- LOAD (R377): the array is emptied first, so that a LOAD that fails leaves COUNT 0. -/
def omaLoadWork (qkey : Nat) : Eng Unit := do
  let b ← Eng.desc
  let va := fld b 8 8
  let len := fld b 0x10 8
  Eng.need (commonOk b && len < 2 ^ 32 && zeroAt b 0x18 16 && zeroAt b 0x38 72 && va % 64 = 0)
  Eng.onOma qkey fun a => { a with entries := [], shift := false }
  if len < 64 then throw (.fail 4 0x1A .all)
  let h ← Eng.read va 64
  if ← Eng.poison va 64 then throw (.fail 0x0E 0x1B .all)
  let kind := fld h 5 1
  let n := fld h 8 4
  if fld h 0 4 != 0x534D5653 || fld h 4 1 != 1 || 2 < kind || 65536 < n || len != 64 + 16 * n then throw (.fail 4 0x1A .all)
  let es ← loadEntries kind va n 0 none []
  Eng.onOma qkey fun _ => { kind := kind, entries := es }
  Eng.onItem fun i => { i with inUsed := len, outDone := n }

/-- DUMP (R378). -/
def omaDumpWork (qkey : Nat) : Eng Unit := do
  let b ← Eng.desc
  let first := fld b 0x38 4
  let n := fld b 0x3C 4
  Eng.need (commonOk b && zeroAt b 8 16 && fld b 0x18 8 % 64 = 0 && 64 + 16 * n ≤ fld b 0x20 8 && zeroAt b 0x40 64)
  let a ← Eng.oma qkey
  let es := (a.entries.drop first).take n
  Eng.slots qkey (ceilDiv es.length 16)
  Eng.write (fld b 0x18 8) (setHeader a.kind es.length ++ es.flatMap fun e => toLe 8 e.1 ++ toLe 4 e.2 ++ zeros 4)
  Eng.onItem fun i => { i with outDone := es.length }

/-- An update record applied to an array (R379): the array, whether the key was found, the entries that shift; none where it would
insert into a full array. -/
def Oma.update (a : Oma) (key val uop : Nat) : Option (Oma × Bool × Nat) :=
  let key := keyRead a.kind 8 key
  match keyOrd a.kind 8 key with
  | none => some (a, false, 0)
  | some x =>
    let p := a.below x
    let found := (a.entries[p]?.map fun e => decide (a.ord e.1 = x)).getD false
    if found then
      if uop = 1 then some ({ a with entries := listSet a.entries p fun e => (e.1, val) }, true, 0)
      else if uop = 2 then some ({ a with entries := a.entries.eraseIdx p }, true, a.entries.length - 1 - p)
      else some (a, true, 0)
    else if uop = 2 then some (a, false, 0)
    else if 65536 ≤ a.entries.length then none
    else some ({ a with entries := a.entries.insertIdx p (key, val) }, false, a.entries.length - p)

/-- The records of an UPDATE item from record r on (R379 to R383); it waits where a shift is under way. -/
def updateRecs (qkey va total : Nat) : Nat → Nat → Eng Unit
  | 0, _ => pure ()
  | n + 1, r => do
    let a ← Eng.oma qkey
    if a.shift then Eng.onItem fun i => { i with st := 5 }
    else
      let b ← Eng.read (va + 16 * r) 16
      let one := fun (i : Item) => { i with pos := r + 1, inUsed := i.inUsed + 16 }
      if ← Eng.poison (va + 16 * r) 16 then
        Eng.onItem fun i => { one i with rejected := i.rejected + 1 }
        updateRecs qkey va total n (r + 1)
      else
        Eng.slots qkey 1
        match a.update (fld b 0 8) (fld b 8 4) (fld b 12 1) with
        | none =>
          if r = 0 then Eng.fail 8 0x19 else Eng.onItem fun i => { i with flags := Nat.lor i.flags 9 }
        | some (a', found, m) =>
          Eng.onOma qkey fun _ => { a' with shift := 0 < m }
          Eng.count qkey 0x28 1
          if 0 < n then Eng.count qkey 0x2C (ceilDiv m 64)
          Eng.onItem fun i =>
            { one i with outDone := i.outDone + 1, check := i.check + b2n found, checkExp := i.checkExp + b2n !found }
          updateRecs qkey va total n (r + 1)

/-- UPDATE, from the record that the item has reached (R379 to R383). -/
def omaUpdateWork (qkey : Nat) : Eng Unit := do
  let b ← Eng.desc
  let va := fld b 8 8
  let len := fld b 0x10 8
  Eng.need (commonOk b && len < 2 ^ 32 && len % 16 = 0 && zeroAt b 0x18 16 && zeroAt b 0x38 72)
  let n := len / 16
  let r := (← get).it.pos
  if r = 0 then
    let bs ← Eng.read va len
    let w ← Eng.w
    Eng.need ((List.range n).all fun k =>
      let u := fld bs (16 * k + 12) 1
      (1 ≤ u && u ≤ 3) || w.poisonVa (va + 16 * k) 16)
  updateRecs qkey va n (n - r) r

/-- Fields of a LOOKUP (Table 11.5). -/
structure LookupDesc where
  posVa : Nat
  validVa : Nat
  ovalidVa : Nat
  miss : Nat
  lkind : Nat
  elem : Nat
  group : Nat
  tol : Nat
  nanVal : Nat

/-- The fields of a descriptor. -/
def parseLookup (b : List Byte) : LookupDesc :=
  ⟨fld b 0x38 8, fld b 0x40 8, fld b 0x48 8, fld b 0x50 4, fld b 0x54 1, fld b 0x55 1, fld b 0x56 1, fld b 0x58 8, fld b 0x60 4⟩

/-- Whether a key column's type fits an array's key kind (Table 11.5). -/
def lookupElemOk (kind elem : Nat) : Bool := if kind = 2 then wideFloat elem else (0x10 ≤ elem && elem ≤ 0x17) || elem = 0x40

/-- A search key's place in the order of an array; none for NaN (R372). -/
def searchKey (kind elem v : Nat) : Option Int :=
  if kind = 2 then
    match fmtOfAny elem with
    | some f => keyOrd 2 8 (fp64.encode (f.decode v))
    | none => none
  else some (intVal (elemBits elem) (intSigned elem) v)

/-- The result of a row (Table 11.6): value and position, or a miss. -/
def Oma.find (a : Oma) (d : LookupDesc) (x : Int) : Option (Nat × Nat) :=
  let entryAt := fun (p : Nat) => (a.entries[p]?).map fun e => (e.2, p)
  let floor := if a.upTo x = 0 then none else some (a.upTo x - 1)
  match d.lkind with
  | 0 => ((a.entries[a.below x]?).bind fun e => if a.ord e.1 = x then some (e.2, a.below x) else none)
  | 1 => floor.bind entryAt
  | 2 => entryAt (a.below x)
  | 3 => some (a.upTo x, a.upTo x)
  | 4 => some (a.below x, a.below x)
  | _ =>
    floor.bind fun p => (a.entries[p]?).bind fun e =>
      let k : Int := e.1
      let g : Int := (2 ^ (64 - d.group) : Nat)
      if k / g = x / g && x - k ≤ (d.tol : Int) then some (e.2, p) else none

/-- LOOKUP (R384 to R388). The state is the validity byte in hand. -/
def omaLookupWork (qkey : Nat) : Eng Unit := do
  let b ← Eng.desc
  let d := parseLookup b
  let a ← Eng.oma qkey
  let va := fld b 8 8
  let len := fld b 0x10 8
  let outVa := fld b 0x18 8
  let w := elemBytes d.elem
  let bucket := d.lkind = 3 || d.lkind = 4
  Eng.need (commonOk b && len < 2 ^ 32 && d.lkind ≤ 5)
  if d.lkind = 5 && a.kind != 0 then Eng.fail 4 0x1A
  Eng.need (lookupElemOk a.kind d.elem && len % w = 0 && 4 * (len / w) ≤ fld b 0x20 8 && d.posVa % 64 = 0 && d.ovalidVa % 64 = 0 &&
    (if d.lkind = 5 then d.group ≤ 63 else d.group = 0 && d.tol = 0) && (bucket || d.nanVal = 0) && zeroAt b 0x57 1 && zeroAt b 0x64 28)
  let _ ← rowLoop (fun r (byte : Nat) => do
    let x ← Eng.num (va + r * w) w
    let poison ← Eng.poison (va + r * w) w
    let null ← if d.validVa = 0 then pure false else do pure !(bit (← Eng.num (d.validVa + r / 8) 1) (r % 8))
    Eng.slots qkey 1
    let key := searchKey a.kind d.elem x
    let res := if poison || null then none else key.bind (a.find d)
    let miss := if bucket && !null && !poison && key.isNone then d.nanVal else d.miss
    Eng.write (outVa + 4 * r) (toLe 4 ((res.map Prod.fst).getD miss))
    if poison then Eng.mark (outVa + 4 * r) 4
    if d.posVa != 0 then
      Eng.write (d.posVa + 4 * r) (toLe 4 ((res.map Prod.snd).getD noEntry))
      if poison then Eng.mark (d.posVa + 4 * r) 4
    let byte := (if r % 8 = 0 then 0 else byte) + b2n res.isSome * 2 ^ (r % 8)
    if d.ovalidVa != 0 then
      Eng.write (d.ovalidVa + r / 8) (toLe 1 byte)
      if poison then Eng.mark (d.ovalidVa + r / 8) 1
    Eng.row w 1 (b2n (null || poison)) (b2n res.isSome) (b2n (!null && res.isNone))
    return some byte) (len / w) 0 0

/-- RANGE (R387, R388). -/
def omaRangeWork (qkey : Nat) : Eng Unit := do
  let b ← Eng.desc
  let a ← Eng.oma qkey
  let va := fld b 8 8
  let len := fld b 0x10 8
  Eng.need (commonOk b && len < 2 ^ 32 && len % 16 = 0 && zeroAt b 0x38 72)
  let _ ← rowLoop (fun r (_ : Unit) => do
    if fld b 0x20 8 < 8 * r + 8 then (if r = 0 then Eng.fail 8 0x01 else Eng.more 0)
    else
      let x ← Eng.read (va + 16 * r) 16
      let poison ← Eng.poison (va + 16 * r) 16
      Eng.slots qkey 2
      let lo := keyOrd a.kind 8 (fld x 0 8)
      let hi := keyOrd a.kind 8 (fld x 8 8)
      let first := (lo.map a.below).getD a.entries.length
      let n := match lo, hi with
        | some l, some h => if h < l then 0 else a.upTo h - a.below l
        | _, _ => 0
      let out := fld b 0x18 8 + 8 * r
      Eng.write out (if poison then toLe 8 (2 ^ 64 - 1) else toLe 4 first ++ toLe 4 n)
      if poison then Eng.mark out 8
      Eng.row 16 1 (b2n poison) 0 0
      return some ()) (len / 16) 0 ()

/-- Whether a LOAD of an array is parked: nothing else of the array starts (R377). -/
def Dev.loadParked (d : Dev) (die arr : Nat) : Bool := (d.engItems die 3 arr).any fun x => x.2.st = 0 && fld x.2.desc 0 1 = 0x30

/-- An operation of an array (R375, R377, R382); `side`: one that may run while an UPDATE waits on a shift; `alone`: one that starts
only when every other item has completed. -/
def W.omaOp (w : W) (die arr op : Nat) (side alone : Bool) (work : Nat → Eng Unit) : W :=
  let items := if die < 4 && arr < 2 then w.dev.engItems die 3 arr else []
  let busy := items.filter fun x => x.2.st = 1 || x.2.st = 5
  let waiting := (busy.filter fun x => x.2.st = 5).map Prod.fst
  let keys := (engKeys die 3 arr).filter fun k => !waiting.contains k
  if die < 4 && arr < 2 && w.dev.dieRuns die && w.dev.mayTake die 3 arr && !w.dev.loadParked die arr &&
      (busy.isEmpty || (side && busy.length = waiting.length)) && (!alone || items.all fun x => x.2.st = 2) then
    w.takeOp keys arr op work
  else w

/-- LOAD (R377). -/
def execOmaLoad (die arr : Nat) (s : State) : Out := runT s fun w => w.omaOp die arr 0x30 false true omaLoadWork

/-- UPDATE (R379). -/
def execOmaUpdate (die arr : Nat) (s : State) : Out := runT s fun w => w.omaOp die arr 0x31 false false omaUpdateWork

/-- LOOKUP (R384). -/
def execLookup (die arr : Nat) (s : State) : Out := runT s fun w => w.omaOp die arr 0x32 true false omaLookupWork

/-- RANGE (R387). -/
def execRange (die arr : Nat) (s : State) : Out := runT s fun w => w.omaOp die arr 0x33 true false omaRangeWork

/-- DUMP (R378). -/
def execDump (die arr : Nat) (s : State) : Out := runT s fun w => w.omaOp die arr 0x34 true false omaDumpWork

/-- OMA_SHIFT_END (R381): the shift is over; an UPDATE that waited goes on. -/
def execOmaShiftEnd (die arr : Nat) (s : State) : Out := runT s fun w =>
  if die < 4 && arr < 2 && w.dev.dieRuns die && (w.dev.oma die arr).shift then
    let w := w.onOma die arr fun a => { a with shift := false }
    match (w.dev.engItems die 3 arr).find? fun x => x.2.st = 5 with
    | some (key, it) => w.runItem key it (omaUpdateWork key)
    | none => w
  else w

end Sys2Proof.Machine
end

