-- ==== Sys2Proof/Machine/Sort.lean ====
section
/-! DEFINITION. The sort engines (R404 to R411). -/

namespace Sys2Proof.Machine

/-- A SORT descriptor (Table 12.2). -/
structure SortDesc where
  raw : List Byte
  kind : Nat
  width : Nat
  maxDir : Bool
  gen : Bool
  dedup : Bool
  runLen : Nat
  nruns : Nat
  k : Nat
  fill : Nat
  rowBase : Nat
  listVa : Nat
  resVa : Nat

/-- The descriptor of 128 bytes. -/
def parseSort (b : List Byte) : SortDesc where
  raw := b
  kind := fld b 0x38 1
  width := fld b 0x39 1
  maxDir := fld b 0x3A 1 = 1
  gen := bit (fld b 0x3B 1) 0
  dedup := bit (fld b 0x3B 1) 1
  runLen := fld b 0x3C 2
  nruns := fld b 0x3E 2
  k := fld b 0x40 4
  fill := fld b 0x48 8
  rowBase := fld b 0x50 8
  listVa := fld b 0x58 8
  resVa := fld b 0x60 8

/-- Bytes of an entry (R405). -/
def SortDesc.size (d : SortDesc) : Nat := 2 * d.width

/-- Checks common to both operations (Table 12.2). -/
def SortDesc.ok (d : SortDesc) : Bool :=
  commonOk d.raw && fld d.raw 0x10 8 < 2 ^ 32 && d.kind ≤ 2 && (d.width = 4 || d.width = 8) && fld d.raw 0x3A 1 ≤ 1 && fld d.raw 0x3B 1 < 4 &&
    zeroAt d.raw 0x44 4 && zeroAt d.raw 0x68 24 && fld d.raw 0x18 8 % d.size = 0

/-- An entry of memory (R405). -/
def SortDesc.entry (d : SortDesc) (b : List Byte) (gen : Option Nat) : Entry :=
  mkEntry d.kind d.width (fld b 0 d.width) (gen.getD (fld b d.width 4)) (if d.width = 8 then fld b 12 4 else 0) true

/-- The bytes of an entry. -/
def SortDesc.bytes (d : SortDesc) (e : Entry) : List Byte :=
  toLe d.width e.key ++ toLe 4 e.idx ++ (if d.width = 8 then toLe 4 e.pay else [])

/-- n entries read, with whether each comes from a poisoned line. -/
def SortDesc.read (d : SortDesc) (va : Nat) (gen : Option Nat) : Nat → Nat → Eng (List (Entry × Bool))
  | 0, _ => pure []
  | n + 1, i => do
    let a := va + i * d.size
    let b ← Eng.read a d.size
    let p ← Eng.poison a d.size
    return (d.entry b (gen.map (· + i)), p) :: (← d.read va gen n (i + 1))

/-- A run-table entry (R405). -/
def runEntry (va count tie : Nat) : List Byte := toLe 8 va ++ toLe 4 count ++ toLe 4 tie

/-- SORT_RUN (R406, R410). -/
def sortRunWork (qkey : Nat) : Eng Unit := do
  let b ← Eng.desc
  let d := parseSort b
  let len := fld b 0x10 8
  let outVa := fld b 0x18 8
  Eng.need (d.ok && len % d.size = 0 && 1 ≤ d.runLen && d.runLen ≤ 1024 && d.nruns = 0 && d.k = 0 && d.fill = 0 && d.resVa = 0 &&
    !d.dedup && (d.gen || d.rowBase = 0) && (!d.gen || d.rowBase + len / d.size ≤ 0xFFFFFFFF))
  if fld b 0x20 8 < len then Eng.fail 8 0x01
  let n := len / d.size
  let _ ← rowLoop (fun r (_ : Unit) => do
    let m := min d.runLen (n - r * d.runLen)
    let es ← d.read (fld b 8 8) (if d.gen then some d.rowBase else none) m (r * d.runLen)
    let good := sortEntries d.kind d.width d.maxDir ((es.filter fun e => !e.2).map Prod.fst)
    let va := outVa + r * d.runLen * d.size
    Eng.write va (good.flatMap d.bytes)
    if d.listVa != 0 then Eng.write (d.listVa + 16 * r) (runEntry va good.length 0)
    Eng.count64 qkey 0x10 m
    Eng.row (m * d.size) good.length (m - good.length) (good.countP fun e => e.valid) 0
    return some ()) (ceilDiv n d.runLen) 0 ()

/-- A run as a MERGE reads it: its valid order up to the first entry out of order, whether there is one, and its TIE_EXCLUDED. -/
structure InRun where
  entries : List Entry
  broken : Bool
  tie : Nat
  dropped : Nat

/-- The entries of a run that stand in order. -/
def orderedPart (d : SortDesc) : List Entry → List Entry
  | x :: y :: t => if precedes d.kind d.width d.maxDir y x then [x] else x :: orderedPart d (y :: t)
  | l => l

/-- The input runs of a run table (R407). -/
def SortDesc.runs (d : SortDesc) : List (List Byte) → Eng (List InRun)
  | [] => pure []
  | b :: t => do
    let es ← d.read (fld b 0 8) none (fld b 8 4) 0
    let good := (es.filter fun e => !e.2).map Prod.fst
    let part := orderedPart d good
    return ⟨part, part.length < good.length, fld b 0xC 4, es.length - good.length⟩ :: (← d.runs t)

/-- Entries with a mark on the last one of a run that is broken off. -/
def InRun.marked (r : InRun) : List (Entry × Bool) := r.entries.mapIdx fun i e => (e, r.broken && i + 1 = r.entries.length)

/-- Entries up to and with the first marked one, and whether there is one. -/
def untilMark : List (Entry × Bool) → List Entry × Bool
  | [] => ([], false)
  | (e, m) :: t =>
    if m then ([e], true)
    else
      let (l, b) := untilMark t
      (e :: l, b)

/-- MERGE (R407 to R410). The whole of every run is consumed (DEDUCED, log entry 61). -/
def mergeWork (qkey : Nat) : Eng Unit := do
  let b ← Eng.desc
  let d := parseSort b
  let outVa := fld b 0x18 8
  Eng.need (d.ok && zeroAt b 8 16 && d.runLen = 0 && 1 ≤ d.nruns && d.nruns ≤ 64 && d.k ≤ 65536 && !d.gen && d.rowBase = 0 &&
    (!d.dedup || 1 ≤ d.k))
  let list := groupsOf 16 d.nruns (← Eng.read d.listVa (16 * d.nruns))
  Eng.need (list.all fun e => fld e 0 8 % d.size = 0)
  let total := (list.map fun e => fld e 8 4).sum
  if fld b 0x20 8 < (if d.k = 0 then total else d.k) * d.size then Eng.fail 8 0x01
  let runs ← d.runs list
  let poisoned := (runs.map fun r => r.dropped).sum
  let merged := msort (fun (x y : Entry × Bool) => precedes d.kind d.width d.maxDir x.1 y.1) (runs.flatMap InRun.marked)
  let (taken, broken) := untilMark merged
  let invalid := if d.k = 0 then 0 else taken.countP fun e => !e.valid
  let live := if d.k = 0 then taken else taken.filter fun e => e.valid
  let kept := if d.dedup then dropDups [] live else live
  let dups := live.length - kept.length
  let front := if d.k = 0 then kept else kept.take d.k
  let count := front.countP fun e => e.valid
  let lastKey := (front.getLast?.map fun e => e.key).getD 0
  let same := fun (e : Entry) => e.valid && sameKey d.kind d.width e.key lastKey
  let tie :=
    if d.k = 0 || count < d.k then 0
    else (kept.drop d.k).countP same + ((runs.filter fun r => (r.entries.getLast?.map same).getD false).map fun r => r.tie).sum
  let sentinels := if d.k = 0 || broken then [] else List.replicate (d.k - front.length) (⟨d.fill, noEntry, 0, false⟩ : Entry)
  let out := front ++ sentinels
  Eng.onItem fun i => { i with rejected := invalid + poisoned }
  Eng.write outVa (out.flatMap d.bytes)
  if broken then throw (.fail 0x0E 0x18 .poisoned)
  if d.resVa != 0 then Eng.write d.resVa (runEntry outVa (if d.k = 0 then out.length else count) tie)
  Eng.count64 qkey 0x10 total
  Eng.count qkey 0x0C dups
  Eng.onItem fun i =>
    { i with inUsed := total * d.size, outDone := out.length, check := count + tie % 2 ^ 32 * 2 ^ 32, checkExp := dups }

/-- SORT_RUN (R406). -/
def execSortRun (die eng : Nat) (s : State) : Out := runT s fun w => w.engineOp die 4 eng 0x40 sortRunWork

/-- MERGE (R407). -/
def execMerge (die eng : Nat) (s : State) : Out := runT s fun w => w.engineOp die 4 eng 0x41 mergeWork

end Sys2Proof.Machine
end

