-- ==== Sys2Proof/Machine/Emb.lean ====
section
/-! DEFINITION. The gather pipes, update distributors and row update units (R419 to R437). -/

namespace Sys2Proof.Machine

/-- The table that an EMB item names: live and ACTIVE, else BAD_DESC (R419). -/
def Eng.embTable : Eng EmbTable := do
  let h := fld (← Eng.desc) 0x38 4
  let d := (← Eng.w).dev
  match Tab.get d.tables (hIdx h) with
  | some t =>
    Eng.need (hKind h = 6 && t.gen = hGen h && d.hstate 6 (hIdx h) = 2)
    return parseTable t.desc
  | none => Eng.fail 4 0x02

/-- Index i of an item: its value, or none where its validity bit is 0 (R421). -/
def Eng.index (va w validVa i : Nat) : Eng (Option Nat) := do
  let v ← Eng.num (va + i * w) w
  if validVa = 0 then return some v
  let byte ← Eng.num (validVa + i / 8) 1
  return if bit byte (i % 8) then some v else none

/-- The n indices of an item. -/
def Eng.indices (va w validVa : Nat) : Nat → Nat → Eng (List (Option Nat))
  | 0, _ => pure []
  | n + 1, i => do
    let x ← Eng.index va w validVa i
    return x :: (← Eng.indices va w validVa n (i + 1))

/-- Width of an index type; none for another code. -/
def idxWidth (ty : Nat) : Option Nat := if ty = 0x15 then some 4 else if ty = 0x17 then some 8 else none

/-- The bytes of an output row from a weight section (R421): the section's own, or its elements converted. -/
def EmbTable.outRow (t : EmbTable) (outTy : Nat) (sec : List Byte) : List Byte :=
  if outTy = t.store then sec.take (elemsBytes t.store t.dim)
  else (storeElems' outTy (readElems t.store t.dim sec))
where
  storeElems' (ty : Nat) (xs : List FV) : List Byte := xs.flatMap fun x => toLe (elemBytes ty) (convElem 0x01 ty .rne false false x).1

/-- The fill value of an output row (R422, Table 5.6). -/
def EmbTable.fillRow (t : EmbTable) (outTy : Nat) : List Byte :=
  if outTy = 0x0B then
    (List.range (t.dim / 32)).flatMap fun _ => toLe 1 t.fill ++ List.replicate 32 (BitVec.ofNat 8 (t.fill / 256))
  else (List.range t.dim).flatMap fun _ => toLe (elemBytes outTy) t.fill

/-- A counter of an EMB sub-block raised. -/
def Eng.embCount (die off n : Nat) : Eng Unit := Eng.onW fun w => w.engCount (engBase die 5 + off) n

/-- One output row of GATHER, at position p; answers the validity bit (R421, R422). -/
def gatherRow (t : EmbTable) (die outTy va : Nat) (x : Option Nat) : Eng Bool := do
  match x with
  | some r =>
    if r < t.rows then
      let a := (← Eng.w).dev.rowVa t r
      let n := elemsBytes t.store t.dim
      let sec ← Eng.read a n
      let bad ← Eng.poison a n
      let row := t.outRow outTy sec
      Eng.write va row
      Eng.onW fun w => w.engCount64 (engBase die 5 + 0x10) 1
      if bad then
        Eng.mark va row.length
        Eng.onItem fun i => { i with rejected := i.rejected + 1 }
      return !bad
    else
      Eng.write va (t.fillRow outTy)
      return false
  | none =>
    Eng.write va (t.fillRow outTy)
    return false

/-- GATHER (R421 to R424). -/
def gatherWork (qkey : Nat) : Eng Unit := do
  let b ← Eng.desc
  let die := qkey / 64
  let len := fld b 0x10 8
  let outTy := fld b 0x3E 1
  let stride := fld b 0x48 4
  let dedup := fld b 0x3D 1 = 1
  let uniqVa := fld b 0x50 8
  let invVa := fld b 0x58 8
  let ovalid := fld b 0x60 8
  Eng.need (qkey % 8 < 4 && commonOk b && len < 2 ^ 32)
  let t ← Eng.embTable
  let w := (idxWidth (fld b 0x3C 1)).getD 0
  let n := len / w
  Eng.need (w != 0 && len % w = 0 && fld b 0x3D 1 ≤ 1 && (outTy = 0x01 || outTy = 0x02 || outTy = t.store) && zeroAt b 0x3F 1 &&
    stride % 8 = 0 && elemsBytes outTy t.dim ≤ stride && zeroAt b 0x4C 4 && uniqVa % 64 = 0 && invVa % 64 = 0 && ovalid % 64 = 0 &&
    (dedup || (uniqVa = 0 && invVa = 0)) && (!dedup || n ≤ 65536) && zeroAt b 0x68 24)
  let xs ← Eng.indices (fld b 8 8) w (fld b 0x40 8) n 0
  let inRange := fun (x : Option Nat) => (x.map fun r => decide (r < t.rows)).getD false
  let uniq := if dedup then ((xs.filter inRange).filterMap id).eraseDups else []
  let rows := if dedup then uniq.map some else xs
  let outVa := fld b 0x18 8
  if fld b 0x20 8 < rows.length * stride then Eng.fail 8 0x01
  let oob := xs.countP fun x => x.isSome && !inRange x
  Eng.onItem fun i => { i with rejected := xs.countP Option.isNone }
  if dedup then
    Eng.write uniqVa (uniq.flatMap (toLe 8))
    Eng.write invVa (xs.flatMap fun x => toLe 4 (if inRange x then (uniq.findIdx? fun u => some u = x).getD noEntry else noEntry))
  let _ ← rowLoop (fun p (byte : Nat) => do
    let ok ← gatherRow t die outTy (outVa + p * stride) (rows.getD p none)
    let byte := (if p % 8 = 0 then 0 else byte) + b2n ok * 2 ^ (p % 8)
    if ovalid != 0 then Eng.write (ovalid + p / 8) (toLe 1 byte)
    Eng.onItem fun i => { i with outDone := i.outDone + 1 }
    return some byte) rows.length 0 0
  Eng.embCount die 0x20 oob
  Eng.onItem fun i => { i with inUsed := len, check := uniq.length, checkExp := oob }

/-- A gradient row: FP32 data, or none where it reads a poisoned line. -/
def gradRow (dim ty va : Nat) : Eng (Option (List FV)) := do
  let bs ← Eng.read va (dim * elemBytes ty)
  if ← Eng.poison va (dim * elemBytes ty) then return none
  return some (readElems ty dim bs)

/-- Whether every element of a gradient is finite (R427). -/
def finite (g : List FV) : Bool := g.all fun x => match x with
  | .num _ _ => true
  | _ => false

/-- The bag of each input position (R426): bags in order, position i in the bag whose offsets enclose it. -/
def bagOf (offs : List Nat) (i : Nat) : Nat := (offs.countP (· ≤ i)) - 1

/-- Whether offsets rise from 0 to n. -/
def offsetsOk (offs : List Nat) (n : Nat) : Bool :=
  offs.head? = some 0 && offs.getLast? = some n && (offs.zip (offs.drop 1)).all fun x => x.1 ≤ x.2

/-- The steps of an UPDATE without SUM_DUP: one for each valid index in range, in input order (R428). -/
def plainSteps (grad : Nat → Eng (Option (List FV))) (rows : Nat) : List (Option Nat × Nat) → Eng (List (Nat × Option (List FV)))
  | [] => pure []
  | (x, i) :: rest => do
    match x with
    | some r =>
      if r < rows then
        let g ← grad i
        return (r, g) :: (← plainSteps grad rows rest)
      else plainSteps grad rows rest
    | none => plainSteps grad rows rest

/-- Gradients of the same index summed in FP32 in input order, one step per distinct index (R428); a poisoned one is left out. -/
def summed (steps : List (Nat × Option (List FV))) : List (Nat × Option (List FV)) :=
  ((steps.map Prod.fst).eraseDups).map fun r =>
    (r, (steps.filterMap fun s => if s.1 = r then s.2 else none).foldl (fun acc g => match acc with
      | some a => some (List.zipWith gadd a g)
      | none => some g) none)

/-- Steps sent to the units of their rows (R428). -/
def W.sendSteps (w : W) (steps : List (Nat × RowStep)) : W :=
  steps.foldl (fun w x => w.onRuu x.1 fun r => { r with steps := r.steps ++ [x.2] }) w

/-- UPDATE (R426 to R428). -/
def embUpdateWork (qkey : Nat) : Eng Unit := do
  let b ← Eng.desc
  let die := qkey / 64
  let len := fld b 0x10 8
  let fl := fld b 0x3D 1
  let gty := fld b 0x3E 1
  let stride := fld b 0x48 4
  let bags := fld b 0x60 4
  let bagged := bit fl 1
  Eng.need (4 ≤ qkey % 8 && commonOk b && len < 2 ^ 32 && zeroAt b 0x18 16)
  let t ← Eng.embTable
  let w := (idxWidth (fld b 0x3C 1)).getD 0
  let n := len / w
  Eng.need (t.opt != 0 && w != 0 && len % w = 0 && fl < 8 && (gty = 0x01 || gty = 0x02) && zeroAt b 0x3F 1 && stride % 8 = 0 &&
    (if bagged then 1 ≤ bags && bags ≤ 65536 else bags = 0 && fld b 0x58 8 = 0 && !bit fl 2) && zeroAt b 0x64 28 &&
    (!bit fl 0 || n ≤ 65536))
  let offs ← if bagged then do pure (natFields (← Eng.read (fld b 0x58 8) (4 * (bags + 1))) 0 4 (bags + 1)) else pure []
  Eng.need (!bagged || offsetsOk offs n)
  let xs ← Eng.indices (fld b 8 8) w (fld b 0x50 8) n 0
  let gva := fld b 0x40 8
  let grad := fun (i : Nat) => do
    if !bagged then gradRow t.dim gty (gva + i * stride)
    else
      let k := bagOf offs i
      let g ← gradRow t.dim gty (gva + k * stride)
      let valid := ((xs.take (offs.getD (k + 1) 0)).drop (offs.getD k 0)).countP Option.isSome
      return if bit fl 2 then g.map fun l => l.map fun x => gdiv x (.num false (valid : Nat)) else g
  let plain ← plainSteps grad t.rows xs.zipIdx
  let steps := if bit fl 0 then summed plain else plain
  let good := steps.filterMap fun s => s.2.bind fun g => if finite g then some (s.1, g) else none
  let bad := steps.length - good.length
  let oob := xs.countP fun x => (x.map fun r => decide (t.rows ≤ r)).getD false
  Eng.embCount die 0x20 oob
  Eng.embCount die 0x24 bad
  let it := (← get).it
  let lr := fld b 0x4C 4
  let dev := (← Eng.w).dev
  Eng.onW fun w => w.sendSteps (good.map fun s =>
    (dev.rowStack (dev.rowVa t s.1), ⟨qkey, it.no, hIdx (fld b 0x38 4), s.1, lr, s.2.map fp32.encode⟩))
  Eng.onItem fun i =>
    { i with
      inUsed := len, rejected := xs.countP Option.isNone + bad, check := if bit fl 0 then steps.length else 0, checkExp := oob
      pos := good.length, st := if good.isEmpty then 1 else 4 }

/-- Lines of a source range that are poisoned, as offsets of 64 bytes. -/
def Eng.poisonLines (va n : Nat) : Eng (List Nat) := do
  let w ← Eng.w
  return ((List.range (ceilDiv n 64)).map (64 * ·)).filter fun k => w.poisonVa (va + k) (min 64 (n - k))

/-- Lines poisoned at offsets from an address. -/
def Eng.markLines (va : Nat) (ks : List Nat) : Eng Unit := Eng.onW fun w => ks.foldl (fun w k => w.poisonRange (va + k) 64) w

/-- Fields of Table 13.6 checked; `init`: ROW_INIT. -/
def embRangeOk (b : List Byte) (init : Bool) : Bool :=
  commonOk b && fld b 0x3C 1 ≤ (if init then 2 else 0) && zeroAt b 0x3D 3 && (init || zeroAt b 0x58 4) && zeroAt b 0x5C 36

/-- SNAPSHOT (R435). The state is the CRC's bytes, the poisoned rows. -/
def snapshotWork (qkey : Nat) : Eng Unit := do
  let b ← Eng.desc
  let first := fld b 0x40 8
  let n := fld b 0x48 8
  let outVa := fld b 0x18 8
  Eng.need (4 ≤ qkey % 8 && embRangeOk b false && zeroAt b 8 16)
  let t ← Eng.embTable
  Eng.need (first + n ≤ t.rows)
  if fld b 0x20 8 < 64 + n * t.stride then Eng.fail 8 0x01
  Eng.reach outVa 64 false true
  let (bytes, bad) ← rowLoop (fun k (acc : List (List Byte) × Nat) => do
    let a := (← Eng.w).dev.rowVa t (first + k)
    let bs ← Eng.read a t.stride
    let ks ← Eng.poisonLines a t.stride
    let out := outVa + 64 + k * t.stride
    Eng.write out bs
    Eng.markLines out ks
    Eng.onItem fun i => { i with outDone := i.outDone + 1, rejected := i.rejected + b2n !ks.isEmpty }
    return some (bs :: acc.1, acc.2 + b2n !ks.isEmpty)) n 0 ([], 0)
  let crc := crc32c bytes.reverse.flatten
  let now := (← Eng.w).dev.clk.now
  Eng.write outVa (toLe 4 0x50535653 ++ toLe 1 1 ++ toLe 1 t.store ++ toLe 1 t.opt ++ toLe 1 t.mom ++ toLe 2 t.dim ++ zeros 2
    ++ toLe 4 t.stride ++ toLe 8 first ++ toLe 8 n ++ toLe 8 (fld b 0x50 8) ++ toLe 4 bad ++ toLe 4 crc ++ toLe 8 now ++ zeros 8)
  Eng.onItem fun i => { i with check := crc }

/-- RESTORE (R436). The state is the bytes of the rows. -/
def restoreWork (qkey : Nat) : Eng Unit := do
  let b ← Eng.desc
  let va := fld b 8 8
  let len := fld b 0x10 8
  Eng.need (4 ≤ qkey % 8 && embRangeOk b false && zeroAt b 0x18 16 && zeroAt b 0x40 24 && 64 ≤ len && len < 2 ^ 32)
  let t ← Eng.embTable
  let h ← Eng.read va 64
  if fld h 0 4 != 0x50535653 || fld h 4 1 != 1 then Eng.fail 0x0E 0x04
  let first := fld h 0x10 8
  let n := fld h 0x18 8
  if fld h 5 1 != t.store || fld h 6 1 != t.opt || fld h 7 1 != t.mom || fld h 8 2 != t.dim || fld h 0xC 4 != t.stride ||
      t.rows < first + n then Eng.fail 4 0x20
  Eng.need (len = 64 + n * t.stride)
  let bytes ← rowLoop (fun k (acc : List (List Byte)) => do
    let src := va + 64 + k * t.stride
    let bs ← Eng.read src t.stride
    let ks ← Eng.poisonLines src t.stride
    let a := (← Eng.w).dev.rowVa t (first + k)
    Eng.write a bs
    Eng.markLines a ks
    Eng.onItem fun i => { i with inUsed := i.inUsed + t.stride, outDone := i.outDone + 1, rejected := i.rejected + b2n !ks.isEmpty }
    return some (bs :: acc)) n 0 []
  let crc := crc32c bytes.reverse.flatten
  Eng.onItem fun i => { i with inUsed := len, check := crc, checkExp := fld h 0x2C 4 }
  if crc != fld h 0x2C 4 then throw (.fail 0x0E 0x05 .poisoned)

/-- Uniform weights from a generator (R437). -/
def uniform (a : FV) : Nat → Nat → List FV × Nat
  | 0, g => ([], g)
  | n + 1, g =>
    let f : Rat := 2 * (g : Rat) / ((2 ^ 32 : Nat) : Rat) - 1
    let x : FV := match a with
      | .nan => .nan
      | .inf s => if f = 0 then .nan else .inf (s != decide (f < 0))
      | .num s q => .num (s != decide (f < 0)) (ratAbs f * q)
    let (xs, g) := uniform a n (genStep g)
    (x :: xs, g)

/-- ROW_INIT (R437). -/
def rowInitWork (qkey : Nat) : Eng Unit := do
  let b ← Eng.desc
  let mode := fld b 0x3C 1
  let first := fld b 0x40 8
  let n := fld b 0x48 8
  Eng.need (4 ≤ qkey % 8 && embRangeOk b true && zeroAt b 8 32 && zeroAt b 0x50 8)
  let t ← Eng.embTable
  Eng.need (first + n ≤ t.rows)
  let a := fp32.decode (fld b 0x58 4)
  let _ ← rowLoop (fun k (_ : Unit) => do
    let d := (← Eng.w).dev
    let va := d.rowVa t (first + k)
    let s := d.rowStack va
    let (xs, g) := if mode = 2 then uniform a t.dim (d.unitGen s) else (List.replicate t.dim (if mode = 0 then .num false 0 else a), 0)
    let (ws, _, sat) := storeElems t.store (.fixed .rne) xs 0
    Eng.write va (padTo t.rowSize ws)
    if mode = 2 then Eng.onW fun w => w.onRuu s fun r => { r with gen := some g }
    Eng.embCount (dieOfStack s) 0x28 sat
    Eng.onItem fun i => { i with outDone := i.outDone + 1 }
    return some ()) n 0 ()

/-- The item of a step. -/
def Dev.stepItem (d : Dev) (x : RowStep) : Option Item := (d.queue x.key).items.find? fun i => i.no = x.no && i.st = 4

/-- A step of an item done: the item has ended when it was the last (R428). -/
def W.stepDone (w : W) (x : RowStep) : W :=
  match w.dev.stepItem x with
  | some i => w.setItem x.key { i with pos := i.pos - 1, outDone := i.outDone + 1, st := if i.pos ≤ 1 then 1 else 4 }
  | none => w

/-- A step whose access fails (R306): its item ends FAULTED, and the steps it still has at the units are dropped. -/
def W.stepFailed (w : W) (x : RowStep) (va : Nat) : W :=
  let w := w.engFault x.key 0 va
  let w := w.onDev fun d =>
    { d with ruus := d.ruus.map fun (s, r) => (s, { r with steps := r.steps.filter fun y => y.no != x.no || y.key != x.key }) }
  match w.dev.stepItem x with
  | some i => w.setItem x.key { i with st := 1, status := 0x0B, reason := 0x0B }
  | none => w

/-- Page-ins begun for the steps of a unit whose rows are away (R433); the steps stay. -/
def W.fetchSteps (w : W) (xs : List RowStep) : W :=
  xs.foldl (fun w x => match Tab.get w.dev.tables x.table with
    | some t => match w.dev.access (w.dev.rowVa (parseTable t.desc) x.row) true true with
      | .away b k => w.pageIn b k
      | _ => w
    | none => w) w

/-- A step of a row update unit (R429 to R432): lock, read, compute, write back, release, as one. A row that
holds a poisoned line stays poisoned as a whole (R333). -/
def W.rowStep (w : W) (s : Nat) (x : RowStep) : W :=
  let w := w.onRuu s fun r => { r with steps := r.steps.erase x }
  match Tab.get w.dev.tables x.table with
  | some tb =>
    let t := parseTable tb.desc
    let va := w.dev.rowVa t x.row
    match w.dev.access va true true with
    | .ok p =>
      let row := t.apply x.lr (x.grad.map fp32.decode) (t.row (w.rdN p t.rowSize))
      let (bs, g, sat) := t.rowBytes row (w.dev.unitGen s)
      let base := engBase (dieOfStack s) 5
      let bad := (linesOf p t.rowSize).any w.poisoned
      let w := (w.put p bs).touch va
      let w := if bad then w.op (.mark p t.rowSize) else w
      let w := if t.sr then w.onRuu s fun r => { r with gen := some g } else w
      (((w.engCount64 (base + 0x18) 1).engCount (base + 0x40 + 4 * (s % 6)) 1).engCount (base + 0x28) sat).stepDone x
    | _ => w.stepFailed x va
  | none => w.stepFailed x 0

/-- Whether the row of a step is where the unit can reach it, or can never be. -/
def Dev.stepReady (d : Dev) (x : RowStep) : Bool :=
  match Tab.get d.tables x.table with
  | some t => match d.access (d.rowVa (parseTable t.desc) x.row) true true with
    | .away _ _ => false
    | _ => true
  | none => true

/-- GATHER (R421). -/
def execGather (die eng : Nat) (s : State) : Out := runT s fun w => w.engineOp die 5 eng 0x50 gatherWork

/-- UPDATE (R426). -/
def execEmbUpdate (die eng : Nat) (s : State) : Out := runT s fun w => w.engineOp die 5 eng 0x51 embUpdateWork

/-- SNAPSHOT (R435). -/
def execSnapshot (die eng : Nat) (s : State) : Out := runT s fun w => w.engineOp die 5 eng 0x52 snapshotWork

/-- RESTORE (R436). -/
def execRestore (die eng : Nat) (s : State) : Out := runT s fun w => w.engineOp die 5 eng 0x53 restoreWork

/-- ROW_INIT (R437). -/
def execRowInit (die eng : Nat) (s : State) : Out := runT s fun w => w.engineOp die 5 eng 0x54 rowInitWork

/-- ROW_UPDATE_STEP (R429): the unit of a stack applies the oldest step whose row it can reach; steps whose pages are away wait
without a lock (R433). -/
def execRowUpdateStep (stack : Nat) (s : State) : Out := runT s fun w =>
  if stack < 24 && w.dev.dieRuns (dieOfStack stack) then
    let steps := (Tab.getD w.dev.ruus stack {}).steps
    let w := w.fetchSteps steps
    match steps.find? w.dev.stepReady with
    | some x => w.rowStep stack x
    | none => w
  else w

end Sys2Proof.Machine
end

