-- ==== Sys2Proof/Machine/EngEnd.lean ====
section
/-! DEFINITION. What follows of a work item whatever its operation: a parked one resumes (R307), an ended one completes (R310). -/

namespace Sys2Proof.Machine

/-- The work of an operation of a class; none for an unknown one (Tables 9.2, 11.3, 13.3, R344, R404). -/
def engWork (cls op : Nat) : Option (Nat → Eng Unit) :=
  match cls, op with
  | 0, 0x01 => some fun _ => parseText false
  | 0, 0x02 => some fun _ => parseText true
  | 0, 0x03 => some fun _ => parsePages
  | 1, 0x10 => some fun _ => decodeItem false fun _ multi _ bs => gunzip multi bs
  | 1, 0x11 => some fun _ => encodeItem false fun level _ bs => (gzipOf level bs, crc32 bs)
  | 1, 0x12 => some fun _ => decodeItem false fun _ multi _ _ => unzlibItem multi
  | 1, 0x13 => some fun _ => encodeItem false fun level _ bs => (zlibOf level bs, adler32 bs)
  | 1, 0x14 => some fun _ => decodeItem true fun req multi dict bs => zframes multi req dict (bs.length + 1)
  | 1, 0x15 => some fun _ => encodeItem true fun level wl bs => (zstdOf level wl bs, xxh64 0 bs % 2 ^ 32)
  | 1, 0x16 => some fun _ => decodeItem false fun _ _ _ bs => unraw (bs.length + 1)
  | 1, 0x17 => some fun _ => encodeItem false fun level _ bs => (rawOf level (bs.length / 16777216 + 1) bs, crc32c bs)
  | 2, 0x20 => some fun _ => joinClear
  | 2, 0x21 => some joinBuild
  | 2, 0x22 => some joinProbe
  | 2, 0x23 => some joinAgg
  | 2, 0x24 => some fun _ => joinScan
  | 2, 0x25 => some fun _ => joinPartition
  | 2, 0x26 => some fun _ => joinHllEst
  | 3, 0x30 => some omaLoadWork
  | 3, 0x31 => some omaUpdateWork
  | 3, 0x32 => some omaLookupWork
  | 3, 0x33 => some omaRangeWork
  | 3, 0x34 => some omaDumpWork
  | 4, 0x40 => some sortRunWork
  | 4, 0x41 => some mergeWork
  | 5, 0x50 => some gatherWork
  | 5, 0x51 => some embUpdateWork
  | 5, 0x52 => some snapshotWork
  | 5, 0x53 => some restoreWork
  | 5, 0x54 => some rowInitWork
  | _, _ => none

/-- A parked item runs again from its beginning (DESIGN CHOICE, log entry 54), or its record is tried again. -/
def W.resumeItem (w : W) (key : Nat) (it : Item) : W :=
  if it.st = 3 then w.setItem key { it with st := 1 }
  else match engWork (key % 64 / 8) (fld it.desc 0 1) with
    | some work => w.runItem key it (work key)
    | none => w

/-- PARKED_ITEM_RESUME (R307): the lowest free engine of the class that can, resumes its oldest item whose page is present. -/
def execParkedItemResume (die : Nat) (cls : EngClass) (s : State) : Out := runT s fun w =>
  let c := classCode cls
  if die < 4 && w.dev.dieRuns die then
    match (List.range (engines c)).findSome? fun e => if w.dev.engBusy die c e then none else w.dev.resumable die c e with
    | some (key, it) => w.resumeItem key it
    | none => w
  else w

/-- A free engine that takes from a queue of a class: one that may take, with this queue its choice. -/
def W.takerOf (w : W) (die cls key : Nat) : Option Nat :=
  (List.range (engines cls)).find? fun e =>
    (engQueues cls e).contains (key % 8) && !w.dev.engBusy die cls e && w.dev.mayTake die cls e && !(cls = 3 && w.dev.loadParked die e) &&
      w.choose (engKeys die cls e) = some key

/-- A head entry that names no operation is taken and ends with BAD_DESC (Table 9.4); one that cannot be read ends with XLATE (R306). -/
def W.takeUnknown (w : W) (die cls key : Nat) : W :=
  match w.takerOf die cls key with
  | none => w
  | some e =>
    match w.head key with
    | .desc b =>
      if (engWork cls (fld b 0 1)).isSome then w
      else
        let (w, it) := w.takeItem key e b
        w.completeItem key { it with st := 1, status := 4, reason := 0x02 }
    | .bad va =>
      let (w, it) := w.takeItem key e (zeros 128)
      (w.engFault key 0 va).completeItem key { it with st := 1, status := 0x0B, reason := 0x0B }
    | .away b k => w.pageIn b k

/-- WORK_ITEM_COMPLETE (R310, R305): the oldest item of a queue that has ended completes; else a head entry of no operation is taken and
completes. -/
def execWorkItemComplete (die : Nat) (cls : EngClass) (queue : Nat) (s : State) : Out := runT s fun w =>
  let c := classCode cls
  let key := queueKey die c queue
  if die < 4 && queue < 8 && w.dev.dieRuns die then
    match (w.dev.queue key).items.find? fun i => i.st = 1 with
    | some i => w.completeItem key i
    | none => w.takeUnknown die c key
  else w

end Sys2Proof.Machine
end

