-- ==== Sys2Proof/Machine/Errors.lean ====
section
/-! DEFINITION. The error log's commands (R581 to R586), the hardware errors that no command brings (R561, R563, R569, R572, R574) and
the swatches (R659 to R661). -/

namespace Sys2Proof.Machine

/-- SEQ of the oldest record in the ring; the next SEQ where it is empty. -/
def Log.oldest (l : Log) : Nat := (l.recs.head?.map LogRec.seq).getD l.next

/-- The records from a SEQ at or above a severity, at most n (R584). -/
def Log.pick (l : Log) (start sev n : Nat) : List LogRec := (l.recs.filter fun r => start ≤ r.seq && sev ≤ r.sev).take n

/-- ERRLOG_READ (R584). -/
def errlogRead : OpSpec where
  op := 0x0A02
  targets := [0]
  set := .stat
  len := fun n => n = 16
  check := fun c _ => firstBad [(8, 1 ≤ c.f 8 1 && c.f 8 1 ≤ 62), (9, c.f 9 1 ≤ 3), (10, zeroAt c.ps 10 6)]
  body := fun c w =>
    let l := w.dev.log
    let rs := l.pick (c.f 0 8) (c.f 9 1) (c.f 8 1)
    w.ok c (toLe 8 l.oldest ++ toLe 8 l.next ++ toLe 2 rs.length ++ zeros 2 ++ toLe 4 l.lost ++ toLe 4 l.supp ++ zeros 4
      ++ rs.flatMap LogRec.bytes)

/-- The counters of a die that ERRLOG_CLEAR resets (R194, R235, R300, R586). -/
def Die.clearCounters (x : Die) : Die :=
  { x with
    schedTo := 0, syncStall := 0, oobRd := 0, oobWr := 0, halfRun := 0, overlap := 0, ovlMiss := 0, descFmt := 0, strBad := 0
    late := 0, halt := 0, boundLost := 0, jsCe := 0 }

/-- The registers of the engines that are no counters: the 64-bit totals wrap and are cleared with the rest (R338, R369). Every counter
of the device at 0 (R115, R159, R194, R235, R272, R300, R338, R369, R394, R413, R439, R474, R526, R560, R586, R650). -/
def W.clearCounters (w : W) : W :=
  w.onDev fun d =>
    { d with
      hub := { d.hub with sramCe := 0, ringRetry := 0 }
      eth := { d.eth with cmdDrop := 0, rxDrop := 0, raccErr := 0, fecCorr := 0, fecUncorr := 0 }
      ms := { d.ms with ceCnt := [], ueCnt := [], cxlPoison := [] }
      dies := d.dies.map fun (k, x) => (k, x.clearCounters)
      cores := d.cores.map fun (n, c) => (n, { c with ce := 0 })
      log := { d.log with lost := 0, supp := 0 }
      engCnt := []
      feedCnt := {}
      links := d.links.map fun (p, l) => (p, { l with fecCorr := 0, fecUncorr := 0, replays := 0, rxRefuse := 0, rxTiles := 0 })
      pwr := { d.pwr with droopCnt := 0, ilimCnt := 0, divCnt := 0 }
      fw := { d.fw with authFail := 0 } }

/-- ERRLOG_CLEAR (R586). -/
def errlogClear : OpSpec where
  op := 0x0A04
  targets := [0]
  set := .hub
  len := fun n => n = 0
  body := fun c w => w.clearCounters.ok c []

/-- ERRLOG_READ as a packet. -/
def execErrlogRead (ch : Nat) (p : Packet) (s : State) : Out := run s (hostCommand errlogRead ch p)

/-- ERRLOG_CLEAR as a packet. -/
def execErrlogClear (ch : Nat) (p : Packet) (s : State) : Out := run s (hostCommand errlogClear ch p)

/-- HUB_SRAM_UE (Table 18.1, R574): a HUB_UE record and FAULT; a second within 24 hours fails the hub. -/
def execHubSramUe (s : State) : Out :=
  runT s fun w =>
    if !w.dev.hubUp then w
    else
      let now := w.dev.clk.mono
      let again := (w.dev.hub.lastUe.map fun t => decide (now < t + dayNs)).getD false
      let seq := w.nextLogSeq
      let w := (w.logHub 0x0043 0 []).onHub fun h => { h with lastUe := some now }
      if again then w.declareFailed 0x03 4 else w.enterFault 0 seq

/-- Ring segments (R19). -/
def ringSegments : Nat := 5

/-- RING_CRC_FAILURE (R563): the transfer is replayed and counted; the sixteenth failure in succession retrains the segment; a third
retrain within 1 s fails it (DESIGN CHOICE, log entry 38). -/
def execRingCrcFailure (segment : Nat) (dir : Nat) (s : State) : Out :=
  runT s fun w =>
    if !w.dev.hubUp || ringSegments ≤ segment || 2 ≤ dir then w
    else
      let key := 2 * segment + dir
      let now := w.dev.clk.mono
      let (n, ts) := Tab.getD w.dev.hub.ring key (0, [])
      let w := w.onHub fun h => { h with ringRetry := BitVec.ofNat 32 (satAdd 32 h.ringRetry.toNat 1) }
      if n + 1 < 16 then w.onHub fun h => { h with ring := Tab.put h.ring key (n + 1, ts) }
      else
        let ts := now :: ts.filter fun t => now < t + 1000000000
        let w := w.onHub fun h => { h with ring := Tab.put h.ring key (0, ts) }
        if 3 ≤ ts.length then w.declareFailed 0x06 4 else w

/-- REGULATOR_FAULT (R572, R666): the fault of a rail is kept for the status ladder; that of a core rail fails its die. Rails 0 to 3
are the core rails, 4 VDD, 5 VDDQ, 6 VPP, 7 the SerDes, 8 the hub core, 9 the auxiliary and 10 the I/O rail (Table 21.3). -/
def execRegulatorFault (rail : Nat) (s : State) : Out :=
  runT s fun w =>
    if !w.dev.hubUp || 10 < rail then w
    else
      let w := w.onHub fun h => if h.regFault.contains rail then h else { h with regFault := h.regFault ++ [rail] }
      if rail < 4 then w.declareFailed 0x02 rail else w

/-- PHYSICAL_CORE_FAILURE (R269, R569). -/
def execPhysicalCoreFailure (die phys : Nat) (s : State) : Out :=
  runT s fun w =>
    if die < 4 && phys < 68 && w.dev.dieUp die && !bit (w.dev.die die).coreRetired phys then w.retireCore die phys 4 0 else w

/-- CORE_HANG (R569 d): only a core with a task in RUN can hang. -/
def execCoreHang (core : Nat) (s : State) : Out :=
  runT s fun w =>
    if core < 256 && w.dev.dieUp (core / 64) && (w.dev.core core).run.isSome && w.dev.physOfCore core < 68 then
      w.retireCore (core / 64) (w.dev.physOfCore core) 4 0
    else w

/-- Names of the swatches of Table 21.2. -/
def swatchName (b : Nat) : String :=
  if b < 8 then ["HUB_SRAM", "SEC", "ETH_INT", "ETH_EXT", "CXL", "STORE", "RING", "PWR"].getD b ""
  else ["CORES", "JOIN", "HBM", "ENGINES", "STRM", "YL_INT", "YL_EXT", "RAIL"].getD (b % 8) ""

/-- Names of the results of R661. -/
def swatchResultName (r : Nat) : String := ["PASS", "FAIL", "SKIPPED", "NOT_RUN", "NOT_NAMED"].getD r ""

/-- Whether a die holds what its CORES, JOIN and STRM swatches would destroy: a loaded graph's claim, a live SRAM buffer, a live stream
or a live SYNC object (R660). -/
def Dev.swatchHeld (d : Dev) (k : Nat) : Bool :=
  d.graphs.any (fun (_, g) => g.claims.any fun c => c.die = k)
    || d.bufs.any (fun (_, b) => (b.backing = 3 && b.core / 64 = k) || (b.backing = 4 && b.homeDie = k))
    || d.strms.any (fun (i, _) => i / 1024 = k) || d.syncs.any (fun (i, _) => syncDie i = k)

/-- Whether a mask names a swatch that R660 refuses. -/
def Dev.swatchConflict (d : Dev) (mask : Nat) : Bool :=
  (List.range 4).any fun k => (bit mask (8 + 8 * k) || bit mask (9 + 8 * k) || bit mask (12 + 8 * k)) && d.swatchHeld k

/-- A run of swatches begins (R660). -/
def W.beginSwatches (w : W) (mask : Nat) (console : Bool) : W :=
  w.onSvc fun v =>
    { v with
      swatchLeft := (List.range 40).filter fun b => bit mask b
      swatchMask := mask, swatch := [], swatchAt := w.dev.clk.now, swatchFrom := w.dev.clk.mono, swatchConsole := console }

/-- The end of a run (R660). -/
def W.endSwatches (w : W) : W := if w.dev.svc.swatchLeft.isEmpty then w.completeAll (fun p => p.wait = .swatch) 0 0 [] else w

/-- SWATCH_RUN (R660). -/
def swatchRun : OpSpec where
  op := 0x0A00
  targets := [0]
  set := .idle
  len := fun n => n = 8
  check := fun c _ => firstBad [(0, c.f 5 3 = 0)]
  conflict := fun c w => if w.dev.swatchConflict (c.f 0 8) then some 0 else none
  body := fun c w => ((w.pend c .swatch).beginSwatches (c.f 0 8) false).endSwatches

/-- The record of a swatch (R661): NOT_RUN where the run did not come to its end, NOT_NAMED where the mask leaves it out. -/
def Svc.record (v : Svc) (b : Nat) : Nat × Nat × Nat × Nat :=
  if !bit v.swatchMask b then (4, 0, 0, 0) else Tab.getD v.swatch b (3, 0, 0, 0)

/-- SWATCH_RESULT (R661). -/
def swatchResult : OpSpec where
  op := 0x0A01
  targets := [0]
  set := .stat
  len := fun n => n = 0
  body := fun c w =>
    let v := w.dev.svc
    w.ok c (toLe 8 v.swatchMask ++ toLe 8 v.swatchAt ++ (List.range 40).flatMap fun b =>
      let (r, u, x, ms) := v.record b
      toLe 1 b ++ toLe 1 r ++ toLe 2 u ++ toLe 4 x ++ toLe 4 ms ++ zeros 4)

/-- Whether a swatch that did not pass was skipped (R661): YL_EXT and ETH_EXT without an answer, CXL without an expander. -/
def Dev.swatchSkips (d : Dev) (b : Nat) (failing : List Nat) : Bool :=
  (b = 4 && d.ms.attached.isEmpty) || ((b = 3 || (8 ≤ b && b % 8 = 6)) && failing.isEmpty)

/-- The cores and slices that a swatch found failing, marked (R661): the next reset decides on them. -/
def W.markFailing (w : W) (b : Nat) (failing : List Nat) : W :=
  let k := b / 8 - 1
  if b < 8 then w
  else if b % 8 = 0 then
    let ps := failing.filter (· < 68)
    if ps.isEmpty then w
    else (w.onDie k fun x => { x with coreMarked := ps.foldl (fun m p => Nat.lor m (2 ^ p)) x.coreMarked }).saveSpareCore k
  else if b % 8 = 1 then
    let ss := failing.filter (· < 9)
    if ss.isEmpty then w else (w.onDie k fun x => { x with sliceMarked := (x.sliceMarked ++ ss).eraseDups }).saveSliceMap k
  else w

/-- SWATCH_DONE (R661): the swatch in hand ends with its result, and the next begins; `failing` holds the units that failed, none where
the far end did not answer. DETAIL of a failure is free (DESIGN CHOICE, log entry 39). -/
def execSwatchDone (block : Nat) (passed : Bool) (failing : List Nat) (s : State) : Out :=
  runT s fun w =>
    match w.dev.svc.swatchLeft with
    | [] => w
    | b :: rest =>
      if b != block then w
      else
        let now := w.dev.clk.mono
        let ms := (now - w.dev.svc.swatchFrom) / 1000000
        let r := if w.dev.swatchSkips b failing then 2 else if passed then 0 else 1
        let (x, w) := if r = 1 then w.free else (0, w)
        let unit := if r = 1 then failing.headD 0 % 65536 else 0
        let e := (r, unit, x % 2 ^ 32, ms % 2 ^ 32)
        let w := w.onSvc fun v => { v with swatchLeft := rest, swatch := Tab.put v.swatch b e, swatchFrom := now }
        let w := if r = 1 then w.markFailing b failing else w
        let w :=
          if w.dev.svc.swatchConsole then
            w.send (.console ("bit=" ++ dec b ++ " " ++ swatchName b ++ " " ++ swatchResultName r ++ " unit=" ++ dec unit ++ " detail="
              ++ hex32 e.2.2.1 ++ " ms=" ++ dec ms))
          else w
        w.endSwatches

/-- SWATCH_RUN as a packet. -/
def execSwatchRun (ch : Nat) (p : Packet) (s : State) : Out := run s (hostCommand swatchRun ch p)

/-- SWATCH_RESULT as a packet. -/
def execSwatchResult (ch : Nat) (p : Packet) (s : State) : Out := run s (hostCommand swatchResult ch p)

end Sys2Proof.Machine
end

