-- ==== Sys2Proof/Machine/Links.lean ====
section
/-! DEFINITION. The rows of Yarzan links, frequency groups, remapping and time over links: the commands of group 0x09 (R502 to R524)
and the flits and messages that arrive (R493 to R525, R686). -/

namespace Sys2Proof.Machine

/-- Entry p of LINK_CONFIG (Table 16.3): ROLE, PEER, PEER_LINK, SPARE_DIMS. -/
def Ctx.entry (c : Ctx) (p : Nat) : Nat × Nat × Nat × Nat :=
  (c.f (16 + 8 * p) 1, c.f (17 + 8 * p) 1, c.f (18 + 8 * p) 1, c.f (19 + 8 * p) 1)

/-- The fields of a LINK_CONFIG entry with their rules (R503, Table 16.3). -/
def linkEntryFields (c : Ctx) (p : Nat) : List (Nat × Bool) :=
  let (role, peer, peerLink, dims) := c.entry p
  let r := 1 ≤ role && role ≤ 3
  let size := c.f (3 + (role - 1)) 1
  let same := ((List.range (p + 1)).filter fun q => (c.entry q).1 = role).length
  let at' := 16 + 8 * p
  [(at', role ≤ 4 && (!r || same ≤ 10)), (at' + 1, if r then peer < size && peer != c.f (role - 1) 1 else peer = 0),
   (at' + 2, if r then peerLink < 32 else peerLink = 0), (at' + 3, if role = 4 then 1 ≤ dims && dims < 8 else dims = 0),
   (at' + 4, zeroAt c.ps (at' + 4) 4)]

/-- Whether every line neighbour's position of a dimension is named by a link (R503). -/
def lineNamed (c : Ctx) (dim : Nat) : Bool :=
  (List.range (c.f (3 + dim) 1)).all fun n =>
    n = c.f dim 1 || (List.range 32).any fun p => (c.entry p).1 = dim + 1 && (c.entry p).2.1 = n

/-- LINK_CONFIG (R502, R503). -/
def linkConfig : OpSpec where
  op := 0x0901
  targets := [0]
  set := .idle
  len := fun n => n = 272
  check := fun c _ => firstBad
    (((List.range 3).map fun k => (k, decide (c.f k 1 < c.f (3 + k) 1)))
      ++ ((List.range 3).map fun k => (3 + k, decide (c.f (3 + k) 1 ≤ 11) && lineNamed c k))
      ++ [(6, zeroAt c.ps 6 10)] ++ (List.range 32).flatMap (linkEntryFields c))
  body := fun c w =>
    let moved := w.dev.sys.coord != some (c.f 0 1, c.f 1 1, c.f 2 1)
    let w := w.onSys fun s => { s with coord := some (c.f 0 1, c.f 1 1, c.f 2 1), size := (c.f 3 1, c.f 4 1, c.f 5 1) }
    let changed := (List.range 32).filter fun p =>
      let l := w.dev.link p
      c.entry p != (l.role, l.peer, l.peerLink, l.spareDims) || (moved && 1 ≤ l.role && l.role ≤ 3)
    let w := changed.foldl (fun w p =>
      let (role, peer, peerLink, dims) := c.entry p
      let r := 1 ≤ role && role ≤ 3
      (w.onLLink p fun _ => {}).onLink p fun l =>
        { l with
          role := role, peer := peer, peerLink := peerLink, spareDims := dims, upSince := none
          state := if r then 1 else if role = 4 then 7 else 0, logical := if r then p else 0xFF
          rxLanes := if r then lanesLeft l.rxRetired else 0, txLanes := if r then lanesLeft l.txRetired else 0
          lastFlit := w.dev.clk.mono }) w
    let w := (changed.filter w.dev.isRole).foldl W.hello w
    (w.pend c .linkConfig).settleLinks

/-- SPARE_LANE of a link (R505): the spare lane retired, in use, or idle. -/
def Link.spareLane (l : Link) : Nat :=
  if bit l.rxRetired 4 || bit l.txRetired 4 then 2 else if l.rxRetired != 0 || l.txRetired != 0 then 1 else 0

/-- Data lanes in use, as reported (R505, Table 16.7): none unless the link works. -/
def Link.shown (l : Link) : Nat := if l.works then l.lanes else 0

/-- LINK_STATUS (R505). -/
def linkStatus : OpSpec where
  op := 0x0900
  targets := [0]
  set := .stat
  len := fun n => n = 0
  body := fun c w =>
    let xyz := w.dev.coord
    let ls := (List.range 32).map w.dev.link
    w.ok c (toLe 1 xyz.1 ++ toLe 1 xyz.2.1 ++ toLe 1 xyz.2.2 ++ toLe 1 (ls.filter fun l => l.state = 7).length ++ zeros 12
      ++ ls.flatMap fun l =>
        toLe 1 l.state ++ toLe 1 l.shown ++ toLe 1 l.spareLane ++ toLe 1 l.role ++ toLe 1 l.logical ++ toLe 1 l.peer ++ zeros 2
          ++ toLe 4 l.fecCorr ++ toLe 4 l.replays)

/-- The spare that LINK_SPARE_SWAP takes (R506): the one named, where it is eligible, or the lowest eligible one. -/
def Dev.swapSpare (d : Dev) (k arg : Nat) : Option Nat :=
  if arg = 0xFF then d.spareFor k
  else if (d.link arg).state = 7 && bit (d.link arg).spareDims ((d.link k).role - 1) then some arg else none

/-- LINK_SPARE_SWAP (R506): a lane is replaced at once; a link's move is under way until the spare is in service. -/
def linkSpareSwap : OpSpec where
  op := 0x0902
  targets := [0]
  set := .idle
  len := fun n => n = 4
  check := fun c w => firstBad [(0, w.dev.isRole (c.f 0 1)), (1, c.f 1 1 ≤ 1),
    (2, if c.f 1 1 = 0 then c.f 2 1 ≤ 3 else c.f 2 1 < 32 || c.f 2 1 = 0xFF), (3, zeroAt c.ps 3 1)]
  res := fun c w =>
    let k := c.f 0 1
    if c.f 1 1 = 0 then
      (match w.dev.carrier k with
        | some p => if (w.dev.link p).rxRetired = 0 then none else noResource 0x04 k
        | none => noResource 0x04 k)
    else if (w.dev.llink k).spare.isSome || (w.dev.swapSpare k (c.f 2 1)).isNone then noResource 0x04 k
    else none
  body := fun c w =>
    let k := c.f 0 1
    if c.f 1 1 = 0 then
      (match w.dev.carrier k with
        | some p => (w.retireLane p (c.f 2 1)).ok c []
        | none => w)
    else match w.dev.swapSpare k (c.f 2 1) with
      | some q =>
        let w := match w.dev.carrier k with
          | some p => (w.onLink p fun l => { l with state := 4 }).sendLinkEvent p 4
          | none => w
        (w.pend c (.linkSwap k)).takeSpare k q
      | none => w

/-- FGROUP_JOIN (R515). -/
def fgroupJoin : OpSpec where
  op := 0x0903
  targets := [0]
  set := .idle
  len := fun n => n = 16
  check := fun c _ => firstBad [(0, c.f 0 4 != 0), (4, 1 ≤ c.f 4 2 && c.f 4 2 ≤ 1331), (6, zeroAt c.ps 6 10)]
  conflict := fun _ w => if w.dev.sys.group.isSome then some 0 else none
  body := fun c w => (w.joinGroup (c.f 0 4) (c.f 4 2)).ok c []

/-- FGROUP_LEAVE (R520); without a group, STATE_CONFLICT (DESIGN CHOICE, log entry 29). -/
def fgroupLeave : OpSpec where
  op := 0x0904
  targets := [0]
  set := .idle
  len := fun n => n = 0
  conflict := fun _ w => if w.dev.sys.group.isNone then some 0 else none
  body := fun c w => w.leaveGroup.ok c []

/-- FGROUP_STATUS (R520). -/
def fgroupStatus : OpSpec where
  op := 0x0905
  targets := [0]
  set := .stat
  len := fun n => n = 0
  body := fun c w =>
    let g := w.dev.sys.group.getD { id := 0, members := 0 }
    let o := g.lastOrigin
    w.ok c (toLe 4 g.id ++ toLe 2 g.members ++ toLe 2 g.reports.length ++ toLe 1 w.dev.pwr.step ++ toLe 1 w.dev.pwr.ceil ++ zeros 2
      ++ toLe 4 g.freqSteps ++ toLe 1 o.1 ++ toLe 1 o.2.1 ++ toLe 1 o.2.2 ++ zeros 1 ++ toLe 8 g.lastTime ++ zeros 4)

/-- REMAP_ASSUME (R524). -/
def remapAssume : OpSpec where
  op := 0x0906
  targets := [0]
  set := .idle
  len := fun n => n = 24
  check := fun c w => firstBad [(0, w.dev.sys.coord = some (c.f 0 1, c.f 1 1, c.f 2 1)), (3, zeroAt c.ps 3 1), (4, c.f 4 4 != 0),
    (8, 1 ≤ c.f 8 2 && c.f 8 2 ≤ 1331), (10, zeroAt c.ps 10 6)]
  conflict := fun _ w => if w.dev.sys.group.isSome then some 0 else none
  body := fun c w =>
    let w := (w.joinGroup (c.f 4 4) (c.f 8 2)).pend c .remap
    let w := w.dev.roleLinks.foldl W.hello w
    let w :=
      if w.dev.roleLinks.any fun k => (w.dev.carrier k).isSome then w.flood 0x07 w.dev.groupId (toLe 8 w.dev.fuse.serial)
      else w.onSys fun s => { s with joining := true }
    w.settleLinks

/-- LINK_CONFIG as a packet. -/
def execLinkConfig (ch : Nat) (p : Packet) (s : State) : Out := run s (hostCommand linkConfig ch p)

/-- LINK_STATUS as a packet. -/
def execLinkStatus (ch : Nat) (p : Packet) (s : State) : Out := run s (hostCommand linkStatus ch p)

/-- LINK_SPARE_SWAP as a packet. -/
def execLinkSpareSwap (ch : Nat) (p : Packet) (s : State) : Out := runT s (hostCommand linkSpareSwap ch p)

/-- FGROUP_JOIN as a packet. -/
def execFgroupJoin (ch : Nat) (p : Packet) (s : State) : Out := run s (hostCommand fgroupJoin ch p)

/-- FGROUP_LEAVE as a packet. -/
def execFgroupLeave (ch : Nat) (p : Packet) (s : State) : Out := run s (hostCommand fgroupLeave ch p)

/-- FGROUP_STATUS as a packet. -/
def execFgroupStatus (ch : Nat) (p : Packet) (s : State) : Out := run s (hostCommand fgroupStatus ch p)

/-- REMAP_ASSUME as a packet. -/
def execRemapAssume (ch : Nat) (p : Packet) (s : State) : Out := run s (hostCommand remapAssume ch p)

/-- Whether a PENDING command has run for a time in ns. -/
def Dev.ranFor (d : Dev) (p : PendCmd) (n : Nat) : Bool := p.begun + n ≤ d.clk.mono

/-- LINK_CONFIG_TIMEOUT (R503): after 10 s the command completes with OK. -/
def execLinkConfigTimeout (s : State) : Out :=
  run s fun w => w.completeLinks fun p => p.wait = .linkConfig && w.dev.ranFor p 10000000000

/-- REMAP_ASSUME_TIMEOUT (R524): after 20 s the command completes with TIMEOUT. -/
def execRemapAssumeTimeout (s : State) : Out :=
  run s fun w =>
    match w.dev.cmds.find? fun p => p.wait = .remap && w.dev.ranFor p 20000000000 with
    | some p => w.complete p 0x0C ((w.dev.clk.mono - p.begun) / 1000) []
    | none => w

/-- Whether the link blocks run: the rails are up and the hub is. -/
def Dev.linksRun (d : Dev) : Bool := d.hub.rails && d.hubUp

/-- An uncorrectable flit, or one of a reserved TYPE (R494, Table 16.1): counted, and what follows discarded until the replay. -/
def W.badFlit (w : W) (p : Nat) : W :=
  let k := (w.dev.link p).logical
  let w := w.onLink p fun l => { l with fecUncorr := satAdd 32 l.fecUncorr 1 }
  if k = 0xFF || (w.dev.llink k).skipping then w else (w.onLLink k fun l => { l with skipping := true }).nakFlit p

/-- A flit of a logical link, decoded (R494, R495). -/
def W.takeFlit (w : W) (p k hdr : Nat) : W :=
  let seq := bits hdr 20 12
  let ack := bits hdr 8 12
  let type := bits hdr 4 4
  let credit := bits hdr 0 4
  let w := w.onLLink k fun l => { l.ackTo ack with credit := min 1024 (l.credit + 16 * credit) }
  let w :=
    if type = 3 then w.replay k ack
    else if type = 0 then w
    else if seq = ((w.dev.llink k).rxSeq + 1) % 4096 then
      (w.onLLink k fun l =>
        { l with rxSeq := seq, skipping := false, held := if type = 1 then min 1024 (l.held + 1) else l.held }).idleFlit p
    else if (w.dev.llink k).skipping then w
    else (w.onLLink k fun l => { l with skipping := true }).nakFlit p
  w.pump k

/-- FLIT_RECEIVE (R493 to R495): corrected or discarded; a flit in sequence is accepted, and its message, if it carries one, is a
command of its own (DESIGN CHOICE, log entry 30). -/
def execFlitReceive (link : Nat) (f : Flit) (s : State) : Out :=
  run s fun w =>
    let l := w.dev.link link
    if !w.dev.linksRun || 32 ≤ link || !l.works then w
    else
      match flitDecode f.bytes with
      | none => w.badFlit link
      | some (hdr, _, corr) =>
        let w := w.onLink link fun l =>
          { l with
            fecCorr := satAdd 32 l.fecCorr corr, lastFlit := w.dev.clk.mono
            rxLanes := if l.rxLanes = 0 then lanesLeft l.rxRetired else l.rxLanes }
        if 3 < bits hdr 4 4 then w.badFlit link
        else if l.logical = 0xFF then w
        else w.takeFlit link l.logical hdr

/-- LINK_NAK (R494): a NAK with its ACK. -/
def execLinkNak (link : Nat) (seq : Nat) (s : State) : Out :=
  run s fun w =>
    let l := w.dev.link link
    if w.dev.linksRun && link < 32 && l.works && l.logical != 0xFF then w.replay l.logical (seq % 4096) else w

/-- A message that arrives on a link in service; during UPDATE_PAUSE it waits (R514). -/
def W.onMessage (w : W) (link : Nat) (m : List Byte) (go : W → W) : W :=
  let l := w.dev.link link
  if !w.dev.linksRun || 32 ≤ link || !l.works || l.logical = 0xFF then w
  else if w.dev.hub.st = .updatePause then w.onSys fun s => { s with held := s.held ++ [(link, m)] }
  else go w

/-- Whether an address of a tile message's destination may be written (R510): a page PINNED or SRAM with W. -/
def Dev.tileTarget (d : Dev) (va : Nat) : Bool :=
  d.pinnedAt va && match d.access va false true with
    | .ok _ => true
    | _ => false

/-- The value of n bits at a bit position of a byte sequence. -/
def bitsAt (bs : List Byte) (pos n : Nat) : Nat := bits (leNat (slice bs (pos / 8) (n / 8 + 2))) (pos % 8) n

/-- A unit of a tile message: its first walk entry, the bit address of its place, and its value. -/
structure TileUnit where
  k : Nat
  bit : Nat
  v : Nat

/-- The in-bounds units of a tile message in walk order. -/
def tileUnits (dst : Layout) (vals : List Byte) : List TileUnit :=
  ((List.range (dst.entries / dst.unit)).filter fun i => dst.inb (i * dst.unit)).map fun i =>
    ⟨i * dst.unit, dst.bitOf (i * dst.unit), bitsAt vals (i * dst.unitBits) dst.unitBits⟩

/-- The pieces of a unit that are pad entries, or valid ones, as (bit address, bits, value): an MX group block by block (R184). -/
def TileUnit.pieces (dst : Layout) (padAt : Nat → Bool) (pad : Bool) (u : TileUnit) : List (Nat × Nat × Nat) :=
  if elemClass dst.elem = .mx then
    let bb := dst.blockBytes
    let data := 8 * (dst.groupBytes - dst.groupBlocks * bb)
    ((List.range dst.groupBlocks).filter fun b => padAt (u.k + 32 * b) == pad).flatMap fun b =>
      [(u.bit + 8 * b, 8, bits u.v (8 * b) 8), (u.bit + data + 8 * bb * b, 8 * bb, bits u.v (data + 8 * bb * b) (8 * bb))]
  else if padAt u.k == pad then [(u.bit, dst.unitBits, u.v)]
  else []

/-- A piece of a tile stored, and its lines poisoned where the tile carries POISON (R164, R565). -/
def W.tilePut (w : W) (poison : Bool) (x : Nat × Nat × Nat) : W :=
  let a := x.1 / 8
  let n := (x.1 % 8 + x.2.1 + 7) / 8
  let w := w.writeVa a (toLe n (setBits (leNat (w.readVa a n)) (x.1 % 8) x.2.1 x.2.2))
  if poison then w.poisonRange a n else w

/-- Whether a unit of a tile may be written (R510, R511): a sync object, or pages that take writes from a link. -/
def Dev.tileOk (d : Dev) (dst : Layout) (u : TileUnit) : Bool :=
  let a := u.bit / 8
  if a < 0x200000 then dst.elem = 0x17 && a % 8 = 0 && a < 0x10000 && (Tab.get d.syncs (a / 8)).isSome
  else d.tileTarget a && d.tileTarget ((u.bit + dst.unitBits - 1) / 8)

/-- A tile message written (R509 to R511): pad entries before valid ones; a refused entry and those after it are not written. -/
def W.writeTile (w : W) (link : Nat) (m : List Byte) : W :=
  let k := (w.dev.link link).logical
  let dst := parseLayout (slice m 64 256)
  let n := fld m 0x18 8
  let nb := alignUp (ceilDiv n 8) 64
  let pads := fld m 320 nb
  let padAt := fun (e : Nat) => bit pads e
  let poison := bit (fld m 0x20 1) 0
  let used : List TileUnit := (tileUnits dst (m.drop (320 + nb))).filter fun u =>
    dst.padw || !((List.range dst.unit).all fun e => padAt (u.k + e))
  let bad := used.find? fun (u : TileUnit) => !w.dev.tileOk dst u
  let go : List TileUnit := match bad with
    | some b => used.filter fun (u : TileUnit) => u.k < b.k
    | none => used
  let sync := go.filter fun (u : TileUnit) => u.bit / 8 < 0x200000
  let mem := go.filter fun (u : TileUnit) => 0x200000 ≤ u.bit / 8
  let w := w.onLink link fun l => { l with rxTiles := satAdd 32 l.rxTiles 1 }
  let w := if dst.padw then (mem.flatMap (TileUnit.pieces dst padAt true)).foldl (W.tilePut · poison) w else w
  let w := (mem.flatMap (TileUnit.pieces dst padAt false)).foldl (W.tilePut · poison) w
  let w := sync.foldl (fun w u => if u.v = 0 then w else w.syncOp (u.bit / 64) (.add u.v)) w
  let w := match bad with
    | some b =>
      (w.logRec 0x0023 (link / 8) 0xFF 0 k (b.bit / 8) []).onLink link fun l => { l with rxRefuse := satAdd 32 l.rxRefuse 1 }
    | none => w
  let flits := ceilDiv m.length 256
  ((w.onLLink k fun l => { l with held := l.held - flits, owed := l.owed + flits }).send (.tileAck link bad.isNone)).idleFlit link

/-- Whether a tile message is whole (R509): header, layout, bitmap, values. -/
def tileWhole (m : List Byte) : Bool :=
  let dst := parseLayout (slice m 64 256)
  let n := fld m 0x18 8
  320 ≤ m.length && n = dst.entries && elemClass dst.elem != .str
    && 320 + alignUp (ceilDiv n 8) 64 + ceilDiv (n / dst.unit * dst.unitBits) 8 ≤ m.length

/-- A tile message handled. -/
def W.takeTile (w : W) (link : Nat) (m : List Byte) : W := if tileWhole m then w.writeTile link m else w

/-- TILE_MESSAGE (R509). -/
def execTileMessage (link : Nat) (m : List Byte) (s : State) : Out := runT s fun w => w.onMessage link m fun w => w.takeTile link m

/-- LANE_LOCK_LOSS (R497): a lane of a link's receive direction loses lock, or fails training. -/
def execLaneLockLoss (link : Nat) (lane : Nat) (s : State) : Out :=
  runT s fun w =>
    if w.dev.linksRun && link < 32 && lane < 5 && ((w.dev.link link).works || (w.dev.link link).state = 1) then
      w.retireLane link lane
    else w

/-- LANE_ERROR_WINDOW (R497): the bytes corrected in a lane over a window of 1 s, and its bytes. -/
def execLaneErrorWindow (link : Nat) (lane : Nat) (corrected total : Nat) (s : State) : Out :=
  runT s fun w =>
    if w.dev.linksRun && link < 32 && lane < 5 && (w.dev.link link).works && total < corrected * 1000000 then w.retireLane link lane
    else w

/-- A LINK_EVENT handled (R497, R506): the transmit direction changes its striping; an end that swaps takes the other with it. -/
def W.takeEvent (w : W) (link : Nat) (m : List Byte) : W :=
  let b := msgBody m
  let r := maskRetired (fld b 1 1)
  let w := if r = (w.dev.link link).txRetired then w
    else (w.onLink link fun l => { l with txRetired := r, txLanes := lanesLeft r }).saveLanes link
  let w := w.lanesChanged link
  let l := w.dev.link link
  if fld b 2 1 = 4 && l.works && l.state != 4 && w.dev.isRole l.logical then
    (w.onLink link fun l => { l with state := 4 }).requestSpare l.logical
  else w

/-- LINK_EVENT (R497). -/
def execLinkEvent (link : Nat) (m : List Byte) (s : State) : Out :=
  runT s fun w => w.onMessage link m fun w => if msgType m = 5 then w.takeEvent link m else w

/-- LINK_SILENCE (R522): no flit for 1 ms; a neighbour none of whose links delivers any is lost. -/
def execLinkSilence (link : Nat) (s : State) : Out :=
  runT s fun w =>
    let now := w.dev.clk.mono
    let l := w.dev.link link
    if !w.dev.linksRun || 32 ≤ link || !l.works || now < l.lastFlit + msNs || !w.dev.isRole l.logical then w
    else
      let w := w.onLink link fun l => { l with rxLanes := 0 }
      let c := w.dev.peerCoord l.logical
      let ks := w.dev.roleLinks.filter fun k => w.dev.peerCoord k = c
      let silent := ks.all fun k => match w.dev.carrier k with
        | some p => (w.dev.link p).lastFlit + msNs ≤ now
        | none => true
      if silent then w.detectLost c ((w.dev.llink l.logical).peerSerial.getD 0) 0x01 else w.lanesChanged link

/-- HELLO (R504): also on links that are not yet in service. -/
def execHello (link : Nat) (m : List Byte) (s : State) : Out :=
  runT s fun w =>
    let l := w.dev.link link
    if !w.dev.linksRun || 32 ≤ link || msgType m != 1 || w.dev.hub.st = .updatePause then w
    else if w.dev.isRole link && l.logical = link && l.state != 0 then w.helloRole link m
    else if l.role = 4 && (l.state = 1 || l.works) then w.helloSpare link m
    else w

/-- SPARE_TIMEOUT (R501): the spare of logical link k is not in service 10 s after its request. -/
def execSpareTimeout (link : Nat) (s : State) : Out :=
  runT s fun w =>
    match (w.dev.llink link).spare with
    | some (q, t) =>
      if t + 10000000000 ≤ w.dev.clk.mono then
        ((w.onLink q fun l => { l with state := 8 }).onLLink link fun l => { l with spare := none }).requestSpare link
      else w
    | none => w

/-- A message of the device's own sent on every link in UP or DEGRADED (R521, R522). -/
def W.sendUp (w : W) (body : Link → W → List Byte × W) : W :=
  (w.dev.links.filter fun (_, l) => (l.state = 2 || l.state = 3) && l.logical != 0xFF).foldl (fun w (_, l) =>
    let (m, w) := body l w
    w.sendMsg l.logical m) w

/-- HEARTBEAT_SEND (R522): every 100 µs. -/
def execHeartbeatSend (s : State) : Out :=
  run s fun w =>
    if !w.dev.linksRun then w
    else w.sendUp fun _ w =>
      w.ownMessage 0x02 w.dev.groupId (toLe 8 w.dev.clk.now ++ toLe 1 w.dev.hub.st.code ++ toLe 1 (b2n w.dev.hub.degraded))

/-- A HEARTBEAT handled (R522): a neighbour in FAULT or FAILED is lost. -/
def W.takeHeartbeat (w : W) (link : Nat) (m : List Byte) : W :=
  let l := w.dev.link link
  let st := fld (msgBody m) 8 1
  if w.dev.isRole l.logical && msgOrigin m = w.dev.peerCoord l.logical && (st = DevState.fault.code || st = DevState.failed.code) then
    w.detectLost (msgOrigin m) ((w.dev.llink l.logical).peerSerial.getD 0) (if st = DevState.fault.code then 0x02 else 0x03)
  else w

/-- HEARTBEAT (R522). -/
def execHeartbeat (link : Nat) (m : List Byte) (s : State) : Out :=
  runT s fun w => w.onMessage link m fun w => if msgType m = 2 then w.takeHeartbeat link m else w

/-- A flooded message handled: accepted and forwarded, or discarded (R513). -/
def W.takeFlood (w : W) (link : Nat) (m : List Byte) (go : W → W) : W :=
  if w.dev.acceptsFlood m then go (w.acceptFlood link m) else w

/-- The lost coordinate of a MEMBER_LOST. -/
def lostCoord (m : List Byte) : Nat × Nat × Nat :=
  let b := msgBody m
  (fld b 0 1, fld b 1 1, fld b 2 1)

/-- A MEMBER_LOST handled (R523). -/
def W.takeLost (w : W) (link : Nat) (m : List Byte) : W :=
  w.takeFlood link m fun w => w.acceptLost (lostCoord m) (msgGroup m)

/-- MEMBER_LOST (R523). -/
def execMemberLost (link : Nat) (m : List Byte) (s : State) : Out :=
  runT s fun w => w.onMessage link m fun w => if msgType m = 6 then w.takeLost link m else w

/-- A MEMBER_JOIN handled (R520): its origin enters the count of its group. -/
def W.takeJoin (w : W) (link : Nat) (m : List Byte) : W :=
  w.takeFlood link m fun w =>
    w.onSys fun s =>
      { s with
        group := s.group.map fun g => if g.id = msgGroup m then { g with members := g.members + 1 } else g
        lost := if (w.dev.roleLinks.any fun k => w.dev.peerCoord k = msgOrigin m) then s.lost else s.lost.filter (· != msgOrigin m) }

/-- MEMBER_JOIN (R520). -/
def execMemberJoin (link : Nat) (m : List Byte) (s : State) : Out :=
  run s fun w => w.onMessage link m fun w => if msgType m = 7 then w.takeJoin link m else w

/-- A FREQ_STEP handled (R517): a lower step of the device's group is adopted. -/
def W.takeFreq (w : W) (link : Nat) (m : List Byte) : W :=
  w.takeFlood link m fun w =>
    match w.dev.sys.group with
    | some g =>
      if g.id != msgGroup m then w
      else
        let st := fld (msgBody m) 0 1
        let w := w.onSys fun s =>
          { s with
            group := some { g with
              freqMin := min g.freqMin st, freqSteps := satAdd 32 g.freqSteps 1, lastOrigin := msgOrigin m, lastTime := w.dev.clk.now } }
        if st < w.dev.pwr.step then w.lowerStep st
        else match w.dev.pwr.raise with
          | some (t, _) => if st < t then w.onPwr fun p => { p with raise := if p.step < st then some (st, []) else none } else w
          | none => w
    | none => w

/-- FREQ_STEP (R517). -/
def execFreqStep (link : Nat) (m : List Byte) (s : State) : Out :=
  run s fun w => w.onMessage link m fun w => if msgType m = 3 then w.takeFreq link m else w

/-- A CEILING report of a group held for its boundary (R518); one of a later boundary starts anew. -/
def FGroup.report (g : FGroup) (boundary : Nat) (origin : Nat × Nat × Nat) (ceil : Nat) : FGroup :=
  let g := if g.boundary < boundary then { g with boundary := boundary, reports := [], freqMin := 18 } else g
  if g.boundary = boundary then { g with reports := Tab.put g.reports (coordCode origin) ceil } else g

/-- CEILING_BOUNDARY (R518): at each global time that is a multiple of 100 ms the lowest ceiling of the interval is flooded. -/
def execCeilingBoundary (s : State) : Out :=
  run s fun w =>
    match w.dev.sys.group with
    | some g =>
      if !w.dev.linksRun || w.dev.hub.st = .updatePause then w
      else
        let t := w.dev.clk.now / 100000000 * 100000000
        let low := min g.lowCeil w.dev.pwr.ceil
        (w.onSys fun s =>
          { s with group := some { (g.report t w.dev.coord low) with lowCeil := w.dev.pwr.ceil } }).flood 0x04 g.id
          (toLe 8 t ++ toLe 1 low)
    | none => w

/-- A CEILING handled (R518). -/
def W.takeCeiling (w : W) (link : Nat) (m : List Byte) : W :=
  w.takeFlood link m fun w =>
    w.onSys fun s =>
      { s with
        group := s.group.map fun g =>
          if g.id = msgGroup m then g.report (fld (msgBody m) 0 8) (msgOrigin m) (min 18 (fld (msgBody m) 8 1)) else g }

/-- CEILING (R518). -/
def execCeiling (link : Nat) (m : List Byte) (s : State) : Out :=
  run s fun w => w.onMessage link m fun w => if msgType m = 4 then w.takeCeiling link m else w

/-- CEILING_COMPUTE (R518): 10 ms after a boundary, a member that holds every member's report sets the group's new step. -/
def execCeilingCompute (s : State) : Out :=
  run s fun w =>
    match w.dev.sys.group with
    | some g =>
      if !w.dev.linksRun || g.reports.isEmpty || w.dev.clk.now < g.boundary + 10 * msNs || g.reports.length < g.members then w
      else
        let new := g.reports.foldl (fun m r => min m r.2) g.freqMin
        if new < w.dev.pwr.step then w.lowerStep new
        else if w.dev.pwr.step < new then w.raiseStep new
        else w
    | none => w

/-- TIME_EXCHANGE (R521): every 10 ms. -/
def execTimeExchange (s : State) : Out :=
  run s fun w =>
    if !w.dev.linksRun then w
    else
      let now := w.dev.clk.now
      let w := w.sendUp fun l w =>
        w.ownMessage 0x08 w.dev.groupId (toLe 8 now ++ toLe 8 l.peerRx ++ toLe 8 l.peerTx ++ toLe 1 (b2n w.dev.clk.unset))
      w.onDev fun d =>
        { d with links := d.links.map fun (p, l) => (p, if l.state = 2 || l.state = 3 then { l with ownTx := now } else l) }

/-- The median of a list of integers; of an even number, a free choice of the middle two (DESIGN CHOICE, log entry 31). -/
def medianOffset (l : List Int) (key : Nat) : Int :=
  let s := sortBy (fun a b => a ≤ b) l
  let i := s.length / 2
  if s.length % 2 = 1 then s.getD i 0 else s.getD (i - Config.freeUlp key 0 % 2) 0

/-- Offset and delay of a link from a TIME message (R521), once the peer has echoed a stamp of this device. -/
def W.measureTime (w : W) (link : Nat) (m : List Byte) : W :=
  let b := msgBody m
  let now := w.dev.clk.now
  let tx := fld b 0 8
  let rxPrev := fld b 8 8
  let txPrev := fld b 16 8
  w.onLink link fun l =>
    let l := { l with peerTx := tx, peerRx := now, unset := fld b 24 1 != 0 }
    if txPrev = 0 then l
    else
      let delay := (((now : Int) - (txPrev : Int)) - ((tx : Int) - (rxPrev : Int))) / 2
      { l with delay := some delay.toNat, offset := (tx : Int) + delay - (now : Int) }

/-- The neighbours whose offset is known. -/
def Dev.timed (d : Dev) : List Link := (d.links.filter fun (_, l) => (l.state = 2 || l.state = 3) && l.delay.isSome).map Prod.snd

/-- What the offsets bring about (R521, R686): a device without a time of its own steps; another slews, unless the PPS input leads
it. -/
def W.adjustTime (w : W) : W :=
  let ls := w.dev.timed
  let anchored := (ls.filter fun l => !l.unset).map Link.offset
  if w.dev.clk.unset then
    if !anchored.isEmpty then
      w.onClk fun c => { c with now := ((c.now : Int) + medianOffset anchored c.now).toNat, unset := false, slew := 0 }
    else w.onClk fun c => { c with now := ((c.now : Int) + (ls.map Link.offset).foldl max 0).toNat }
  else if w.dev.clk.ppsValid || anchored.isEmpty then w
  else w.onClk fun c => { c with slew := medianOffset anchored c.now }

/-- A TIME handled (R521, R686). -/
def W.takeTime (w : W) (link : Nat) (m : List Byte) : W := (w.measureTime link m).adjustTime

/-- TIME (R686). -/
def execTime (link : Nat) (m : List Byte) (s : State) : Out :=
  run s fun w => w.onMessage link m fun w => if msgType m = 8 then w.takeTime link m else w

/-- YL_PRESET_SAVE (R496): after every 24 hours of link-up. -/
def execYlPresetSave (link : Nat) (presets : List Byte) (s : State) : Out :=
  run s fun w =>
    match (w.dev.link link).upSince with
    | some t =>
      if 32 ≤ link || !w.dev.linksRun || w.dev.clk.mono < t + dayNs then w
      else (w.onLink link fun l => { l with upSince := some w.dev.clk.mono }).journal1 0x0021 (1 + link) presets
    | none => w

end Sys2Proof.Machine
end

