-- ==== Sys2Proof/Machine/Power.lean ====
section
/-! DEFINITION. The rows of power control (chapter 17): the commands of group 0x07, the loops, droop, ageing, energy and telemetry. -/

namespace Sys2Proof.Machine

/-- PWR_GAUGE_SET (R538). -/
def pwrGaugeSet : OpSpec where
  op := 0x0700
  targets := [0]
  set := .hub
  len := fun n => n = 4
  check := fun c w => firstBad [(0, 1200 ≤ c.f 0 2 && c.f 0 2 ≤ w.dev.fuse.ceilingW), (2, zeroAt c.ps 2 2)]
  body := fun c w => (w.onPwr fun p => { p with capSet := c.f 0 2 }).ok c (toLe 2 w.dev.pwr.capSet ++ zeros 2)

/-- PWR_STEP_LIMIT (R541). -/
def pwrStepLimit : OpSpec where
  op := 0x0701
  targets := [0]
  set := .hub
  len := fun n => n = 4
  check := fun c _ => firstBad [(0, c.f 0 1 ≤ 18), (1, zeroAt c.ps 1 3)]
  body := fun c w =>
    ((w.onPwr fun p => { p with stepLim := c.f 0 1 }).settleStep).ok c (toLe 1 w.dev.pwr.stepLim ++ zeros 3)

/-- One count of PWR_CEILING programmed (R591, R592). -/
def W.burnCeiling (w : W) (v : Nat) : W := w.burn fun ok f => { f with ceiling := f.ceiling ++ [(v, ok)] }

/-- Whether a value may raise PWR_CEILING (R540). -/
def Dev.ceilingRaises (d : Dev) (v : Nat) : Bool := v % 25 = 0 && d.fuse.ceilingW < v && v ≤ 3400

/-- The counter identifiers of Table 19.3. -/
def ctrCeiling : Nat := 3

/-- Counts that PWR_CEILING has left. -/
def Fuse.ceilingLeft (f : Fuse) : Nat := 8 - f.ceilingUsed

/-- PWR_CEILING_RAISE (R540); a slot whose read-back fails is spent without its setting, and the command returns INTEGRITY (R592). -/
def pwrCeilingRaise : OpSpec where
  op := 0x0702
  targets := [0]
  set := .hub
  len := fun n => n = 4
  check := fun c w => firstBad [(0, w.dev.ceilingRaises (c.f 0 2)), (2, zeroAt c.ps 2 2)]
  res := fun _ w => if w.dev.fuse.ceilingLeft = 0 then some ⟨0x0A, ctrCeiling, []⟩ else none
  body := fun c w =>
    let v := w.burnCeiling (c.f 0 2)
    if w.dev.slotReads then v.ok c (toLe 1 v.dev.fuse.ceilingLeft ++ zeros 3) else v.failWith c ⟨0x0E, ctrCeiling, []⟩

/-- PWR_TELEMETRY_READ (R558). -/
def pwrTelemetryRead : OpSpec where
  op := 0x0703
  targets := [0]
  set := .stat
  len := fun n => n = 4
  check := fun c _ => firstBad [(0, 1 ≤ c.f 0 1 && c.f 0 1 ≤ 15), (1, zeroAt c.ps 1 3)]
  body := fun c w =>
    let rs := w.dev.pwr.telem.drop (w.dev.pwr.telem.length - c.f 0 1)
    w.ok c (toLe 1 rs.length ++ zeros 7 ++ toLe 8 (w.dev.pwr.telemSeq - 1) ++ rs.flatten)

/-- The whole µJ of an energy accumulator (R551), which wraps (R560). -/
def wholeUj (q : Rat) : Nat := ratFloor q % 2 ^ 64

/-- PWR_ENERGY_READ (R559). -/
def pwrEnergyRead : OpSpec where
  op := 0x0704
  targets := [0]
  set := .stat
  len := fun n => n = 0
  body := fun c w =>
    let p := w.dev.pwr
    w.ok c (toLe 8 w.dev.clk.now ++ toLe 8 (wholeUj p.enMeas) ++ toLe 8 (wholeUj p.enEst) ++ toLe 2 p.flags ++ zeros 6
      ++ (List.range 64).flatMap fun t => toLe 8 (wholeUj (Tab.getD p.en t 0)))

/-- PWR_GAUGE_SET as a packet. -/
def execPwrGaugeSet (ch : Nat) (p : Packet) (s : State) : Out := run s (hostCommand pwrGaugeSet ch p)

/-- PWR_STEP_LIMIT as a packet. -/
def execPwrStepLimit (ch : Nat) (p : Packet) (s : State) : Out := run s (hostCommand pwrStepLimit ch p)

/-- PWR_CEILING_RAISE as a packet. -/
def execPwrCeilingRaise (ch : Nat) (p : Packet) (s : State) : Out := run s (hostCommand pwrCeilingRaise ch p)

/-- PWR_TELEMETRY_READ as a packet. -/
def execPwrTelemetryRead (ch : Nat) (p : Packet) (s : State) : Out := run s (hostCommand pwrTelemetryRead ch p)

/-- PWR_ENERGY_READ as a packet. -/
def execPwrEnergyRead (ch : Nat) (p : Packet) (s : State) : Out := run s (hostCommand pwrEnergyRead ch p)

/-- The current guard lowers its limit, and the action counts (R535). -/
def W.guardAct (w : W) (lim : Nat) : W :=
  (w.onPwr fun p => { p with ilimCnt := satAdd 32 p.ilimCnt 1, lowSince := none }).onLim fun l => { l with guard := lim }

/-- Since when a condition has held without a break. -/
def holdsSince (was : Option Nat) (cond : Bool) (now : Nat) : Option Nat := if cond then some (was.getD now) else none

/-- What the current guard measures (R535, R557): the sample joins the last 10,000, and the figures of the second follow. -/
def W.takeSample (w : W) (mv ma : Nat) : W :=
  let uw := mv * ma
  let w := w.onPin fun p => { p with vin := mv, iin := ma / 10 }
  let now := w.dev.clk.mono
  w.onPwr fun p =>
    let p := { p with inSamples := (uw :: p.inSamples).take 10000 }
    { p with
      secPeak := max p.secPeak p.pMeas
      secVinMin := some (min mv (p.secVinMin.getD mv))
      secIinMax := max p.secIinMax (ma / 10)
      overSince := holdsSince p.overSince (3400000000 < uw) now
      lowSince := holdsSince p.lowSince (ma < 90000 && p.pMeas < 3400) now }

/-- CURRENT_GUARD_SAMPLE (R535): every 100 ns. -/
def execCurrentGuardSample (mv : Nat) (ma : Nat) (s : State) : Out :=
  run s fun w =>
    if !w.dev.hubUp then w
    else
      let w := w.takeSample mv ma
      let p := w.dev.pwr
      let now := w.dev.clk.mono
      if !w.dev.hub.rails then w
      else if 102500 < ma || 4100 < p.pIn 100 then w.guardAct (p.step - 2)
      else if p.lim.guard != 0 && (p.overSince.map fun t => decide (t + 4 * msNs ≤ now)).getD false then w.guardAct 0
      else if p.lim.guard < 18 && (p.lowSince.map fun t => decide (t + msNs ≤ now)).getD false then
        (w.onPwr fun p => { p with lowSince := some now }).onLim fun l => { l with guard := l.guard + 1 }
      else w

/-- GAUGE_LOOP (R536): every 100 µs. -/
def execGaugeLoop (s : State) : Out :=
  run s fun w =>
    if !w.dev.hub.rails then w
    else
      let p := w.dev.pwr
      let now := w.dev.clk.mono
      let g : Rat := (w.dev.gauge : Nat)
      let x := p.gaugePower
      let due := fun (t : Option Nat) (n : Nat) => (t.map fun t => decide (t + n ≤ now)).getD true
      let w := w.onPwr fun p =>
        { p with zeroSince := holdsSince p.zeroSince (p.step = 0 && g < x) now, gaugeUnreached := p.gaugeUnreached && g ≤ x }
      if g < x && due p.lastDown msNs then
        (w.onPwr fun p => { p with lastDown := some now }).onLim fun l => { l with gauge := p.step - 1 }
      else if p.step < 18 && p.lim.gauge ≤ p.step && due p.lastUp (10 * msNs) && x + p.rise ≤ g then
        (w.onPwr fun p => { p with lastUp := some now }).onLim fun l => { l with gauge := l.gauge + 1 }
      else w.settleStep

/-- GAUGE_UNREACHED (R537): step 0 for 100 ms with p above the gauge throughout. -/
def execGaugeUnreached (s : State) : Out :=
  run s fun w =>
    match w.dev.pwr.zeroSince with
    | some t =>
      if t + 100 * msNs ≤ w.dev.clk.mono && !w.dev.pwr.gaugeUnreached && w.dev.hub.rails then
        (w.onPwr fun p => { p with gaugeUnreached := true }).logHub 0x0032 w.dev.gauge []
      else w
    | none => w

/-- The junction and HBM targets in 0.1 °C, each within its bounds (Table 17.7). -/
def Pwr.targets (p : Pwr) : Int × Int :=
  let bound := fun (v hi : Nat) => ((10 * min (max v 80) hi : Nat) : Int)
  (bound (bits p.tjCfg.toNat 0 8) 100, bound (bits p.tjCfg.toNat 8 8) 95)

/-- The first greatest element of a list, with its position. -/
def hottest (l : List Int) : Nat × Int :=
  (l.zipIdx.foldl (fun (best : Option (Nat × Int)) (v, i) => match best with
    | some (j, b) => if b < v then some (i, v) else some (j, b)
    | none => some (i, v)) none).getD (0, 0)

/-- THERMAL_LOOP (R542): every 1 ms; the readings, in 0.1 °C, of the 65 islands of each die in order (the block island last) and
of the 24 stacks. -/
def execThermalLoop (sensors : List Int) (hbm : List Int) (s : State) : Out :=
  run s fun w =>
    if !w.dev.hub.rails || sensors.length != 260 || hbm.length != 24 then w
    else
      let now := w.dev.clk.mono
      let ofDie := fun (d : Nat) => (sensors.drop (65 * d)).take 65
      let tj := (List.range 4).map fun d => hottest (ofDie d)
      let hm := hottest hbm
      let (tTj, tHbm) := w.dev.pwr.targets
      let top := (hottest (tj.map Prod.snd)).2
      let cool := top + 30 ≤ tTj && hm.2 + 30 ≤ tHbm
      let w := w.onPwr fun p =>
        { p with
          tjMax := tj, hbmMax := hm, tjMean := (List.range 4).map fun d => (ofDie d).foldl (· + ·) 0 / 65
          coolSince := holdsSince p.coolSince cool now }
      let p := w.dev.pwr
      let due := fun (t : Option Nat) (n : Nat) => (t.map fun t => decide (t + n ≤ now)).getD true
      if tTj < top || tHbm < hm.2 then
        if due p.thermDown (10 * msNs) then
          (w.onPwr fun p => { p with thermDown := some now }).onLim fun l => { l with thermal := l.thermal - 1 }
        else w.settleStep
      else if cool && due p.coolSince (100 * msNs) && due p.thermUp (100 * msNs) && p.lim.thermal < 18 then
        (w.onPwr fun p => { p with thermUp := some now }).onLim fun l => { l with thermal := l.thermal + 1 }
      else w.settleStep

/-- COOLANT_INLET_READ (R545): every 100 ms with FLOW_OK high; the inlet temperature in 0.1 °C. -/
def execCoolantInletRead (tenthC : Int) (s : State) : Out :=
  run s fun w =>
    if !w.dev.hubUp then w
    else
      let w := w.onPin fun p => { p with inlet := tenthC }
      if !w.dev.pin.flowOk || w.dev.pin.flowHighAt.isSome then w
      else w.onLim fun l => { l with coolant := if tenthC ≤ 450 then 18 else 18 - 2 * ((tenthC - 450 + 9) / 10).toNat }

/-- RAIL_SETTLED (R529): the islands of the die change frequency; the raise is over when every rail has settled. -/
def execRailSettled (die : Nat) (s : State) : Out :=
  run s fun w =>
    match w.dev.pwr.raise with
    | some (t, ds) =>
      if 4 ≤ die || ds.contains die then w
      else if ds.length = 3 then (w.onPwr fun p => { p with step := t, raise := none }).noteStep
      else w.onPwr fun p => { p with raise := some (t, die :: ds) }
    | none => w

/-- The steps by which a fall of the supply lowers an island (R534). -/
def droopSteps (mv : Nat) : Nat := if 50 ≤ mv then 2 else if 30 ≤ mv then 1 else 0

/-- DROOP (R534): the island of a logical core, or the block island of die core - 256 (DEDUCED, log entry 27). -/
def execDroop (core : Nat) (mv : Nat) (s : State) : Out :=
  run s fun w =>
    let n := droopSteps mv
    let now := w.dev.clk.mono
    if n = 0 || 260 ≤ core || !w.dev.hub.rails then w
    else
      let w := w.onPwr fun p => { p with droopCnt := satAdd 32 p.droopCnt 1 }
      if core < 256 then w.onCore core fun c => { c with droop := max c.droop n, droopAt := now }
      else w.onPwr fun p => { p with blkDroop := Tab.upd p.blkDroop (core - 256) (0, 0) fun d => (max d.1 n, now) }

/-- DROOP_RECOVERY (R534): an island whose supply has recovered returns by one step per 1 µs. -/
def execDroopRecovery (core : Nat) (s : State) : Out :=
  run s fun w =>
    let now := w.dev.clk.mono
    if core < 256 then
      let c := w.dev.core core
      if c.droop != 0 && c.droopAt + 1000 ≤ now then w.onCore core fun c => { c with droop := c.droop - 1, droopAt := now } else w
    else
      match Tab.get w.dev.pwr.blkDroop (core - 256) with
      | some (n, t) =>
        if n != 0 && t + 1000 ≤ now then w.onPwr fun p => { p with blkDroop := Tab.put p.blkDroop (core - 256) (n - 1, now) } else w
      | none => w

/-- AGEING_READ (R548): the smallest margin of a die in 0.1 %. A trim changes once its record is committed. -/
def execAgeingRead (die : Nat) (margin : Int) (s : State) : Out :=
  run s fun w =>
    let st := w.dev.hub.st
    if 4 ≤ die || !(st = .ready || st = .running || st = .draining) || 40 ≤ margin then w
    else
      let trims := w.dev.pwr.trimNext.getD w.dev.pwr.trim
      if 12 ≤ trims.getD die 0 then w.logRec 0x0035 die 0xFF 0 die 0 []
      else
        let trims := listSet trims die (· + 1)
        (w.onPwr fun p => { p with trimNext := some trims }).saveAgeTrim trims

/-- The factor by which a class's count is multiplied (R550): die 4 is the hub. -/
def Dev.energyFactor (d : Dev) (cls die : Nat) : Rat :=
  if cls = 12 || 4 ≤ die then 1
  else
    let v : Rat := (d.pwr.volts die (d.dieStep die) : Nat) / (850 : Rat)
    if cls = 11 then v * exp2Approx (((d.pwr.tjMean.getD die 600 - 600 : Int) : Rat) / 250) else v * v

/-- One count of a tick: key class + 16 x tag + 1,024 x die. -/
def W.energyCount (w : W) (key n : Nat) : W :=
  let cls := key % 16
  let tag := key / 16 % 64
  let x : Rat := (n : Rat) * w.dev.energyFactor cls (key / 1024)
  let e := x * w.dev.pwr.coef.getD cls 0
  if 12 < cls || 5 * 1024 ≤ key then w
  else
    w.onPwr fun p =>
      { p with
        winCnt := Tab.upd p.winCnt cls 0 (· + x)
        winEst := Tab.upd p.winEst tag 0 (· + e / 1000000)
        estTicks := match p.estTicks with
          | (a, b) :: t => (a + e, if cls < 11 then b + e else b) :: t
          | [] => [(e, if cls < 11 then e else 0)] }

/-- A microsecond charged to a throttle reason (R532), since reset and in the lifetime frame. -/
def W.charge (w : W) (reason : Nat) : W :=
  if reason = 0 then w
  else
    (w.onPwr fun p => { p with throttle := Tab.upd p.throttle reason 0 (· + 1) }).onStore fun s =>
      { s with frame := { s.frame with throttle := listSet s.frame.throttle (reason - 1) (· + 1) } }

/-- Whether any island runs below the device step because of droop. -/
def Dev.anyDroop (d : Dev) : Bool := d.pwr.blkDroop.any (fun (_, n, _) => n != 0) || d.cores.any fun (_, c) => c.droop != 0

/-- The charges of one microsecond (R532). -/
def W.chargeTick (w : W) : W :=
  let p := w.dev.pwr
  let w :=
    if p.step < p.stepCap then
      w.charge (if w.dev.sys.group.isSome && p.step < p.ceil then 5 else p.limitReason)
    else w
  if w.dev.anyDroop then w.charge 4 else w

/-- ENERGY_TICK (R550, R532): every microsecond. -/
def execEnergyTick (counts : List (Nat × Nat)) (s : State) : Out :=
  run s fun w =>
    if !w.dev.hubUp then w
    else
      let w := w.onPwr fun p => { p with estTicks := ((0, 0) :: p.estTicks).take 1000 }
      (counts.foldl (fun w k => w.energyCount k.1 k.2) w).chargeTick

/-- The coefficients refitted (R553); written as FP32 (Table 17.7). -/
def Pwr.refit (p : Pwr) (measPj : Rat) : List Rat :=
  let x := fun (k : Nat) => Tab.getD p.winCnt k 0
  let ks := List.range 13
  let c := fun (k : Nat) => p.coef.getD k 0
  let c0 := fun (k : Nat) => p.coef0.getD k 1
  let e := ks.foldl (fun e k => e - c k * x k) measPj
  let n := ks.foldl (fun n k => n + (x k / c0 k) * (x k / c0 k)) 0
  let mu : Rat := if p.divergence then 1 / 16 else 1 / 256
  if 0 < n then
    ks.map fun k => toFp32 (min (max (c k + mu * e * x k / (c0 k * c0 k * n)) (c0 k / 2)) (2 * c0 k))
  else p.coef

/-- The gap of a window (R552); a window that measured nothing has no finite gap unless nothing was estimated. -/
def windowGap (est meas : Rat) : Rat := if meas = 0 then (if est = 0 then 0 else 1000) else ratAbs (est - meas) / meas

/-- DIVERGENCE judged at a window's end (R554). -/
def W.judgeDivergence (w : W) : W :=
  let p := w.dev.pwr
  let hi := if 12 / 100 < p.gap then p.gapHigh + 1 else 0
  let lo := if p.gap ≤ 6 / 100 then p.gapLow + 1 else 0
  let w := w.onPwr fun p => { p with gapHigh := hi, gapLow := lo }
  if !p.divergence && 10 ≤ hi then
    (w.onPwr fun p => { p with divergence := true, divCnt := satAdd 32 p.divCnt 1 }).logHub 0x0033 p.gapTenths []
  else if p.divergence && 10 ≤ lo then w.onPwr fun p => { p with divergence := false }
  else w

/-- Whether a power lies within 10 % of P_reg (R556). -/
def nearReg (x reg : Rat) : Bool := ratAbs (x - reg) ≤ reg / 10

/-- A suspect flag set, with its record. -/
def W.suspect (w : W) (model sensor : Bool) : W :=
  let w := if model && !w.dev.pwr.modelSuspect then
      (w.onPwr fun p => { p with modelSuspect := true, estOk := 0 }).logHub 0x0034 1 [] else w
  if sensor && !w.dev.pwr.sensorSuspect then
    (w.onPwr fun p => { p with sensorSuspect := true, measOk := 0 }).logHub 0x0034 2 [] else w

/-- The readings judged against P_reg (R556), which is formed when the gap exceeds 40 % and while a flag is set; it is a free value,
for the regulators' reports are not a command's. -/
def W.judgeSensors (w : W) (est meas : Rat) : W :=
  let p := w.dev.pwr
  let form := 40 / 100 < p.gap || p.sensorSuspect || p.modelSuspect
  if !form then w.onPwr fun p => { p with pReg := none, estOk := 0, measOk := 0 }
  else
    let (r, w) := w.free
    let reg : Rat := (r : Nat) / (1000 : Rat)
    let eOk := nearReg (est / 100000) reg
    let mOk := nearReg (meas / 100000) reg
    let w := w.onPwr fun p =>
      { p with pReg := some r, estOk := if eOk then p.estOk + 1 else 0, measOk := if mOk then p.measOk + 1 else 0 }
    let w := if 40 / 100 < p.gap then w.suspect (mOk || !eOk) (eOk || !mOk) else w
    w.onPwr fun p =>
      { p with modelSuspect := p.modelSuspect && p.estOk < 10, sensorSuspect := p.sensorSuspect && p.measOk < 10 }

/-- What each tag receives of a window (R551, R555), in µJ. -/
def Pwr.shares (p : Pwr) (est meas : Rat) : Tab Rat :=
  if !p.divergence then p.winEst
  else
    let e := if p.sensorSuspect then p.pRegW * 100000 else meas
    let d := e - est
    let others := (p.winEst.filter fun t => t.1 != 0).map fun t =>
      (t.1, ((ratFloor (t.2 + (if est = 0 then 0 else d * t.2 / est)) : Nat) : Rat))
    (0, others.foldl (fun a t => a - t.2) e) :: others

/-- ENERGY_WINDOW_END (R552 to R556): at each global time that is a multiple of 100 ms, with the input energy measured, in µJ. -/
def execEnergyWindowEnd (measUj : Nat) (s : State) : Out :=
  run s fun w =>
    if !w.dev.hubUp then w
    else
      let est := w.dev.pwr.winEst.foldl (fun a t => a + t.2) 0
      let meas : Rat := (measUj : Nat)
      let w := w.onPwr fun p => { p with gap := windowGap est meas }
      let w := (w.judgeDivergence).judgeSensors est meas
      let w := w.onStore fun s => { s with frame := { s.frame with energyUj := (s.frame.energyUj + measUj) % 2 ^ 64 } }
      let w := w.onPwr fun p =>
        { p with
          en := (p.shares est meas).foldl (fun t (k, e) => Tab.upd t k 0 (· + e)) p.en
          enMeas := p.enMeas + meas, enEst := p.enEst + est
          secMeas := p.secMeas + meas, secEst := p.secEst + est
          coef := p.refit (meas * 1000000)
          winCnt := [], winEst := [] }
      if w.dev.pwr.coefSaved + dayNs' ≤ w.dev.clk.mono then
        (w.onPwr fun p => { p with coefSaved := w.dev.clk.mono }).journal1 0x0023 0 (w.dev.pwr.coef.flatMap fun c => toLe 4 (coefBits c))
      else w
where
  /-- 24 hours in ns. -/
  dayNs' : Nat := 86400000000000

/-- TELEMETRY_RECORD (R557): each second, in every state but OFF; the last 64 records are kept. -/
def execTelemetryRecord (s : State) : Out :=
  run s fun w =>
    if !w.dev.hubUp then w
    else
      let r := w.dev.telemetry
      w.onPwr fun p =>
        { p with
          telem := (p.telem ++ [r]).drop ((p.telem.length + 1) - 64), telemSeq := p.telemSeq + 1
          secPeak := 0, secVinMin := none, secIinMax := 0, secStepMin := none, secStepMax := 0, secMeas := 0, secEst := 0 }

end Sys2Proof.Machine
end

