-- ==== Sys2Proof/Machine/Store.lean ====
section
/-! DEFINITION. The commands of group 0x0B and the events of the persistent store (R588, R595 to R597, R599, R604 to R612). -/

namespace Sys2Proof.Machine

/-- The live record that STORE_READ names (R611): for ERROR_HISTORY the instance counts the live records from the oldest. -/
def Dev.readRec (d : Dev) (key fmt inst : Nat) : Option JRec :=
  let fmt := if fmt = 0 then d.fw.info.writes key else fmt
  if key = 0x0030 then (d.store.live.filter fun r => r.key = key && r.fmt = fmt)[inst]? else d.store.liveRec key inst fmt

/-- STORE_READ (R611). -/
def storeRead : OpSpec where
  op := 0x0B00
  targets := [0]
  set := .stat
  len := fun n => n = 12
  check := fun c _ => firstBad [(3, zeroAt c.ps 3 1)]
  res := fun c w => if (w.dev.readRec (c.f 0 2) (c.f 2 1) (c.f 4 4)).isNone then some ⟨0x02, 0x03, []⟩ else none
  body := fun c w =>
    match w.dev.readRec (c.f 0 2) (c.f 2 1) (c.f 4 4) with
    | some r =>
      let bs := slice r.payload (c.f 8 4) 4008
      w.ok c (toLe 2 r.payload.length ++ toLe 1 r.fmt ++ zeros 1 ++ toLe 8 r.seq ++ toLe 8 r.txn ++ toLe 2 bs.length ++ zeros 2 ++ bs)
    | none => w

/-- What Table 19.6 asks of the payload of a key that a host may write. -/
def configFields (c : Ctx) : List (Nat × Bool) :=
  let key := c.f 0 2
  if key = 0x0001 then [(4, c.f 4 2 = 32), (14, zeroAt c.ps 14 2), (32, zeroAt c.ps 32 8)]
  else if key = 0x0002 then
    [(4, c.f 4 2 = 12), (9, c.f 9 1 ≤ 1), (10, 1 ≤ c.f 10 2 && c.f 10 2 ≤ 1440), (14, zeroAt c.ps 14 2)]
  else [(4, 1 ≤ c.f 4 2 && c.f 4 2 ≤ 1024)]

/-- The records staged on a channel. -/
def Dev.stagedOn (d : Dev) (ch : Nat) : List Staged := ((Tab.get d.chans ch).map Chan.staged).getD []

/-- The staged records with one more, which replaces one of its key and instance (R609). -/
def stageOne (l : List Staged) (x : Staged) : List Staged := (l.filter fun r => !(r.key = x.key && r.inst = x.inst)) ++ [x]

/-- The record that STORE_WRITE stages. -/
def stagedOf (c : Ctx) : Staged := ⟨c.f 0 2, c.f 2 2, c.ps.drop 8⟩

/-- STORE_WRITE (R609). -/
def storeWrite : OpSpec where
  op := 0x0B01
  targets := [0]
  set := .hub
  len := fun n => 8 ≤ n
  check := fun c _ =>
    if 8 + c.f 4 2 != c.ps.length then some ⟨0x04, 0x06, []⟩
    else firstBad ([(0, c.f 0 2 = 1 || c.f 0 2 = 2 || (0x8000 ≤ c.f 0 2 && c.f 0 2 ≤ 0x80FF))]
      ++ (configFields c).take 1 ++ [(6, zeroAt c.ps 6 2)] ++ (configFields c).drop 1)
  res := fun c w =>
    let l := stageOne (w.dev.stagedOn c.ch) (stagedOf c)
    if 16 < l.length || 16384 < (l.map fun r => r.payload.length).sum then noResource 0x02 0x00FE else none
  body := fun c w => (w.onChan c.ch fun x => { x with staged := stageOne x.staged (stagedOf c) }).ok c []

/-- Journal bytes of the records staged on a channel, their COMMIT record included. -/
def stagedBytes (l : List Staged) : Nat := (l.map fun r => 32 + alignUp r.payload.length 32).sum + 32

/-- Whether a listed format of a staged key cannot be written (R607): the previous image's, where it differs from the active one's. -/
def Dev.oldLost (d : Dev) (l : List Staged) : Bool :=
  !d.fw.confirmed && l.any fun r => (d.fw.slot d.fw.prev).info.writes r.key != d.fw.info.writes r.key

/-- Bytes that live records may take (R605). -/
def liveLimit : Nat := 24 * 2 ^ 20

/-- STORE_COMMIT (R605, R606, R610). -/
def storeCommit : OpSpec where
  op := 0x0B02
  targets := [0]
  set := .hub
  len := fun n => n = 0
  res := fun c w =>
    let l := w.dev.stagedOn c.ch
    if l.isEmpty then none
    else if 2 ^ 20 < lastDay w.dev.clk.mono w.dev.store.hostAppends + stagedBytes l then some ⟨0x07, 0, []⟩
    else if liveLimit < w.dev.store.liveBytes + stagedBytes l then noResource 0x02 0x00FE
    else none
  body := fun c w =>
    let l := w.dev.stagedOn c.ch
    if l.isEmpty then w.ok c (zeros 16)
    else
      let w := w.pend c (.storeCommit w.dev.store.nextTxn (w.dev.oldLost l))
      let w := w.journal true (l.map fun r => (r.key, w.dev.fw.info.writes r.key, r.inst, false, r.payload))
      (w.onChan c.ch fun x => { x with staged := [] }).onStore fun s =>
        { s with hostAppends := s.hostAppends ++ [(w.dev.clk.mono, stagedBytes l)] }

/-- Used counts of OWNER_KEY (R591): slots but slot 0. -/
def Fuse.ownerUsed (f : Fuse) : Nat := f.owner.length - 1

/-- Counts of the limited-change counters 1 to 4 (Table 19.3, R612): used, left. -/
def Fuse.counters (f : Fuse) : List (Nat × Nat) :=
  [(f.secVersion, 64 - f.secVersion), (f.sealCount, 32 - f.sealCount), (f.ceilingUsed, 8 - f.ceilingUsed), (f.ownerUsed, 16 - f.ownerUsed)]

/-- The 24 bytes of a flash in STORE_STATUS. -/
def Flash.status (f : Flash) (day : Nat) : List Byte :=
  toLe 1 (b2n (!f.ok)) ++ toLe 2 f.retired.length ++ zeros 1 ++ toLe 4 f.erases.2 ++ toLe 4 f.erases.1 ++ toLe 4 day ++ toLe 4 f.lap ++ zeros 4

/-- The 128 bytes of STORE_STATUS (R612). -/
def Dev.storeStatus (d : Dev) : List Byte :=
  let s := d.store
  let day := lastDay d.clk.mono s.appends
  padTo 128 (s.fa.status day ++ s.fb.status day ++ toLe 4 s.liveBytes ++ toLe 4 s.pendingBytes ++ toLe 4 s.limit
    ++ toLe 4 s.frame.bootCount ++ toLe 4 s.frame.cutCount ++ toLe 4 s.frame.holdupUs
    ++ toLe 4 (b2n s.mirrorLost + 2 * b2n s.framLost + 4 * b2n (!d.fw.confirmed))
    ++ (d.fuse.counters.zip [0, 0, s.abandoned.1, s.abandoned.2]).flatMap fun ((u, l), a) => toLe 1 u ++ toLe 1 l ++ toLe 1 a ++ zeros 1)

/-- STORE_STATUS (R612). -/
def storeStatus : OpSpec where
  op := 0x0B03
  targets := [0]
  set := .stat
  len := fun n => n = 0
  body := fun c w => w.ok c w.dev.storeStatus

/-- STORE_READ as a packet. -/
def execStoreRead (ch : Nat) (p : Packet) (s : State) : Out := run s (hostCommand storeRead ch p)

/-- STORE_WRITE as a packet. -/
def execStoreWrite (ch : Nat) (p : Packet) (s : State) : Out := run s (hostCommand storeWrite ch p)

/-- STORE_COMMIT as a packet. -/
def execStoreCommit (ch : Nat) (p : Packet) (s : State) : Out := run s (hostCommand storeCommit ch p)

/-- STORE_STATUS as a packet. -/
def execStoreStatus (ch : Nat) (p : Packet) (s : State) : Out := run s (hostCommand storeStatus ch p)

/-- Whether the store's controller runs: with power, or on the bulk capacitance (R600). -/
def Dev.storeRuns (d : Dev) : Bool := d.hubUp || d.hub.holdup.isSome

/-- FLASH_FAILURE (R599). -/
def execFlashFailure (fb : Bool) (s : State) : Out :=
  runT s fun w => if w.dev.storeRuns then (((w.failFlash fb).onStore Store.prune).finishCommits).release' else w

/-- FRAM_FRAME_WRITE (R588): at each whole second of global time; UPTIME_S counts outside OFF and STANDBY. -/
def execFramFrameWrite (s : State) : Out :=
  run s fun w =>
    if !w.dev.hubUp || w.dev.clk.now % 1000000000 != 0 then w
    else
      (w.onStore fun x =>
        if w.dev.hub.st = .standby then x else { x with frame := { x.frame with uptimeS := x.frame.uptimeS + 1 } }).writeFrame

/-- FLASH_PROGRAM_COMPLETE (R596, R604): the next copy of a record has been programmed and read back, or its read-back has failed. -/
def execFlashProgramComplete (ok : Bool) (s : State) : Out :=
  runT s fun w => if w.dev.storeRuns then w.flashDone ok else w

/-- A flash's tail sector given back (R604): erased, or retired where the erase fails. -/
def Flash.dropTail (f : Flash) (eraseOk : Bool) : Flash :=
  let (s, laps) := f.after f.tail
  { f with tail := s, tailLap := f.tailLap + laps, retired := if eraseOk then f.retired else f.retired ++ [f.tail] }

/-- JOURNAL_COMPACTION (R604): the live records of the tail sector are copied to the head as one transaction, the tail is erased. The
copies keep their place among the records of ERROR_HISTORY. -/
def execJournalCompaction (eraseOk : Bool) (s : State) : Out :=
  runT s fun w =>
    let f := if w.dev.store.fa.ok then w.dev.store.fa else w.dev.store.fb
    if !w.dev.hubUp || f.tail = f.head then w
    else
      let moved := fun (r : JRec) => r.sector = f.tail
      let n := ((w.dev.store.live.filter moved).map JRec.bytes).sum
      let w := w.onStore fun s =>
        let k := (s.live.filter moved).length
        let put := fun (x : Flash) => if !x.ok then x
          else ((s.live.filter moved).foldl (fun (x : Flash) r => x.append r.bytes) (if k = 0 then x else x.append 32)).dropTail eraseOk
        let (live, _) := s.live.foldl (fun (acc : List JRec × Nat) r =>
          if moved r then (acc.1 ++ [{ r with seq := acc.2, txn := s.nextTxn, sector := f.head }], acc.2 + 1) else (acc.1 ++ [r], acc.2))
          ([], s.nextSeq)
        { s with
          live := live, nextSeq := s.nextSeq + k + b2n (k != 0), nextTxn := s.nextTxn + b2n (k != 0)
          frame := { s.frame with flashBytes := s.frame.flashBytes + (b2n s.fa.ok + b2n s.fb.ok) * (n + 32 * b2n (k != 0)) }
          fa := put s.fa, fb := put s.fb }
      let w := if 64 < w.dev.store.fa.retired.length then w.failFlash false else w
      if 64 < w.dev.store.fb.retired.length then w.failFlash true else w

/-- COUNTER_SNAP (R595): every 24 hours of operation a copy of the frame is journalled. -/
def execCounterSnap (s : State) : Out :=
  run s fun w =>
    if w.dev.hubUp && w.dev.store.lastSnap + dayNs ≤ w.dev.clk.mono then
      (w.journal1 0x0031 0 w.dev.store.frame.bytes).onStore fun x => { x with lastSnap := w.dev.clk.mono }
    else w

/-- JOURNAL_BUDGET_RELEASE (R606): records that waited are written as the budget admits them. -/
def execJournalBudgetRelease (s : State) : Out := runT s fun w => if w.dev.hubUp then w.release' else w

end Sys2Proof.Machine
end

