-- ==== Sys2Proof/Machine/Regs.lean ====
section
/-! DEFINITION. The register space (R4 to R10, R16, R81 to R83, R690): the value of every register that the spec defines, and what a
write to each does. -/

namespace Sys2Proof.Machine

/-- Whether an address lies in a block window of Table 2.12 (R690). -/
def inRegs (a : Nat) : Bool :=
  let o := a % 0x1000000
  a < 0x700000 || (0x1000000 ≤ a && a < 0x5000000 && 0x100000 ≤ o && o < 0x840000)

/-- The feature die in whose window an address lies. -/
def dieOfReg (a : Nat) : Option Nat := if 0x1000000 ≤ a && a < 0x5000000 then some (a / 0x1000000 - 1) else none

/-- Seconds of uptime to the fall-back of R645; 0 when confirmed (Table 20.11). -/
def Dev.confirmLeft (d : Dev) : Nat := if d.fw.confirmed then 0 else d.fw.actUptime + d.fw.deadline - d.store.frame.uptimeS

/-- DYE_LOT of PREV, or 0. -/
def Fw.prevDyeLot (f : Fw) : Nat := if f.prev = 0xFF then 0 else f.prevDye

/-- Registers of the HUB block (Tables 2.7, 14.8 and 18.8). -/
def Dev.hubReg (d : Dev) (a : Nat) : Nat :=
  match a with
  | 0x0010 => d.hub.st.code + 16 * b2n d.hub.degraded + 256 * d.hub.prev + 65536 * d.runningTags
  | 0x2000 => d.feeds.length
  | 0x2004 => d.feedCnt.slow
  | 0x2008 => d.feedCnt.timeout
  | 0x200C => d.feedCnt.corrupt
  | 0x2010 => d.feedCnt.latepost
  | 0x2014 => d.feedCnt.lowwater
  | 0x2018 => d.feedCnt.badmsg
  | 0x201C => d.feedCnt.stall
  | 0x2020 => d.feedCnt.early
  | 0x3000 => d.degCond + d.hub.failCause * 2 ^ 24
  | 0x3028 => d.log.lost
  | 0x302C => d.log.supp
  | 0x3030 => d.hub.sramCe.toNat
  | 0x3034 => d.hub.ringRetry.toNat
  | _ =>
    if 0x3010 ≤ a && a < 0x3020 && a % 4 = 0 then
      let k := (a - 0x3010) / 4
      let x := d.die k
      b2n x.sliceSpare.isSome + 256 * d.offline k + 65536 * x.spares + 2 ^ 24 * x.bound
    else if 0x3040 ≤ a && a < 0x3050 && a % 4 = 0 then (d.die ((a - 0x3040) / 4)).jsCe
    else 0

/-- Registers of the ETH block (Tables 3.7 and 3.8), by offset. -/
def Eth.reg (e : Eth) (o : Nat) : Nat :=
  match o with
  | 0x00 => b2n e.linkUp + 2 * b2n e.pcs + 256 * e.laneLock.toNat
  | 0x04 => e.cfg.toNat
  | 0x08 => e.cmdDrop
  | 0x0C => e.rxDrop
  | 0x10 => e.raccErr
  | 0x14 => e.fecCorr
  | 0x18 => e.fecUncorr
  | _ => 0

/-- CXL_PORT_STATUS (Table 4.9): a port with a switch has one link of 16 lanes. -/
def Dev.cxlStatus (d : Dev) (p : Nat) : Nat :=
  let up := if d.hub.rails && !d.hub.cxlOut.contains p then
      d.ms.attached.filter fun e => e.port = p && !(d.ms.expanders.any fun x => x.port = p && x.pos = e.pos && x.failed)
    else []
  let lanes := if bits d.ms.cxlCfg.toNat (2 * p) 2 = 3 then (if up.isEmpty then 0 else 16) else (up.map Expander.lanes).sum
  b2n (!up.isEmpty) + 256 * min lanes 255 + 65536 * min (d.ms.expanders.filter fun e => e.port = p).length 15

/-- Registers of the CXL block (Table 4.9), by offset. -/
def Dev.cxlReg (d : Dev) (o : Nat) : Nat :=
  if o = 0 then d.ms.cxlCfg.toNat
  else if 0x100 ≤ o && o < 0x500 then
    let p := (o - 0x100) / 0x100
    if o % 0x100 = 0 then d.cxlStatus p else if o % 0x100 = 4 then Tab.getD d.ms.cxlPoison p 0 else 0
  else 0

/-- Registers of the PWR block (Table 17.7), by offset, but for the 64-bit pairs. PWR_TRIP_SRC holds a value only after a trip. -/
def Dev.pwrReg (d : Dev) (o : Nat) : Nat :=
  let p := d.pwr
  match o with
  | 0x00 => p.step + 256 * p.ceil + 2 ^ 20 * p.limitReason + 2 ^ 24 * b2n p.flowLost + 2 ^ 25 * b2n p.divergence
      + 2 ^ 26 * b2n p.sensorSuspect + 2 ^ 27 * b2n p.modelSuspect + 2 ^ 28 * b2n p.gaugeUnreached
  | 0x04 => p.capSet
  | 0x08 => d.fuse.ceilingW
  | 0x0C => p.stepLim
  | 0x10 => p.tjCfg.toNat
  | 0x20 => min d.pin.vin 0xFFFF
  | 0x24 => min d.pin.iin 0xFFFF
  | 0x28 => satFloor 16 p.pMeas + 65536 * satFloor 16 p.pEst
  | 0x2C => unsext 16 d.pin.inlet
  | 0x50 => unsext 16 p.hbmMax.2 + 65536 * p.hbmMax.1
  | 0x70 => d.hub.trip.toNat
  | 0x74 => p.droopCnt
  | 0x78 => p.ilimCnt
  | 0x7C => p.divCnt
  | _ =>
    if o % 4 != 0 then 0
    else if 0x40 ≤ o && o < 0x50 then
      let t := p.tjMax.getD ((o - 0x40) / 4) (0, 0)
      unsext 16 t.2 + 2 ^ 24 * t.1
    else if 0x60 ≤ o && o < 0x70 then p.trim.getD ((o - 0x60) / 4) 0
    else if 0x100 ≤ o && o < 0x300 && (o - 0x100) % 0x80 < 76 then p.vBase.getD ((o - 0x100) / 0x80 * 19 + (o - 0x100) % 0x80 / 4) 0 % 1024
    else if 0x2000 ≤ o && o < 0x2034 then coefBits (p.coef.getD ((o - 0x2000) / 4) 0)
    else 0

/-- Registers of the SEC block (Table 20.11), by offset. -/
def Dev.secReg (d : Dev) (o : Nat) : Nat :=
  match o with
  | 0x00 => d.fw.run + 4 * b2n (!d.fw.confirmed) + 256 * d.fw.info.secVersion + 65536 * d.fuse.secVersion + 2 ^ 24 * d.fw.failedBoots
  | 0x04 => d.fw.info.dye
  | 0x08 => d.fw.prevDyeLot
  | 0x0C => d.confirmLeft
  | 0x10 => d.fw.authFail
  | _ => 0

/-- Registers of the STORE block (Table 19.8), by offset. -/
def Dev.storeReg (d : Dev) (o : Nat) : Nat :=
  let s := d.store
  match o with
  | 0x00 => b2n s.fa.ok + 2 * b2n s.fb.ok + 16 * b2n (decide (s.limit = 32768)) + 32 * b2n s.mirrorLost + 64 * b2n s.framLost
      + 128 * b2n (!d.fw.confirmed)
  | 0x04 => s.pendingBytes
  | 0x08 => s.frame.bootCount
  | 0x0C => s.frame.cutCount
  | 0x10 => s.frame.holdupUs
  | 0x14 => s.liveBytes
  | 0x18 => s.fa.erases.1
  | 0x1C => s.fb.erases.1
  | _ => 0

/-- Registers of the SVC block (Table 21.4), by offset. -/
def Dev.svcReg (d : Dev) (o : Nat) : Nat :=
  match o with
  | 0x00 => b2n d.svc.rom + 2 * b2n d.pin.serviceMode + 4 * b2n (decide (d.hub.st = .service)) + 8 * b2n d.svc.unsealed + 256 * d.ladder
  | 0x04 => d.svc.baud
  | 0x08 => d.svc.cmdCnt
  | _ => 0

/-- The transposition networks of a die that serve a pair (Table 5.7): each network serves one pair of the die's streams; which
networks do is a free choice. -/
def Dev.xnetBusy (d : Dev) (k : Nat) : Nat :=
  let n := ((d.strms.filter fun (i, _) => i / 1024 = k).map fun (_, s) =>
    (s.tiles.filter fun t => t.issued && t.src.xform != 0).length).sum
  let ms := (List.range 16).filter fun m => ((List.range 4).filter fun b => bit m b).length = min n 4
  ms.getD (Config.freeNat d.freeCtr % ms.length) 0

/-- Registers of the STRM sub-block of a die (Tables 5.7 and 6.8), by offset. -/
def Dev.strmReg (d : Dev) (k o : Nat) : Nat :=
  let x := d.die k
  match o with
  | 0xF000 => x.oobRd
  | 0xF004 => x.oobWr
  | 0xF008 => x.halfRun
  | 0xF00C => x.overlap
  | 0xF010 => x.ovlMiss
  | 0xF014 => x.descFmt
  | 0xF018 => x.strBad
  | 0xF01C => d.xnetBusy k
  | 0xF020 => x.late
  | 0xF024 => x.halt
  | 0xF028 => x.boundLost
  | 0xF02C => ((d.strms.filter fun (i, _) => i / 1024 = k).map fun (_, s) => s.ops.length).sum
  | 0xF030 => (d.strms.filter fun (i, _) => i / 1024 = k).length
  | _ =>
    if o < 0x4000 then
      match Tab.get d.strms (1024 * k + o / 16) with
      | none => 0
      | some s =>
        let live := s.state != 1
        match o % 16 with
        | 0 => s.state + 256 * (if live then s.look else 0) + 2048 * b2n (live && s.boundLost) + 4096 * b2n s.shadow.isSome
            + 65536 * (s.sgen % 65536)
        | 4 => s.endEntry % 65536 + 65536 * (s.endTile % 65536)
        | 8 => s.ops.length
        | 12 => s.late
        | _ => 0
    else 0

/-- SCHED_CORE_j (Table 8.5): the slot in RUN is valid while a task runs, free otherwise. -/
def Dev.schedCore (d : Dev) (n : Nat) : Nat :=
  let ready := fun l => (Tab.getD d.ready (readyKey n l) []).length
  let top := ((List.range 16).reverse.find? fun l => ready l != 0).getD 0
  let total := ((List.range 16).map ready).sum
  (match (d.core n).run with
    | some t => t + 2 ^ 31
    | none => Config.freeNat d.freeCtr % 4096) + 4096 * top + 65536 * total

/-- The code of a slot's state (Table 8.1). -/
def SlotState.code : SlotState → Nat
  | .wait => 1 | .delay => 2 | .ready => 3 | .run => 4 | .done => 5 | .faulted => 6

/-- SCHED_SLOT_k (Table 8.5): a FREE slot reads as after reset; the object waited on is valid in WAIT, free otherwise. -/
def Dev.schedSlot (d : Dev) (die k : Nat) : Nat :=
  match Tab.get d.slots (slotKey die k) with
  | none => 0
  | some s =>
    (match s.st, s.obj with
      | .wait, some o => o % 8192
      | _, _ => Config.freeNat d.freeCtr % 8192) + 2 ^ 18 * (s.rec'.core % 64) + 2 ^ 24 * s.rec'.prio + 2 ^ 28 * s.st.code

/-- Registers of the SCHED and SYNC sub-block of a die (Table 8.5), by offset, but for SYNC_VAL. -/
def Dev.schedReg (d : Dev) (k o : Nat) : Nat :=
  let x := d.die k
  match o with
  | 0x0 => d.clk.settle.tick
  | 0x4 => x.delay.length + 65536 * (4096 - (d.slots.filter fun (i, _) => i / 4096 = k).length)
  | 0x8 => x.schedTo
  | 0xC => x.syncStall
  | _ =>
    if o % 4 != 0 then 0
    else if 0x100 ≤ o && o < 0x200 then d.schedCore (64 * k + (o - 0x100) / 4)
    else if 0x10000 ≤ o && o < 0x14000 then d.schedSlot k ((o - 0x10000) / 4)
    else if 0x80000 ≤ o && o < 0x88000 && o % 16 = 8 then
      let i := 2048 * k + (o - 0x80000) / 16
      match Tab.get d.syncs i with
      | none => 0
      | some s => d.hstate 5 i + 256 * b2n (!s.boundBy.isEmpty) + 512 * b2n s.sat + 65536 * (s.takers.length + s.reachers.length)
    else 0

/-- The greatest trim of a stack in magnitude (MEM_TRIM_WORST). -/
def Dev.worstTrim (d : Dev) (s : Nat) : Int :=
  (List.range 32).foldl (fun w pc =>
    let t := Tab.getD d.ms.trims (32 * s + pc) 0
    if w.natAbs < t.natAbs then t else w) 0

/-- Registers of the MEM sub-block of a die (Table 4.8), by offset. -/
def Dev.memReg (d : Dev) (k o : Nat) : Nat :=
  let stack := fun b => 6 * k + (o - b) / 4
  if o % 4 != 0 then 0
  else if o = 0 then (Tab.getD d.ms.scrubCfg k 0x801#32).toNat
  else if 0x10 ≤ o && o < 0x28 then
    let s := stack 0x10
    let spare := (List.range 32).foldl (fun m pc => min m (16 - Tab.getD d.ms.spareUsed (32 * s + pc) 0)) 16
    b2n (d.ms.trained.contains s) + 256 * unsext 8 (d.worstTrim s) + 65536 * spare + 2 ^ 24 * min (d.ms.retiredOf s).length 255
  else if 0x40 ≤ o && o < 0x58 then Tab.getD d.ms.ceCnt (stack 0x40) 0
  else if 0x60 ≤ o && o < 0x78 then Tab.getD d.ms.ueCnt (stack 0x60) 0
  else 0

/-- Bits of the engines of a class on a die for which a test holds. -/
def engBits (n : Nat) (f : Nat → Bool) : Nat := ((List.range n).map fun e => b2n (f e) * 2 ^ e).sum

/-- The status register of an engine class (Tables 9.15, 10.9, 11.9, 12.4, 13.9). -/
def Dev.engStatus (d : Dev) (k cls : Nat) : Nat :=
  let busy := d.engBusy k cls
  let parked := fun e => (d.engItems k cls e).any fun x => x.2.parked
  match cls with
  | 2 => engBits 8 busy + 256 * engBits 8 parked
  | 3 => engBits 2 busy + 4 * engBits 2 parked + 16 * engBits 2 fun a => (Tab.getD d.omas (2 * k + a) {}).shift
  | 5 => engBits 4 busy + 16 * engBits 4 parked + 256 * engBits 2 fun e => busy (4 + e)
  | _ => engBits 4 busy + 16 * engBits 4 parked

/-- The registers of a queue (R302, R303), by offset in its 32 bytes. -/
def EngQ.reg (q : EngQ) (o : Nat) : Nat :=
  match o with
  | 0x00 => q.ring % 2 ^ 32
  | 0x04 => q.ring / 2 ^ 32 % 2 ^ 20
  | 0x08 => q.count + 2 ^ 14 * q.submit + 2 ^ 25 * q.job + 2 ^ 31 * b2n q.en
  | 0x0C => q.head + 65536 * q.items.length
  | 0x10 => q.seq % 2 ^ 32
  | _ => 0

/-- Registers of an engine class on a die, by offset in its 512 bytes, but for the 64-bit counters. -/
def Dev.engReg (d : Dev) (k cls o : Nat) : Nat :=
  if 0x100 ≤ o then (d.queue (queueKey k cls ((o - 0x100) / 0x20))).reg (o % 0x20)
  else if o = 0 then d.engStatus k cls
  else if cls = 3 && (o = 0x10 || o = 0x14) then
    let a := Tab.getD d.omas (2 * k + (o - 0x10) / 4) {}
    a.entries.length + 2 ^ 30 * a.kind
  else if cls = 5 && o = 0xC then Tab.getD d.embSeed k 0
  else Tab.getD d.engCnt (engBase k cls + o) 0

/-- The low words of the 64-bit counters of an engine class. -/
def engWide (cls : Nat) : List Nat := [[0x10, 0x18], [0x10, 0x18], [0x10], [0x20], [0x10], [0x10, 0x18]].getD cls []

/-- The engine class whose 512 bytes of registers hold an offset of a die window, with the offset in them. -/
def engOfReg (o : Nat) : Option (Nat × Nat) :=
  (List.range 6).findSome? fun cls =>
    let b := engBase 0 cls - 0x1000000
    if b ≤ o && o < b + 0x200 then some (cls, o - b) else none

/-- CORE_CYC (Table 7.10; DEDUCED, log entry 44). -/
def Dev.coreCyc (d : Dev) (n : Nat) : Nat :=
  (((d.pwr.cyc : Int) - (d.die (n / 64)).cycBase + (d.core n).cyc) / 20).toNat % 2 ^ 64

/-- Registers of the window of a logical core (Table 7.10, R271), by offset, but for CORE_CYC. Instructions do not overlap in this
model: the vector and matrix units are never busy between commands. -/
def Dev.coreReg (d : Dev) (n o : Nat) : Nat :=
  let p := d.physOfCore n
  let c := d.core n
  if o = 0 then p
  else if 68 ≤ p then 0
  else match o with
    | 0x04 => b2n (!bit (d.die (n / 64)).coreRetired p) + 2 * b2n c.offline + 2 ^ 24 * d.coreStep n
    | 0x08 => c.fpCtl.toNat
    | 0x0C => c.fpStat.toNat
    | 0x10 => c.srSeed.toNat
    | 0x14 => c.faultKind
    | 0x18 => c.faultPc % 2 ^ 32
    | 0x1C => c.faultAddr % 2 ^ 32
    | 0x28 => c.matCyc % 2 ^ 32
    | 0x2C => c.vecCyc % 2 ^ 32
    | 0x30 => c.ce
    | _ => 0

/-- Registers of the YL sub-block of a die (Table 16.7), by offset. -/
def Dev.ylReg (d : Dev) (k o : Nat) : Nat :=
  if o = 0x800 then Tab.getD d.sys.cfg k 1
  else if o < 0x200 then
    let l := d.link (8 * k + o / 0x40)
    match o % 0x40 with
    | 0x00 => l.shown + 256 * (if l.works then Nat.land 31 (31 - l.rxRetired % 32) else 0) + 2 ^ 16 * l.state + 2 ^ 20 * l.role
        + 2 ^ 24 * l.logical
    | 0x04 => l.fecCorr
    | 0x08 => l.fecUncorr
    | 0x0C => l.replays
    | 0x10 => l.rxRefuse
    | 0x14 => l.rxTiles
    | _ => 0
  else 0

/-- The 64-bit value whose low word stands at an address. -/
def Dev.wide (d : Dev) (a : Nat) : Option Nat :=
  match dieOfReg a with
  | none =>
    match a with
    | 0x3020 => some d.log.next
    | 0x301200 => some (wholeUj d.pwr.enMeas)
    | 0x301208 => some (wholeUj d.pwr.enEst)
    | 0x400014 => some d.fuse.serial
    | 0x500020 => some d.store.nextSeq
    | _ => if 0x301000 ≤ a && a < 0x301200 && a % 8 = 0 then some (wholeUj (Tab.getD d.pwr.en ((a - 0x301000) / 8) 0)) else none
  | some k =>
    let o := a % 0x1000000
    if 0x280000 ≤ o && o < 0x288000 && o % 16 = 0 then
      some (((Tab.get d.syncs (2048 * k + (o - 0x280000) / 16)).map Sync.val).getD 0)
    else if 0x800000 ≤ o && o % 0x1000 = 0x20 then
      let n := 64 * k + (o - 0x800000) / 0x1000
      if 68 ≤ d.physOfCore n then none else some (d.coreCyc n)
    else match engOfReg o with
      | some (cls, r) => if (engWide cls).contains r then some (Tab.getD d.engCnt a 0) else none
      | none => none

/-- The value of a register of 32 bits that is no half of a 64-bit pair; 0 where the spec defines none (R690). -/
def Dev.reg (d : Dev) (a : Nat) : Nat :=
  let o := a % 0x1000000
  match dieOfReg a with
  | none =>
    match a / 0x100000 with
    | 0 => d.hubReg a
    | 1 => d.eth.reg (a % 0x100000)
    | 2 => d.cxlReg (a % 0x100000)
    | 3 => d.pwrReg (a % 0x100000)
    | 4 => d.secReg (a % 0x100000)
    | 5 => d.storeReg (a % 0x100000)
    | 6 => d.svcReg (a % 0x100000)
    | _ => 0
  | some k =>
    match engOfReg o with
    | some (cls, r) => d.engReg k cls r
    | none =>
      if 0x800000 ≤ o then d.coreReg (64 * k + (o - 0x800000) / 0x1000) (o % 0x1000)
      else match o / 0x100000 with
        | 1 => d.strmReg k (o % 0x100000)
        | 2 => d.schedReg k (o % 0x100000)
        | 3 => d.memReg k (o % 0x100000)
        | 7 => d.ylReg k (o % 0x100000)
        | _ => 0

/-- A read of a register: the low word of a pair latches the high word, the high word reads as latched (R338, R560). Each read uses up
one free value, which a field that is not valid may show. -/
def W.readReg (w : W) (a : Nat) : Nat × W :=
  let d := w.dev
  let next := fun (w : W) => w.onDev fun d => { d with freeCtr := d.freeCtr + 1 }
  match d.wide a with
  | some v => (v % 2 ^ 32, next (w.onDev fun d => { d with latch := Tab.put d.latch (a + 4) (v / 2 ^ 32) }))
  | none =>
    if 4 ≤ a && (d.wide (a - 4)).isSome then (Tab.getD d.latch a 0, next w) else (d.reg a % 2 ^ 32, next w)

/-- n consecutive registers read in ascending order. -/
def W.readRegs (w : W) (a : Nat) : Nat → List Nat × W
  | 0 => ([], w)
  | n + 1 =>
    let (v, w) := w.readReg a
    let (vs, w) := w.readRegs (a + 4) n
    (v :: vs, w)

/-- A register value with the bits of its RW fields that MASK selects replaced (R82). -/
def mergeRw (old v m fields : Nat) : Nat :=
  let sel := Nat.land m fields
  old - Nat.land old sel + Nat.land v sel

/-- The bits of a value that MASK lets through (R82). -/
def masked (v m : Nat) : Nat := Nat.land v m

/-- ETH_CFG after a write (Table 3.7, R8): RWL fields change while ETH_LOCK is 0. -/
def ethCfgAfter (old v m : Nat) : Nat :=
  let rwl := if bit old 23 then 0 else 0xFE000FFF
  Nat.lor (mergeRw old v m (0x0101F000 + rwl)) (Nat.land (masked v m) 0x00800000)

/-- CXL_CFG after a write (Table 4.9). -/
def cxlCfgAfter (old v m : Nat) : Nat :=
  Nat.lor (mergeRw old v m (if bit old 8 then 0 else 0xFF)) (Nat.land (masked v m) 0x100)

/-- PWR_TJ_CFG after a write (Table 17.7). -/
def tjCfgAfter (old v m : Nat) : Nat :=
  Nat.lor (mergeRw old v m (if bit old 31 then 0 else 0xFFFF)) (Nat.land (masked v m) 0x80000000)

/-- A queue's Q_CFG after a write (R303): the fields change while Q_EN is 0; setting Q_EN with a bad Q_COUNT leaves it 0. -/
def W.writeQCfg (w : W) (key v m : Nat) : W :=
  let q := w.dev.queue key
  let c := mergeRw ((q.reg 8)) v m (if q.en then 0x80000000 else 0xFFFFDFFF)
  if q.en then (if bit c 31 then w else w.onQueue key fun q => { q with en := false })
  else
    let w := w.onQueue key fun q => { q with count := bits c 0 13, submit := bits c 14 11, job := bits c 25 6 }
    if bit c 31 then w.enableQueue key else w

/-- A write to a register of a queue. -/
def W.writeQueue (w : W) (key o v m : Nat) : W :=
  let q := w.dev.queue key
  match o with
  | 0x00 => if q.en then w else w.onQueue key fun q => { q with ring := q.ring - q.ring % 2 ^ 32 + mergeRw (q.reg 0) v m 0xFFFFFF80 }
  | 0x04 => if q.en then w else w.onQueue key fun q => { q with ring := q.ring % 2 ^ 32 + 2 ^ 32 * mergeRw (q.reg 4) v m 0xFFFFF }
  | 0x08 => w.writeQCfg key v m
  | _ => w

/-- EMB_SR_SEED of a die written: its six units are seeded afresh (R432). -/
def W.writeEmbSeed (w : W) (k seed : Nat) : W :=
  w.onDev fun d =>
    { d with
      embSeed := Tab.put d.embSeed k seed
      ruus := d.ruus.map fun (s, r) => (s, if dieOfStack s = k then { r with gen := none } else r) }

/-- A write to a register of a core's window (R271, R272): without effect where no core is bound. A write to CORE_SR_SEED seeds every
lane (R257). -/
def W.writeCore (w : W) (n o v m : Nat) : W :=
  if 68 ≤ w.dev.physOfCore n then w
  else match o with
    | 0x08 => w.onCore n fun c => { c with fpCtl := BitVec.ofNat 32 (mergeRw c.fpCtl.toNat v m 0xC7) }
    | 0x0C => w.onCore n fun c => { c with fpStat := BitVec.ofNat 32 (c.fpStat.toNat - Nat.land c.fpStat.toNat (masked v m)) }
    | 0x10 => w.onCore n fun c => { c with srSeed := BitVec.ofNat 32 (mergeRw c.srSeed.toNat v m 0xFFFFFFFF), gens := [] }
    | _ => w

/-- A write to PWR_CEILING (R6, R7, R540): status, detail and the device. -/
def W.writeCeiling (w : W) (v : Nat) : Nat × Nat × W :=
  if v ≤ w.dev.fuse.ceilingW then (0, 0, w)
  else if !w.dev.ceilingRaises v then (0x04, 0x44, w)
  else if w.dev.fuse.ceilingLeft = 0 then (0x0A, ctrCeiling, w)
  else if w.dev.slotReads then (0, 0, w.burnCeiling v)
  else (0x0E, ctrCeiling, w.burnCeiling v)

/-- A write to a register of the PWR block (Table 17.7, R539 to R541). -/
def W.writePwr (w : W) (o v m : Nat) : Nat × Nat × W :=
  let p := w.dev.pwr
  match o with
  | 0x04 => (0, 0, w.onPwr fun p => { p with capSet := mergeRw p.capSet v m 0xFFFF })
  | 0x08 => w.writeCeiling (mergeRw w.dev.fuse.ceilingW v m 0xFFFF)
  | 0x0C => (0, 0, (w.onPwr fun p => { p with stepLim := mergeRw p.stepLim v m 31 }).settleStep)
  | 0x10 => (0, 0, w.onPwr fun _ => { p with tjCfg := BitVec.ofNat 32 (tjCfgAfter p.tjCfg.toNat v m) })
  | _ => (0, 0, w)

/-- A write to a register of a die's window but its engines and cores. -/
def W.writeDie (w : W) (k o v m : Nat) : W :=
  if o = 0x300000 then
    w.onMs fun x => { x with scrubCfg := Tab.upd x.scrubCfg k 0x801#32 fun c => BitVec.ofNat 32 (mergeRw c.toNat v m 0xFF01) }
  else if o = 0x700800 then w.onSys fun s => { s with cfg := Tab.upd s.cfg k 1 fun c => mergeRw c v m 1 }
  else w

/-- REG_WRITE's effect (R82): status, detail and the device. An address without a register, or a register without a field that software
writes, is left as it is (R5, R690). -/
def W.writeReg (w : W) (a v m : Nat) : Nat × Nat × W :=
  let o := a % 0x1000000
  match dieOfReg a with
  | none =>
    if a = 0x100004 then
      let old := w.dev.eth.cfg.toNat
      let c := ethCfgAfter old v m
      if !bit old 23 && bits c 29 3 = bits c 26 3 then (0x04, 0x44, w)
      else (0, 0, w.onEth fun e => { e with cfg := BitVec.ofNat 32 c })
    else if a = 0x200000 then (0, 0, w.onMs fun x => { x with cxlCfg := BitVec.ofNat 32 (cxlCfgAfter x.cxlCfg.toNat v m) })
    else if a / 0x100000 = 3 then w.writePwr (a % 0x100000) v m
    else (0, 0, w)
  | some k =>
    match engOfReg o with
    | some (cls, r) =>
      (0, 0,
        if 0x100 ≤ r then w.writeQueue (queueKey k cls ((r - 0x100) / 0x20)) (r % 0x20) v m
        else if cls = 5 && r = 0xC then w.writeEmbSeed k (mergeRw (Tab.getD w.dev.embSeed k 0) v m 0xFFFFFFFF)
        else w)
    | none => (0, 0, if 0x800000 ≤ o then w.writeCore (64 * k + (o - 0x800000) / 0x1000) (o % 0x1000) v m else w.writeDie k o v m)

/-- Whether a range of registers lies in the windows and begins at a multiple of 4 (R83). -/
def rangeOk (a n : Nat) : Bool := a % 4 = 0 && inRegs a && inRegs (a + 4 * (n - 1)) && dieOfReg a = dieOfReg (a + 4 * (n - 1))

/-- Whether the registers at an address can be reached: those of a die only with its power on and no reset under way (R83). -/
def Dev.regUp (d : Dev) (a : Nat) : Bool := (dieOfReg a).all d.dieUp

/-- REG_READ (R81). -/
def regRead : OpSpec where
  op := 0x0C00
  targets := [0]
  set := .stat
  len := fun n => n = 8
  check := fun c _ => firstBad [(0, rangeOk (c.f 0 4) (c.f 4 2)), (4, 1 ≤ c.f 4 2 && c.f 4 2 ≤ 1008), (6, zeroAt c.ps 6 2)]
  conflict := fun c w => if w.dev.regUp (c.f 0 4) then none else some 0
  body := fun c w =>
    let (vs, w) := w.readRegs (c.f 0 4) (c.f 4 2)
    w.ok c (vs.flatMap (toLe 4))

/-- REG_WRITE (R82). -/
def regWrite : OpSpec where
  op := 0x0C01
  targets := [0]
  set := .hub
  len := fun n => n = 12
  check := fun c _ => firstBad [(0, rangeOk (c.f 0 4) 1)]
  conflict := fun c w => if w.dev.regUp (c.f 0 4) then none else some 0
  body := fun c w =>
    let (st, detail, w) := w.writeReg (c.f 0 4) (c.f 4 4) (c.f 8 4)
    w.reply c.ch c.hdr c.op st detail []

/-- The parameters of REG_WRITE. -/
def regWriteParams (a : Nat) (v m : Word) : List Byte := toLe 4 a ++ toLe 4 v.toNat ++ toLe 4 m.toNat

/-- A REG_WRITE packet to an address. -/
def writeTo (ch : Nat) (h : Header) (a : Nat) (v m : Word) (s : State) : Out :=
  run s (hostCommand regWrite ch ⟨h, regWriteParams a v m⟩)

/-- REG_READ as a packet. -/
def execRegRead (ch : Nat) (p : Packet) (s : State) : Out := run s (hostCommand regRead ch p)

/-- REGISTER_WRITE: REG_WRITE as a packet. -/
def execRegisterWrite (ch : Nat) (p : Packet) (s : State) : Out := run s (hostCommand regWrite ch p)

/-- The register that holds a block's LOCK bit. -/
def lockReg : LockBlock → Nat
  | .eth => 0x100004 | .cxl => 0x200000 | .pwr => 0x300010

/-- LOCK_BIT_SET (R8). -/
def execLockBitSet (ch : Nat) (h : Header) (block : LockBlock) (value mask : Word) (s : State) : Out :=
  writeTo ch h (lockReg block) value mask s

/-- ETH_CFG_WRITE (R116). -/
def execEthCfgWrite (ch : Nat) (h : Header) (value mask : Word) (s : State) : Out := writeTo ch h 0x100004 value mask s

/-- CORE_SR_SEED_WRITE (R257). -/
def execCoreSrSeedWrite (ch : Nat) (h : Header) (core : Nat) (value mask : Word) (s : State) : Out :=
  if core < 256 then writeTo ch h (dieBase (core / 64) + 0x800010 + 0x1000 * (core % 64)) value mask s else run s id

/-- EMB_SR_SEED_WRITE (R432). -/
def execEmbSrSeedWrite (ch : Nat) (h : Header) (die : Nat) (value mask : Word) (s : State) : Out :=
  if die < 4 then writeTo ch h (engBase die 5 + 0xC) value mask s else run s id

/-- The address of Q_CFG of a queue. -/
def qCfgReg (die : Nat) (cls : EngClass) (q : Nat) : Nat := engBase die (classCode cls) + 0x108 + 0x20 * q

/-- Q_EN_SET (R303). -/
def execQEnSet (ch : Nat) (h : Header) (die : Nat) (cls : EngClass) (queue : Nat) (s : State) : Out :=
  if die < 4 && queue < 8 then writeTo ch h (qCfgReg die cls queue) 0x80000000#32 0x80000000#32 s else run s id

/-- Q_EN_CLEAR (R303). -/
def execQEnClear (ch : Nat) (h : Header) (die : Nat) (cls : EngClass) (queue : Nat) (s : State) : Out :=
  if die < 4 && queue < 8 then writeTo ch h (qCfgReg die cls queue) 0#32 0x80000000#32 s else run s id

/-- PWR_CAP_SET_WRITE (R539). -/
def execPwrCapSetWrite (ch : Nat) (h : Header) (value mask : Word) (s : State) : Out := writeTo ch h 0x300004 value mask s

/-- PWR_CEILING_WRITE (R540). -/
def execPwrCeilingWrite (ch : Nat) (h : Header) (value mask : Word) (s : State) : Out := writeTo ch h 0x300008 value mask s

/-- PWR_STEP_LIM_WRITE (R541). -/
def execPwrStepLimWrite (ch : Nat) (h : Header) (value mask : Word) (s : State) : Out := writeTo ch h 0x30000C value mask s

/-- LOW_WORD_LATCH_READ (R338): REG_READ of one register. -/
def execLowWordLatchRead (ch : Nat) (h : Header) (addr : Word) (s : State) : Out :=
  run s (hostCommand regRead ch ⟨h, toLe 4 addr.toNat ++ toLe 2 1 ++ zeros 2⟩)

end Sys2Proof.Machine
end

