-- ==== Sys2Proof/Machine/Dump.lean ====
section
/-! DEFINITION. DIAG_DUMP (R663): the registers that the spec defines, by section, the error log and the telemetry records. -/

namespace Sys2Proof.Machine

/-- n registers from an address. -/
def regsFrom (a n : Nat) : List Nat := (List.range n).map fun k => a + 4 * k

/-- The registers of the hub blocks HUB to SVC, ascending (section 0). -/
def hubRegList : List Nat :=
  0x10 :: regsFrom 0x2000 9 ++ 0x3000 :: regsFrom 0x3010 10 ++ regsFrom 0x3040 4 ++ regsFrom 0x100000 7
    ++ 0x200000 :: ((List.range 4).flatMap fun p => regsFrom (0x200100 + 0x100 * p) 2)
    ++ regsFrom 0x300000 5 ++ regsFrom 0x300020 4 ++ regsFrom 0x300040 5 ++ regsFrom 0x300060 8
    ++ ((List.range 4).flatMap fun d => regsFrom (0x300100 + 0x80 * d) 19) ++ regsFrom 0x301000 132 ++ regsFrom 0x302000 13
    ++ regsFrom 0x400000 7 ++ regsFrom 0x500000 10 ++ regsFrom 0x600000 3

/-- The registers of eight queues, from the first (R302). -/
def queueRegList (a : Nat) : List Nat := (List.range 8).flatMap fun q => regsFrom (a + 0x20 * q) 5

/-- The registers of a feature die, ascending, by offset in its window (sections 1 to 4). -/
def dieRegList : List Nat :=
  regsFrom 0x100000 4096 ++ regsFrom 0x10F000 13
    ++ regsFrom 0x200000 4 ++ regsFrom 0x200100 64 ++ regsFrom 0x210000 4096 ++ ((List.range 2048).flatMap fun i => regsFrom (0x280000 + 16 * i) 3)
    ++ 0x300000 :: regsFrom 0x300010 6 ++ regsFrom 0x300040 6 ++ regsFrom 0x300060 6
    ++ regsFrom 0x300200 12 ++ regsFrom 0x300240 6 ++ queueRegList 0x300300
    ++ regsFrom 0x400000 3 ++ regsFrom 0x400010 7 ++ queueRegList 0x400100
    ++ regsFrom 0x500000 3 ++ regsFrom 0x500010 2 ++ regsFrom 0x500020 4 ++ queueRegList 0x500100
    ++ regsFrom 0x600000 6 ++ queueRegList 0x600100 ++ regsFrom 0x604000 8 ++ queueRegList 0x604100
    ++ regsFrom 0x608000 8 ++ queueRegList 0x608100
    ++ ((List.range 8).flatMap fun j => regsFrom (0x700000 + 0x40 * j) 6) ++ 0x700800 :: (List.range 64).flatMap fun j => regsFrom (0x800000 + 0x1000 * j) 13

/-- Pairs of address and value for registers read in order. -/
def W.dumpRegs (w : W) : List Nat → List Byte × W
  | [] => ([], w)
  | a :: t =>
    let (v, w) := w.readReg a
    let (bs, w) := w.dumpRegs t
    (toLe 4 a ++ toLe 4 v ++ bs, w)

/-- The body of a section. -/
def W.dumpBody (w : W) (id : Nat) : List Byte × W :=
  match id with
  | 0 => w.dumpRegs hubRegList
  | 5 => (w.dev.log.recs.flatMap LogRec.bytes, w)
  | 6 => (w.dev.pwr.telem.flatten, w)
  | k => if w.dev.hub.rails then w.dumpRegs (dieRegList.map (dieBase (k - 1) + ·)) else ([], w)

/-- The sections of a dump in ascending order, each with its header. -/
def W.dump (w : W) : List Nat → List Byte × W
  | [] => ([], w)
  | id :: t =>
    let (b, w) := w.dumpBody id
    let (bs, w) := w.dump t
    (toLe 2 id ++ zeros 2 ++ toLe 4 b.length ++ zeros 8 ++ b ++ bs, w)

/-- DIAG_DUMP (R663). A dump that does not fit its buffer is refused. -/
def diagDump : OpSpec where
  op := 0x0A03
  targets := [0]
  set := .dump
  len := fun n => n = 16
  handles := fun _ => [⟨4, [3], true⟩]
  check := fun c w => firstBad [(0, c.f 0 4 < 128),
    (4, c.f 4 4 = 0 || (Tab.get w.dev.bufs (hIdx (c.f 4 4))).any fun (b : Buf) => b.write)]
  body := fun c w =>
    let (bs, w') := w.dump ((List.range 7).filter fun k => bit (c.f 0 4) k)
    if c.f 4 4 = 0 then w'.okDetail c bs.length (bs.take 4032)
    else match Tab.get w.dev.bufs (hIdx (c.f 4 4)) with
      | none => w
      | some b =>
        if b.size < c.f 8 8 + bs.length then w.reply c.ch c.hdr c.op 0x04 0x48 []
        else w.withPages c [(b.base + c.f 8 8, bs.length)] fun _ => (w'.writeVa (b.base + c.f 8 8) bs).ok c []

/-- DIAG_DUMP as a packet. -/
def execDiagDump (ch : Nat) (p : Packet) (s : State) : Out := run s (hostCommand diagDump ch p)

end Sys2Proof.Machine
end

