-- ==== Sys2Proof/Machine/Life.lean ====
section
/-! DEFINITION. The events of power, reset, pins, clocks and boot (chapters 17, 18, 20 and 22), and the SMBus (R681, R682). -/

namespace Sys2Proof.Machine

/-- INPUT_POWER_APPLIED (R601, R672): the module starts from OFF; during a hold-up sequence the return is noted. -/
def execInputPowerApplied (mv : Nat) (s : State) : Out :=
  run s fun w =>
    let h := w.dev.hub
    if h.st != .off || h.disconnected || h.tripOff || mv < 40000 || 48000 < mv then w
    else
      let w := w.onPin fun p => { p with vin := mv }
      if h.holdup.isSome then w.onHub fun h => { h with holdup := some true } else w.coldStart

/-- HUB_START (R574, R623, R626): stage 1 ends; a slot is chosen, the management firmware starts. -/
def execHubStart (selfTestOk : Bool) (s : State) : Out :=
  runT s fun w =>
    if w.dev.hub.st != .standby || w.dev.hub.stage != 1 then w
    else if !selfTestOk then w.declareFailed 0x03 4
    else w.bootSlot.started

/-- POWER_CUT (R600, Table 19.7): the frame is written with CUT_COUNT one higher; OFF while the hold-up sequence runs. -/
def execPowerCut (s : State) : Out :=
  run s fun w =>
    let w := w.onPin fun p => { p with vin := 0 }
    if w.dev.hub.st = .off then
      w.onHub fun h => { h with tripOff := false, holdup := h.holdup.map fun _ => false }
    else
      ((w.onStore fun s => { s with frame := { s.frame with cutCount := (s.frame.cutCount + 1) % 2 ^ 32 } }).writeFrame).powerOff true

/-- HOLDUP_COMPLETE (R600, R601, R603): pending records are written, HOLDUP_US is kept, the pending limit follows it; the module
starts again where the input has returned. -/
def execHoldupComplete (holdupUs : Nat) (s : State) : Out :=
  run s fun w =>
    match w.dev.hub.holdup with
    | none => w
    | some back =>
      let w := (w.flushJournal.onStore fun s =>
        { s with
          frame := { s.frame with holdupUs := min holdupUs (2 ^ 32 - 1) }, limit := if holdupUs < 45000 then 32768 else 65536 }).writeFrame
      let w := w.onHub fun h => { h with holdup := none }
      if back && !w.dev.hub.disconnected then w.coldStart else w

/-- INPUT_OVERVOLTAGE (R669): above 52.0 V the feature-die and HBM rails are shed and the device enters FAULT. -/
def execInputOvervoltage (mv : Nat) (s : State) : Out :=
  runT s fun w =>
    if w.dev.hub.st = .off || mv ≤ 52000 then w
    else (((w.onPin fun p => { p with vin := mv }).onHub fun h => { h with overvolt := true }).devFault 3).shed

/-- INPUT_DISCONNECT (R669): above 58.0 V the hub's input stage disconnects; the device is OFF. -/
def execInputDisconnect (mv : Nat) (s : State) : Out :=
  run s fun w =>
    if mv ≤ 58000 then w
    else
      let w := w.onPin fun p => { p with vin := mv }
      let w := if w.dev.hub.st = .off then w else w.powerOff true
      w.onHub fun h => { h with disconnected := true }

/-- DISCONNECT_RELEASE (R669): below 52.0 V for 1 s the module starts afresh. -/
def execDisconnectRelease (mv : Nat) (s : State) : Out :=
  run s fun w =>
    if !w.dev.hub.disconnected || 52000 ≤ mv || mv < 38000 then w
    else
      let w := (w.onPin fun p => { p with vin := mv }).onHub fun h => { h with disconnected := false }
      if w.dev.hub.tripOff then w
      else if w.dev.hub.holdup.isSome then w.onHub fun h => { h with holdup := some true } else w.coldStart

/-- RESET_N (R677): a low pulse shorter than 1 µs is ignored, one of 10 µs or longer acts, one between either way (a free choice, DESIGN
CHOICE, log
entry 2). -/
def execResetN (lowNs : Nat) (s : State) : Out :=
  runT s fun w =>
    if lowNs < 1000 then w
    else
      let (acts, w) := if lowNs < 10000 then
          let (b, w) := w.free
          (b % 2 = 1, w)
        else (true, w)
      if acts then ((w.onPin fun p => { p with resetN := false }).onHub fun h => { h with resetHold := true }).warmReset else w

/-- RESET_N_RELEASE (R677): INIT begins. -/
def execResetNRelease (s : State) : Out :=
  run s fun w =>
    ((w.onPin fun p => { p with resetN := true }).onHub fun h => { h with resetHold := false }).tryAutoInit

/-- PWR_EN_DEASSERT (R675): low for 50 µs with the dies powered they are shed, and the device enters FAULT; a FAILED device stays. -/
def execPwrEnDeassert (s : State) : Out :=
  runT s fun w =>
    let w := w.onPin fun p => { p with pwrEn := false }
    if !w.dev.hub.rails then w else (if w.dev.hub.st = .failed then w else w.devFault 0).shed

/-- PWR_EN_ASSERT (Table 2.6, R672): INIT begins with auto-start, or an INIT that waits goes on. -/
def execPwrEnAssert (s : State) : Out :=
  run s fun w =>
    let w := w.onPin fun p => { p with pwrEn := true }
    if w.dev.hub.st = .standby && w.dev.cfg.autoStart then (w.onHub fun h => { h with autoInit := true }).tryAutoInit
    else w.tryRails

/-- FLOW_OK_LOW (R545): the coolant limit is 0. -/
def execFlowOkLow (s : State) : Out :=
  run s fun w =>
    let w := w.onPin fun p => { p with flowOk := false, flowLowAt := some w.dev.clk.mono, flowHighAt := none }
    if w.dev.hubUp then w.onLim fun l => { l with coolant := 0 } else w

/-- FLOW_OK_HIGH (R545, R547, R672), high for the time given: 10 ms restore the coolant limit, 1 s releases a held INIT. -/
def execFlowOkHigh (heldNs : Nat) (s : State) : Out :=
  run s fun w =>
    let since := w.dev.clk.mono - heldNs
    let settled := decide (10000000 ≤ heldNs)
    let w := w.onPin fun p => { p with flowOk := true, flowLowAt := none, flowHighAt := if settled then none else some since }
    if !w.dev.hubUp then w
    else
      let w := if settled then w.onLim fun l => { l with coolant := 18 } else w
      let w := if 1000000000 ≤ heldNs && w.dev.hub.flowHold then
          (w.onHub fun h => { h with flowHold := false }).tryAutoInit
        else w
      w.tryRails

/-- COOLANT_STOP (R546, Table 17.4): FLOW_OK low for more than 20 ms stops the module. -/
def execCoolantStop (s : State) : Out :=
  runT s fun w =>
    match w.dev.pin.flowLowAt with
    | some t =>
      if !w.dev.hub.rails || w.dev.clk.mono ≤ t + 20000000 then w
      else
        let seq := w.nextLogSeq
        let w := (w.logHub 0x0031 0 []).enterFault 2 seq
        (w.onPwr fun p => { p with flowLost := true }).shed
    | none => w

/-- SERVICE_MODE_ASSERT (R655, Table 2.6). -/
def execServiceModeAssert (s : State) : Out :=
  runT s fun w => (w.onPin fun p => { p with serviceMode := true }).enterService

/-- SERVICE_MODE_DEASSERT (R655): the strap is released. -/
def execServiceModeDeassert (s : State) : Out := run s fun w => w.onPin fun p => { p with serviceMode := false }

/-- REFCLK_LOSS (R684, R691): the Ethernet link goes down; with the dies powered it is an uncontained error. -/
def execRefclkLoss (s : State) : Out :=
  runT s fun w =>
    let w := (w.onPin fun p => { p with refclk := false }).onEth fun e => { e with linkUp := false, pcs := false, laneLock := 0, upSince := none }
    if w.dev.hub.rails then w.devFault 0 else w

/-- REFCLK_RETURN (R684, R691). -/
def execRefclkReturn (s : State) : Out := run s fun w => w.onPin fun p => { p with refclk := true }

/-- Whether two PPS edges lie 1 s apart to within 1 µs (R685). -/
def secondApart (a b : Nat) : Bool := a + 999999000 ≤ b && b ≤ a + 1000001000

/-- Global time set to T seconds (R686). -/
def Clk.setTo (c : Clk) (ns : Nat) : Clk := { c with now := ns, unset := false, timeSet := none, slew := 0 }

/-- PPS_EDGE (R521, R685, R686): three edges a second apart make the input valid; a valid edge applies a TIME_SET that waits, or shows
what is to be slewed: the distance to the nearest whole second. -/
def execPpsEdge (s : State) : Out :=
  run s fun w =>
    if !w.dev.hubUp then w
    else w.onClk fun c =>
      let es := (c.ppsEdges ++ [c.mono]).drop (c.ppsEdges.length - 2)
      let ok := match es with
        | [a, b, e] => secondApart a b && secondApart b e
        | _ => false
      let c := { c with ppsEdges := es, ppsValid := c.ppsValid || ok }
      if !c.ppsValid then c
      else match c.timeSet with
        | some (t, _) => c.setTo (t * 1000000000)
        | none =>
          if c.unset then c
          else
            let near := (c.now + 500000000) / 1000000000 * 1000000000
            { c with slew := (near : Int) - (c.now : Int) }

/-- PPS_TIMEOUT (R685, R686): without an edge for 1.5 s the input is invalid, and a TIME_SET that waits takes effect. -/
def execPpsTimeout (s : State) : Out :=
  run s fun w =>
    if !w.dev.hubUp then w
    else w.onClk fun c =>
      if (c.ppsEdges.getLast?.map fun t => decide (t + 1500000000 ≤ c.mono)).getD false then
        let c := { c with ppsEdges := [], ppsValid := false }
        match c.timeSet with
        | some (t, at') => c.setTo (t * 1000000000 + (c.mono - at'))
        | none => c
      else c

/-- A transfer that the module answers (R681): only with power at the hub. -/
def W.smb (w : W) (bs : List Byte) : W := if w.dev.hubUp then w.send (.smb bs) else w

/-- SMB_STATUS (R681): state, DEGRADED and ladder code. -/
def execSmbStatus (s : State) : Out :=
  run s fun w => w.smb (toLe 2 (w.dev.stateByte + w.dev.ladder * 256))

/-- SMB_INPUT (R681): PWR_VIN, PWR_IIN, PWR_P_MEAS and the inlet temperature. -/
def execSmbInput (s : State) : Out :=
  run s fun w =>
    let d := w.dev
    w.smb (toLe 2 d.pin.vin ++ toLe 2 d.pin.iin ++ toLe 2 (satFloor 16 d.pwr.pMeas) ++ toLe 2 (unsext 16 d.pin.inlet))

/-- SMB_SERIAL (R681). -/
def execSmbSerial (s : State) : Out := run s fun w => w.smb (toLe 8 w.dev.fuse.serial)

/-- The 16 bytes of a spare request (Table 22.9). -/
def Dev.reqBytes (d : Dev) (r : SpareReq) : List Byte :=
  let xyz := fun (c : Nat × Nat × Nat) => toLe 1 c.1 ++ toLe 1 c.2.1 ++ toLe 1 c.2.2
  toLe 2 r.id ++ toLe 1 r.kind ++ toLe 1 r.link ++ toLe 1 r.spare ++ xyz r.peer ++ xyz d.coord ++ zeros 5

/-- SPARE_REQ (R682): the oldest unacknowledged request, or 16 bytes of 0. -/
def execSpareReq (s : State) : Out :=
  run s fun w => w.smb ((w.dev.sys.reqs.head?.map w.dev.reqBytes).getD (zeros 16))

/-- SPARE_ACK (R682): the request with that REQ_ID is removed; a transfer whose PEC is wrong is NAKed. -/
def execSpareAck (reqId : BitVec 16) (pecOk : Bool) (s : State) : Out :=
  run s fun w =>
    if !w.dev.hubUp then w
    else if !pecOk then w.send .smbNak
    else w.onSys fun y => { y with reqs := y.reqs.filter fun r => r.id != reqId.toNat }

/-- TIME_SET (R686): at once, or at the next valid PPS edge; none while global time is set. -/
def execTimeSet (seconds : DWord) (pecOk : Bool) (s : State) : Out :=
  run s fun w =>
    if !w.dev.hubUp then w
    else if !pecOk then w.send .smbNak
    else w.onClk fun c =>
      if !c.unset then c
      else if c.ppsValid then { c with timeSet := some (seconds.toNat, c.mono) }
      else c.setTo (seconds.toNat * 1000000000)

/-- ALERT_RESPONSE (R681, R682): the module's address while SMB_ALERT_N is low. -/
def execAlertResponse (s : State) : Out :=
  run s fun w => if w.dev.sys.reqs.isEmpty then w else w.smb (toLe 1 (2 * (0x40 + w.dev.pin.slotId)))

/-- SMB_UNDEFINED_CODE (R681): a code outside Table 22.8 is NAKed. -/
def execSmbUndefinedCode (code : Byte) (s : State) : Out :=
  run s fun w =>
    if w.dev.hubUp && !([0x01, 0x02, 0x03, 0x10, 0x11, 0x20] : List Nat).contains code.toNat then w.send .smbNak else w

/-- Whether a number names a sensor of PWR_TRIP_SRC that trips the dies, and its die (Table 17.7). -/
def tripDie (src : Nat) : Option Nat :=
  if src < 0x400 && src % 256 ≤ 64 then some (src / 256)
  else if 0x1000 ≤ src && src < 0x1018 then some ((src - 0x1000) / 6) else none

/-- THERMAL_TRIP (R543): power leaves the dies and HBM; the reading is in 0.1 °C. -/
def execThermalTrip (src : Nat) (reading : Nat) (s : State) : Out :=
  runT s fun w =>
    match tripDie src with
    | some die =>
      if !w.dev.hub.rails then w
      else
        let seq := w.nextLogSeq
        let w := w.onHub fun h => { h with trip := BitVec.ofNat 32 (0x80000000 + src), tripAt := some w.dev.clk.mono }
        ((w.logRec 0x0030 die 0xFF 0 src 0 (toLe 2 reading)).enterFault 1 seq).shed
    | none => w

/-- HUB_TRIP (R543): at 120 °C power leaves the whole module, until its input has been removed. -/
def execHubTrip (reading : Nat) (s : State) : Out :=
  run s fun w =>
    if w.dev.hub.st = .off || reading < 1200 then w
    else (w.powerOff false).onHub fun h => { h with tripOff := true }

/-- TRIP_RESET_HOLD_EXPIRY (R544): a warm reset that was held takes effect. -/
def execTripResetHoldExpiry (s : State) : Out :=
  runT s fun w => if w.dev.hub.warmHeld then w.warmReset else w

/-- INIT_COMPLETE (R580, R626). -/
def execInitComplete (r : InitResult) (s : State) : Out :=
  runT s fun w => if w.dev.hub.st = .init && w.dev.hub.rails then w.endInit r else w

/-- INIT_TIMEOUT (R627): an INIT that has not reached READY within 300 s fails. -/
def execInitTimeout (s : State) : Out :=
  runT s fun w =>
    if w.dev.hub.st = .init && w.dev.hub.initStart + 5 * minuteNs ≤ w.dev.clk.mono then w.devFault 0 else w

/-- HUB_WATCHDOG_EXPIRY (R627). -/
def execHubWatchdogExpiry (s : State) : Out := runT s fun w => if w.dev.hub.st = .init then w.devFault 0 else w

/-- INIT_WAIT (R673): 60 s without PWR_EN and FLOW_OK end INIT in FAULT. -/
def execInitWait (s : State) : Out :=
  runT s fun w =>
    match w.dev.hub.initWait with
    | some t =>
      if w.dev.hub.st != .init || w.dev.clk.mono < t + minuteNs then w
      else
        let unit := b2n (!w.dev.pin.flowOk) + 2 * b2n (!w.dev.pin.pwrEn)
        let seq := w.nextLogSeq
        (w.logHub 0x0036 unit []).enterFault 0 seq
    | none => w

/-- DIE_RESET_COMPLETE (R72). -/
def execDieResetComplete (die : Nat) (s : State) : Out :=
  runT s fun w =>
    if w.dev.hub.rails && die < 4 && (Tab.get w.dev.hub.dieReset die).isSome && !w.dev.hub.dieOut.contains die then w.endDieReset die
    else w

/-- DIE_RESET_TIMEOUT (R572): a die reset that has not completed within 2 s fails; a second in succession fails the device. Which record
the failing command's detail names is open: it is free (DESIGN CHOICE, log entry 36). -/
def execDieResetTimeout (die : Nat) (s : State) : Out :=
  runT s fun w =>
    match Tab.get w.dev.hub.dieReset die with
    | some t =>
      if w.dev.hub.dieOut.contains die || w.dev.clk.mono < t + 2000000000 then w
      else
        let n := Tab.getD w.dev.hub.dieFails die 0 + 1
        let w := w.onHub fun h => { h with dieOut := h.dieOut ++ [die], dieFails := Tab.put h.dieFails die n }
        let w := if 2 ≤ n then w.declareFailed 0x02 die else w
        let (x, w) := w.free
        w.completeAll (fun p => p.wait = .dieReset die) 0x0B (x % 2 ^ 32) []
    | none => w

end Sys2Proof.Machine
end

