-- ==== Sys2Proof/Machine/Streams.lean ====
section
/-! DEFINITION. The rows of streams: the commands of group 0x03 (R196 to R234), and what the stream engine does. -/

namespace Sys2Proof.Machine

/-- Whether a die is under die reset or has its rails shed. -/
def Dev.dieGone (d : Dev) (die : Nat) : Bool := !d.dieUp die

/-- The fields of Table 6.1 in ascending order, with their ranges and pairings (R197). -/
def strmCreateFields (c : Ctx) : List (Nat × Bool) :=
  let mcast := c.f 1 1
  let de := c.f 8 4
  let se := c.f 0x10 4
  [(0, c.f 0 1 ≤ 3), (1, mcast ≤ 2), (2, 1 ≤ c.f 2 2 && c.f 2 2 ≤ 512), (4, (c.f 4 4 != 0) == (de != 0 && mcast = 0)),
   (0x0C, (c.f 0x0C 4 != 0) == (se != 0)), (0x14, c.f 0x14 4 % 64 = 0 && (c.f 0x14 4 != 0) == (de != 0)),
   (0x18, c.f 0x18 4 % 64 = 0 && (c.f 0x18 4 != 0) == (se != 0)), (0x1C, if mcast = 1 then c.f 0x1C 1 ≤ 3 else c.f 0x1C 1 = 0),
   (0x1D, c.f 0x1D 1 = 0), (0x1E, if mcast != 0 && de != 0 then c.f 0x1E 2 ≤ 1984 else c.f 0x1E 2 = 0),
   (0x20, (c.f 0x20 8 != 0) == (mcast == 1)), (0x28, zeroAt c.ps 0x28 8)]

/-- The stream that STRM_CREATE makes, its generation apart. -/
def strmOf (c : Ctx) (gen : Nat) : Strm :=
  { gen := gen, tag := c.tag, mcast := c.f 1 1, outMax := c.f 2 2, dstFull := c.f 4 4, dstEmpty := c.f 8 4, srcFull := c.f 0x0C 4
    srcEmpty := c.f 0x10 4, dstSlot := c.f 0x14 4, srcSlot := c.f 0x18 4, mcastDie := c.f 0x1C 1, fullLocal := c.f 0x1E 2
    mcastMask := c.f 0x20 8 }

/-- STRM_CREATE (R196, R197). -/
def strmCreate : OpSpec where
  op := 0x0300
  targets := [0]
  set := .live
  len := fun n => n = 48
  handles := fun _ => [⟨4, [5], true⟩, ⟨8, [5], true⟩, ⟨0x0C, [5], true⟩, ⟨0x10, [5], true⟩]
  check := fun c _ => firstBad (strmCreateFields c)
  conflict := fun c w => if w.dev.dieGone (c.f 0 1) then some 0 else none
  res := fun c w =>
    match Tab.firstFree w.dev.strms (1024 * c.f 0 1) 1024 with
    | none => noResource 0x01 2
    | some _ =>
      match (strmOf c 0).cores.find? fun n => 68 ≤ w.dev.physOfCore n with
      | some n => noResource 0x03 n
      | none => none
  body := fun c w =>
    match Tab.firstFree w.dev.strms (1024 * c.f 0 1) 1024 with
    | some i =>
      let (g, w) := w.nextGen 2 i
      (w.onDev fun d => { d with strms := Tab.put d.strms i (strmOf c g) }).ok c (toLe 4 (mkHandle 2 g i) ++ zeros 4)
    | none => w

/-- The parameters of STRM_ARM (Table 6.6). -/
def armOf (c : Ctx) : Arm :=
  { ring := c.f 0 8, count := c.f 8 4, start := c.f 0x0C 4, loop := bit (c.f 0x10 1) 0, slotReset := bit (c.f 0x10 1) 1 }

/-- STRM_ARM (R221 to R223, R52): STATE_CONFLICT on a FAULTED or stopping stream, and where a member's FULL object is not live
(R220, DESIGN CHOICE, log entry 23); BUSY on a full shadow slot. -/
def strmArm : OpSpec where
  op := 0x0301
  targets := [2]
  set := .live
  len := fun n => n = 24
  check := fun c _ => firstBad [(0, c.f 0 8 % 64 = 0), (8, 1 ≤ c.f 8 4 && c.f 8 4 ≤ 65536), (0x0C, c.f 0x0C 4 < c.f 8 4),
    (0x10, c.f 0x10 1 < 4), (0x11, zeroAt c.ps 0x11 7)]
  conflict := fun c w => match w.dev.armFail c.idx with
    | some f => if f.status = 0x06 then some (w.dev.hstate 2 c.idx) else none
    | none => none
  res := fun c w => w.dev.armFail c.idx
  body := fun c w =>
    let w := w.armStrm c.idx (armOf c)
    match Tab.get w.dev.strms c.idx with
    | some s => w.ok c (toLe 4 s.sgen ++ toLe 1 s.state ++ zeros 3)
    | none => w

/-- STRM_STOP (R227). -/
def strmStop : OpSpec where
  op := 0x0302
  targets := [2]
  set := .up
  len := fun n => n = 4
  check := fun c _ => firstBad [(0, c.f 0 1 ≤ 1), (1, zeroAt c.ps 1 3)]
  conflict := fun c w =>
    let h := w.dev.hstate 2 c.idx
    if h = 2 || h = 3 || h = 4 then none else some h
  body := fun c w => (w.pend c (.strmStop c.idx)).stopStrm c.idx (c.f 0 1)

/-- STRM_RESUME (R231): the page-in is tried again under R145; the reply comes when the stream has left HALTED, or at once where the
page-in still cannot proceed. -/
def strmResume : OpSpec where
  op := 0x0303
  targets := [2]
  set := .up
  len := fun n => n = 0
  conflict := fun c w =>
    let h := w.dev.hstate 2 c.idx
    if h = 4 then none else some h
  body := fun c w =>
    let w := w.pend c (.strmResume c.idx)
    match Tab.get w.dev.strms c.idx with
    | some s =>
      match w.dev.lookup s.haltVa with
      | .page b k _ p _ =>
        if p.st = .absent || p.st = .filling then
          let w := if p.st = .absent then w.retryPageIn b k else w
          match w.dev.ms.pageins.find? fun q => q.buf = b && q.page = k && q.st = 2 with
          | some q => w.completeAll (fun x => x.wait = .strmResume c.idx) 0x08 (0x02 + q.die * 65536) []
          | none => w
        else w.wakeStreams s.haltVa 1
      | _ => w.wakeStreams s.haltVa 1
    | none => w

/-- The 64 bytes of Table 6.7. -/
def Strm.queryBytes (s : Strm) : List Byte :=
  let live := s.state != 1
  toLe 1 s.state ++ toLe 1 (if live then s.look else 0) ++ toLe 1 s.slot
    ++ toLe 1 (b2n s.shadow.isSome + 2 * b2n (live && s.started != 0 && s.bounded) + 4 * b2n (live && s.boundLost))
    ++ toLe 4 s.sgen ++ toLe 4 s.endEntry ++ toLe 4 s.endTile ++ toLe 8 s.haltEntry ++ toLe 8 s.haltVa ++ toLe 8 s.tilesDone
    ++ toLe 4 s.late ++ toLe 4 s.dropped ++ toLe 2 s.ops.length ++ zeros 2 ++ toLe 4 s.worst ++ zeros 8

/-- STRM_QUERY (R234). -/
def strmQuery : OpSpec where
  op := 0x0304
  targets := [2]
  set := .up
  len := fun n => n = 0
  body := fun c w =>
    match Tab.get w.dev.strms c.idx with
    | some s => w.ok c s.queryBytes
    | none => w

/-- STRM_CREATE as a packet. -/
def execStrmCreate (ch : Nat) (p : Packet) (s : State) : Out := run s (hostCommand strmCreate ch p)

/-- STRM_ARM as a packet. -/
def execStrmArm (ch : Nat) (p : Packet) (s : State) : Out := runT s (hostCommand strmArm ch p)

/-- STRM_STOP as a packet. -/
def execStrmStop (ch : Nat) (p : Packet) (s : State) : Out := runT s (hostCommand strmStop ch p)

/-- STRM_RESUME as a packet. -/
def execStrmResume (ch : Nat) (p : Packet) (s : State) : Out := runT s (hostCommand strmResume ch p)

/-- STRM_QUERY as a packet. -/
def execStrmQuery (ch : Nat) (p : Packet) (s : State) : Out := run s (hostCommand strmQuery ch p)

/-- STREAM_ENGINE_GRANT of die `die` (R212). -/
def execStreamEngineGrant (die : Nat) (s : State) : Out := runT s fun w => w.grant die

/-- DESCRIPTOR_START of stream `i` (R202). -/
def execDescriptorStart (i : Nat) (s : State) : Out := runT s fun w => (w.descriptorStart i).advance i

/-- TILE_START of stream `i` (R203). -/
def execTileStart (i : Nat) (s : State) : Out := runT s fun w => w.tileStart i

/-- MEMORY_OPERATION_COMPLETE of operation `op` of stream `i` (R208), with what the memories report. -/
def execMemoryOperationComplete (i op : Nat) (ecc : List EccReport) (refused : Bool) (s : State) : Out :=
  runT s fun w => w.opComplete i op ecc refused

end Sys2Proof.Machine
end

