-- ==== Sys2Proof/Machine/Load.lean ====
section
/-! DEFINITION. GRAPH_LOAD (R476 to R483): the image, its checks in the order of Table 15.4, and the objects that the load makes. -/

namespace Sys2Proof.Machine

/-- Bytes of a record of each kind (Table 15.2). -/
def recBytes (kind : Nat) : Nat := [0, 32, 32, 16, 16, 80, 32, 32, 72, 16, 16, 24].getD kind 0

/-- An image with its import list, its parameters' IMG_BUF resolved. -/
structure Img where
  bytes : List Byte
  imports : List Nat

/-- NSECT. -/
def Img.nsect (m : Img) : Nat := fld m.bytes 6 2

/-- NSTAGES. -/
def Img.nstages (m : Img) : Nat := fld m.bytes 0x10 2

/-- The directory entries: kind, count, offset, and whether the reserved bytes are 0 (R477). -/
def Img.dir (m : Img) : List (Nat × Nat × Nat × Bool) :=
  (List.range m.nsect).map fun i =>
    let e := slice m.bytes (64 + 16 * i) 16
    (fld e 0 2, fld e 4 4, fld e 8 8, zeroAt e 2 2)

/-- The records of a kind. -/
def Img.sec (m : Img) (kind : Nat) : List (List Byte) :=
  match m.dir.find? fun e => e.1 = kind with
  | some (_, n, off, _) => (List.range n).map fun i => slice m.bytes (off + i * recBytes kind) (recBytes kind)
  | none => []

/-- Number of objects of a handle kind that the image's records make (R478). -/
def Img.objects (m : Img) (kind : Nat) : Nat :=
  match kind with
  | 2 => (m.sec 5).length
  | 5 => ((m.sec 4).map fun r => fld r 1 1).sum
  | 6 => (m.sec 8).length
  | 9 => (m.sec 9).length
  | _ => 0

/-- Whether a value is a reference of one of several kinds, in range (R478). -/
def Img.refOk (m : Img) (kinds : List Nat) (r : Nat) : Bool :=
  let k := hKind r
  kinds.contains k && hGen r = 0
    && if bit r 15 then (m.imports[r % 0x8000]?).any fun h => hKind h = k else r % 0x8000 < m.objects k

/-- The handles of the objects that the load makes, in record order. -/
structure Made where
  syncs : List Nat := []
  strms : List Nat := []
  tables : List Nat := []
  matchsets : List Nat := []

/-- The handle that a reference stands for; 0 stays 0 (R478). -/
def Img.ref (m : Img) (a : Made) (r : Nat) : Nat :=
  if r = 0 then 0
  else if bit r 15 then m.imports.getD (r % 0x8000) 0
  else (match hKind r with
    | 2 => a.strms | 5 => a.syncs | 6 => a.tables | 9 => a.matchsets | _ => []).getD (r % 0x8000) r

/-- The die of the SYNC object that a reference stands for. -/
def Img.syncDieOf (m : Img) (r : Nat) : Nat :=
  if bit r 15 then syncDie (hIdx (m.imports.getD (r % 0x8000) 0))
  else
    ((m.sec 4).flatMap fun x => List.replicate (fld x 1 1) (fld x 0 1)).getD (r % 0x8000) 0

/-- A CLAIM record. -/
def claimOf (r : List Byte) : Claim := { die := fld r 0 1, core := fld r 1 1, prot := fld r 2 1, off := fld r 4 4, bytes := fld r 8 8 }

/-- The physical address of a claim. -/
def Claim.base (c : Claim) : Nat := (if c.core = 0xFF then joinBase c.die else coreBase c.core) + c.off

/-- The range that an address of the image may name n bytes of: its virtual address (R478). -/
def Img.addr (m : Img) (d : Dev) (v n : Nat) : Option Nat :=
  let i := bits v 48 15
  let off := v % 2 ^ 48
  if bit v 63 then
    ((m.sec 1)[i]?).bind fun r =>
      let c := claimOf r
      if off + n ≤ c.bytes then some (claimWindow + c.base + off) else none
  else
    (m.imports[i]?).bind fun h =>
      if hKind h != 3 then none
      else (Tab.get d.bufs (hIdx h)).bind fun b => if off + n ≤ b.size then some (b.base + off) else none

/-- Whether a value is an address of an object of the image (R478). -/
def Img.addrOk (m : Img) (d : Dev) (v : Nat) : Bool := (m.addr d v 1).isSome

/-- Where a check of an image fails (R481): section, record, step of Table 15.4. -/
structure ImgFault where
  sec : Nat
  rec' : Nat
  step : Nat

/-- The first record of a kind that does not hold. -/
def Img.badRec (m : Img) (kind step : Nat) (ok : Nat → List Byte → Bool) : Option ImgFault :=
  (((m.sec kind).zipIdx.find? fun (r, i) => !ok i r).map fun (_, i) => ⟨kind, i, step⟩)

/-- Step 4 for the header and the directory. -/
def Img.badDir (m : Img) : Option ImgFault :=
  let b := m.bytes
  if !(1 ≤ m.nstages && m.nstages ≤ 4096 && zeroAt b 0x12 2 && zeroAt b 0x18 40) || b.length < 64 + 16 * m.nsect then some ⟨0, 0, 4⟩
  else
    (m.dir.zipIdx.find? fun ((k, n, off, z), i) =>
      !(1 ≤ k && k ≤ 11 && z && off % 64 = 0 && off + n * recBytes k ≤ b.length && (m.dir.take i).all fun e => e.1 != k)).map
      fun ((k, _, _, _), _) => ⟨k, 0, 4⟩

/-- A CLAIM record in range. -/
def Img.claimOk (m : Img) (r : List Byte) : Bool :=
  let c := claimOf r
  let src := fld r 0x10 8
  c.die ≤ 3 && (c.core = 0xFF || dieOfCore c.core = c.die) && c.prot < 4 && zeroAt r 3 1 && c.off % 0x10000 = 0 && c.bytes % 0x10000 = 0
    && c.off + c.bytes ≤ (if c.core = 0xFF then joinBytes else coreBytes) && (src = 0 || src + c.bytes ≤ m.bytes.length) && zeroAt r 0x18 8

/-- A DATA record in range. -/
def Img.dataOk (m : Img) (d : Dev) (r : List Byte) : Bool :=
  (m.addr d (fld r 0 8) (fld r 0x10 8)).isSome && fld r 8 8 + fld r 0x10 8 ≤ m.bytes.length && zeroAt r 0x18 8

/-- The bytes of a DATA record as the image holds them. -/
def Img.dataBytes (m : Img) (i : Nat) : List Byte :=
  match (m.sec 2)[i]? with
  | some r => slice m.bytes (fld r 8 8) (fld r 0x10 8)
  | none => []

/-- A FIXUP record in range, the place that it names holding a reference or an address (R478, R479). -/
def Img.fixupOk (m : Img) (d : Dev) (r : List Byte) : Bool :=
  let bs := m.dataBytes (fld r 0 4)
  let off := fld r 8 8
  let k := fld r 4 1
  fld r 0 4 < (m.sec 2).length && (k = 1 || k = 2) && zeroAt r 5 3 && off + 4 * k ≤ bs.length
    && if k = 1 then m.refOk [1, 2, 3, 4, 5, 6, 7, 8, 9, 10] (fld bs off 4) else m.addrOk d (fld bs off 8)

/-- A SYNC record in range. -/
def Img.syncOk (m : Img) (r : List Byte) : Bool :=
  fld r 0 1 ≤ 3 && 1 ≤ fld r 1 1 && fld r 1 1 ≤ 64 && (fld r 2 2 = 0xFFFF || fld r 2 2 + fld r 1 1 ≤ 2048)
    && (fld r 4 2 < m.nstages || fld r 4 2 = 0xFFFF) && zeroAt r 6 2

/-- The fields of a STREAM record as parameters of STRM_CREATE. -/
def strmCtx (tag : Nat) (r : List Byte) : Ctx :=
  ⟨0, ⟨0, 0, 0, 0, 0, 0, BitVec.ofNat 8 tag, [], 0⟩, 0x0300, r.take 48⟩

/-- REUSE of a STREAM record. -/
def strmReuse (r : List Byte) : Nat := fld r 0x4C 4

/-- A STREAM record in range: the fields of Table 6.1 where it creates a stream, those of Table 6.6, its stage. A record is re-armed
through the record that created its stream. -/
def Img.strmOk (m : Img) (d : Dev) (r : List Byte) : Bool :=
  let reuse := strmReuse r
  (if reuse = 0 then
      (firstBad (strmCreateFields (strmCtx 0 r))).isNone && [4, 8, 12, 16].all fun o => fld r o 4 = 0 || m.refOk [5] (fld r o 4)
    else m.refOk [2] reuse && (bit reuse 15 || (((m.sec 5)[reuse % 0x8000]?).map strmReuse).getD 1 = 0))
    && ((m.addr d (fld r 0x30 8) 1).any fun va => va % 64 = 0) && 1 ≤ fld r 0x38 4 && fld r 0x38 4 ≤ 65536
    && fld r 0x3C 4 < fld r 0x38 4 && fld r 0x40 1 < 4 && zeroAt r 0x41 7 && fld r 0x48 2 < m.nstages && fld r 0x4A 1 ≤ 1 && zeroAt r 0x4B 1

/-- The slot that a TASK record names: die and slot. -/
def taskPlace (r : List Byte) : Nat × Nat := (dieOfCore (fld r 2 1), fld r 0 2)

/-- A TASK record in range, no earlier record naming its slot (R274). -/
def Img.taskOk (m : Img) (i : Nat) (r : List Byte) : Bool :=
  let trig := fld r 8 4
  fld r 0 2 < 4096 && fld r 3 1 ≤ 15 && fld r 4 4 % 4 = 0 && (trig = 0 || m.refOk [5] trig) && (trig = 0) == (fld r 0xC 4 = 0)
    && fld r 0x14 1 < 2 && zeroAt r 0x15 3 && ((m.sec 6).take i).all fun x => taskPlace x != taskPlace r

/-- A STAGE record in range. -/
def Img.stageOk (m : Img) (r : List Byte) : Bool :=
  1 ≤ fld r 4 4 && fld r 0 4 + fld r 4 4 ≤ (m.sec 6).length && m.refOk [5] (fld r 8 4) && (fld r 0xC 2 < m.nstages || fld r 0xC 2 = 0xFFFF)
    && zeroAt r 0xE 2 && zeroAt r 0x18 8

/-- A TABLE record's references and addresses in range; its descriptor is judged in step 6. -/
def Img.tableOk (m : Img) (d : Dev) (r : List Byte) : Bool :=
  let i := fld r 0 2
  (i = 0xFFFF || (m.imports[i]?).any fun h => hKind h = 6) && zeroAt r 2 6 && m.addrOk d (fld r 0x10 8) && m.refOk [3] (fld r 0x24 4)

/-- A FEED record in range. -/
def Img.feedOk (m : Img) (r : List Byte) : Bool :=
  ((m.imports[fld r 0 2]?).any fun h => hKind h = 7) && fld r 2 1 ≤ 3 && zeroAt r 3 1 && zeroAt r 8 8
    && fld r 4 4 < (m.sec 6).length

/-- A QUEUE record in range: the submit object lies on the queue's die (R302). -/
def Img.queueOk (m : Img) (d : Dev) (r : List Byte) : Bool :=
  fld r 0 1 ≤ 3 && fld r 1 1 ≤ 5 && fld r 2 1 ≤ 7 && zeroAt r 3 1 && m.refOk [5] (fld r 4 4) && m.syncDieOf (fld r 4 4) = fld r 0 1
    && ((m.addr d (fld r 8 8) 1).any fun va => va % 128 = 0) && 1 ≤ fld r 0x10 2 && fld r 0x10 2 ≤ 4096 && zeroAt r 0x12 6

/-- Step 4 of Table 15.4. -/
def Img.step4 (m : Img) (d : Dev) : Option ImgFault :=
  (m.badDir).orElse fun _ =>
  (if (m.sec 7).length = m.nstages then none else some ⟨7, 0, 4⟩).orElse fun _ =>
  (m.badRec 1 4 fun _ => m.claimOk).orElse fun _ =>
  (m.badRec 2 4 fun _ => m.dataOk d).orElse fun _ =>
  (m.badRec 3 4 fun _ => m.fixupOk d).orElse fun _ =>
  (m.badRec 4 4 fun _ => m.syncOk).orElse fun _ =>
  (m.badRec 5 4 fun _ => m.strmOk d).orElse fun _ =>
  (m.badRec 6 4 m.taskOk).orElse fun _ =>
  (m.badRec 7 4 fun _ => m.stageOk).orElse fun _ =>
  (m.badRec 8 4 fun _ => m.tableOk d).orElse fun _ =>
  (m.badRec 9 4 fun _ r => m.addrOk d (fld r 0 8) && zeroAt r 8 8).orElse fun _ =>
  (m.badRec 10 4 fun _ => m.feedOk).orElse fun _ =>
  m.badRec 11 4 fun _ => m.queueOk d

/-- Bytes replaced from an offset. -/
def patchAt (bs : List Byte) (off : Nat) (new : List Byte) : List Byte := bs.take off ++ new ++ bs.drop (off + new.length)

/-- The DATA records with their FIXUP places resolved: where each goes and its bytes (R479, R483 step 2). -/
def Img.data (m : Img) (d : Dev) (a : Made) : List (Nat × List Byte) :=
  (m.sec 2).zipIdx.map fun (r, i) =>
    let bs := ((m.sec 3).filter fun x => fld x 0 4 = i).foldl (fun bs x =>
      let off := fld x 8 8
      if fld x 4 1 = 1 then patchAt bs off (toLe 4 (m.ref a (fld bs off 4)))
      else patchAt bs off (toLe 8 ((m.addr d (fld bs off 8) 1).getD 0))) (m.dataBytes i)
    ((m.addr d (fld r 0 8) (fld r 0x10 8)).getD 0, bs)

/-- n bytes from an address as the DATA records leave them, where they hold all of them. -/
def heldBytes (data : List (Nat × List Byte)) (va n : Nat) : Option (List Byte) :=
  (List.range n).mapM fun k =>
    (data.reverse.findSome? fun (a, bs) => if a ≤ va + k && va + k < a + bs.length then bs[va + k - a]? else none)

/-- A layout descriptor held in DATA. -/
def heldLayout (data : List (Nat × List Byte)) (va : Nat) : Option Layout :=
  (heldBytes data va 1).bind fun b => (heldBytes data va (layoutBytes (fld b 0 1))).map parseLayout

/-- The device with an image's claims mapped, as its addresses are judged before the load. -/
def Dev.withClaims (d : Dev) (m : Img) : Dev :=
  { d with graphs := d.graphs ++ [(256, { gen := 0, tag := 0, codeVer := 0, claims := (m.sec 1).map claimOf })] }

/-- The stream that a STREAM record arms, as step 5 sees it. -/
def Img.strmFor (m : Img) (d : Dev) (r : List Byte) : Strm :=
  let reuse := strmReuse r
  if reuse = 0 then strmOf (strmCtx 0 r) 0
  else if bit reuse 15 then (Tab.get d.strms (hIdx (m.imports.getD (reuse % 0x8000) 0))).getD (strmOf (strmCtx 0 r) 0)
  else strmOf (strmCtx 0 ((m.sec 5).getD (reuse % 0x8000) [])) 0

/-- Whether the descriptors of a STREAM record's ring that DATA holds pass R178 and Table 6.3 (step 5): LOOKAHEAD as in the entry at
START. -/
def Img.ringOk (m : Img) (d : Dev) (data : List (Nat × List Byte)) (r : List Byte) : Bool :=
  let s := m.strmFor d r
  let ring := (m.addr d (fld r 0x30 8) 1).getD 0
  let desc := fun k => (heldBytes data (ring + 64 * k) 64).map (parseSDesc k (ring + 64 * k))
  let s := { s with look := ((desc (fld r 0x3C 4)).map SDesc.look).getD 0 }
  (List.range (fld r 0x38 4)).all fun k =>
    match desc k with
    | none => true
    | some x =>
      (d.descFormat s x).isNone && (x.rep = 0 ||
        match heldLayout data x.srcLd, heldLayout data x.dstLd with
        | some a, some b => (pairReason a b x.srcLd x.dstLd).isNone && (d.pairFormat s a b).isNone
        | some a, none => ((List.range 12).drop 1).all fun c => !a.shows false x.srcLd c
        | none, some b => ((List.range 12).drop 1).all fun c => !b.shows true x.dstLd c
        | none, none => true)

/-- Step 5 of Table 15.4. References to the image's own SYNC objects stand as 0: they will be live. -/
def Img.step5 (m : Img) (d : Dev) : Option ImgFault :=
  let data := m.data d { syncs := List.replicate (m.objects 5) 0 }
  let d := d.withClaims m
  m.badRec 5 5 fun _ => m.ringOk d data

/-- The table descriptor of a TABLE record, its address and handle resolved. -/
def Img.tableDesc (m : Img) (d : Dev) (r : List Byte) : List Byte :=
  let x := r.drop 8
  patchAt (patchAt x 8 (toLe 8 ((m.addr d (fld x 8 8) 1).getD 0))) 0x1C (toLe 4 (m.ref {} (fld x 0x1C 4)))

/-- The end of the last row of a table (R417). -/
def EmbTable.lastEnd (t : EmbTable) (page : Nat) : Nat := t.rowVa page (t.rows - 1) + t.rowSize

/-- Whether a table descriptor lies in its ranges and its rows in its buffer (R415, Table 13.1). -/
def Dev.tableFits (d : Dev) (x : List Byte) : Bool :=
  let t := parseTable x
  match Tab.get d.bufs (hIdx t.buffer) with
  | none => false
  | some b =>
    fld x 0 1 = 1 && [1, 2, 3, 4, 5, 0x0B].contains t.store && t.opt ≤ 4
      && (if t.opt = 2 || t.opt = 4 then t.mom = 1 || t.mom = 2 else t.mom = 0)
      && 1 ≤ t.dim && t.dim ≤ 1024 && (t.store != 0x0B || t.dim % 32 = 0) && fld x 6 1 < 2 && zeroAt x 7 1
      && (t.base - b.base) % b.page = 0 && b.base ≤ t.base && 1 ≤ t.rows && t.rows ≤ 2 ^ 40
      && t.stride % 64 = 0 && t.rowSize ≤ t.stride && t.stride ≤ b.page && t.stride != 0
      && (t.opt = 2 || t.opt = 4 || t.p1 = 0) && (t.opt = 4 || t.p2 = 0) && zeroAt x 0x38 8
      && t.lastEnd b.page ≤ b.base + b.size && b.backing ≤ 1

/-- Step 6 for a TABLE record (R414, R415). -/
def Img.tableFine (m : Img) (d : Dev) (r : List Byte) : Bool :=
  let x := m.tableDesc d r
  d.tableFits x && (fld r 0 2 = 0xFFFF || (Tab.get d.tables (hIdx (m.imports.getD (fld r 0 2) 0))).any fun (t : Table) => t.desc = x)

/-- The feed that a FEED record names. -/
def Img.feedIdx (m : Img) (r : List Byte) : Nat := hIdx (m.imports.getD (fld r 0 2) 0)

/-- The numbers of the TASK records that a FEED record binds as slow-lane tasks. -/
def Img.slowTasks (m : Img) (d : Dev) (r : List Byte) : List Nat :=
  match Tab.get d.feeds (m.feedIdx r) with
  | some f => (List.range f.slowMax).map (fld r 4 4 + f.decodeSlots + ·)
  | none => []

/-- Step 6 for a FEED record (Table 15.4, R442, R444): one record per die of DIE_MASK, its lane tasks there without a trigger, the
slow-lane tasks alone on the die's last core. -/
def Img.feedFine (m : Img) (d : Dev) (r : List Byte) : Bool :=
  match Tab.get d.feeds (m.feedIdx r) with
  | none => false
  | some f =>
    let mine := (m.sec 10).filter fun x => m.feedIdx x = m.feedIdx r
    let die := fld r 2 1
    let last := 64 * die + 63
    let first := fld r 4 4
    let slow := mine.flatMap (m.slowTasks d)
    bit f.dieMask die
      && ((List.range 4).all fun k => (mine.filter fun x => fld x 2 1 = k).length = b2n (bit f.dieMask k))
      && ((List.range (f.decodeSlots + f.slowMax)).all fun t =>
        match (m.sec 6)[first + t]? with
        | none => false
        | some x => fld x 8 4 = 0 && dieOfCore (fld x 2 1) = die && (t < f.decodeSlots || fld x 2 1 = last))
      && (m.sec 6).zipIdx.all fun (x, i) => fld x 2 1 != last || slow.contains i

/-- Step 6 of Table 15.4. -/
def Img.step6 (m : Img) (d : Dev) : Option ImgFault :=
  (m.badRec 8 6 fun _ => m.tableFine d).orElse fun _ => m.badRec 10 6 fun _ => m.feedFine d

/-- A status and detail for an image fault, with its payload (R481). -/
def ImgFault.fail (f : ImgFault) (status : Nat) : Fail :=
  ⟨status, 0x48, toLe 2 f.sec ++ zeros 2 ++ toLe 4 f.rec' ++ toLe 4 f.step ++ zeros 4⟩

/-- The dies on which the load acts. -/
def Img.dies (m : Img) : List Nat :=
  ((m.sec 1).map fun r => fld r 0 1) ++ ((m.sec 4).map fun r => fld r 0 1)
    ++ (((m.sec 5).filter fun r => strmReuse r = 0).map fun r => fld r 0 1) ++ ((m.sec 6).map fun r => dieOfCore (fld r 2 1))

/-- Steps 2 to 7 of Table 15.4; between steps 6 and 7, a die under reset (as for R197 and R293). -/
def Img.fails (m : Img) (d : Dev) (poisoned : Bool) : Option Fail :=
  if poisoned || crc32c (m.bytes.drop 64) != fld m.bytes 0x14 4 then some (ImgFault.fail ⟨0, 0, 2⟩ 0x0E)
  else if !(d.fw.info.codeMin ≤ fld m.bytes 5 1 && fld m.bytes 5 1 ≤ d.fw.info.codeMax) then some (ImgFault.fail ⟨0, 0, 3⟩ 0x04)
  else match (m.step4 d).orElse fun _ => (m.step5 d).orElse fun _ => m.step6 d with
    | some f => some (f.fail 0x04)
    | none =>
      if m.dies.any fun k => !d.dieUp k then some ⟨0x06, d.conflictDetail 0, []⟩
      else match (m.sec 6).find? fun r => 68 ≤ d.physOfCore (fld r 2 1) with
        | some r => noResource 0x03 (fld r 2 1)
        | none => none

/-- Step 8 for what the graph holds on its own (R482): slots, claims, queues. -/
def Img.taken (m : Img) (d : Dev) : Option Fail :=
  let others := d.graphs.map Prod.snd
  match (m.sec 6).find? fun r => others.any fun g => g.tasks.any fun t => t.key = slotKey (taskPlace r).1 (taskPlace r).2 with
  | some r => noResource 0x03 (fld r 2 1)
  | none =>
    match ((m.sec 1).map claimOf).find? fun c =>
        let store := if c.core = 0xFF then joinBase c.die else coreBase c.core
        c.bytes != 0 && (d.takenSram store (if c.core = 0xFF then joinBytes else coreBytes)).any fun (a, n) => overlaps c.off c.bytes a n with
    | some c => noResource 0x02 c.die
    | none =>
      if (m.sec 11).any fun r => others.any fun g => g.queues.any fun q =>
          q.die = fld r 0 1 && classCode q.cls = fld r 1 1 && q.queue = fld r 2 1 then noResource 0x01 4
      else none

/-- SYNC records made (R483 step 3): the handles, the records with their indices, the state; none without a free run. -/
def makeSyncRecs (tag : Nat) : List (List Byte) → W → Option (List Nat × List GSync × W)
  | [], w => some ([], [], w)
  | r :: t, w =>
    (w.dev.syncRun (fld r 0 1) (fld r 2 2) (fld r 1 1)).bind fun k =>
      let idx := 2048 * fld r 0 1 + k
      let (hs, w) := w.makeSyncs idx (fld r 1 1) (fld r 8 8) tag
      (makeSyncRecs tag t w).map fun (hs', gs, w) => (hs ++ hs', ⟨idx, fld r 1 1, fld r 4 2, fld r 8 8⟩ :: gs, w)

/-- Streams made for the STREAM records whose REUSE is 0 (R483 step 3): the handle of each record's own stream, 0 for the others. -/
def makeStrmRecs (m : Img) (a : Made) (graph tag : Nat) : List (List Byte) → W → Except Fail (List Nat × W)
  | [], w => .ok ([], w)
  | r :: t, w =>
    if strmReuse r != 0 then (makeStrmRecs m a graph tag t w).map fun (hs, w) => (0 :: hs, w)
    else match Tab.firstFree w.dev.strms (1024 * fld r 0 1) 1024 with
      | none => .error ⟨0x08, 0x01 + 2 * 65536, []⟩
      | some i =>
        let r := [4, 8, 12, 16].foldl (fun r o => patchAt r o (toLe 4 (m.ref a (fld r o 4)))) r
        match (strmOf (strmCtx tag r) 0).cores.find? fun n => 68 ≤ w.dev.physOfCore n with
        | some n => .error ⟨0x08, 0x03 + n * 65536, []⟩
        | none =>
          let (g, w) := w.nextGen 2 i
          let w := w.onDev fun d => { d with strms := Tab.put d.strms i { strmOf (strmCtx tag r) g with graph := some graph } }
          (makeStrmRecs m a graph tag t w).map fun (hs, w) => (mkHandle 2 g i :: hs, w)

/-- TABLE records (R483 step 4): a handle each, the live one where the record names it. -/
def makeTables (m : Img) (tag : Nat) : List (List Byte) → W → Option (List Nat × W)
  | [], w => some ([], w)
  | r :: t, w =>
    if fld r 0 2 != 0xFFFF then (makeTables m tag t w).map fun (hs, w) => (m.imports.getD (fld r 0 2) 0 :: hs, w)
    else (Tab.firstFree w.dev.tables 0 4096).bind fun i =>
      let (g, w) := w.nextGen 6 i
      let w := w.onDev fun d => { d with tables := Tab.put d.tables i ⟨g, tag, m.tableDesc d r⟩ }
      (makeTables m tag t w).map fun (hs, w) => (mkHandle 6 g i :: hs, w)

/-- MATCHSET records (R374, R483 step 4). -/
def makeMatchsets (m : Img) (tag : Nat) : List (List Byte) → W → Option (List Nat × W)
  | [], w => some ([], w)
  | r :: t, w =>
    (Tab.firstFree w.dev.matchsets 0 1024).bind fun i =>
      let (g, w) := w.nextGen 9 i
      let w := w.onDev fun d => { d with matchsets := Tab.put d.matchsets i ⟨g, tag, (m.addr d (fld r 0 8) 1).getD 0⟩ }
      (makeMatchsets m tag t w).map fun (hs, w) => (mkHandle 9 g i :: hs, w)

/-- Every object that the load makes, or the first pool that does not suffice (step 8). -/
def makeObjects (m : Img) (graph tag : Nat) (w : W) : Except Fail (Made × List GSync × W) :=
  match makeSyncRecs tag (m.sec 4) w with
  | none => .error ⟨0x08, 0x01 + 5 * 65536, []⟩
  | some (ys, gs, w) =>
    match makeStrmRecs m { syncs := ys } graph tag (m.sec 5) w with
    | .error f => .error f
    | .ok (ss, w) =>
      match makeTables m tag (m.sec 8) w with
      | none => .error ⟨0x08, 0x01 + 6 * 65536, []⟩
      | some (ts, w) =>
        match makeMatchsets m tag (m.sec 9) w with
        | none => .error ⟨0x08, 0x01 + 9 * 65536, []⟩
        | some (ms, w) => .ok (⟨ys, ss, ts, ms⟩, gs, w)

/-- A claim filled, and its frames entered in the core's frame table (R240, R483 step 1). -/
def W.fillClaim (w : W) (m : Img) (r : List Byte) : W :=
  let c := claimOf r
  let src := fld r 0x10 8
  let w := if src = 0 then w.op (.clear c.base c.bytes) else w.put c.base (slice m.bytes src c.bytes)
  if c.core = 0xFF then w
  else w.onCore c.core fun k => { k with frames := c.frames.foldl (fun t f => Tab.put t f c.prot) k.frames }

/-- The trigger of each lane task that the FEED records bind: the task's number and the SYNC handle (R442, R483 step 4). -/
def Img.feedTriggers (m : Img) (d : Dev) : List (Nat × Nat) :=
  (m.sec 10).flatMap fun r =>
    match Tab.get d.feeds (m.feedIdx r) with
    | some f => (List.range (f.decodeSlots + f.slowMax)).map fun t => (fld r 4 4 + t, d.handleOf 5 (f.trigger (fld r 2 1) t))
    | none => []

/-- The class of a code (Table 15.2). -/
def classOf (c : Nat) : EngClass := [EngClass.parse, .cmp, .join, .oma, .sort, .emb].getD c .parse

/-- The loaded graph (R483), IDLE. -/
def Img.graph (m : Img) (d : Dev) (a : Made) (gs : List GSync) (gen tag : Nat) : Graph :=
  let bound := m.feedTriggers d
  { gen := gen, tag := tag, codeVer := fld m.bytes 5 1, claims := (m.sec 1).map claimOf, syncs := gs
    strms := (m.sec 5).zipIdx.map fun (r, i) =>
      let reuse := strmReuse r
      { strm := hIdx (if reuse = 0 then a.strms.getD i 0 else m.ref a reuse), created := reuse = 0
        arm := { ring := (m.addr d (fld r 0x30 8) 1).getD 0, count := fld r 0x38 4, start := fld r 0x3C 4
                 loop := bit (fld r 0x40 1) 0, slotReset := bit (fld r 0x40 1) 1 }
        stage := fld r 0x48 2, armAt := fld r 0x4A 1 }
    tasks := (m.sec 6).zipIdx.map fun (r, i) =>
      let lane := bound.find? fun b => b.1 = i
      { slot := fld r 0 2, core := fld r 2 1, prio := fld r 3 1, entry := fld r 4 4
        trig := (lane.map Prod.snd).getD (m.ref a (fld r 8 4)), trigAmt := if lane.isSome then 1 else fld r 0xC 4
        rep := fld r 0x10 4, trigReach := bit (fld r 0x14 1) 0, arg := fld r 0x18 8 }
    stages := (m.sec 7).map fun r =>
      { firstTask := fld r 0 4, nTask := fld r 4 4, endSync := hIdx (m.ref a (fld r 8 4)), next := fld r 0xC 2, endVal := fld r 0x10 8 }
    feeds := (m.sec 10).map fun r => ⟨m.feedIdx r, fld r 2 1, fld r 4 4⟩
    queues := (m.sec 11).map fun r =>
      { die := fld r 0 1, cls := classOf (fld r 1 1), queue := fld r 2 1, submit := hIdx (m.ref a (fld r 4 4)) % 2048
        ring := (m.addr d (fld r 8 8) 1).getD 0, count := fld r 0x10 2 }
    matchsets := a.matchsets.map hIdx
    imports := m.imports ++ a.tables.filter fun h => !m.imports.contains h }

/-- The load once every check has passed (R483): claims, data, objects, bindings. -/
def W.loadImage (w : W) (m : Img) (i tag : Nat) : Except Fail (Nat × W) :=
  match makeObjects m i tag w with
  | .error f => .error f
  | .ok (a, gs, w) =>
    let (gen, w) := w.nextGen 4 i
    let d := w.dev
    let w := w.onDev fun d => { d with graphs := Tab.put d.graphs i (m.graph d a gs gen tag) }
    let w := (m.sec 1).foldl (fun w r => w.fillClaim m r) w
    .ok (mkHandle 4 gen i, (m.data d a).foldl (fun w (va, bs) => w.writeVa va bs) w)

/-- The address of the image that GRAPH_LOAD names. -/
def loadVa (c : Ctx) (d : Dev) : Nat := ((Tab.get d.bufs (hIdx (c.f 0 4))).map Buf.base).getD 0 + c.f 8 8

/-- The import list of GRAPH_LOAD. -/
def loadImports (c : Ctx) : List Nat := (List.range (c.f 4 2)).map fun k => c.f (16 + 4 * k) 4

/-- GRAPH_LOAD with the whole image present (R480 to R483): the checks of Table 15.4 from step 2, then the load. -/
def W.loadGraph (w : W) (c : Ctx) (n : Nat) : W :=
  let va := loadVa c w.dev
  let m : Img := ⟨w.readVa va n, loadImports c⟩
  match (m.fails w.dev (w.poisonVa va n)).orElse fun _ => m.taken w.dev with
  | some f => w.failWith c f
  | none =>
    w.withPages c ((m.data w.dev {}).map fun (a, bs) => (a, bs.length)) fun w =>
      match Tab.firstFree w.dev.graphs 0 256 with
      | none => w.reply c.ch c.hdr c.op 0x08 (0x01 + 4 * 65536) []
      | some i =>
        match w.loadImage m i c.idx with
        | .error f => w.failWith c f
        | .ok (h, w) => w.ok c (toLe 4 h ++ zeros 4)

/-- GRAPH_LOAD (R476, R480, R481). The imports are handle parameters (R62). -/
def graphLoad : OpSpec where
  op := 0x0401
  targets := [8]
  set := .live
  len := fun n => 16 ≤ n && n % 4 = 0
  handles := fun c => ⟨0, [3], false⟩ :: (List.range (min (c.f 4 2) 1000)).map fun k => ⟨16 + 4 * k, [1, 2, 3, 4, 5, 6, 7, 8, 9, 10], false⟩
  check := fun c w =>
    if c.tag != c.idx then some ⟨0x04, 0x0010, []⟩
    else if c.f 4 2 ≤ 1000 && c.ps.length != 16 + 4 * c.f 4 2 then some ⟨0x04, 0x06, []⟩
    else firstBad [(0, ((Tab.get w.dev.bufs (hIdx (c.f 0 4))).map Buf.read).getD false), (4, c.f 4 2 ≤ 1000), (6, zeroAt c.ps 6 2),
      (8, c.f 8 8 % 64 = 0)]
  body := fun c w =>
    let room := ((Tab.get w.dev.bufs (hIdx (c.f 0 4))).map Buf.size).getD 0 - c.f 8 8
    let bad := ImgFault.fail ⟨0, 0, 1⟩ 0x04
    if room < 64 then w.failWith c bad
    else w.withPages c [(loadVa c w.dev, 64)] fun w =>
      let h := w.readVa (loadVa c w.dev) 64
      let n := fld h 8 8
      if !(fld h 0 4 = 0x49475653 && fld h 4 1 = 1 && 1 ≤ fld h 6 2 && fld h 6 2 ≤ 11 && 64 ≤ n && n ≤ room) then w.failWith c bad
      else w.withPages c [(loadVa c w.dev, n)] fun w => w.loadGraph c n

/-- GRAPH_LOAD as a packet. -/
def execGraphLoad (ch : Nat) (p : Packet) (s : State) : Out := runT s (hostCommand graphLoad ch p)

end Sys2Proof.Machine
end

