-- ==== Sys2Proof/Machine/Firmware.lean ====
section
/-! DEFINITION. Firmware images, the commands of group 0x08 and the security block's keys (chapter 20), the relay apart. -/

namespace Sys2Proof.Machine

/-- The identity key (R615). -/
def Fuse.idKey (f : Fuse) : List Byte := shake256 57 (ascii "SV24-IDENTITY" ++ f.idSeed)

/-- The storage key SK (R615). -/
def Fuse.storageKey (f : Fuse) : List Byte := shake256 32 (ascii "SV24-STORAGE" ++ f.idSeed)

/-- Bytes of a manifest, and of a segment's plaintext (R617). -/
def segBytes : Nat := 65536

/-- Greatest FILE_BYTES (R617). -/
def maxFile : Nat := 67043328

/-- Blocks of a file (R617). -/
def fileBlocks (n : Nat) : Nat := ceilDiv n 4096

/-- A block of a slot's image; zero bytes where it is not held. -/
def FwSlot.block (x : FwSlot) (k : Nat) : List Byte := Tab.getD x.blocks k (zeros 4096)

/-- The image file of a slot. -/
def FwSlot.file (x : FwSlot) : List Byte := ((List.range (fileBlocks x.fileBytes)).flatMap x.block).take x.fileBytes

/-- What a manifest reports (Table 20.3). -/
def manifestInfo (m : List Byte) : ImageInfo :=
  { dye := fld m 8 4, secVersion := fld m 5 1, codeMin := fld m 6 1, codeMax := fld m 7 1, manifestHash := shake256 32 m
    fmts := (List.range (fld m 0x21 1)).map fun k => (fld m (0x200 + 4 * k) 2, fld m (0x202 + 4 * k) 1, fld m (0x203 + 4 * k) 1) }

/-- PLAIN_BYTES and NSEG of a manifest. -/
def plainBytes (m : List Byte) : Nat := fld m 0x10 8

/-- NSEG of a manifest. -/
def nseg (m : List Byte) : Nat := fld m 0x0C 4

/-- Check 1 of Table 20.7: the manifest's fields in range, FILE_BYTES as in the header. -/
def manifestOk (m : List Byte) (fileBytes : Nat) : Bool :=
  fld m 0 4 = 0x57465653 && fld m 4 1 = 1 && fld m 5 1 ≤ 64 && 1 ≤ plainBytes m && nseg m = ceilDiv (plainBytes m) segBytes
    && fld m 0x18 8 = segBytes + plainBytes m + 16 * nseg m && fld m 0x18 8 ≤ maxFile && fld m 0x18 8 = fileBytes
    && 9 ≤ fld m 0x20 1 && fld m 0x20 1 ≤ 16 && fld m 0x21 1 ≤ 128 && fld m 0x22 1 ≤ 1 && fld m 0x23 1 ≤ 3
    && zeroAt m 0x24 12 && zeroAt m 0x69 7 && zeroAt m 0xE2 30 && zeroAt m 0x400 3072
    && (List.range (fld m 0x20 1)).all fun k =>
      let e := 0x100 + 16 * k
      zeroAt m (e + 1) 3 && fld m (e + 4) 8 + fld m (e + 12) 4 ≤ plainBytes m

/-- Check 2: one component of each code of Table 20.4. -/
def componentsOk (m : List Byte) : Bool :=
  (List.range 9).all fun k => ((List.range (fld m 0x20 1)).filter fun e => fld m (0x100 + 16 * e) 1 = k + 1).length = 1

/-- SIGNER_PUB. -/
def signerPub (m : List Byte) : List Byte := slice m 0x30 57

/-- Check 3: the digest of SIGNER_PUB is the vendor key's, and that fuse entry is programmed (R620). -/
def Fuse.vendorOk (f : Fuse) (m : List Byte) : Bool :=
  let k := f.vendorKeys.getD (fld m 0x23 1) []
  k.any (· != 0) && shake256 32 (signerPub m) = k

/-- Segment i of a file with its tag (R617). -/
def segment (file : List Byte) (i : Nat) : List Byte :=
  let m := file.take segBytes
  slice file (segBytes + i * (segBytes + 16)) (min segBytes (plainBytes m - segBytes * i) + 16)

/-- The plaintext of segment i (R619); none where its tag fails. -/
def openSegment (ik imageId file : List Byte) (i : Nat) : Option (List Byte) :=
  gcmOpen ik (zeros 4 ++ toLe 8 i) imageId (segment file i)

/-- Check 5 of one segment: its tag, then its DIGEST. -/
def segmentOk (ik imageId file : List Byte) (i : Nat) : Bool :=
  match openSegment ik imageId file i with
  | some p => shake256 32 p = slice file (0x1000 + 32 * i) 32
  | none => false

/-- Check 6: SIGNATURE (R620). -/
def signatureOk (ik imageId file : List Byte) : Bool :=
  let m := file.take segBytes
  let plain := (List.range (nseg m)).flatMap fun i => (openSegment ik imageId file i).getD []
  ed448Verify 1 (signerPub m) (ascii "SV24-FW-IMAGE") (shake256 64 (m.take 0x70 ++ zeros 114 ++ m.drop 0xE2 ++ plain)) (slice m 0x70 114)

/-- The checks of Table 20.7 on a slot, in order: the first that fails, with its segment (0 for a check of the whole image). -/
def Dev.imageFails (d : Dev) (slot : Nat) : Option (Nat × Nat) :=
  let x := d.fw.slot slot
  let file := x.file
  let m := file.take segBytes
  if !manifestOk m x.fileBytes then some (1, 0)
  else if !componentsOk m then some (2, 0)
  else if !d.fuse.vendorOk m then some (3, 0)
  else if fld m 5 1 < d.fuse.secVersion then some (4, 0)
  else match (List.range (nseg m)).find? fun i => !segmentOk x.ik x.imageId file i with
    | some i => some (5, i)
    | none => if signatureOk x.ik x.imageId file then none else some (6, 0)

/-- The status of a failing check (Table 20.7). -/
def checkStatus (k : Nat) : Nat := if k = 3 || k = 6 then 9 else if k = 5 then 0x0E else 4

/-- A change of an UPDATE, where it lives. -/
def W.onUpd (w : W) (i : Nat) (f : Upd → Upd) : W := w.onFw fun x => { x with upds := Tab.mod x.upds i f }

/-- BLOCKS of an UPDATE. -/
def Upd.blocks (u : Upd) : Nat := fileBlocks u.fileBytes

/-- Whether an UPDATE holds every block. -/
def Upd.whole (u : Upd) : Bool := (List.range u.blocks).all fun k => u.held.contains k

/-- The held bitmap (R634). -/
def Upd.bitmap (u : Upd) : List Byte := toLe (ceilDiv u.blocks 8) (u.held.foldl (fun m k => m + 2 ^ k) 0)

/-- FW_PROGRESS of an UPDATE journalled (R633). -/
def W.saveProgress (w : W) (i : Nat) : W :=
  match Tab.get w.dev.fw.upds i with
  | some u => w.journal1 0x0040 u.slot u.bitmap
  | none => w

/-- The sectors' blocks that an erase of a block's sector leaves: none of its sector. -/
def FwSlot.eraseSector (x : FwSlot) (k : Nat) : FwSlot := { x with blocks := x.blocks.filter fun e => e.1 / 16 != k / 16 }

/-- A block programmed and marked held (R632 steps 1 to 3, R633): its sector is erased first when it holds no other held block. -/
def W.holdBlock (w : W) (i k : Nat) (data : List Byte) : W :=
  match Tab.get w.dev.fw.upds i with
  | none => w
  | some u =>
    let alone := !u.held.any fun h => h / 16 = k / 16
    let w := w.onSlotFw u.slot fun x =>
      let x := if alone then x.eraseSector k else x
      { x with blocks := Tab.put x.blocks k data }
    (w.onUpd i fun u => { u with held := if u.held.contains k then u.held else u.held ++ [k], phase := if u.phase = 3 then 0 else u.phase }).saveProgress i

/-- The free slot: that of A and B which is not ACTIVE (R630). -/
def Fw.freeSlot (f : Fw) : Nat := if f.active = 0 then 1 else 0

/-- Whether the device runs from the recovery slot with both A and B in use: ACTIVE and PREV name them (Table 20.6). -/
def Fw.bothUsed (f : Fw) : Bool := f.run = 2 && f.active ≤ 1 && f.prev ≤ 1 && f.active != f.prev

/-- An UPDATE created at an index on the free slot (R630): the slot's header is written as receiving; PREV gives the slot up. -/
def W.createUpd (w : W) (i tag kind stageBuf fileBytes : Nat) (imageId ik wrap : List Byte) : W :=
  let slot := w.dev.fw.freeSlot
  let (g, w) := w.nextGen 10 i
  let w := w.onSlotFw slot fun _ => { st := 1, imageId := imageId, fileBytes := fileBytes, wrap := wrap, ik := ik }
  let w := if w.dev.fw.prev = slot then (w.onFw fun f => { f with prev := 0xFF }).saveFw [] else w
  w.onFw fun f =>
    { f with
      upds := Tab.put f.upds i { gen := g, tag := tag, slot := slot, imageId := imageId, fileBytes := fileBytes, kind := kind, stageBuf := stageBuf }
      relays := f.relays.filter fun r => r.upd != some i }

/-- WRAP of a slot (R621): IK under SK. -/
def Dev.wrapIk (d : Dev) (slot : Nat) (imageId ik : List Byte) : List Byte :=
  gcmSeal d.fuse.storageKey (toLe 4 slot ++ toLe 8 d.store.frame.bootCount) imageId ik

/-- The live UPDATE of an image and length (R631). -/
def Dev.updOf (d : Dev) (imageId : List Byte) (fileBytes : Nat) : Option (Nat × Upd) :=
  d.fw.upds.find? fun (_, u) => u.imageId = imageId && u.fileBytes = fileBytes

/-- The 16 bytes of the reply to FW_UPDATE_BEGIN. -/
def Dev.updReply (d : Dev) (i : Nat) (resumed : Bool) : List Byte :=
  match Tab.get d.fw.upds i with
  | some u => toLe 4 (mkHandle 10 u.gen i) ++ toLe 1 (b2n resumed) ++ zeros 3 ++ toLe 4 u.blocks ++ toLe 4 u.held.length
  | none => []

/-- FW_UPDATE_BEGIN (R630, R631, Table 20.6). -/
def fwUpdateBegin : OpSpec where
  op := 0x0800
  targets := [0]
  set := .hub
  len := fun n => n = 88
  handles := fun _ => [⟨24, [3], false⟩]
  check := fun c w => firstBad [(16, 1 ≤ c.f 16 8 && c.f 16 8 ≤ maxFile),
    (24, (Tab.get w.dev.bufs (hIdx (c.f 24 4))).any fun (b : Buf) => b.read), (80, zeroAt c.ps 80 8)]
  conflict := fun c w =>
    let d := w.dev
    match d.updOf (slice c.ps 0 16) (c.f 16 8) with
    | some _ => none
    | none =>
      if !d.fw.confirmed || d.fw.bothUsed then some 0
      else d.fw.upds.head?.map fun (i, _) => d.hstate 10 i
  body := fun c w =>
    let id := slice c.ps 0 16
    match w.dev.updOf id (c.f 16 8) with
    | some (i, _) =>
      let w := w.onUpd i fun u => { u with stageBuf := c.f 24 4 }
      w.ok c (w.dev.updReply i true)
    | none =>
      match w.dev.fw.ka.find? fun a => a.id = c.f 28 4 && w.dev.clk.mono < a.at' + 600000000000 with
      | none => w.authFail c 0x03
      | some a =>
        let w := w.onFw fun f => { f with ka := f.ka.filter fun b => b.id != a.id }
        match gcmOpen a.tk (zeros 12) id (slice c.ps 32 48) with
        | none => w.authFail c 0x02
        | some ik =>
          let w := w.createUpd 0 c.tag 0 (c.f 24 4) (c.f 16 8) id ik (w.dev.wrapIk w.dev.fw.freeSlot id ik)
          w.ok c (w.dev.updReply 0 false)

/-- The UPDATE that a command addresses. -/
def Ctx.upd (c : Ctx) (w : W) : Option Upd := Tab.get w.dev.fw.upds c.idx

/-- Whether an UPDATE holds a block. -/
def Ctx.heldAlready (c : Ctx) (w : W) : Bool := (c.upd w).any fun (u : Upd) => u.held.contains (c.f 0 4)

/-- FW_BLOCK_COMMIT (R632). A block that is not held is read from the live staging buffer; an UPDATE without one cannot take it. -/
def fwBlockCommit : OpSpec where
  op := 0x0801
  targets := [10]
  set := .hub
  len := fun n => n = 16
  check := fun c w => firstBad [(0, (c.upd w).any fun (u : Upd) => c.f 0 4 < u.blocks),
    (8, c.f 8 8 % 4096 = 0 && match (c.upd w).bind fun u => Tab.get w.dev.bufs (hIdx u.stageBuf) with
      | some b => c.f 8 8 + 4096 ≤ b.size
      | none => true)]
  conflict := fun c w =>
    if c.heldAlready w || (c.upd w).any (fun (u : Upd) => w.dev.liveHandle 3 u.stageBuf) then none else some (w.dev.hstate 10 c.idx)
  body := fun c w =>
    if c.heldAlready w then w.ok c []
    else match (c.upd w).bind fun u => Tab.get w.dev.bufs (hIdx u.stageBuf) with
      | none => w
      | some b =>
        let va := b.base + c.f 8 8
        w.withPages c [(va, 4096)] fun w =>
          let data := w.readVa va 4096
          let crc := crc32c data
          if crc != c.f 4 4 || w.poisonVa va 4096 then w.failWith c ⟨0x0E, crc, []⟩
          else w.pend c (.fwCommit c.idx (c.f 0 4) data)

/-- FW_UPDATE_STATUS (R634). -/
def fwUpdateStatus : OpSpec where
  op := 0x0803
  targets := [10]
  set := .stat
  len := fun n => n = 0
  body := fun c w =>
    match c.upd w with
    | none => w
    | some u =>
      let rs := w.dev.fw.relays.filter fun r => r.upd = some c.idx && r.sender
      let count := fun (p : Relay → Bool) => toLe 2 (rs.filter p).length
      let missing := ((List.range u.blocks).find? fun k => !u.held.contains k).getD u.blocks
      let dye := if u.held.contains 0 then fld ((w.dev.fw.slot u.slot).block 0) 8 4 else 0
      w.ok c (toLe 1 u.phase ++ toLe 1 u.kind ++ zeros 2 ++ toLe 4 u.blocks ++ toLe 4 u.held.length ++ toLe 4 missing ++ toLe 4 dye
        ++ padTo 16 u.imageId ++ count (fun _ => true) ++ count (fun r => r.phase = 3) ++ count (fun r => r.phase = 4) ++ zeros 6 ++ u.bitmap)

/-- Whether block k of a file holds bytes of segment i or of its tag. -/
def inSegment (i k : Nat) : Bool :=
  let lo := segBytes + i * (segBytes + 16)
  k * 4096 < lo + segBytes + 16 && lo < (k + 1) * 4096

/-- An UPDATE whose image passes every check (R639): its slot is verified. -/
def W.verified (w : W) (i : Nat) : W :=
  match Tab.get w.dev.fw.upds i with
  | some u =>
    (w.onSlotFw u.slot fun x => { x with st := 2, info := manifestInfo (x.file.take segBytes) }).onUpd i fun u => { u with phase := 2 }
  | none => w

/-- An UPDATE whose image fails a check (R639): the blocks of a failing segment are absent. -/
def W.checkFailed (w : W) (i check seg : Nat) : W :=
  let w := w.onUpd i fun u => { u with phase := 3, held := if check = 5 then u.held.filter fun k => !inSegment seg k else u.held }
  if check = 5 then w.saveProgress i else w

/-- FW_VERIFY (R639): PENDING, and then its outcome. The detail of BAD_PARAM and INTEGRITY, and SEGMENT of a check that names none, are
free (DESIGN CHOICE, log entry 62). -/
def fwVerify : OpSpec where
  op := 0x0804
  targets := [10]
  set := .hub
  len := fun n => n = 0
  conflict := fun c w => if (c.upd w).any Upd.whole then none else some (w.dev.hstate 10 c.idx)
  body := fun c w =>
    match c.upd w with
    | none => w
    | some u =>
      let w := if ackReq c.hdr then w.reply c.ch c.hdr c.op 1 0 [] else w
      match w.dev.imageFails u.slot with
      | none => (w.verified c.idx).ok c []
      | some (k, seg) =>
        let (x, w) := w.free
        let (y, w) := w.free
        let w := w.checkFailed c.idx k seg
        let detail := if checkStatus k = 9 then 2 else x % 2 ^ 32
        w.reply c.ch c.hdr c.op (checkStatus k) detail (toLe 1 k ++ zeros 3 ++ toLe 4 (if k = 5 then seg else y % 2 ^ 32))

/-- The configuration records in the written formats of a new image, where they differ (R607, R640). -/
def Store.reformat (s : Store) (old new : ImageInfo) : List (Nat × Nat × Nat × Bool × List Byte) :=
  (s.live.filter fun r => r.key != 0x0030 && r.key != 0x0040 && r.key != 0x0041 && r.fmt = old.writes r.key && r.fmt != new.writes r.key).map
    fun r => (r.key, new.writes r.key, r.inst, false, r.payload)

/-- FW_ACTIVATE (R640, Table 20.9): UPDATE_PAUSE, and the transaction that switches the slot. -/
def fwActivate : OpSpec where
  op := 0x0805
  targets := [10]
  set := .idle
  len := fun n => n = 0
  conflict := fun c w =>
    let h := w.dev.hstate 10 c.idx
    if (c.upd w).any (fun (u : Upd) => u.phase = 2) && h = 1 && w.dev.sys.group.isNone then none else some h
  body := fun c w =>
    match c.upd w with
    | none => w
    | some u =>
      let w := (w.pend c (.fwActivate c.idx)).setState .updatePause
      let f := w.dev.fw
      let more := w.dev.store.reformat f.info (f.slot u.slot).info
      (w.onFw fun f =>
        { f with
          active := u.slot, prev := f.active, confirmed := false, failedBoots := 0, actUptime := w.dev.store.frame.uptimeS
          deadline := 60 * w.dev.cfg.confirmMin, newDye := (f.slot u.slot).info.dye, prevDye := (f.slot f.active).info.dye
          pause := some (u.slot, w.dev.clk.mono) }).saveFw more

/-- FW_CONFIRM (R608, R644). -/
def fwConfirm : OpSpec where
  op := 0x0806
  targets := [0]
  set := .live
  len := fun n => n = 0
  body := fun c w =>
    if w.dev.fw.confirmed then w.ok c []
    else
      let f := w.dev.fw
      let tombs := w.dev.store.formatTombs (f.slot f.prev).info (f.slot f.active).info
      ((w.onFw fun f => { f with confirmed := true, failedBoots := 0 }).saveFw tombs).ok c []

/-- FW_ROLLBACK (R646): its reply, then the fall-back and its warm reset (R643). -/
def fwRollback : OpSpec where
  op := 0x0807
  targets := [0]
  set := .idle
  len := fun n => n = 0
  conflict := fun _ w => if w.dev.fw.confirmed then some 0 else none
  body := fun c w => ((w.ok c []).fallBackTxn 3).warmReset

/-- The first 192 bytes of the attestation report (Table 20.10). -/
def Dev.attestBody (d : Dev) (nonce : List Byte) : List Byte :=
  let f := d.fw
  let prevOk := f.prev != 0xFF && (f.slot f.prev).st = 2
  toLe 4 0x54415653 ++ toLe 1 1 ++ toLe 1 f.run ++ toLe 2 (b2n (!f.confirmed) + 2 * b2n d.hub.degraded + 4 * b2n prevOk)
    ++ toLe 8 d.fuse.serial ++ padTo 32 nonce ++ toLe 8 d.clk.now ++ toLe 4 d.store.frame.bootCount ++ toLe 4 f.info.dye
    ++ padTo 32 f.info.manifestHash ++ toLe 4 (if f.prev = 0xFF then 0 else f.prevDye) ++ toLe 1 f.info.secVersion ++ toLe 1 d.fuse.secVersion
    ++ (d.fuse.counters.flatMap fun (_, l) => toLe 1 l) ++ zeros 2 ++ toLe 1 d.stateByte ++ zeros 3
    ++ padTo 8 ((d.fuse.ownerKey.map fun k => shake256 8 k).getD []) ++ padTo 57 (ed448Public d.fuse.idKey) ++ zeros 15

/-- SEC_ATTEST (R649). -/
def secAttest : OpSpec where
  op := 0x0808
  targets := [0]
  set := .stat
  len := fun n => n = 32
  body := fun c w =>
    let b := w.dev.attestBody c.ps
    w.ok c (b ++ ed448Sign 0 w.dev.fuse.idKey (ascii "SV24-ATTEST") b ++ zeros 2)

/-- A transport key (R629) from the shared secret and the two public keys. -/
def transportKey (shared hostPub devPub : List Byte) : List Byte := shake256 32 (ascii "SV24-TK" ++ shared ++ hostPub ++ devPub)

/-- SEC_KEY_AGREE (R629): the ephemeral key is drawn free; four agreements are kept. -/
def secKeyAgree : OpSpec where
  op := 0x0809
  targets := [0]
  set := .hub
  len := fun n => n = 64
  check := fun c _ => firstBad [(56, zeroAt c.ps 56 8)]
  body := fun c w =>
    let host := slice c.ps 0 56
    let (priv, w) := w.freeBytes 56
    let pub := x448Public priv
    let id := w.dev.fw.kaNext
    let sig := ed448Sign 0 w.dev.fuse.idKey (ascii "SV24-KEY-AGREE") (host ++ pub ++ toLe 4 id ++ toLe 8 w.dev.fuse.serial)
    let a : Agreement := ⟨id, transportKey (x448 priv host) host pub, w.dev.clk.mono⟩
    (w.onFw fun f => { f with ka := (f.ka ++ [a]).drop (f.ka.length + 1 - 4), kaNext := (id + 1) % 2 ^ 32 }).ok c
      (toLe 4 id ++ zeros 4 ++ pub ++ sig ++ zeros 2)

/-- SEC_OWNER_ROTATE (R591, R648): both signatures hold, and the next slot is programmed; the other COMMAND channels close. -/
def secOwnerRotate : OpSpec where
  op := 0x080A
  targets := [0]
  set := .idle
  len := fun n => n = 296
  check := fun c _ => firstBad [(57, zeroAt c.ps 57 7), (292, zeroAt c.ps 292 4)]
  res := fun _ w => if 16 ≤ w.dev.fuse.ownerUsed then some ⟨0x0A, 4, []⟩ else none
  body := fun c w =>
    let pub := slice c.ps 0 57
    let msg := pub ++ toLe 8 w.dev.fuse.serial
    let good := fun (key sig : List Byte) => ed448Verify 0 key (ascii "SV24-OWNER-ROTATE") msg sig
    if (w.dev.fuse.ownerKey.any fun (k : List Byte) => good k (slice c.ps 64 114)) && good pub (slice c.ps 178 114) then
      let v := w.burn fun ok f => { f with owner := f.owner ++ [(pub, ok)] }
      if !w.dev.slotReads then v.failWith c ⟨0x0E, 4, []⟩
      else let w := v.ok c []
      ((w.dev.chans.filter fun (i, k) => k.kind = 1 && i != c.ch).map Prod.fst).foldl (fun w i => w.closeChan i true) w
    else w.authFail c 0x02

/-- SEC_VERSION_ADVANCE (R591, R647). -/
def secVersionAdvance : OpSpec where
  op := 0x080B
  targets := [0]
  set := .idle
  len := fun n => n = 4
  check := fun c w => firstBad [(0, w.dev.fuse.secVersion < c.f 0 1 && c.f 0 1 ≤ w.dev.fw.info.secVersion), (1, zeroAt c.ps 1 3)]
  conflict := fun _ w => if w.dev.fw.confirmed && w.dev.fw.run != 2 then none else some 0
  res := fun c w => if 64 < c.f 0 1 || 64 ≤ w.dev.fuse.secVersion then some ⟨0x0A, 1, []⟩ else none
  body := fun c w => (w.onFuse fun f => { f with secVersion := c.f 0 1 }).ok c []

/-- FW_UPDATE_BEGIN as a packet. -/
def execFwUpdateBegin (ch : Nat) (p : Packet) (s : State) : Out := run s (hostCommand fwUpdateBegin ch p)

/-- FW_BLOCK_COMMIT as a packet. -/
def execFwBlockCommit (ch : Nat) (p : Packet) (s : State) : Out := run s (hostCommand fwBlockCommit ch p)

/-- FW_UPDATE_STATUS as a packet. -/
def execFwUpdateStatus (ch : Nat) (p : Packet) (s : State) : Out := run s (hostCommand fwUpdateStatus ch p)

/-- FW_VERIFY as a packet. -/
def execFwVerify (ch : Nat) (p : Packet) (s : State) : Out := run s (hostCommand fwVerify ch p)

/-- FW_ACTIVATE as a packet. -/
def execFwActivate (ch : Nat) (p : Packet) (s : State) : Out := run s (hostCommand fwActivate ch p)

/-- FW_CONFIRM as a packet. -/
def execFwConfirm (ch : Nat) (p : Packet) (s : State) : Out := run s (hostCommand fwConfirm ch p)

/-- FW_ROLLBACK as a packet. -/
def execFwRollback (ch : Nat) (p : Packet) (s : State) : Out := run s (hostCommand fwRollback ch p)

/-- SEC_ATTEST as a packet. -/
def execSecAttest (ch : Nat) (p : Packet) (s : State) : Out := run s (hostCommand secAttest ch p)

/-- SEC_KEY_AGREE as a packet. -/
def execSecKeyAgree (ch : Nat) (p : Packet) (s : State) : Out := run s (hostCommand secKeyAgree ch p)

/-- SEC_OWNER_ROTATE as a packet. -/
def execSecOwnerRotate (ch : Nat) (p : Packet) (s : State) : Out := run s (hostCommand secOwnerRotate ch p)

/-- SEC_VERSION_ADVANCE as a packet. -/
def execSecVersionAdvance (ch : Nat) (p : Packet) (s : State) : Out := run s (hostCommand secVersionAdvance ch p)

/-- Whether a command waits for a block of an UPDATE to be programmed (R632). -/
def PendCmd.programs (upd block : Nat) (p : PendCmd) : Bool :=
  match p.wait with
  | .fwCommit u b _ => u = upd && b = block
  | _ => false

/-- Whether a command is a FW_ACTIVATE that waits (R639). -/
def PendCmd.activates (p : PendCmd) : Bool :=
  match p.wait with
  | .fwActivate _ => true
  | _ => false

/-- FW_BLOCK_PROGRAMMED (R632): the block is in both flashes, or its read-back has failed; which record the detail of FAULTED names is
free (DESIGN CHOICE, log entry 62). -/
def execFwBlockProgrammed (upd : Nat) (block : Nat) (readBackOk : Bool) (s : State) : Out :=
  run s fun w =>
    match w.dev.cmds.find? (PendCmd.programs upd block) with
    | some p =>
      match p.wait with
      | .fwCommit u b data =>
        if !w.dev.hubUp then w
        else if readBackOk then (w.holdBlock u b data).complete p 0 0 []
        else
          let (x, w) := w.free
          w.complete p 0x0B (x % 2 ^ 32) []
      | _ => w
    | none => w

/-- UPDATE_PAUSE_TIMEOUT (R642, R643): a reload fails, or the pause reaches 6 s: fall-back and warm reset. -/
def execUpdatePauseTimeout (s : State) : Out :=
  runT s fun w => if w.dev.hub.st = .updatePause then (w.fallBackTxn 4).warmReset else w

/-- CONFIRM_DEADLINE (R643, R645). -/
def execConfirmDeadline (s : State) : Out :=
  runT s fun w =>
    let f := w.dev.fw
    if w.dev.hubUp && !f.confirmed && f.actUptime + f.deadline ≤ w.dev.store.frame.uptimeS then (w.fallBackTxn 1).warmReset else w

end Sys2Proof.Machine
end

