-- ==== Sys2Proof/Machine/Relay.lean ====
section
/-! DEFINITION. The relay of firmware images over Yarzan links (R636 to R638). -/

namespace Sys2Proof.Machine

/-- A relay record sent on a logical link, in pieces of 32 bytes numbered from 0 (R636, DESIGN CHOICE, log entry 63). -/
def W.sendRec (w : W) (k kind session : Nat) (data : List Byte) : W :=
  let n := max 1 (ceilDiv data.length 32)
  (List.range n).foldl (fun w i =>
    let (m, w) := w.ownMessage 0x10 w.dev.groupId
      (toLe 1 kind ++ toLe 1 i ++ toLe 1 n ++ zeros 1 ++ toLe 4 session ++ padTo 32 (slice data (32 * i) 32))
    w.sendMsg k m) w

/-- A change of the relays that a test names. -/
def W.onRelay (w : W) (which : Relay → Bool) (f : Relay → Relay) : W :=
  w.onFw fun x => { x with relays := x.relays.map fun r => if which r then f r else r }

/-- The relay of a link and session on the given side. -/
def Relay.is (k session : Nat) (sender : Bool) (r : Relay) : Bool := r.link = k && r.session = session && r.sender == sender

/-- The logical links of the dimensions named that take an offer (R637). -/
def Dev.offerLinks (d : Dev) (dims : Nat) : List Nat :=
  d.roleLinks.filter fun k => bit dims ((d.link k).role - 1) && (d.logicalState k = 2 || d.logicalState k = 3)

/-- The image of a slot offered to the neighbours of the dimensions named (R637): each offer names the dimensions above its own. -/
def W.offer (w : W) (slot : Nat) (upd : Option Nat) (dims : Nat) : W :=
  (w.dev.offerLinks dims).foldl (fun w k =>
    let x := w.dev.fw.slot slot
    let above := dims / 2 ^ (w.dev.link k).role * 2 ^ (w.dev.link k).role
    let (priv, w) := w.freeBytes 56
    let pub := x448Public priv
    let n := w.dev.fw.session
    let r : Relay := { link := k, session := n, sender := true, slot := slot, upd := upd, dims := above, priv := priv, pub := pub }
    (w.onFw fun f => { f with relays := f.relays ++ [r], session := (n + 1) % 2 ^ 32 }).sendRec k 1 n
      (padTo 16 x.imageId ++ toLe 8 x.fileBytes ++ toLe 4 x.info.dye ++ toLe 1 x.info.secVersion ++ toLe 1 above ++ pub)) w

/-- FW_RELAY_START completes once every offer of its UPDATE has ended (R637). -/
def W.settleRelay (w : W) (i : Nat) : W :=
  if w.dev.fw.relays.any fun r => r.upd = some i && r.sender && r.phase < 3 then w
  else w.completeAll (fun p => p.wait = .fwRelay i) 0 0 []

/-- FW_RELAY_START (R637). -/
def fwRelayStart : OpSpec where
  op := 0x0802
  targets := [10]
  set := .up
  len := fun n => n = 4
  check := fun c _ => firstBad [(0, c.f 0 1 < 8), (1, zeroAt c.ps 1 3)]
  conflict := fun c w => if (c.upd w).any fun (u : Upd) => u.phase = 2 then none else some (w.dev.hstate 10 c.idx)
  body := fun c w =>
    match c.upd w with
    | none => w
    | some u =>
      let w := (w.pend c (.fwRelay c.idx)).onFw fun f => { f with relays := f.relays.filter fun r => r.upd != some c.idx || r.phase < 3 }
      (w.offer u.slot (some c.idx) (c.f 0 1)).settleRelay c.idx

/-- A slot that holds a verified copy of an image. -/
def Fw.verifiedSlot (f : Fw) (id : List Byte) : Option Nat := [0, 1, 2].find? fun k => (f.slot k).st = 2 && (f.slot k).imageId = id

/-- RESULT of an offer (R636, R638); the codes are tried in ascending order from 1 (DESIGN CHOICE, log entry 63). -/
def Dev.offerResult (d : Dev) (id : List Byte) (n secv : Nat) : Nat :=
  let taken := match d.fw.upds.head? with
    | some (i, u) => !(u.imageId = id && u.fileBytes = n && d.hstate 10 i = 1)
    | none => false
  if (d.fw.verifiedSlot id).isSome then 1
  else if d.cfg.fwDelivery != 1 then 2
  else if !d.fw.confirmed || d.fw.bothUsed || taken || !StateSet.up.allows d.hub.st then 3
  else if secv < d.fuse.secVersion then 4
  else 0

/-- First missing block of an UPDATE. -/
def Upd.firstMissing (u : Upd) : Nat := ((List.range u.blocks).find? fun k => !u.held.contains k).getD u.blocks

/-- An offer accepted (R638): its UPDATE is created at index 1, or the live one of the same image goes on. -/
def W.acceptOffer (w : W) (k session : Nat) (id pub : List Byte) (n dims : Nat) : W :=
  let (i, w) := match w.dev.updOf id n with
    | some (i, _) => (i, w.onUpd i fun u => { u with kind := 1 })
    | none => (1, w.createUpd 1 0 1 0 n id [] [])
  match Tab.get w.dev.fw.upds i with
  | none => w
  | some u =>
    let (priv, w) := w.freeBytes 56
    let mine := x448Public priv
    let r : Relay :=
      { link := k, session := session, sender := false, slot := u.slot, upd := some i, dims := dims, priv := priv, pub := mine, peerPub := pub }
    (w.onFw fun f => { f with relays := f.relays ++ [r] }).sendRec k 2 session (toLe 1 0 ++ toLe 4 u.firstMissing ++ mine)

/-- An OFFER handled (R638). One whose FILE_BYTES is out of range is discarded; a refusal's other fields are free (DESIGN CHOICE, log
entry 63). -/
def W.takeOffer (w : W) (k session : Nat) (b : List Byte) : W :=
  let id := slice b 0 16
  let n := fld b 16 8
  if n = 0 || maxFile < n then w
  else
    let res := w.dev.offerResult id n (fld b 28 1)
    if res = 0 then w.acceptOffer k session id (slice b 30 56) n (fld b 29 1)
    else
      let (x, w) := w.freeBytes 60
      let w := w.sendRec k 2 session (toLe 1 res ++ x)
      match w.dev.fw.verifiedSlot id with
      | some slot => w.offer slot ((w.dev.fw.upds.find? fun (_, u) => u.slot = slot).map Prod.fst) (fld b 29 1)
      | none => w

/-- An offer of this device has ended. -/
def W.endOffer (w : W) (k session phase : Nat) : W :=
  match w.dev.fw.relays.find? (Relay.is k session true) with
  | some r =>
    let w := w.onRelay (Relay.is k session true) fun r => { r with phase := phase }
    match r.upd with
    | some i => w.settleRelay i
    | none => w
  | none => w

/-- An ACCEPT handled (R636, R638): KEY, and the blocks from FIRST_MISSING; an image held already counts as finished. -/
def W.takeAccept (w : W) (k session : Nat) (b : List Byte) : W :=
  match w.dev.fw.relays.find? (Relay.is k session true) with
  | none => w
  | some r =>
    if r.phase != 0 then w
    else if fld b 0 1 = 0 then
      let peer := slice b 5 56
      let x := w.dev.fw.slot r.slot
      let tk := transportKey (x448 r.priv peer) r.pub peer
      (w.onRelay (Relay.is k session true) fun r => { r with phase := 2, peerPub := peer, next := 128 * fld b 1 4 }).sendRec k 3 session
        (gcmSeal tk (zeros 12) x.imageId x.ik)
    else w.endOffer k session (if fld b 0 1 = 1 then 3 else 4)

/-- The receiver's checks once it holds every block and the key (R638): DONE, and on success the offers of its own. -/
def W.relayWhole (w : W) (r : Relay) (i : Nat) : W :=
  let mine := Relay.is r.link r.session false
  match Tab.get w.dev.fw.upds i, w.dev.fw.relays.find? mine with
  | some u, some now =>
    if !u.whole || now.phase != 2 then w
    else match w.dev.imageFails u.slot with
      | none =>
        let w := (w.verified i).onRelay mine fun r => { r with phase := 3 }
        (w.sendRec r.link 4 r.session (toLe 1 0)).offer u.slot (some i) r.dims
      | some (c, seg) =>
        ((w.checkFailed i c seg).onRelay mine fun r => { r with phase := 4 }).sendRec r.link 4 r.session (toLe 1 c)
  | _, _ => w

/-- A KEY handled: IK unwrapped and wrapped again under SK (R621, R638). -/
def W.takeKey (w : W) (k session : Nat) (b : List Byte) : W :=
  match w.dev.fw.relays.find? (Relay.is k session false) with
  | none => w
  | some r =>
    if r.phase != 0 then w
    else
      let x := w.dev.fw.slot r.slot
      let tk := transportKey (x448 r.priv r.peerPub) r.peerPub r.pub
      let w := match gcmOpen tk (zeros 12) x.imageId (slice b 0 48) with
        | some ik => w.onSlotFw r.slot fun y => { y with ik := ik, wrap := w.dev.wrapIk r.slot x.imageId ik }
        | none => w
      let w := w.onRelay (Relay.is k session false) fun r => { r with phase := 2 }
      match r.upd with
      | some i => w.relayWhole r i
      | none => w

/-- The number of pieces of a record (R636). -/
def recPieces (kind : Nat) : Nat := if kind = 1 then 3 else if kind = 2 || kind = 3 then 2 else 1

/-- A whole record handled. -/
def W.takeRecord (w : W) (k session kind : Nat) (b : List Byte) : W :=
  match kind with
  | 1 => w.takeOffer k session b
  | 2 => w.takeAccept k session b
  | 3 => w.takeKey k session b
  | 4 => w.endOffer k session (if fld b 0 1 = 0 then 3 else 4)
  | _ => w

/-- A RELAY_REC handled: its piece kept until the record is whole. -/
def W.takeRec (w : W) (link : Nat) (m : List Byte) : W :=
  let k := (w.dev.link link).logical
  let b := msgBody m
  let kind := fld b 0 1
  let i := fld b 1 1
  let n := fld b 2 1
  let session := fld b 4 4
  if n != recPieces kind || n ≤ i then w
  else
    let same := fun (p : RelayPart) => p.link = k && p.session = session && p.kind = kind
    let old := ((w.dev.fw.parts.find? same).map RelayPart.got).getD []
    let got := Tab.put old i (slice b 8 32)
    let w := w.onFw fun f => { f with parts := f.parts.filter fun p => !same p }
    if got.length < n then w.onFw fun f => { f with parts := f.parts ++ [⟨k, session, kind, n, got⟩] }
    else w.takeRecord k session kind ((List.range n).flatMap fun j => Tab.getD got j [])

/-- A RELAY_DATA handled: its chunk kept until the block is whole (R636, R638). -/
def W.takeData (w : W) (link : Nat) (m : List Byte) : W :=
  let k := (w.dev.link link).logical
  let b := msgBody m
  let session := fld b 0 4
  let block := fld b 4 4
  let chunk := fld b 8 1
  match w.dev.fw.relays.find? (Relay.is k session false) with
  | none => w
  | some r =>
    match r.upd, r.upd.bind fun i => Tab.get w.dev.fw.upds i with
    | some i, some u =>
      if 3 ≤ r.phase || u.blocks ≤ block || 128 ≤ chunk || u.held.contains block then w
      else
        let chunks := Tab.put r.chunks (128 * block + chunk) (slice b 12 32)
        let whole := (List.range 128).all fun j => (Tab.get chunks (128 * block + j)).isSome
        let kept := if whole then chunks.filter fun e => e.1 / 128 != block else chunks
        let w := w.onRelay (Relay.is k session false) fun r => { r with chunks := kept }
        if whole then (w.holdBlock i block ((List.range 128).flatMap fun j => Tab.getD chunks (128 * block + j) [])).relayWhole r i else w
    | _, _ => w

/-- Whether a message is a RELAY_REC of a kind. -/
def isRec (m : List Byte) (kind : Nat) : Bool := msgType m = 0x10 && fld (msgBody m) 0 1 = kind

/-- FW_RELAY_START as a packet. -/
def execFwRelayStart (ch : Nat) (p : Packet) (s : State) : Out := run s (hostCommand fwRelayStart ch p)

/-- RELAY_OFFER (R638). -/
def execRelayOffer (link : Nat) (m : List Byte) (s : State) : Out :=
  run s fun w => w.onMessage link m fun w => if isRec m 1 then w.takeRec link m else w

/-- RELAY_ACCEPT (R638). -/
def execRelayAccept (link : Nat) (m : List Byte) (s : State) : Out :=
  run s fun w => w.onMessage link m fun w => if isRec m 2 then w.takeRec link m else w

/-- RELAY_KEY (R636). -/
def execRelayKey (link : Nat) (m : List Byte) (s : State) : Out :=
  run s fun w => w.onMessage link m fun w => if isRec m 3 then w.takeRec link m else w

/-- RELAY_DONE (R638). -/
def execRelayDone (link : Nat) (m : List Byte) (s : State) : Out :=
  run s fun w => w.onMessage link m fun w => if isRec m 4 then w.takeRec link m else w

/-- RELAY_DATA (R636). -/
def execRelayData (link : Nat) (m : List Byte) (s : State) : Out :=
  run s fun w => w.onMessage link m fun w => if msgType m = 0x11 then w.takeData link m else w

/-- A CONTROL flit of relay data (R636, R638): the next four chunks of one relay. -/
def W.sendChunks (w : W) (r : Relay) : W :=
  let x := w.dev.fw.slot r.slot
  let stop := min (r.next + 4) (128 * fileBlocks x.fileBytes)
  let (ms, w) := (List.range (stop - r.next)).foldl (fun (st : List Byte × W) j =>
    let n := r.next + j
    let (m, w) := st.2.ownMessage 0x11 st.2.dev.groupId
      (toLe 4 r.session ++ toLe 4 (n / 128) ++ toLe 1 (n % 128) ++ zeros 3 ++ slice (x.block (n / 128)) (32 * (n % 128)) 32)
    (st.1 ++ m, w)) ([], w)
  let w := w.onRelay (Relay.is r.link r.session true) fun r => { r with next := stop }
  if ms.isEmpty then w else w.sendMsg r.link ms

/-- At each microsecond every relay that sends blocks puts one CONTROL flit on its link (R638). -/
def W.relayTick (w : W) : W :=
  if w.dev.hub.st = .updatePause || !w.dev.linksRun then w
  else (w.dev.fw.relays.filter fun r => r.sender && r.phase = 2).foldl W.sendChunks w

end Sys2Proof.Machine
end

