-- ==== Sys2Proof/Machine/Resume.lean ====
section
/-! DEFINITION. The opcodes of Table 2.9 in one table, and what needs it: a Send that carries a command packet (R97), the commands that
waited for a page (R143), the end of a pause with the messages held through it (R514, R640). -/

namespace Sys2Proof.Machine

/-- The opcodes of group 0x00 (Table 2.9). -/
def opsDevice : List OpSpec :=
  [nop, deviceInfo, deviceStatus, deviceStart, deviceStandby, deviceDrain, deviceReset, handleQuery, handleDestroy, handleList]

/-- The opcodes of group 0x01 (Table 2.9). -/
def opsChannel : List OpSpec :=
  [chanOpen, chanAuthChallenge, chanAuthResponse, chanModify, chanClose]

/-- The opcodes of group 0x02 (Table 2.9). -/
def opsBuffer : List OpSpec :=
  [bufAlloc, bufProtect, bufFill, pageSupply, placeConfig, placeQuery, tierScan, memRetireQuery]

/-- The opcodes of group 0x03 (Table 2.9). -/
def opsStream : List OpSpec :=
  [strmCreate, strmArm, strmStop, strmResume, strmQuery]

/-- The opcodes of group 0x04 (Table 2.9). -/
def opsGraph : List OpSpec :=
  [jobCreate, graphLoad, graphRun, graphDrain, graphFrog, graphQuery, jobAbort]

/-- The opcodes of group 0x05 (Table 2.9). -/
def opsFeed : List OpSpec :=
  [feedOpen, feedConfig, feedAttach, feedLedgerRead, resultRingConfig, fetchResult, resultRelease]

/-- The opcodes of group 0x06 (Table 2.9). -/
def opsSync : List OpSpec :=
  [syncCreate, syncSignal, syncWait, syncRead, schedConfig]

/-- The opcodes of group 0x07 (Table 2.9). -/
def opsPower : List OpSpec :=
  [pwrGaugeSet, pwrStepLimit, pwrCeilingRaise, pwrTelemetryRead, pwrEnergyRead]

/-- The opcodes of group 0x08 (Table 2.9). -/
def opsFirmware : List OpSpec :=
  [fwUpdateBegin, fwBlockCommit, fwRelayStart, fwUpdateStatus, fwVerify, fwActivate, fwConfirm, fwRollback, secAttest, secKeyAgree,
   secOwnerRotate, secVersionAdvance]

/-- The opcodes of group 0x09 (Table 2.9). -/
def opsLink : List OpSpec :=
  [linkStatus, linkConfig, linkSpareSwap, fgroupJoin, fgroupLeave, fgroupStatus, remapAssume]

/-- The opcodes of group 0x0A (Table 2.9). -/
def opsService : List OpSpec :=
  [swatchRun, swatchResult, errlogRead, diagDump, errlogClear]

/-- The opcodes of group 0x0B (Table 2.9). -/
def opsStore : List OpSpec :=
  [storeRead, storeWrite, storeCommit, storeStatus]

/-- The opcodes of group 0x0C (Table 2.9). -/
def opsRegister : List OpSpec :=
  [regRead, regWrite]

/-- The opcodes of Table 2.9. -/
def opTable : List OpSpec :=
  opsDevice ++ opsChannel ++ opsBuffer ++ opsStream ++ opsGraph ++ opsFeed ++ opsSync ++ opsPower
    ++ opsFirmware ++ opsLink ++ opsService ++ opsStore ++ opsRegister

/-- What an opcode's chapter gives of it. -/
def specOf (op : Nat) : Option OpSpec := opTable.find? fun sp => sp.op = op

/-- A command packet as its bytes give it (Table 2.1), with its opcode. -/
def parsePacket (bs : List Byte) : Nat × Packet :=
  (fld bs 4 2,
    { hdr :=
        { magic := BitVec.ofNat 16 (fld bs 0 2), version := BitVec.ofNat 8 (fld bs 2 1), flags := BitVec.ofNat 8 (fld bs 3 1)
          paramLen := BitVec.ofNat 16 (fld bs 6 2), seq := BitVec.ofNat 32 (fld bs 8 4), target := BitVec.ofNat 32 (fld bs 12 4)
          jobTag := BitVec.ofNat 8 (fld bs 16 1), reserved := slice bs 17 43, hdrCrc := BitVec.ofNat 32 (fld bs 60 4) }
      params := bs.drop 64 })

/-- A command packet of any opcode: that of Table 2.9, or BAD_OPCODE (R39 step 5). -/
def anyCommand (ch : Nat) (bs : List Byte) (w : W) : W :=
  let (op, p) := parsePacket bs
  match specOf op with
  | some sp => hostCommand sp ch p w
  | none => arrive ch op p (fun _ w => w.reply ch p.hdr op 0x03 op []) w

/-- A Send on a COMMAND channel (R39 step 1, R97): a command packet; one below 64 bytes is discarded and counted. -/
def W.recvCommand (w : W) (ch psn : Nat) (payload : List Byte) : W :=
  if 4096 < payload.length then w.nak ch psn .invalidRequest
  else if payload.length < 64 then (w.ackReq ch psn).onEth fun e => { e with cmdDrop := satAdd 32 e.cmdDrop 1 }
  else anyCommand ch payload w

/-- SEND_ONLY (R97, R104, R105). -/
def execSendOnly (ch : Nat) (r : RoceHdr) (payload : List Byte) (s : State) : Out :=
  runT s fun w => w.roce ch r fun c w =>
    if c.kind = 1 then w.recvCommand ch r.psn.toNat payload else w.recvSend ch c r.psn.toNat payload

/-- A command that waited for a page, begun again with its effect (R143). -/
def W.rerun (w : W) (p : PendCmd) (ps : List Byte) : W :=
  match specOf p.op with
  | some sp => if w.dev.cmds.contains p then sp.body ⟨p.ch, p.hdr, p.op, ps⟩ (w.onDev fun d => { d with cmds := d.cmds.filter (· != p) }) else w
  | none => w

/-- The commands whose page is present now, begun again in their order (R143). -/
def W.resumePages (w : W) : W :=
  w.dev.cmds.foldl (fun w p => match p.wait with
    | .page va ps => match w.dev.access va false false with
      | .away _ _ => w
      | _ => w.rerun p ps
    | _ => w) w

/-- BUF_PROTECT as a packet. -/
def execBufProtect (ch : Nat) (p : Packet) (s : State) : Out := runT s fun w => (hostCommand bufProtect ch p w).resumePages

/-- BUF_FILL as a packet. -/
def execBufFill (ch : Nat) (p : Packet) (s : State) : Out := runT s fun w => (hostCommand bufFill ch p w).resumePages

/-- PAGE_SUPPLY as a packet. -/
def execPageSupply (ch : Nat) (p : Packet) (s : State) : Out := runT s fun w => (hostCommand pageSupply ch p w).resumePages

/-- PAGE_IN_COMPLETE (R144). -/
def execPageInComplete (buf page : Nat) (s : State) : Out := runT s fun w => (w.endPageIn buf page).resumePages

/-- MIGRATION_COMPLETE (R152). -/
def execMigrationComplete (buf page : Nat) (s : State) : Out := runT s fun w => (w.endMigration buf page).resumePages

/-- A control message that was held, handled (R514). -/
def W.takeHeld (w : W) (link : Nat) (m : List Byte) : W :=
  if 64 < m.length then w.takeTile link m
  else match msgType m with
    | 0x02 => w.takeHeartbeat link m
    | 0x03 => w.takeFreq link m
    | 0x04 => w.takeCeiling link m
    | 0x05 => w.takeEvent link m
    | 0x06 => w.takeLost link m
    | 0x07 => w.takeJoin link m
    | 0x08 => w.takeTime link m
    | 0x10 => w.takeRec link m
    | 0x11 => w.takeData link m
    | _ => w

/-- The messages held through a pause, handled in order; the flits that waited go (R514). -/
def W.endHold (w : W) : W :=
  let ms := w.dev.sys.held
  let w := ms.foldl (fun w (link, m) => w.takeHeld link m) (w.onSys fun s => { s with held := [] })
  (w.dev.llinks.map Prod.fst).foldl W.pump w

/-- The new image runs (R640, R641): READY; graphs outside its range of CODE_VER are FAULTED; the UPDATE has ceased to exist. -/
def W.runImage (w : W) (slot : Nat) : W :=
  let f := w.dev.fw
  let gone := f.upds.filter fun (_, u) => u.slot = slot
  let w := gone.foldl (fun w _ => w.journal false [(0x0040, f.info.writes 0x0040, slot, true, [])]) w
  let info := (f.slot slot).info
  let w := (w.setState .ready).onFw fun f =>
    { f with
      run := slot, info := info, pause := none, upds := f.upds.filter fun (_, u) => u.slot != slot
      relays := f.relays.filter fun r => r.slot != slot }
  w.onDev fun d =>
    { d with graphs := d.graphs.map fun (i, g) => (i, if info.codeMin ≤ g.codeVer && g.codeVer ≤ info.codeMax then g else { g with state := 6 }) }

/-- UPDATE_RELOAD_COMPLETE (R640, R641). -/
def execUpdateReloadComplete (s : State) : Out :=
  runT s fun w =>
    match w.dev.fw.pause with
    | some (slot, t) =>
      if w.dev.hub.st != .updatePause || t + 6000000000 ≤ w.dev.clk.mono then w
      else
        let w := (w.runImage slot).completeAll PendCmd.activates 0 0 []
        w.releaseHeld.endHold.settleFault.strapIn
    | none => w

end Sys2Proof.Machine
end

