-- ==== Sys2Proof/Machine/Console.lean ====
section
/-! DEFINITION. The service console (chapter 21): its gate, its output, its commands, and the boot ROM's console (R651 to R662). -/

namespace Sys2Proof.Machine

/-- A line put out (R652). -/
def W.line (w : W) (s : String) : W := w.send (.console s)

/-- Lines put out in order. -/
def W.linesOut (w : W) (ss : List String) : W := ss.foldl W.line w

/-- Whether the console answers: the management firmware runs, or the boot ROM answers in its place (R651, R654). -/
def Dev.consoleUp (d : Dev) : Bool := d.hubUp && (3 ≤ d.hub.stage || d.svc.rom)

/-- A console command: echoed (R652), counted, refused in a state that its Needs column does not give (R658); the boot ROM's console
knows three commands (R654). -/
def W.console (w : W) (line : String) (needs : DevState → Bool) (rom : Bool) (go : W → W) : W :=
  if !w.dev.consoleUp then w
  else
    let w := (w.line line).onSvc fun v => { v with cmdCnt := satAdd 32 v.cmdCnt 1 }
    if w.dev.svc.rom && !rom then w.final 0x03 0
    else if needs w.dev.hub.st then go w
    else w.final 0x06 (w.dev.conflictDetail 0)

/-- Any state. -/
def anyState : DevState → Bool := fun _ => true

/-- SERVICE only. -/
def inService (s : DevState) : Bool := s = .service

/-- Names of the device states (Table 2.4). -/
def DevState.name : DevState → String
  | .off => "OFF" | .standby => "STANDBY" | .init => "INIT" | .ready => "READY" | .running => "RUNNING" | .draining => "DRAINING"
  | .updatePause => "UPDATE_PAUSE" | .service => "SERVICE" | .fault => "FAULT" | .failed => "FAILED"

/-- Names of the throttle reasons (Table 17.2). -/
def reasonName (r : Nat) : String :=
  ["NONE", "THERMAL", "POWER_CAP", "INPUT_CURRENT", "DROOP", "LOCKSTEP", "COOLANT", "MODEL_DIVERGENCE", "AGEING_MARGIN", "SERVICE"].getD r "NONE"

/-- Names of the record kinds (Table 18.7, R599, R643), with their codes. -/
def kindNames : List (Nat × String) :=
  [(0x01, "DESC_FORMAT"), (0x02, "STRM_FORMAT"), (0x03, "BOUND_LOST"), (0x04, "SCHEDULE_VIOLATION"), (0x05, "LATE"), (0x06, "OVERLAP"),
   (0x07, "DIE_LOST"), (0x08, "CORE_FAULT"), (0x09, "ENG_FAULT"), (0x0A, "MEM_XLATE"), (0x0B, "MEM_PROT"), (0x0C, "NO_RESOURCE"),
   (0x0D, "RESULT_LEN"), (0x0E, "RDMA_POISON"), (0x10, "HBM_UE"), (0x11, "ROW_REPAIR"), (0x12, "GRANULE_RETIRE"),
   (0x13, "PINNED_POISON"), (0x14, "TRIM_LIMIT"), (0x15, "TIER_LOST"), (0x18, "SRAM_UE"), (0x19, "CORE_RETIRE"),
   (0x1A, "SLICE_RETIRE"), (0x1B, "SPARE_BOUND"), (0x20, "LANE_RETIRE"), (0x21, "LINK_SWAP"), (0x22, "LINK_IDENTITY"),
   (0x23, "LINK_TARGET"), (0x24, "MEMBER_LOST"), (0x30, "THERMAL_TRIP"), (0x31, "COOLANT_STOP"), (0x32, "GAUGE_UNREACHED"),
   (0x33, "MODEL_DIVERGENCE"), (0x34, "POWER_SENSOR"), (0x35, "AGE_LIMIT"), (0x36, "INIT_WAIT"), (0x40, "DEGRADED_SET"),
   (0x41, "DEV_FAULT"), (0x42, "DEV_FAILED"), (0x43, "HUB_UE"), (0x44, "STORE_MIRROR"), (0x45, "FW_FALLBACK"), (0x46, "FW_SLOT_BAD")]

/-- The name of a record kind. -/
def kindName (k : Nat) : String := ((kindNames.find? fun e => e.1 = k).map Prod.snd).getD (hexW 4 k)

/-- Names of the severities (R582). -/
def sevName (s : Nat) : String := ["INFO", "WARN", "ERROR", "FATAL"].getD s "INFO"

/-- The letter of a slot. -/
def slotName (k : Nat) : String := if k = 0 then "A" else if k = 1 then "B" else "R"

/-- One field in key=value form. -/
def kv (k v : String) : String := k ++ "=" ++ v

/-- A temperature in tenths of a degree. -/
def tenths (t : Int) : String := (if t < 0 then "-" else "") ++ decFrac 1 t.natAbs

/-- The line of `id` (Table 21.1). -/
def Dev.idLine (d : Dev) : String :=
  joined " " [kv "serial" (hexW 16 d.fuse.serial), kv "mac" (hexBytes (padTo 6 d.fuse.mac)), kv "dye" (hex32 d.fw.info.dye),
    kv "slot" (slotName d.fw.run), kv "sec" (dec d.fw.info.secVersion ++ "/" ++ dec d.fuse.secVersion)]

/-- The line of `status` (Table 21.1). -/
def Dev.statusLine (d : Dev) : String :=
  joined " " [kv "state" d.hub.st.name, kv "deg" (dec (b2n d.hub.degraded)), kv "cond" (hexW 1 d.degCond), kv "cause" (hexW 2 d.hub.failCause),
    kv "step" (dec d.pwr.step), kv "reason" (reasonName d.pwr.limitReason), kv "ladder" (dec d.ladder), kv "boot" (dec d.store.frame.bootCount)]

/-- The line of `ladder` (Table 21.1). -/
def Dev.ladderLine (d : Dev) : String := joined " " [kv "ladder" (dec d.ladder), kv "volts" (decFrac 1 (2 * d.ladder))]

/-- The console commands of Table 21.1, as `help` lists them. -/
def helpLines : List String :=
  ["help", "id", "status", "ladder", "tp", "rails", "temps", "power", "log [from] [minsev]", "links", "store", "reg rd <addr> [count]",
   "reg wr <addr> <value> [mask]", "cmd <opcode> <hex>", "swatch <mask>", "step <s>", "step island <Cn|Bd> <s>", "svc enter", "svc leave",
   "unseal <serial>", "seal", "reset warm", "reset die <d>", "baud <rate>"]

/-- First words of the console commands. -/
def consoleWords : List String :=
  ["id", "status", "ladder", "tp", "rails", "temps", "power", "log", "links", "store", "reg", "cmd", "swatch", "step", "svc", "unseal",
   "seal", "reset", "baud"]

/-- A line of characters as text. -/
def lineText (bs : List Byte) : String := text (bs.map fun b => Char.ofNat b.toNat)

/-- The first word of a line. -/
def firstWord (bs : List Byte) : String := lineText (bs.takeWhile (· != 0x20))

/-- CONSOLE_HELP (R652, R658): `help`; a line that names no command gets ERR BAD_OPCODE (DESIGN CHOICE, log entry 64), one that is too
long ERR
BAD_PARAM, an empty one nothing. The lines of the other commands are commands of their own. -/
def execConsoleHelp (line : List Byte) (s : State) : Out :=
  run s fun w =>
    if line.isEmpty || (line.length ≤ 255 && consoleWords.contains (firstWord line)) then w
    else if 255 < line.length then (if w.dev.consoleUp then (w.line (lineText line)).final 0x04 0 else w)
    else w.console (lineText line) anyState false fun w =>
      if lineText line = "help" then (w.linesOut helpLines).final 0 0 else w.final 0x03 0

/-- CONSOLE_ID (R658). -/
def execConsoleId (s : State) : Out := run s fun w => w.console "id" anyState true fun w => (w.line w.dev.idLine).final 0 0

/-- CONSOLE_STATUS (R658). -/
def execConsoleStatus (s : State) : Out := run s fun w => w.console "status" anyState true fun w => (w.line w.dev.statusLine).final 0 0

/-- CONSOLE_LADDER (R658). -/
def execConsoleLadder (s : State) : Out := run s fun w => w.console "ladder" anyState true fun w => (w.line w.dev.ladderLine).final 0 0

/-- What Table 21.3 expects at a test point, mV: nominal, and the range of readings that is right. -/
def Dev.testPoint (d : Dev) (n : Nat) : Nat × Nat × Nat :=
  let up := d.hub.rails
  let rail := fun (v tol : Nat) => if up then (v, v - tol, v + tol) else (0, 0, tol)
  if n = 1 then (2200, 1990, 2412)
  else if n = 2 then (if up then (1025, 0, 1025) else (14, 0, 14))
  else if n = 3 then (750, 735, 765)
  else if n = 4 then (3300, 3201, 3399)
  else if n = 5 then (1800, 1746, 1854)
  else if n ≤ 9 then rail (d.pwr.volts (n - 6) d.pwr.step) 10
  else if n = 10 then rail 1100 22
  else if n = 11 then rail 400 8
  else if n = 12 then (200 * d.ladder, 200 * d.ladder - 50, 200 * d.ladder + 50)
  else if n = 13 then rail 1800 36
  else if n = 14 then rail 900 18
  else if n = 15 then (if d.pin.flowOk then (3300, 3000, 3600) else (0, 0, 300))
  else (0, 0, 0)

/-- One line of `tp`: the converter's reading is free, but for the ground against which it measures (DESIGN CHOICE, log entry 65). -/
def W.tpLine (w : W) (n : Nat) : W :=
  let (x, w) := w.free
  let r := if n = 16 then 0 else x
  let (nom, lo, hi) := w.dev.testPoint n
  w.line ("TP" ++ dec n ++ "=" ++ decFrac 3 r ++ " V nominal=" ++ decFrac 3 nom ++ " ok=" ++ dec (b2n (lo ≤ r && r ≤ hi)))

/-- CONSOLE_TP (R658, R665). -/
def execConsoleTp (s : State) : Out :=
  run s fun w => w.console "tp" anyState false fun w => ((List.range 16).foldl (fun w k => w.tpLine (k + 1)) w).final 0 0

/-- Names of the regulators, numbered as in Table 21.3 (DESIGN CHOICE, log entry 64). -/
def railNames : List String :=
  ["FD0_CORE", "FD1_CORE", "FD2_CORE", "FD3_CORE", "HBM_VDD", "HBM_VDDQ", "HBM_VPP", "SERDES_0V9", "HUB_CORE", "AUX_3V3", "IO_1V8"]

/-- One line of `rails`: OFF at 0, otherwise with free readings (DESIGN CHOICE, log entry 65). -/
def W.railLine (w : W) (k : Nat) (name : String) : W :=
  let (v, w) := w.free
  let (a, w) := w.free
  let fault := w.dev.hub.regFault.contains k
  let off := !fault && k < 8 && !w.dev.hub.rails
  let (v, a) := if off then (0, 0) else (v, a)
  w.line (name ++ " " ++ decFrac 3 v ++ " V " ++ decFrac 1 a ++ " A reg=" ++ (if fault then "FAULT" else if off then "OFF" else "OK"))

/-- CONSOLE_RAILS (R658). -/
def execConsoleRails (s : State) : Out :=
  run s fun w => w.console "rails" anyState false fun w => (railNames.zipIdx.foldl (fun w (n, k) => w.railLine k n) w).final 0 0

/-- CONSOLE_TEMPS (R658). -/
def execConsoleTemps (s : State) : Out :=
  run s fun w => w.console "temps" anyState false fun w =>
    let p := w.dev.pwr
    (w.linesOut
      [joined " " ((List.range 4).map fun k => kv ("FD" ++ dec k) (tenths (p.tjMax.getD k (0, 0)).2)),
       joined " " [kv "hbm" (tenths p.hbmMax.2), kv "stack" (dec p.hbmMax.1), kv "inlet" (tenths w.dev.pin.inlet),
         kv "flow" (dec (b2n w.dev.pin.flowOk))]]).final 0 0

/-- The fields of a telemetry record (Table 17.6): name, offset, size, whether signed. -/
def telemFields : List (String × Nat × Nat × Bool) :=
  [("MAGIC", 0, 4, false), ("VERSION", 4, 1, false), ("DEV_STATE", 5, 1, false), ("FLAGS", 6, 2, false), ("SEQ", 8, 8, false),
   ("TIME", 0x10, 8, false), ("P_AVG", 0x18, 2, false), ("P_PEAK", 0x1A, 2, false), ("P_EST", 0x1C, 2, false), ("GAUGE_W", 0x1E, 2, false),
   ("CEILING_W", 0x20, 2, false), ("VIN_MIN", 0x22, 2, false), ("IIN_MAX", 0x24, 2, false), ("STEP_MIN", 0x26, 1, false),
   ("STEP_MAX", 0x27, 1, false), ("TJ_MAX_0", 0x28, 2, true), ("TJ_MAX_1", 0x2A, 2, true), ("TJ_MAX_2", 0x2C, 2, true),
   ("TJ_MAX_3", 0x2E, 2, true), ("HBM_TMAX", 0x30, 2, true), ("INLET", 0x32, 2, true), ("TRIM_0", 0x34, 1, false),
   ("TRIM_1", 0x35, 1, false), ("TRIM_2", 0x36, 1, false), ("TRIM_3", 0x37, 1, false), ("E_MEAS", 0x38, 8, false),
   ("E_EST", 0x40, 8, false)]
  ++ ((List.range 9).map fun k => ("THROTTLE_US_" ++ dec (k + 1), 0x48 + 8 * k, 8, false))
  ++ [("GAP", 0x98, 2, false), ("P_REG", 0x9A, 2, false), ("LIMIT_REASON", 0x9C, 1, false), ("STEP_LIMIT", 0x9D, 1, false)]

/-- CONSOLE_POWER (R658): nothing but the final line before the first record. -/
def execConsolePower (s : State) : Out :=
  run s fun w => w.console "power" anyState false fun w =>
    match w.dev.pwr.telem.getLast? with
    | some r => (w.linesOut (telemFields.map fun (n, off, k, signed) =>
        kv n (if signed then decI (sext (8 * k) (fld r off k)) else dec (fld r off k)))).final 0 0
    | none => w.final 0 0

/-- A record as `log` prints it. -/
def LogRec.line (r : LogRec) : String :=
  joined " " [dec r.seq, dec r.time, kindName r.kind, sevName r.sev, dec r.die, hex32 r.unit, hexW 1 r.addr]

/-- CONSOLE_LOG (R584, R658). -/
def execConsoleLog (start : Nat) (sev : Nat) (s : State) : Out :=
  run s fun w => w.console ("log " ++ dec start ++ " " ++ dec sev) anyState false fun w =>
    if 3 < sev then w.final 0x04 0
    else (w.linesOut ((w.dev.log.pick start sev 62).map LogRec.line)).final 0 0

/-- One line of `links` (R505). -/
def Dev.linkLine (d : Dev) (p : Nat) : String :=
  let l := d.link p
  joined " " [kv "link" (dec p),
    kv "state" (["OFF", "TRAINING", "UP", "DEGRADED", "SWAPPING", "DOWN", "REFUSED", "SPARE_IDLE", "SPARE_BAD"].getD l.state ""),
    kv "lanes" (dec l.shown), kv "spare_lane" (dec l.spareLane), kv "role" (dec l.role), kv "logical" (hexW 2 l.logical),
    kv "peer" (dec l.peer), kv "fec_corr" (dec l.fecCorr), kv "replays" (dec l.replays)]

/-- CONSOLE_LINKS (R658). -/
def execConsoleLinks (s : State) : Out :=
  run s fun w => w.console "links" anyState false fun w => (w.linesOut ((List.range 32).map w.dev.linkLine)).final 0 0

/-- The fields of STORE_STATUS (R612): name, offset, size. -/
def storeFields : List (String × Nat × Nat) :=
  (["FA", "FB"].zipIdx.flatMap fun (n, k) =>
    [(n ++ "_STATE", 24 * k, 1), (n ++ "_RETIRED", 24 * k + 1, 2), (n ++ "_ERASE_MIN", 24 * k + 4, 4), (n ++ "_ERASE_MAX", 24 * k + 8, 4),
     (n ++ "_BYTES_24H", 24 * k + 12, 4), (n ++ "_LAP", 24 * k + 16, 4)])
  ++ [("LIVE_BYTES", 48, 4), ("PENDING", 52, 4), ("PENDING_LIMIT", 56, 4), ("BOOT_COUNT", 60, 4), ("CUT_COUNT", 64, 4),
      ("HOLDUP_US", 68, 4), ("FLAGS", 72, 4)]
  ++ ((List.range 4).flatMap fun k =>
    [("USED_" ++ dec (k + 1), 76 + 4 * k, 1), ("COUNTS_LEFT_" ++ dec (k + 1), 77 + 4 * k, 1), ("ABANDONED_" ++ dec (k + 1), 78 + 4 * k, 1)])

/-- CONSOLE_STORE (R658). -/
def execConsoleStore (s : State) : Out :=
  run s fun w => w.console "store" anyState false fun w =>
    (w.linesOut (storeFields.map fun (n, off, k) => kv n (dec (fld w.dev.storeStatus off k)))).final 0 0

/-- CONSOLE_REG_RD (R658): as REG_READ, one line for each register. -/
def execConsoleRegRd (addr : Word) (count : Nat) (s : State) : Out :=
  run s fun w => w.console ("reg rd " ++ hex32 addr.toNat ++ " " ++ dec count) anyState false fun w =>
    let a := addr.toNat
    if count = 0 || 256 < count || !rangeOk a count then w.final 0x04 0
    else if !w.dev.regUp a then w.final 0x06 (w.dev.conflictDetail 0)
    else
      let (vs, w) := w.readRegs a count
      (w.linesOut (vs.zipIdx.map fun (v, k) => hex32 (a + 4 * k) ++ " " ++ hex32 v)).final 0 0

/-- CONSOLE_REG_WR (R82, R116, R658): in SERVICE, unsealed. -/
def execConsoleRegWr (addr value mask : Word) (s : State) : Out :=
  runT s fun w => w.console ("reg wr " ++ hex32 addr.toNat ++ " " ++ hex32 value.toNat ++ " " ++ hex32 mask.toNat) inService false fun w =>
    if !w.dev.svc.unsealed || !w.dev.regUp addr.toNat then w.final 0x06 (w.dev.conflictDetail 0)
    else if !rangeOk addr.toNat 1 then w.final 0x04 0
    else
      let (st, detail, w) := w.writeReg addr.toNat value.toNat mask.toNat
      w.final st detail

/-- The number under which the console's commands stand among those that are PENDING. -/
def consoleCh : Nat := 16384

/-- A reply that went to the console. -/
def toConsole : Tx → Option Reply
  | .reply ch _ r => if ch = consoleCh then some r else none
  | _ => none

/-- A command packet of the console's own run to its reply (R653, R658): a channel of its own carries the reply back. -/
def W.packetReply (w : W) (sp : OpSpec) (target : Nat) (ps : List Byte) : Option Reply × W :=
  let hdr : Header :=
    { magic := 0x5356, version := 1, flags := 1, paramLen := BitVec.ofNat 16 ps.length, seq := 0, target := BitVec.ofNat 32 target
      jobTag := 0, reserved := zeros 43, hdrCrc := 0 }
  let chan : Chan := { gen := 0, tag := 0, kind := 1, state := 2, prio := 1 }
  let w := w.onDev fun d => { d with chans := Tab.put d.chans consoleCh chan }
  let w := beginCmd sp ⟨consoleCh, hdr, sp.op, ps⟩ true w
  let r := ((w.out.findSome? toConsole).or (w.dev.eth.held.findSome? fun m => toConsole m.2))
  let w := { w with out := w.out.filter fun t => (toConsole t).isNone }
  let w := w.onEth fun e => { e with held := e.held.filter fun m => (toConsole m.2).isNone }
  (r, w.onDev fun d => { d with chans := Tab.del d.chans consoleCh })

/-- CONSOLE_CMD (R658): an opcode of state set STAT; another is refused with ERR BAD_OPCODE (DESIGN CHOICE, log entry 64). -/
def execConsoleCmd (op : BitVec 16) (target : Word) (params : List Byte) (s : State) : Out :=
  runT s fun w => w.console ("cmd " ++ hexW 4 op.toNat ++ " " ++ hexBytes (toLe 4 target.toNat ++ params)) anyState false fun w =>
    match specOf op.toNat with
    | some sp =>
      if sp.set != .stat then w.final 0x03 op.toNat
      else match w.packetReply sp target.toNat params with
        | (some r, w) =>
          (w.line (joined " " [kv "status" (statusName r.status), kv "detail" (hex32 r.detail), kv "payload" (hexBytes r.payload)])).final 0 0
        | (none, w) => w
    | none => w.final 0x03 op.toNat

/-- CONSOLE_SWATCH (R658, R660): its final line follows the last swatch. -/
def execConsoleSwatch (mask : DWord) (s : State) : Out :=
  run s fun w => w.console ("swatch " ++ hexW 1 mask.toNat) inService false fun w =>
    if 2 ^ 40 ≤ mask.toNat then w.final 0x04 0
    else if w.dev.cmds.any fun p => p.wait = .swatch then w.final 0x07 0
    else if w.dev.swatchConflict mask.toNat then w.final 0x06 (w.dev.conflictDetail 0)
    else
      let hdr : Header :=
        { magic := 0x5356, version := 1, flags := 1, paramLen := 0, seq := 0, target := 0, jobTag := 0, reserved := zeros 43, hdrCrc := 0 }
      ((w.pend ⟨consoleCh, hdr, 0x0A00, []⟩ .swatch).beginSwatches mask.toNat true).endSwatches

/-- CONSOLE_STEP (R658): the service limit of Table 17.1. -/
def execConsoleStep (step : Nat) (s : State) : Out :=
  run s fun w => w.console ("step " ++ dec step) inService false fun w =>
    if 18 < step then w.final 0x04 0
    else ((w.onSvc fun v => { v with stepLimit := some step }).onLim fun l => { l with service := step }).final 0 0

/-- An island as the console names it: core n, or the block island of die n - 256 (DEDUCED, log entry 27). -/
def islandName (n : Nat) : String := if n < 256 then "C" ++ dec n else "B" ++ dec (n - 256)

/-- CONSOLE_STEP_ISLAND (R658, R662). -/
def execConsoleStepIsland (island step : Nat) (s : State) : Out :=
  run s fun w => w.console ("step island " ++ islandName island ++ " " ++ dec step) inService false fun w =>
    if 18 < step || 260 ≤ island then w.final 0x04 0
    else if island < 256 then (w.onCore island fun c => { c with held := some step }).final 0 0
    else (w.onPwr fun p => { p with blkHeld := Tab.put p.blkHeld (island - 256) step }).final 0 0

/-- The states from which the console enters SERVICE (Table 2.6). -/
def mayEnterService (s : DevState) : Bool :=
  s = .standby || s = .ready || s = .running || s = .draining || s = .fault || s = .failed

/-- SVC_ENTER (R655). -/
def execSvcEnter (s : State) : Out :=
  runT s fun w => w.console "svc enter" mayEnterService false fun w => w.enterService.final 0 0

/-- SVC_LEAVE (R655, R656): with the strap deasserted. -/
def execSvcLeave (s : State) : Out :=
  runT s fun w => w.console "svc leave" inService false fun w =>
    if w.dev.pin.serviceMode then w.final 0x06 (w.dev.conflictDetail 0) else w.leaveService.final 0 0

/-- UNSEAL (R591, R657): in SERVICE with the strap asserted and the right serial number; a count is programmed. -/
def execUnseal (arg : DWord) (s : State) : Out :=
  run s fun w => w.console ("unseal " ++ hexW 16 arg.toNat) inService false fun w =>
    if !w.dev.pin.serviceMode then w.final 0x06 (w.dev.conflictDetail 0)
    else if arg.toNat != w.dev.fuse.serial then w.final 0x04 0
    else if 32 ≤ w.dev.fuse.sealCount then w.final 0x0A 2
    else
      let w := (w.onFuse fun f => { f with sealCount := f.sealCount + 1 }).onSvc fun v => { v with unsealed := true }
      (w.line (kv "counts_left" (dec (32 - w.dev.fuse.sealCount)))).final 0 0

/-- SEAL (R657). -/
def execSeal (s : State) : Out :=
  run s fun w => w.console "seal" anyState false fun w => (w.onSvc fun v => { v with unsealed := false }).final 0 0

/-- CONSOLE_RESET_WARM (R57, R658): the final line, then the reset. -/
def execConsoleResetWarm (s : State) : Out :=
  runT s fun w => w.console "reset warm" anyState false fun w => (w.final 0 0).warmReset

/-- The states in which the console resets a die (Table 21.1). -/
def mayResetDie (s : DevState) : Bool := s = .ready || s = .running || s = .draining || s = .fault || s = .service

/-- CONSOLE_RESET_DIE (R72, R658): the final line, then the reset. -/
def execConsoleResetDie (die : Nat) (s : State) : Out :=
  runT s fun w => w.console ("reset die " ++ dec die) mayResetDie false fun w =>
    if 3 < die then w.final 0x04 0 else (w.final 0 0).askDieReset die

/-- The console's rates (R651). -/
def baudRates : List Nat := [115200, 460800, 921600, 1500000, 3000000]

/-- BAUD (R651): the rate changes after the answer. -/
def execBaud (rate : Nat) (s : State) : Out :=
  run s fun w => w.console ("baud " ++ dec rate) anyState false fun w =>
    if baudRates.contains rate then (w.final 0 0).onSvc fun v => { v with baud := rate } else w.final 0x04 0

/-- ROM_CONSOLE_COMMAND (R654). -/
def execRomConsoleCommand (line : List Byte) (s : State) : Out :=
  run s fun w =>
    if !w.dev.svc.rom || line.isEmpty then w
    else if 255 < line.length then (if w.dev.consoleUp then (w.line (lineText line)).final 0x04 0 else w)
    else w.console (lineText line) anyState true fun w =>
      let t := lineText line
      if t = "id" then (w.line w.dev.idLine).final 0 0
      else if t = "status" then (w.line w.dev.statusLine).final 0 0
      else if t = "ladder" then (w.line w.dev.ladderLine).final 0 0
      else w.final 0x03 0

end Sys2Proof.Machine
end

