-- ==== Sys2Proof/Machine/CoreData.lean ====
section
/-! DEFINITION. Feature instructions of the vector unit: hashes, crosses and buckets (R341 to R343), normalisation (R390 to R392),
one-hot rows (R393), tree ensembles (R265 to R268) and pooling (R425). -/

namespace Sys2Proof.Machine

/-- STR32 element k of a string source in core store: its bytes, and whether a line read is poisoned (R167, R168). -/
def W.coreStr (w : W) (core : Nat) (s : StrSrc) (k : Nat) : Except (Nat × Nat) (List Byte × Bool) := do
  let bs ← w.coreRd core (s.offs + 4 * (s.first + k)) 8
  let a := fld bs 0 4
  let b := fld bs 4 4
  let p := w.corePoison core (s.offs + 4 * (s.first + k)) 8
  if b ≤ a || s.auxSize < b then return ([], p)
  else do
    let x ← w.coreRd core (s.aux + a) (b - a)
    return (x, p || w.corePoison core (s.aux + a) (b - a))

/-- The bytes that lane value k of a hash instruction hashes, its mask bit, its poison (R340). -/
def W.hashInput (w : W) (core : Nat) (i : HashIns) (k : Nat) : Except (Nat × Nat) (List Byte × Bool) :=
  let c := w.dev.core core
  match i.str with
  | some s => w.coreStr core s k
  | none =>
    if i.wide then .ok (slice (c.vreg i.src) (8 * k) 8, bits (c.vpois i.src) (2 * k) 2 != 0)
    else .ok (slice (c.vreg i.src) (4 * (128 * i.part + k)) 4, bit (c.vpois i.src) (128 * i.part + k))

/-- The lane of the mask that governs value k. -/
def hashLane (i : HashIns) (k : Nat) : Nat :=
  if i.str.isSome then k else if i.wide then 2 * k else 128 * i.part + k

/-- A hash instruction (R341): results of rb bytes, which fill the destination or half of it. -/
def hashIns (core rb : Nat) (f : Nat → List Byte → Nat) (i : HashIns) : Ins := fun w => do
  let c := w.dev.core core
  need (regsOk [i.dst] i.mask && (i.str.isSome || i.src < 32) && i.part < 2 && i.dstPart < 2 && i.seed < 32) faultIllegal
  let on := c.lanes i.mask
  let base := if rb = 8 then 0 else 128 * i.dstPart
  let old := elemsOf rb (c.vreg i.dst)
  let rs ← (List.range 128).mapM fun k =>
    if bit on (hashLane i k) then do
      let (bs, p) ← w.hashInput core i k
      return (f (c.sreg i.seed) bs, p, true)
    else return (old.getD (base + k) 0, false, false)
  let bs := (old.take base ++ rs.map (·.1) ++ old.drop (base + 128)).flatMap (toLe rb)
  let lanes := fun (k : Nat) => if rb = 8 then 3 * 4 ^ k else 2 ^ (base + k)
  let act := rs.zipIdx.foldl (fun m (r, k) => if r.2.2 then m + lanes k else m) 0
  let p := rs.zipIdx.foldl (fun m (r, k) => if r.2.1 then m + lanes k else m) 0
  return w.onCore core fun c => c.setV i.dst bs (mergeBits (c.vpois i.dst) p act)

/-- SVH64 as an instruction (R341). -/
def execSvh64 (core : Nat) (i : HashIns) (s : State) : Out := runT s fun w => w.coreIns core 1 i.ecc (hashIns core 8 svh64 i)

/-- XXH64 as an instruction (R341). -/
def execXxh64 (core : Nat) (i : HashIns) (s : State) : Out := runT s fun w => w.coreIns core 1 i.ecc (hashIns core 8 xxh64 i)

/-- CRC-32C as an instruction (R341). -/
def execCrc32c (core : Nat) (i : HashIns) (s : State) : Out :=
  runT s fun w => w.coreIns core 1 i.ecc (hashIns core 4 (fun _ bs => crc32c bs) i)

/-- The 8 bytes that stand for a present value of a type in a cross (R342). -/
def crossValue (ty v : Nat) : Nat :=
  match fmtOfAny ty with
  | some f =>
    match f.decode v with
    | .nan => 0x7FF8000000000000
    | .num s q => fp64.encode (.num (s && q != 0) q)
    | x => fp64.encode x
  | none => if intSigned ty then unsext 64 (sext ((intBits ty).getD 64) v) else v % 2 ^ 64

/-- Whether a cross takes a component of a type: byte-class types and STR32. -/
def crossType (p : CrossPart) : Bool :=
  if p.str.isSome then p.ty = 0x50
  else elemClass p.ty = .byte && p.reg < 32 && 128 * elemBytes p.ty * (p.part + 1) ≤ 1024

/-- The 9-byte encoding of component p of cross k, and its poison (R342). -/
def W.crossPart (w : W) (core : Nat) (p : CrossPart) (k : Nat) : Except (Nat × Nat) (List Byte × Bool) :=
  let c := w.dev.core core
  let present := (p.valid.map fun m => bit (c.mreg m) k).getD true
  if !present then .ok (zeros 9, false)
  else match p.str with
    | some s => do
      let (bs, q) ← w.coreStr core s k
      return (toLe 1 1 ++ toLe 8 (svh64 0 bs), q)
    | none =>
      let b := elemBytes p.ty
      let e := 128 * p.part + k
      let l := laneOf b e
      .ok (toLe 1 1 ++ toLe 8 (crossValue p.ty (fld (c.vreg p.reg) (b * e) b)),
        bit (c.vpois p.reg) l || (b = 8 && bit (c.vpois p.reg) (l + 1)))

/-- CROSS (R342): 128 crosses. -/
def crossIns (core : Nat) (i : CrossIns) : Ins := fun w => do
  let c := w.dev.core core
  need (2 ≤ i.parts.length && i.parts.length ≤ 8 && i.dst < 32 && i.seed < 32
    && i.parts.all fun p => crossType p && (p.valid.map fun m => decide (m < 8)).getD true) faultIllegal
  let rs ← (List.range 128).mapM fun k => do
    let ps ← i.parts.mapM fun p => w.crossPart core p k
    return (svh64 (c.sreg i.seed) (ps.flatMap Prod.fst), ps.any Prod.snd)
  let p := rs.zipIdx.foldl (fun m (r, k) => if r.2 then m + 3 * 4 ^ k else m) 0
  return w.onCore core fun c => c.setV i.dst (rs.flatMap fun r => toLe 8 r.1) p

/-- CROSS as an instruction (R342). -/
def execCross (core : Nat) (i : CrossIns) (s : State) : Out := runT s fun w => w.coreIns core 1 i.ecc (crossIns core i)

/-- BUCKET of one lane (R343): a count of 0 gives 0 and NV. For a count above 2^63, outside the stated range, the product is the same
formula's. -/
def bucketLane : LaneFn := fun s xs =>
  let b := xs.getD 1 0
  if b = 0 then (0, flNV, s) else (xs.getD 0 0 * b / 2 ^ 64, 0, s)

/-- BUCKET as an instruction (R343). -/
def execBucket (core : Nat) (i : BucketIns) (s : State) : Out :=
  runT s fun w => w.coreIns core 1 [] fun w => do
    need (regsOk [i.dst, i.h, i.b] i.mask) faultIllegal
    return w.onCore core fun c => c.lanewise 8 i.dst [i.h, i.b] i.mask bucketLane

/-- What a normalisation computes of a datum, with its flags and generator. -/
abbrev NormFn := RMode → Nat → FV → FV × Nat × Nat

/-- x - p, rounded to FP32, times r, rounded to the result's format (R390; DESIGN CHOICE, log entry 49). -/
def normScale (f : FFmt) (satC ftz : Bool) (p r : FV) : NormFn := fun rm g x =>
  let (md, g) := rm.use g
  let (d, fl) := fp32.add md satC ftz x p.flip
  let (md, g) := rm.use g
  let (y, fl') := f.mul md satC ftz d r
  (y, Nat.lor fl fl', g)

/-- ZSCORE (Table 11.8). -/
def zscoreFn (f : FFmt) (satC ftz : Bool) (p1 p2 : FV) : NormFn := normScale f satC ftz p1 p2

/-- MINMAX: as ZSCORE, then clamped to [+0, 1]. -/
def minmaxFn (f : FFmt) (satC ftz : Bool) (p1 p2 : FV) : NormFn := fun rm g x =>
  let (y, fl, g) := normScale f satC ftz p1 p2 rm g x
  if y.isNan then (y, fl, g) else ((y.max (.num false 0)).min (.num false 1), fl, g)

/-- A datum rounded to a result format. -/
def normOut (f : FFmt) (rm : RMode) (satC ftz : Bool) (g : Nat) (v : FV) : FV × Nat × Nat :=
  match v with
  | .num s q =>
    let (md, g) := rm.use g
    let (r, fl) := f.round md false satC ftz s q
    (r, fl, g)
  | v => (v, 0, g)

/-- CLIP: min(max(x, LO), HI); a NaN stays one (R391). -/
def clipFn (f : FFmt) (satC ftz : Bool) (p1 p2 : FV) : NormFn := fun rm g x =>
  normOut f rm satC ftz g (if x.isNan then .nan else (x.max p1).min p2)

/-- SLOG within two units in the last place of a format (Table 11.8): the pattern is a free choice among them (DESIGN CHOICE, log entry
9). -/
def FFmt.within2 (f : FFmt) (satC ftz : Bool) (key : Nat) (neg : Bool) (approx : Rat) : FV × Nat :=
  if approx = 0 then (.num neg 0, 0)
  else
    let u := f.spacing approx
    let k := ratFloor (approx / u)
    let cands := [k - 1, k, k + 1, k + 2]
    let c := cands.getD (Config.freeUlp key 3 % 4) k
    let (v, fl) := f.round .rne false satC ftz neg ((c : Rat) * u)
    (v, Nat.lor fl flNX)

/-- SLOG: sign(x) × ln(1 + |x|). -/
def slogFn (f : FFmt) (satC ftz : Bool) (key : Nat) : NormFn := fun _ g x =>
  match x with
  | .num s q =>
    let (v, fl) := f.within2 satC ftz key s (lnApprox (1 + q))
    (v, fl, g)
  | v => (v, 0, g)

/-- QUANTILE (R392): b / K; K = 0 gives +0. -/
def quantileFn (f : FFmt) (satC ftz : Bool) (k : Nat) : NormFn := fun rm g x =>
  if k = 0 then (.num false 0, 0, g)
  else
    let (md, g) := rm.use g
    let (y, fl) := f.div md satC ftz x (.num false (k : Nat))
    (y, fl, g)

/-- A normalisation instruction on 256 lanes (R390, R391): NAN_OUT stands for a NaN. BF16 results fill half of the destination. `key`
tells lanes' functions their operand, `input` reads it. -/
def normIns (core : Nat) (i : NormIns) (input : Bool → Nat → FV) (fn : FFmt → Bool → Bool → Nat → NormFn) : Ins := fun w => do
  let c := w.dev.core core
  let rm ← c.mode i.mode
  need (regsOk [i.dst, i.src] i.mask && i.p1 < 32 && i.p2 < 32 && i.nanOut < 32 && i.part < 2) faultIllegal
  let f := if i.bf then bf16 else fp32
  let nan := (toFloat f .rne c.satC c.ftz (fp32.decode (c.sreg i.nanOut % 2 ^ 32))).1
  let lane : LaneFn := fun g xs =>
    let x := xs.getD 0 0
    let (y, fl, g) := fn f c.satC c.ftz x rm g (input c.ftz x)
    if y.isNan then (nan, Nat.land fl (flNX + flUF + flOF + flDZ), g) else (f.encode y, fl, g)
  if i.bf then
    let r := { c with vregs := Tab.put c.vregs 32 (zeros 1024), vpoison := Tab.put c.vpoison 32 0 }.lanewise 4 32 [i.src] i.mask lane
    let on := c.lanes i.mask
    let new := elemsOf 4 (r.vreg 32)
    let old := elemsOf 2 (c.vreg i.dst)
    let base := 256 * i.part
    let es := (List.range 512).map fun e =>
      if base ≤ e && e < base + 256 && bit on (e - base) then new.getD (e - base) 0 else old.getD e 0
    let touched : List (Nat × Bool × Bool) := (List.range 128).map fun l => (128 * i.part + l, bits on (2 * l) 2 = 3, bits (Nat.land (c.vpois i.src) on) (2 * l) 2 != 0)
    let whole := touched.foldl (fun m t => if t.2.1 then m + 2 ^ t.1 else m) 0
    let p := touched.foldl (fun m t => if t.2.2 then m + 2 ^ t.1 else m) 0
    return w.onCore core fun _ =>
      { r with vregs := Tab.del r.vregs 32, vpoison := Tab.del r.vpoison 32 }.setV i.dst (es.flatMap (toLe 2))
        (Nat.lor (mergeBits (c.vpois i.dst) 0 whole) p)
  else return w.onCore core fun c => c.lanewise 4 i.dst [i.src] i.mask lane

/-- A parameter of a normalisation in a scalar register: FP32. -/
def normParam (c : Core) (r : Nat) : FV := fp32.flush c.ftz (fp32.decode (c.sreg r % 2 ^ 32))

/-- An FP32 input. -/
def fpInput (ftz : Bool) (x : Nat) : FV := fp32.flush ftz (fp32.decode x)

/-- ZSCORE as an instruction (R390). -/
def execZscore (core : Nat) (i : NormIns) (s : State) : Out :=
  runT s fun w => w.coreIns core 1 [] fun w =>
    let c := w.dev.core core
    normIns core i fpInput (fun f satC ftz _ => zscoreFn f satC ftz (normParam c i.p1) (normParam c i.p2)) w

/-- MINMAX as an instruction (R390). -/
def execMinmax (core : Nat) (i : NormIns) (s : State) : Out :=
  runT s fun w => w.coreIns core 1 [] fun w =>
    let c := w.dev.core core
    normIns core i fpInput (fun f satC ftz _ => minmaxFn f satC ftz (normParam c i.p1) (normParam c i.p2)) w

/-- CLIP as an instruction (R390). -/
def execClip (core : Nat) (i : NormIns) (s : State) : Out :=
  runT s fun w => w.coreIns core 1 [] fun w =>
    let c := w.dev.core core
    normIns core i fpInput (fun f satC ftz _ => clipFn f satC ftz (normParam c i.p1) (normParam c i.p2)) w

/-- SLOG as an instruction (R390). -/
def execSlog (core : Nat) (i : NormIns) (s : State) : Out :=
  runT s fun w => w.coreIns core 1 [] (normIns core i fpInput fun f satC ftz x => slogFn f satC ftz x)

/-- QUANTILE as an instruction (R392): bucket indices as UINT32, K in a scalar register. -/
def execQuantile (core : Nat) (i : NormIns) (s : State) : Out :=
  runT s fun w => w.coreIns core 1 [] fun w =>
    let k := (w.dev.core core).sreg i.p1
    normIns core i (fun _ x => .num false (x : Nat)) (fun f satC ftz _ => quantileFn f satC ftz k) w

/-- Bytes of an output element of ONEHOT and MULTIHOT; none for a type that R393 does not list. -/
def hotBytes (ty : Nat) : Option Nat :=
  match ty with
  | 0x01 => some 4 | 0x02 => some 2 | 0x11 => some 1 | _ => none

/-- The pattern of a count in an output type: UINT8 saturates at 255 (R393). -/
def hotValue (ty n : Nat) : Nat :=
  if ty = 0x11 then min n 255 else ((fmtOf ty).map fun f => (toFloat f .rne true false (.num false (n : Nat))).1).getD 0

/-- A row of depth D: each index that lies below D adds one, or sets one (R393). -/
def hotRow (ty depth : Nat) (count : Bool) (ks : List Nat) : List Byte :=
  let b := (hotBytes ty).getD 1
  let row := ks.foldl (fun (t : Tab Nat) k => Tab.upd t k 0 fun n => if count then n + 1 else 1) []
  (List.range depth).flatMap fun k => toLe b (hotValue ty (Tab.getD row k 0))

/-- An index of a row, where it counts: not null, not negative, below D (R393). -/
def hotIndex (signed : Bool) (depth : Nat) (null : Bool) (v : Nat) : Option Nat :=
  if null || (signed && 2 ^ 31 ≤ v) || depth ≤ v then none else some v

/-- Rows written one after another: each with its indices and its poison. -/
def W.writeRows (w : W) (core : Nat) (i : HotIns) : Nat → List (List (Option Nat) × Bool) → Except (Nat × Nat) W
  | _, [] => .ok w
  | r, (ks, p) :: t => do
    let row := hotRow i.ty i.depth i.count (ks.filterMap id)
    let w ← w.coreWr core (i.out + r * row.length) row p
    w.writeRows core i (r + 1) t

/-- The rows of a one-hot or multi-hot instruction written, and the ignored indices counted in scalar register 3 (R393). -/
def W.hotRows (w : W) (core : Nat) (i : HotIns) (rows : List (List (Option Nat) × Bool)) : Except (Nat × Nat) W := do
  let w ← w.writeRows core i 0 rows
  let ignored := (rows.map fun r => (r.1.filter Option.isNone).length).sum
  return w.setSreg core 3 ignored

/-- The operands that both instructions check. -/
def hotOk (i : HotIns) : Bool := (hotBytes i.ty).isSome && 1 ≤ i.depth && i.depth ≤ 65536

/-- ONEHOT (R393). -/
def onehot (core : Nat) (i : HotIns) : Ins := fun w => do
  need (hotOk i && regsOk [i.src] i.valid && i.n ≤ 256) faultIllegal
  let c := w.dev.core core
  let on := c.lanes i.valid
  let xs := elemsOf 4 (c.vreg i.src)
  w.hotRows core { i with count := false } ((List.range i.n).map fun k =>
    ([hotIndex i.signed i.depth (!bit on k) (xs.getD k 0)], bit on k && bit (c.vpois i.src) k))

/-- The indices of list r of a MULTIHOT (R316, R393), and their poison. A list whose offsets decrease is empty. -/
def W.hotList (w : W) (core : Nat) (i : HotIns) (r : Nat) : Except (Nat × Nat) (List (Option Nat) × Bool) := do
  let os ← w.coreRd core (i.offs + 4 * r) 8
  let a := fld os 0 4
  let n := fld os 4 4 - a
  let vs ← w.coreRd core (i.vals + 4 * a) (4 * n)
  let p := w.corePoison core (i.offs + 4 * r) 8 || w.corePoison core (i.vals + 4 * a) (4 * n)
  let ks ← (List.range n).mapM fun k =>
    match i.bitmap with
    | none => .ok (hotIndex i.signed i.depth false (fld vs (4 * k) 4))
    | some b => do
      let x ← w.coreRd core (b + (a + k) / 8) 1
      return hotIndex i.signed i.depth (!bit (leNat x) ((a + k) % 8)) (fld vs (4 * k) 4)
  return (ks, p)

/-- MULTIHOT (R393). -/
def multihot (core : Nat) (i : HotIns) : Ins := fun w => do
  need (hotOk i) faultIllegal
  let rows ← (List.range i.n).mapM (w.hotList core i)
  w.hotRows core i rows

/-- ONEHOT as an instruction (R393). -/
def execOnehot (core : Nat) (i : HotIns) (s : State) : Out := runT s fun w => w.coreIns core 1 i.ecc (onehot core i)

/-- MULTIHOT as an instruction (R393). -/
def execMultihot (core : Nat) (i : HotIns) (s : State) : Out := runT s fun w => w.coreIns core 1 i.ecc (multihot core i)

/-- The header of a tree ensemble (Table 7.8). -/
structure Ens where
  trees : Nat
  nodes : Nat
  base : Nat
  nfeat : Nat
  depth : Nat
  roots : Nat
  nodeBase : Nat

/-- The path of a lane through a tree (R266, R267): its leaf value, or none where the lane fails; with the lines' poison. -/
def treeWalk (w : W) (core : Nat) (e : Ens) (row : Nat) : Nat → Nat → Bool → Except (Nat × Nat) (Option Nat × Bool)
  | 0, _, p => .ok (none, p)
  | fuel + 1, k, p => do
    if e.nodes ≤ k then return (none, p)
    else do
      let nd ← w.coreRd core (e.nodeBase + 16 * k) 16
      let p := p || w.corePoison core (e.nodeBase + 16 * k) 16
      if fld nd 2 1 = 1 then return (some (fld nd 8 4), p)
      else if fld nd 2 1 != 0 || fuel = 0 then return (none, p)
      else do
        let fo := row + 4 * fld nd 0 2
        let x ← w.coreRd core fo 4
        let p := p || w.corePoison core fo 4
        let v := fp32.decode (leNat x)
        let left := if v.isNan then bit (fld nd 3 1) 0 else v.lt (fp32.decode (fld nd 8 4))
        treeWalk w core e row fuel (if left then fld nd 4 4 else fld nd 4 4 + 1) p

/-- A lane's score: BASE plus the leaf of each tree, in ascending order (R266, R267). -/
def treeLane (w : W) (core : Nat) (e : Ens) (row : Nat) (r : RMode) (satC ftz : Bool) (roots : List Nat) (g : Nat) :
    Except (Nat × Nat) (Nat × Nat × Nat × Bool) := do
  let (acc, fl, g, bad, p) ← roots.foldlM (fun (a : FV × Nat × Nat × Bool × Bool) k => do
    let (acc, fl, g, bad, p) := a
    let (leaf, p) ← treeWalk w core e row (e.depth + 1) k p
    match leaf with
    | none => return (acc, fl, g, true, p)
    | some v =>
      let (md, g) := r.use g
      let (y, fl') := fp32.add md satC ftz acc (fp32.flush ftz (fp32.decode v))
      return (y, Nat.lor fl fl', g, bad, p)) (fp32.flush ftz (fp32.decode e.base), 0, g, false, false)
  return if bad then (fp32.nanBits false, Nat.lor fl flTREE, g, p) else (fp32.encode acc, fl, g, p)

/-- TREE_SCORING (R265 to R267, R566): a header out of its ranges makes an undefined instruction, an offset off its boundary ALIGN
(DEDUCED, log
entry 50). -/
def treeScore (core : Nat) (i : TreeScore) : Ins := fun w => do
  let c := w.dev.core core
  let r ← c.mode i.mode
  need (regsOk [i.dst] i.mask) faultIllegal
  need (i.ens % 64 = 0) (0x03, i.ens)
  need (i.feat % 4 = 0 && i.stride % 4 = 0) (0x03, i.feat)
  let h ← w.coreRd core i.ens 64
  let e : Ens := ⟨fld h 0 4, fld h 4 4, fld h 8 4, fld h 12 2, fld h 14 1, fld h 16 4, fld h 20 4⟩
  need (1 ≤ e.trees && e.trees ≤ 65536 && 1 ≤ e.nodes && e.nodes ≤ 2 ^ 20 && 1 ≤ e.nfeat && e.nfeat ≤ 4096 && 1 ≤ e.depth
    && e.depth ≤ 64 && zeroAt h 15 1 && zeroAt h 24 40) faultIllegal
  need (e.roots % 64 = 0) (0x03, e.roots)
  need (e.nodeBase % 64 = 0) (0x03, e.nodeBase)
  let rb ← w.coreRd core e.roots (4 * e.trees)
  let on := c.lanes i.mask
  let old := elemsOf 4 (c.vreg i.dst)
  let rs : List (Nat × Nat × Nat × Bool) ← (List.range 256).mapM fun l =>
    if bit on l then treeLane w core e (i.feat + l * i.stride) r c.satC c.ftz (takeElems 4 e.trees rb) (c.gen l)
    else .ok (old.getD l 0, 0, c.gen l, false)
  let fl := rs.foldl (fun m x => Nat.lor m x.2.1) 0
  let p := w.corePoison core i.ens 64 || w.corePoison core e.roots (4 * e.trees) || rs.any fun x => x.2.2.2
  let gens := rs.zipIdx.foldl (fun t (x, l) => if x.2.2.1 = c.gen l then t else Tab.put t l x.2.2.1) c.gens
  return w.onCore core fun c =>
    ({ c with gens := gens }.setV i.dst ((rs.map Prod.fst).flatMap (toLe 4)) (mergeBits (c.vpois i.dst) (if p then allLanes else 0) on)).flag fl

/-- TREE_SCORING as an instruction (R266). -/
def execTreeScoring (core : Nat) (i : TreeScore) (s : State) : Out := runT s fun w => w.coreIns core 1 i.ecc (treeScore core i)

/-- The counted positions of a bag (R425): row and weight, with the poison of what was read. -/
def W.bagPos (w : W) (core : Nat) (i : PoolIns) (k : Nat) : Except (Nat × Nat) (Option (Nat × Option Nat) × Bool) := do
  let (on, p) ← match i.valid with
    | none => pure (true, false)
    | some b => do
      let x ← w.coreRd core (b + k / 8) 1
      pure (bit (leNat x) (k % 8), w.corePoison core (b + k / 8) 1)
  let (row, q) ← match i.inv with
    | none => pure (k, false)
    | some a => do
      let x ← w.coreRd core (a + 4 * k) 4
      pure (leNat x, w.corePoison core (a + 4 * k) 4)
  if !on || row = 0xFFFFFFFF then return (none, p || (on && q))
  else match i.weights with
    | none => return (some (row, none), p || q)
    | some a => do
      let x ← w.coreRd core (a + 4 * k) 4
      return (some (row, some (leNat x)), p || q || w.corePoison core (a + 4 * k) 4)

/-- The elements of a gathered row (R425). -/
def W.poolRow (w : W) (core : Nat) (i : PoolIns) (row : Nat) : Except (Nat × Nat) (List FV × Bool) := do
  let b := if i.bfIn then 2 else 4
  let off := i.rows + row * i.stride
  let bs ← w.coreRd core off (b * i.dim)
  let f := if i.bfIn then bf16 else fp32
  return ((takeElems b i.dim bs).map fun x => f.flush (w.dev.core core).ftz (f.decode x), w.corePoison core off (b * i.dim))

/-- A row accumulated into a bag: sum with or without a weight, or the greater element, NaN ignored (R425). -/
def poolStep (mode : PoolMode) (satC ftz : Bool) (wt : Option FV) (acc : List (Option FV)) (row : List FV) : List (Option FV) × Nat :=
  let xs := (acc.zip row).map fun (a, x) =>
    match mode with
    | .max =>
      let x := match wt with
        | some t => (fp32.mul .rne satC ftz x t).1
        | none => x
      if x.isNan then (a, 0)
      else match a with
        | some y => (some (y.max x), 0)
        | none => (some x, 0)
    | _ =>
      let a := a.getD (.num false 0)
      let (y, fl) := match wt with
        | some t => fp32.fma .rne satC ftz x t a
        | none => fp32.add .rne satC ftz a x
      (some y, fl)
  (xs.map Prod.fst, xs.foldl (fun m x => Nat.lor m x.2) 0)

/-- One bag (R425): its output row, flags, poison, whether it was empty. An element whose counted values are all NaN has no greatest one
under MAX: it is free (DESIGN CHOICE, log entry 52). -/
def W.poolBag (w : W) (core : Nat) (i : PoolIns) (a b : Nat) : Except (Nat × Nat) (List Byte × Nat × Bool × Bool) := do
  let c := w.dev.core core
  let (acc, fl, p, n) ← (List.range (b - a)).foldlM (fun (s : List (Option FV) × Nat × Bool × Nat) k => do
    let (acc, fl, p, n) := s
    let (pos, q) ← w.bagPos core i (a + k)
    match pos with
    | none => return (acc, fl, p || q, n)
    | some (row, wt) => do
      let (xs, q') ← w.poolRow core i row
      let (acc, fl') := poolStep i.mode c.satC c.ftz (wt.map fun x => fp32.flush c.ftz (fp32.decode x)) acc xs
      return (acc, Nat.lor fl fl', p || q || q', n + 1)) (List.replicate i.dim none, 0, false, 0)
  let f := if i.bfOut then bf16 else fp32
  let out : List (Nat × Nat) := acc.zipIdx.map fun (x, k) =>
    if i.mode = .max && n != 0 && x.isNone then (Config.freeNat (w.dev.freeCtr + k) % 2 ^ f.width, 0)
    else
    let x := x.getD (.num false 0)
    if i.mode = .mean && n != 0 then
      let (y, fl) := f.div .rne c.satC c.ftz x (.num false (n : Nat))
      (f.encode y, fl)
    else toFloat f .rne c.satC c.ftz x
  let fl := out.foldl (fun m (x : Nat × Nat) => Nat.lor m x.2) fl
  return (out.flatMap fun x => toLe (f.width / 8) x.1, fl, p, n = 0)

/-- Bags one after another. -/
def W.poolBags (w : W) (core : Nat) (i : PoolIns) : List (Nat × Nat × Nat) → Nat → Nat → Except (Nat × Nat) (W × Nat × Nat)
  | [], fl, empty => .ok (w, fl, empty)
  | (k, a, b) :: t, fl, empty => do
    let (row, fl', p, e) ← w.poolBag core i a b
    let w := w.onDev fun d => { d with freeCtr := d.freeCtr + i.dim }
    let w ← w.coreWr core (i.out + k * i.outStride) row p
    w.poolBags core i t (Nat.lor fl fl') (empty + b2n e)

/-- EMB_POOL (R425): bag offsets that decrease or pass the row count raise ILLEGAL. -/
def embPool (core : Nat) (i : PoolIns) : Ins := fun w => do
  let bs ← w.coreRd core i.bags (4 * (i.nbags + 1))
  let os := takeElems 4 (i.nbags + 1) bs
  let ranges := (List.range i.nbags).map fun k => (k, os.getD k 0, os.getD (k + 1) 0)
  need (ranges.all (fun (_, a, b) => a ≤ b) && os.all (· ≤ i.nrows)) faultIllegal
  let (w, fl, empty) ← w.poolBags core i ranges 0 0
  return (w.onCore core (·.flag fl)).setSreg core 3 empty

/-- EMB_POOL as an instruction (R425). -/
def execEmbPool (core : Nat) (i : PoolIns) (s : State) : Out := runT s fun w => w.coreIns core 1 i.ecc (embPool core i)

end Sys2Proof.Machine
end

