-- ==== Sys2Proof/Machine/Matrix.lean ====
section
/-! DEFINITION. The matrix unit (R249 to R255, R566). -/

namespace Sys2Proof.Machine

/-- The row of Table 7.4 to which an operand type belongs: BF16 and FP16 do not mix (R251). -/
def matClass (ty : Nat) (int4 : Bool) : Option Nat :=
  if int4 then (if ty = 0x0B then some 5 else none)
  else match ty with
    | 0x02 => some 0 | 0x03 => some 1
    | 0x04 | 0x05 | 0x06 | 0x07 | 0x08 | 0x09 => some 2
    | 0x0B => some 3 | 0x10 | 0x11 => some 4 | 0x0A => some 5 | 0x18 => some 6 | _ => none

/-- Elements of a block of an MX operand row (R252). -/
def blockElems (int4 : Bool) : Nat := if int4 then 64 else 32

/-- Bytes of an operand row of k elements. -/
def matRowBytes (ty : Nat) (int4 : Bool) (g : Nat) (pad : Bool) (k : Nat) : Nat :=
  if elemClass ty = .mx then k / blockElems int4 / g * mxGroupBytes ty g pad else k * elemBits ty / 8

/-- The groups of 32 elements of an operand row, each with its scale (127 without one): values without their scale (R252, R253). -/
def matGroups (ty : Nat) (int4 : Bool) (g : Nat) (pad : Bool) (k : Nat) (bs : List Byte) : List (Nat × List FV) :=
  (List.range (k / 32)).map fun j =>
    if elemClass ty = .mx then
      let b := 32 * j / blockElems int4
      let (so, d) := mxPlace ty g pad b
      let data := fld bs d (mxBlockBytes ty)
      let e0 := 32 * j % blockElems int4
      (fld bs so 1, (List.range 32).map fun e =>
        if int4 then let i := sext 4 (bits data (4 * (e0 + e)) 4); .num (i < 0) (i.natAbs * pow2 (-2))
        else datumOf ty false (bits data (elemBits ty * e) (elemBits ty)))
    else
      let v := fld bs (4 * elemBits ty * j) (4 * elemBits ty)
      (127, (List.range 32).map fun e => datumOf ty false (bits v (elemBits ty * e) (elemBits ty)))

/-- A sum in progress: NaN, whether it arose without a NaN operand, infinities met, the exact sum, whether every product was -0. -/
structure Sum where
  nan : Bool := false
  bad : Bool := false
  pos : Bool := false
  neg : Bool := false
  q : Rat := 0
  minus : Bool := true

/-- A product added to a sum (R253, R259). -/
def Sum.add (s : Sum) (a b : FV) : Sum :=
  let sg := a.neg != b.neg
  match a, b with
  | .nan, _ | _, .nan => { s with nan := true }
  | .inf _, .num _ q | .num _ q, .inf _ =>
    if q = 0 then { s with nan := true, bad := true } else if sg then { s with neg := true } else { s with pos := true }
  | .inf _, .inf _ => if sg then { s with neg := true } else { s with pos := true }
  | .num _ p, .num _ q => { s with q := s.q + (if sg then -(p * q) else p * q), minus := s.minus && sg && p * q = 0 }

/-- The result of a group before its scales, and NV. -/
def Sum.value (s : Sum) : FV × Nat :=
  if s.nan then (.nan, if s.bad then flNV else 0)
  else if s.pos && s.neg then (.nan, flNV)
  else if s.pos then (.inf false, 0)
  else if s.neg then (.inf true, 0)
  else (.num (s.q < 0 || (s.q = 0 && s.minus)) (ratAbs s.q), 0)

/-- A datum times a power of two. -/
def FV.scaleBy (v : FV) (e : Int) : FV :=
  match v with
  | .num s q => .num s (q * pow2 e)
  | v => v

/-- An FP32 accumulator element after a group (R253, R260). -/
def accFloat (md : Mode) (ftz : Bool) (acc : Nat) (a b : Nat × List FV) : Nat × Nat :=
  let s := (a.2.zip b.2).foldl (fun (s : Sum) (x, y) => s.add x y) {}
  let (v, fl) := s.value
  let v := if a.1 = 0xFF || b.1 = 0xFF then FV.nan else v.scaleBy ((a.1 : Int) + b.1 - 254)
  let (r, fl') := fp32.add md true ftz (fp32.flush ftz (fp32.decode acc)) v
  (fp32.encode r, Nat.lor fl fl')

/-- An INT32 accumulator element after a group (R254). -/
def accInt (acc : Nat) (a b : Nat × List FV) : Nat × Nat :=
  let s := (a.2.zip b.2).foldl (fun (s : Rat) (x, y) => s + x.val * y.val) 0
  intFit 32 true true (sext 32 acc + s.num)

/-- An accumulator element over all groups, in ascending K order. -/
def accGo (f : Nat → (Nat × List FV) → (Nat × List FV) → Nat × Nat) : Nat → List ((Nat × List FV) × (Nat × List FV)) → Nat → Nat × Nat
  | acc, [], fl => (acc, fl)
  | acc, (a, b) :: t, fl =>
    let (acc, fl') := f acc a b
    accGo f acc t (Nat.lor fl fl')

/-- Rows of an operand, read from core store. -/
def W.matRows (w : W) (core off stride n len : Nat) : Except (Nat × Nat) (List (List Byte)) :=
  (List.range n).mapM fun i => w.coreRd core (off + i * stride) len

/-- An accumulator tile: 32 rows of 64 elements (R236). -/
def Core.tile (c : Core) (t : Nat) : List Nat := Tab.getD c.acc t (List.replicate 2048 0)

/-- A tile's poison set or cleared (R566). -/
def Core.setTile (c : Core) (t : Nat) (xs : List Nat) (poison : Bool) : Core :=
  { c with acc := Tab.put c.acc t xs, accPoison := if poison then addLine c.accPoison t else c.accPoison.filter (· != t) }

/-- The checks of a matrix instruction (R250 to R252, Table 7.2). -/
def matOk (i : MatMul) : Bool :=
  let ca := matClass i.tyA i.int4A
  i.tile < 4 && 1 ≤ i.m && i.m ≤ 32 && 1 ≤ i.n && i.n ≤ 64 && 32 ≤ i.k && i.k ≤ 8192 && i.k % 32 = 0 && ca.isSome
    && ca = matClass i.tyB i.int4B && ((!i.int4A && !i.int4B) || i.k % 64 = 0)
    && (i.group = 1 || i.group = 2 || i.group = 4 || i.group = 8)
    && (elemClass i.tyA != .mx || i.k / blockElems i.int4A % i.group = 0)
    && (elemClass i.tyB != .mx || i.k / blockElems i.int4B % i.group = 0)

/-- A matrix instruction (R250 to R254, R566). -/
def matMul (core : Nat) (i : MatMul) : Ins := fun w => do
  need (matOk i) faultIllegal
  need (i.offA % 64 = 0) (0x03, i.offA)
  need (i.offB % 64 = 0) (0x03, i.offB)
  let la := matRowBytes i.tyA i.int4A i.group i.pad i.k
  let lb := matRowBytes i.tyB i.int4B i.group i.pad i.k
  let as ← w.matRows core i.offA i.strideA i.m la
  let bs ← w.matRows core i.offB i.strideB i.n lb
  let c := w.dev.core core
  let ga := as.map (matGroups i.tyA i.int4A i.group i.pad i.k)
  let gb := bs.map (matGroups i.tyB i.int4B i.group i.pad i.k)
  let isInt := matClass i.tyA i.int4A = some 4 || matClass i.tyA i.int4A = some 6
  let f := if isInt then accInt else accFloat (if i.rtz then .rtz else .rne) c.ftz
  let old := c.tile i.tile
  let cells := (List.range 2048).map fun e =>
    if e / 64 < i.m && e % 64 < i.n then
      accGo f (if i.fresh then 0 else old.getD e 0) ((ga.getD (e / 64) []).zip (gb.getD (e % 64) [])) 0
    else (old.getD e 0, 0)
  let fl := cells.foldl (fun m x => Nat.lor m x.2) 0
  let p := (List.range i.m).any (fun r => w.corePoison core (i.offA + r * i.strideA) la)
    || (List.range i.n).any fun r => w.corePoison core (i.offB + r * i.strideB) lb
  return w.onCore core fun c =>
    (c.setTile i.tile (cells.map Prod.fst) (p || (!i.fresh && c.accPoison.contains i.tile))).flag fl

/-- MATRIX_MULTIPLY (R250). -/
def execMatrixMultiply (core : Nat) (i : MatMul) (s : State) : Out := runT s fun w => w.coreIns core 2 i.ecc (matMul core i)

/-- A tile moved to the eight registers from `reg`, or loaded from them (R255): register r holds columns 8r to 8r + 7, row by row. -/
def tileMove (core : Nat) (i : TileMove) : Ins := fun w => do
  need (i.tile < 4 && i.reg + 8 ≤ 32) faultIllegal
  let c := w.dev.core core
  if i.load then
    let rs := (List.range 8).map fun r => elemsOf 4 (c.vreg (i.reg + r))
    let xs := (List.range 2048).map fun e => (rs.getD (e % 64 / 8) []).getD (e / 64 * 8 + e % 8) 0
    let p := (List.range 8).any fun r => c.vpois (i.reg + r) != 0
    return w.onCore core fun c => c.setTile i.tile xs p
  else
    let xs := c.tile i.tile
    let p := if c.accPoison.contains i.tile then allLanes else 0
    return w.onCore core fun c => (List.range 8).foldl (fun c r =>
      c.setV (i.reg + r) ((List.range 256).flatMap fun l => toLe 4 (xs.getD (l / 8 * 64 + 8 * r + l % 8) 0)) p) c

/-- TILE_MOVE (R255). -/
def execTileMove (core : Nat) (i : TileMove) (s : State) : Out := runT s fun w => w.coreIns core 2 [] (tileMove core i)

end Sys2Proof.Machine
end

