-- ==== Sys2Proof/Machine/Select.lean ====
section
/-! DEFINITION. The sort and selection instructions of the vector unit (R395 to R403). -/

namespace Sys2Proof.Machine

/-- The key kind of a register key type: FP32, INT32 or UINT32 (R399). -/
def topkKind (ty : Nat) : Option Nat :=
  match ty with
  | 0x01 => some 2 | 0x14 => some 1 | 0x15 => some 0 | _ => none

/-- The 128 entries of a register (R399), valid where a mask register says so. -/
def entriesOf (c : Core) (kind r : Nat) (valid : Option Nat) : List Entry :=
  (List.range 128).map fun k =>
    mkEntry kind 4 (fld (c.vreg r) (8 * k) 4) (fld (c.vreg r) (8 * k + 4) 4) 0 ((valid.map fun m => bit (c.mreg m) k).getD true)

/-- The bytes of entries in a register. -/
def entryBytes (l : List Entry) : List Byte := l.flatMap fun e => toLe 4 e.key ++ toLe 4 e.idx

/-- The first K of a list of valid entries, then sentinels (R397). -/
def topkFill (k fill : Nat) (l : List Entry) : List Entry :=
  l.take k ++ List.replicate (k - l.length) ⟨fill % 2 ^ 32, 0xFFFFFFFF, 0, false⟩

/-- The checks of R399. -/
def topkOk (i : TopkIns) (regs : List Nat) : Bool :=
  regs.all (· < 32) && (i.valid.map fun m => decide (m < 8)).getD true && 1 ≤ i.k && i.k ≤ 128 && i.fill < 32 && i.counts < 31
    && i.countsB < 31 && (i.bound.map fun b => b.1 < 32 && b.2 < 32).getD true

/-- A list written to a register, the positions at and above K free (R399), with the poison of what was read (R566). -/
def W.putList (w : W) (core : Nat) (i : TopkIns) (l : List Entry) (reads : List Nat) : W :=
  let (bs, w) := w.freeBytes (8 * (128 - i.k))
  let p := if reads.any fun r => (w.dev.core core).vpois r != 0 then allLanes else 0
  w.onCore core fun c => c.setV i.dst (entryBytes (l.take i.k) ++ bs) p

/-- COUNT and TIE_EXCLUDED of a list in its pair of scalar registers. -/
def W.putCounts (w : W) (core : Nat) (i : TopkIns) (n tie : Nat) : W := (w.setSreg core i.counts n).setSreg core (i.counts + 1) tie

/-- VSORT (R399). -/
def vsort (core : Nat) (i : TopkIns) : Ins := fun w => do
  need (topkOk i [i.dst, i.a]) faultIllegal
  match topkKind i.ty with
  | none => .error faultIllegal
  | some kind =>
    let c := w.dev.core core
    let l := sortEntries kind 4 i.maxDir (entriesOf c kind i.a i.valid)
    let p := if c.vpois i.a != 0 then allLanes else 0
    return w.onCore core fun c => c.setV i.dst (entryBytes l) p

/-- VSORT as an instruction (R399). -/
def execVsort (core : Nat) (i : TopkIns) (s : State) : Out := runT s fun w => w.coreIns core 1 [] (vsort core i)

/-- TOPK_STEP (R400 to R402): list in register a, candidates in register b. -/
def topkStep (core : Nat) (i : TopkIns) : Ins := fun w => do
  need (topkOk i [i.dst, i.a, i.b]) faultIllegal
  match topkKind i.ty with
  | none => .error faultIllegal
  | some kind =>
    let c := w.dev.core core
    let list := (entriesOf c kind i.a none).take i.k
    let oldLast := ((list.getLast?).map Entry.key).getD 0
    let oldFull := c.sreg i.counts = i.k
    let cands := (entriesOf c kind i.b i.valid).filter fun e =>
      match i.bound with
      | some (k, x) => precedes kind 4 i.maxDir (mkEntry kind 4 (c.sreg k % 2 ^ 32) (c.sreg x % 2 ^ 32) 0 true) e
      | none => true
    let u := sortEntries kind 4 i.maxDir ((list ++ cands).filter (·.valid))
    let l := topkFill i.k (c.sreg i.fill) u
    let n := min u.length i.k
    let last := ((l.getLast?).map Entry.key).getD 0
    let d := ((u.drop i.k).filter fun e => sameKey kind 4 e.key last).length
    let tie :=
      if n < i.k then 0 else if oldFull && sameKey kind 4 last oldLast then c.sreg (i.counts + 1) + d else d
    return (w.putList core i l [i.a, i.b]).putCounts core i n tie

/-- TOPK_STEP as an instruction (R400). -/
def execTopkStep (core : Nat) (i : TopkIns) (s : State) : Out := runT s fun w => w.coreIns core 1 [] (topkStep core i)

/-- VGRAFT (R399, R407, R408; DESIGN CHOICE, log entry 51): two lists of length K with the counts of each; an index that stands in both
is kept once. -/
def vgraft (core : Nat) (i : TopkIns) : Ins := fun w => do
  need (topkOk i [i.dst, i.a, i.b]) faultIllegal
  match topkKind i.ty with
  | none => .error faultIllegal
  | some kind =>
    let c := w.dev.core core
    let a := (entriesOf c kind i.a none).take i.k
    let b := (entriesOf c kind i.b none).take i.k
    let u := dropDups [] (sortEntries kind 4 i.maxDir ((a ++ b).filter (·.valid)))
    let l := topkFill i.k (c.sreg i.fill) u
    let n := min u.length i.k
    let last := ((l.getLast?).map Entry.key).getD 0
    let seen := fun (x : List Entry) (r : Nat) =>
      if c.sreg r = i.k && (x.getLast?.map fun e => e.valid && sameKey kind 4 e.key last).getD false then c.sreg (r + 1) else 0
    let tie :=
      if n < i.k then 0
      else ((u.drop i.k).filter fun e => sameKey kind 4 e.key last).length + seen a i.counts + seen b i.countsB
    return (w.putList core i l [i.a, i.b]).putCounts core i n tie

/-- VGRAFT as an instruction (R399). -/
def execVgraft (core : Nat) (i : TopkIns) (s : State) : Out := runT s fun w => w.coreIns core 1 [] (vgraft core i)

/-- TOPK_INIT (R399): K sentinels, counts 0. Entries at and above K are not named: they are free. -/
def topkInit (core : Nat) (i : TopkIns) : Ins := fun w => do
  need (topkOk i [i.dst] && (topkKind i.ty).isSome) faultIllegal
  return (w.putList core i (topkFill i.k ((w.dev.core core).sreg i.fill) []) []).putCounts core i 0 0

/-- TOPK_INIT as an instruction (R399). -/
def execTopkInit (core : Nat) (i : TopkIns) (s : State) : Out := runT s fun w => w.coreIns core 1 [] (topkInit core i)

/-- The key of one lane (R403): |c|² − 2 q·c + |q|², or −(q·c), each operation rounded. -/
def distLane (l2 : Bool) (r : RMode) (satC ftz : Bool) : LaneFn := fun g xs =>
  let v := fun (k : Nat) => fp32.flush ftz (fp32.decode (xs.getD k 0))
  if l2 then
    let (md, g) := r.use g
    let (t, f1) := fp32.mul md satC ftz (.num false 2) (v 0)
    let (md, g) := r.use g
    let (a, f2) := fp32.add md satC ftz (v 1) t.flip
    let (md, g) := r.use g
    let (y, f3) := fp32.add md satC ftz a (v 2)
    (fp32.encode y, Nat.lor f1 (Nat.lor f2 f3), g)
  else (fp32.encode (v 0).flip, 0, g)

/-- DIST_FIN as an instruction (R403). -/
def execDistFin (core : Nat) (i : DistIns) (s : State) : Out :=
  runT s fun w => w.coreIns core 1 [] fun w => do
    let c := w.dev.core core
    let r ← c.mode i.mode
    need (regsOk [i.dst, i.dot, i.cc, i.qq] i.mask) faultIllegal
    let srcs := if i.l2 then [i.dot, i.cc, i.qq] else [i.dot]
    return w.onCore core fun c => c.lanewise 4 i.dst srcs i.mask (distLane i.l2 r c.satC c.ftz)

end Sys2Proof.Machine
end

