-- ==== Sys2Proof/Machine/Vector.lean ====
section
/-! DEFINITION. The loads and stores of a core, its lane-wise arithmetic, permutes and reductions (R240 to R248). -/

namespace Sys2Proof.Machine

/-- Bytes of the lanes that a mask selects, lane by lane with the local offsets from which they come. -/
def maskedLanes (on off : Nat) : List (Nat × Nat) := ((List.range 256).filter fun l => bit on l).map fun l => (l, off + 4 * l)

/-- The lanes of a register's bytes replaced by those given. -/
def setLanes (bs : List Byte) (new : List (Nat × List Byte)) : List Byte :=
  (List.range 256).flatMap fun l => ((new.find? fun e => e.1 = l).map Prod.snd).getD (slice bs (4 * l) 4)

/-- A load of a scalar register: zero-extended; data from a poisoned line raises POISON (DEDUCED, log entry 40). -/
def W.loadScalar (w : W) (core : Nat) (i : CoreMem) : Except (Nat × Nat) W := do
  need (i.reg < 32 && (i.bytes = 1 || i.bytes = 2 || i.bytes = 4 || i.bytes = 8)) faultIllegal
  let bs ← w.coreRd core i.off i.bytes
  need (!w.corePoison core i.off i.bytes) (0x05, i.off)
  return w.setSreg core i.reg (leNat bs)

/-- A load of a vector register, whole or by lanes (R566). -/
def W.loadVector (w : W) (core : Nat) (i : CoreMem) : Except (Nat × Nat) W := do
  need (regsOk [i.reg] i.mask) faultIllegal
  need (i.off % 4 = 0) (0x03, i.off)
  let c := w.dev.core core
  let on := c.lanes i.mask
  let ls := maskedLanes on i.off
  if on = allLanes then w.coreAcc core i.off 1024 0 else ls.forM fun e => w.coreAcc core e.2 4 0
  let new := ls.map fun (l, a) => (l, w.rdN (coreBase core + a) 4)
  let p := (ls.filter fun e => w.corePoison core e.2 4).foldl (fun p e => p + 2 ^ e.1) 0
  return w.onCore core fun c => c.setV i.reg (setLanes (c.vreg i.reg) new) (mergeBits (c.vpois i.reg) p on)

/-- A core load. -/
def coreLoad (core : Nat) (i : CoreMem) : Ins := fun w => if i.scalar then w.loadScalar core i else w.loadVector core i

/-- Lanes stored one by one (R566). -/
def W.storeLanes (w : W) (core : Nat) (c : Core) (reg : Nat) : List (Nat × Nat) → Except (Nat × Nat) W
  | [] => .ok w
  | (l, a) :: t => do
    let w ← w.coreWr core a (slice (c.vreg reg) (4 * l) 4) (bit (c.vpois reg) l)
    w.storeLanes core c reg t

/-- A core store of a scalar or a vector register. -/
def coreStore (core : Nat) (i : CoreMem) : Ins := fun w =>
  if i.scalar then do
    need (i.reg < 32 && (i.bytes = 1 || i.bytes = 2 || i.bytes = 4 || i.bytes = 8)) faultIllegal
    w.coreWr core i.off (toLe i.bytes ((w.dev.core core).sreg i.reg)) false
  else do
    need (regsOk [i.reg] i.mask) faultIllegal
    need (i.off % 4 = 0) (0x03, i.off)
    let c := w.dev.core core
    let on := c.lanes i.mask
    if on = allLanes && c.vpois i.reg = 0 then w.coreWr core i.off (c.vreg i.reg) false
    else w.storeLanes core c i.reg (maskedLanes on i.off)

/-- CORE_LOAD (R240). -/
def execCoreLoad (core : Nat) (i : CoreMem) (s : State) : Out :=
  runT s fun w => w.coreIns core (if i.scalar then 0 else 1) i.ecc (coreLoad core i)

/-- CORE_STORE (R240). -/
def execCoreStore (core : Nat) (i : CoreMem) (s : State) : Out :=
  runT s fun w => w.coreIns core (if i.scalar then 0 else 1) i.ecc (coreStore core i)

/-- The elements of an indexed access: element, first lane, local offset (R246). -/
def indexedElems (c : Core) (i : IndexedMem) : List (Nat × Nat × Nat) :=
  let w := if i.wide then 8 else 4
  let idx := elemsOf 4 (c.vreg i.idx)
  ((List.range (1024 / w)).filter fun e => bit (c.lanes i.mask) (laneOf w e)).map fun e =>
    (e, laneOf w e, i.base + idx.getD (laneOf w e) 0)

/-- The lanes of an element: one, or two of 64 bits. -/
def elemLanes (wide : Bool) (l : Nat) : List Nat := if wide then [l, l + 1] else [l]

/-- Elements stored one after another in ascending order. -/
def W.storeElems (w : W) (core : Nat) (c : Core) (i : IndexedMem) : List (Nat × Nat × Nat) → Except (Nat × Nat) W
  | [] => .ok w
  | (_, l, a) :: t => do
    let n := if i.wide then 8 else 4
    let p := (elemLanes i.wide l).any fun l => bit (c.vpois i.reg) l
    let w ← w.coreWr core a (slice (c.vreg i.reg) (4 * l) n) p
    w.storeElems core c i t

/-- An indexed load or store (R246, R566): a poisoned offset raises POISON. -/
def indexedMem (core : Nat) (i : IndexedMem) : Ins := fun w => do
  need (regsOk [i.reg, i.idx] i.mask) faultIllegal
  let c := w.dev.core core
  let es := indexedElems c i
  let n := if i.wide then 8 else 4
  es.forM fun (_, l, a) => do
    need (!bit (c.vpois i.idx) l) (0x05, a)
    need (a % 4 = 0) (0x03, a)
    w.coreAcc core a n (b2n i.store)
  if i.store then w.storeElems core c i es
  else
    let new := es.flatMap fun (_, l, a) =>
      (elemLanes i.wide l).map fun k => (k, w.rdN (coreBase core + a + 4 * (k - l)) 4, w.corePoison core (a + 4 * (k - l)) 4)
    let on := new.foldl (fun m e => m + 2 ^ e.1) 0
    let p := (new.filter fun e => e.2.2).foldl (fun p e => p + 2 ^ e.1) 0
    return w.onCore core fun c =>
      c.setV i.reg (setLanes (c.vreg i.reg) (new.map fun e => (e.1, e.2.1))) (mergeBits (c.vpois i.reg) p on)

/-- INDEXED_LOAD_STORE (R246). -/
def execIndexedLoadStore (core : Nat) (i : IndexedMem) (s : State) : Out :=
  runT s fun w => w.coreIns core 1 i.ecc (indexedMem core i)

/-- The vector registers that an operation reads, in operand order. -/
def vecSources (i : VecArith) : List Nat :=
  match i.op with
  | .sqrt | .exp2 | .log2 | .rsqrt => [i.a]
  | .fma => [i.a, i.b, i.c]
  | .sel => if i.toMask then [i.a, i.b] else [i.a, i.b, i.c]
  | _ => [i.a, i.b]

/-- A compare into a mask register: a bit per lane, both lanes of a 64-bit element. -/
def Core.cmpMask (c : Core) (i : VecArith) (w : Nat) (f : LaneFn) : Core :=
  let on := c.lanes i.mask
  let cols := columns (1024 / w) ((vecSources i).map fun r => elemsOf w (c.vreg r))
  let m := cols.zipIdx.foldl (fun m (xs, k) => if (f 0 xs).1 = 0 then m else m + (if w = 8 then 3 else 1) * 2 ^ laneOf w k) 0
  { c with masks := Tab.put c.masks i.dst (mergeBits (c.mreg i.dst) m (if w = 8 then pairMask on else on)) }

/-- A select by a mask register: element by element from a or b. -/
def Core.selMask (c : Core) (i : VecArith) (w : Nat) : Core :=
  let m := c.mreg i.c
  let on := c.lanes i.mask
  let old := elemsOf w (c.vreg i.dst)
  let a := elemsOf w (c.vreg i.a)
  let b := elemsOf w (c.vreg i.b)
  let rs := (List.range (1024 / w)).map fun k =>
    if bit on (laneOf w k) then (if bit m (laneOf w k) then a else b).getD k 0 else old.getD k 0
  let p := mergeBits (c.vpois i.b) (c.vpois i.a) (if w = 8 then pairMask m else m % 2 ^ 256)
  c.setV i.dst (rs.flatMap (toLe w)) (mergeBits (c.vpois i.dst) p (if w = 8 then pairMask on else on))

/-- A lane-wise vector instruction (R246, R247). A poisoned lane cannot pass into a mask register: that raises POISON. -/
def vecArith (core : Nat) (i : VecArith) : Ins := fun w => do
  let c := w.dev.core core
  let r ← c.mode i.mode
  match vecFn i.op i.ty i.rel r i.sat c.satC c.ftz with
  | none => .error faultIllegal
  | some (n, f) =>
    if i.op = .cmp && i.toMask then do
      need (regsOk (vecSources i) i.mask && i.dst < 8 && 4 ≤ n) faultIllegal
      need (Nat.land ((vecSources i).foldl (fun p r => Nat.lor p (c.vpois r)) 0) (c.lanes i.mask) = 0) (0x05, 0)
      return w.onCore core fun c => c.cmpMask i n f
    else if i.op = .sel && i.toMask then do
      need (regsOk (i.dst :: (vecSources i)) i.mask && i.c < 8 && 4 ≤ n) faultIllegal
      return w.onCore core fun c => c.selMask i n
    else do
      need (regsOk (i.dst :: (vecSources i)) i.mask) faultIllegal
      return w.onCore core fun c => c.lanewise n i.dst (vecSources i) i.mask f

/-- VECTOR_ARITHMETIC (R247). -/
def execVectorArithmetic (core : Nat) (i : VecArith) (s : State) : Out := runT s fun w => w.coreIns core 1 [] (vecArith core i)

/-- Lanes of poison for a result that reads across lanes (R566): all of them where one was read. -/
def spread (c : Core) (reads : List (Nat × Nat)) : Nat := if reads.any (fun (r, on) => Nat.land (c.vpois r) on != 0) then allLanes else 0

/-- A permute, or a move between lanes and a scalar register (R246, R566). An index that names no element gives a free element (DESIGN
CHOICE, log
entry 47). -/
def vecPerm (core : Nat) (i : VecPerm) : Ins := fun w =>
  let c := w.dev.core core
  let okBytes := fun (n : Nat) => n = 1 || n = 2 || n = 4 || n = 8
  match i with
  | .permute n dst src idx mask => do
    need (okBytes n && regsOk [dst, src, idx] mask) faultIllegal
    let on := c.lanes mask
    let xs := elemsOf n (c.vreg src)
    let ks := elemsOf n (c.vreg idx)
    let old := elemsOf n (c.vreg dst)
    let (fr, w) := w.freeBytes 1024
    let rs := (List.range (1024 / n)).map fun e =>
      if bit on (laneOf n e) then (xs[ks.getD e 0]?).getD (fld fr (n * e) n) else old.getD e 0
    let p := spread c [(src, allLanes), (idx, on)]
    return w.onCore core fun c =>
      c.setV dst (rs.flatMap (toLe n)) (mergeBits (c.vpois dst) p (if n = 8 then pairMask on else on))
  | .toScalar n dst src elem => do
    need (okBytes n && regsOk [src] none && dst < 32 && elem < 1024 / n) faultIllegal
    need ((elemLanes (n = 8) (laneOf n elem)).all fun l => !bit (c.vpois src) l) (0x05, 0)
    return w.setSreg core dst (fld (c.vreg src) (n * elem) n)
  | .broadcast n dst src mask => do
    need (okBytes n && regsOk [dst] mask && src < 32) faultIllegal
    return w.onCore core fun c => c.lanewise n dst [] mask fun s _ => (c.sreg src % 2 ^ (8 * n), 0, s)

/-- PERMUTE (R246). -/
def execPermute (core : Nat) (i : VecPerm) (s : State) : Out := runT s fun w => w.coreIns core 1 [] (vecPerm core i)

/-- Adjacent results combined, lower index first; a lane left out takes no part (R248). -/
def pairs (f : Nat → Nat → Nat → Nat × Nat × Nat) : List (Option Nat) → Nat → Nat → List (Option Nat) × Nat × Nat
  | some a :: some b :: t, g, fl =>
    let (r, fl', g) := f g a b
    let (rs, g, fl) := pairs f t g (Nat.lor fl fl')
    (some r :: rs, g, fl)
  | a :: b :: t, g, fl =>
    let (rs, g, fl) := pairs f t g fl
    ((a.orElse fun _ => b) :: rs, g, fl)
  | l, g, fl => (l, g, fl)

/-- The levels of the tree. -/
def treeGo (f : Nat → Nat → Nat → Nat × Nat × Nat) : Nat → List (Option Nat) → Nat → Nat → List (Option Nat) × Nat × Nat
  | 0, l, g, fl => (l, g, fl)
  | n + 1, l, g, fl =>
    let (l, g, fl) := pairs f l g fl
    treeGo f n l g fl

/-- The combination of two elements of a reduction (R246). -/
def redFn (op : RedOp) (ty : Nat) (r : RMode) (sat satC ftz : Bool) : Option (Nat → Nat → Nat → Nat × Nat × Nat) :=
  let vop : VecOp := match op with
    | .sum => .add
    | .min => .min
    | .max => .max
  if ty = 0x01 then some fun g a b => fpLane fp32 vop .lt r satC ftz g [a, b]
  else if ty = 0x14 || ty = 0x15 then
    let less := fun (a b : Nat) => intVal 32 (intSigned ty) a < intVal 32 (intSigned ty) b
    match op with
    | .sum => some fun g a b => intLane 32 (intSigned ty) sat .add .lt g [a, b]
    | .min => some fun g a b => (if less b a then b else a, 0, g)
    | .max => some fun g a b => (if less a b then b else a, 0, g)
  else none

/-- A reduction across the lanes (R248, R566). Its roundings use the generator of lane 0. -/
def vecRed (core : Nat) (i : VecRed) : Ins := fun w => do
  let c := w.dev.core core
  let r ← c.mode i.mode
  need (regsOk [i.dst, i.src] i.mask) faultIllegal
  match redFn i.op i.ty r i.sat c.satC c.ftz with
  | none => .error faultIllegal
  | some f =>
    let on := c.lanes i.mask
    let l := (elemsOf 4 (c.vreg i.src)).zipIdx.map fun (x, k) => if bit on k then some x else none
    let (l, g, fl) := treeGo f 8 l (c.gen 0) 0
    let x := (l.head?.bind id).getD 0
    let p := spread c [(i.src, on)]
    return w.onCore core fun c =>
      ({ c with gens := if g = c.gen 0 then c.gens else Tab.put c.gens 0 g }.setV i.dst ((List.range 256).flatMap fun _ => toLe 4 x) p).flag fl

/-- REDUCTION (R248). -/
def execReduction (core : Nat) (i : VecRed) (s : State) : Out := runT s fun w => w.coreIns core 1 [] (vecRed core i)

end Sys2Proof.Machine
end

