-- ==== Sys2Proof/Machine/Dispatch.lean ====
section
/-! DEFINITION. One arm per command: the direct call of its meaning. -/

namespace Sys2Proof.Machine

/-- The effect of one command on the block (the queue aside). -/
def exec (i : Instr) (s : State) : Host.Outcome State Fault Refusal :=
  match i with
  | .nop ch p => Sys2Proof.Machine.execNop ch p s
  | .deviceInfo ch p => Sys2Proof.Machine.execDeviceInfo ch p s
  | .deviceStatus ch p => Sys2Proof.Machine.execDeviceStatus ch p s
  | .deviceStart ch p => Sys2Proof.Machine.execDeviceStart ch p s
  | .deviceStandby ch p => Sys2Proof.Machine.execDeviceStandby ch p s
  | .deviceDrain ch p => Sys2Proof.Machine.execDeviceDrain ch p s
  | .deviceReset ch p => Sys2Proof.Machine.execDeviceReset ch p s
  | .handleQuery ch p => Sys2Proof.Machine.execHandleQuery ch p s
  | .handleDestroy ch p => Sys2Proof.Machine.execHandleDestroy ch p s
  | .handleList ch p => Sys2Proof.Machine.execHandleList ch p s
  | .unknownOpcodePacket ch opcode p => Sys2Proof.Machine.execUnknownOpcodePacket ch opcode p s
  | .pendingInterimReply ch seq => Sys2Proof.Machine.execPendingInterimReply ch seq s
  | .chanOpen ch p => Sys2Proof.Machine.execChanOpen ch p s
  | .chanAuthChallenge ch p => Sys2Proof.Machine.execChanAuthChallenge ch p s
  | .chanAuthResponse ch p => Sys2Proof.Machine.execChanAuthResponse ch p s
  | .chanModify ch p => Sys2Proof.Machine.execChanModify ch p s
  | .chanClose ch p => Sys2Proof.Machine.execChanClose ch p s
  | .bufAlloc ch p => Sys2Proof.Machine.execBufAlloc ch p s
  | .bufProtect ch p => Sys2Proof.Machine.execBufProtect ch p s
  | .bufFill ch p => Sys2Proof.Machine.execBufFill ch p s
  | .pageSupply ch p => Sys2Proof.Machine.execPageSupply ch p s
  | .placeConfig ch p => Sys2Proof.Machine.execPlaceConfig ch p s
  | .placeQuery ch p => Sys2Proof.Machine.execPlaceQuery ch p s
  | .tierScan ch p => Sys2Proof.Machine.execTierScan ch p s
  | .memRetireQuery ch p => Sys2Proof.Machine.execMemRetireQuery ch p s
  | .strmCreate ch p => Sys2Proof.Machine.execStrmCreate ch p s
  | .strmArm ch p => Sys2Proof.Machine.execStrmArm ch p s
  | .strmStop ch p => Sys2Proof.Machine.execStrmStop ch p s
  | .strmResume ch p => Sys2Proof.Machine.execStrmResume ch p s
  | .strmQuery ch p => Sys2Proof.Machine.execStrmQuery ch p s
  | .jobCreate ch p => Sys2Proof.Machine.execJobCreate ch p s
  | .graphLoad ch p => Sys2Proof.Machine.execGraphLoad ch p s
  | .graphRun ch p => Sys2Proof.Machine.execGraphRun ch p s
  | .graphDrain ch p => Sys2Proof.Machine.execGraphDrain ch p s
  | .graphFrog ch p => Sys2Proof.Machine.execGraphFrog ch p s
  | .graphQuery ch p => Sys2Proof.Machine.execGraphQuery ch p s
  | .jobAbort ch p => Sys2Proof.Machine.execJobAbort ch p s
  | .feedOpen ch p => Sys2Proof.Machine.execFeedOpen ch p s
  | .feedConfig ch p => Sys2Proof.Machine.execFeedConfig ch p s
  | .feedAttach ch p => Sys2Proof.Machine.execFeedAttach ch p s
  | .feedLedgerRead ch p => Sys2Proof.Machine.execFeedLedgerRead ch p s
  | .resultRingConfig ch p => Sys2Proof.Machine.execResultRingConfig ch p s
  | .fetchResult ch p => Sys2Proof.Machine.execFetchResult ch p s
  | .resultRelease ch p => Sys2Proof.Machine.execResultRelease ch p s
  | .syncCreate ch p => Sys2Proof.Machine.execSyncCreate ch p s
  | .syncSignal ch p => Sys2Proof.Machine.execSyncSignal ch p s
  | .syncWait ch p => Sys2Proof.Machine.execSyncWait ch p s
  | .syncWaitLimitExpiry ch seq => Sys2Proof.Machine.execSyncWaitLimitExpiry ch seq s
  | .syncRead ch p => Sys2Proof.Machine.execSyncRead ch p s
  | .schedConfig ch p => Sys2Proof.Machine.execSchedConfig ch p s
  | .pwrGaugeSet ch p => Sys2Proof.Machine.execPwrGaugeSet ch p s
  | .pwrStepLimit ch p => Sys2Proof.Machine.execPwrStepLimit ch p s
  | .pwrCeilingRaise ch p => Sys2Proof.Machine.execPwrCeilingRaise ch p s
  | .pwrTelemetryRead ch p => Sys2Proof.Machine.execPwrTelemetryRead ch p s
  | .pwrEnergyRead ch p => Sys2Proof.Machine.execPwrEnergyRead ch p s
  | .fwUpdateBegin ch p => Sys2Proof.Machine.execFwUpdateBegin ch p s
  | .fwBlockCommit ch p => Sys2Proof.Machine.execFwBlockCommit ch p s
  | .fwBlockProgrammed upd block readBackOk => Sys2Proof.Machine.execFwBlockProgrammed upd block readBackOk s
  | .fwRelayStart ch p => Sys2Proof.Machine.execFwRelayStart ch p s
  | .fwUpdateStatus ch p => Sys2Proof.Machine.execFwUpdateStatus ch p s
  | .fwVerify ch p => Sys2Proof.Machine.execFwVerify ch p s
  | .fwActivate ch p => Sys2Proof.Machine.execFwActivate ch p s
  | .fwConfirm ch p => Sys2Proof.Machine.execFwConfirm ch p s
  | .fwRollback ch p => Sys2Proof.Machine.execFwRollback ch p s
  | .secAttest ch p => Sys2Proof.Machine.execSecAttest ch p s
  | .secKeyAgree ch p => Sys2Proof.Machine.execSecKeyAgree ch p s
  | .secOwnerRotate ch p => Sys2Proof.Machine.execSecOwnerRotate ch p s
  | .secVersionAdvance ch p => Sys2Proof.Machine.execSecVersionAdvance ch p s
  | .linkStatus ch p => Sys2Proof.Machine.execLinkStatus ch p s
  | .linkConfig ch p => Sys2Proof.Machine.execLinkConfig ch p s
  | .linkConfigTimeout => Sys2Proof.Machine.execLinkConfigTimeout s
  | .linkSpareSwap ch p => Sys2Proof.Machine.execLinkSpareSwap ch p s
  | .fgroupJoin ch p => Sys2Proof.Machine.execFgroupJoin ch p s
  | .fgroupLeave ch p => Sys2Proof.Machine.execFgroupLeave ch p s
  | .fgroupStatus ch p => Sys2Proof.Machine.execFgroupStatus ch p s
  | .remapAssume ch p => Sys2Proof.Machine.execRemapAssume ch p s
  | .remapAssumeTimeout => Sys2Proof.Machine.execRemapAssumeTimeout s
  | .swatchRun ch p => Sys2Proof.Machine.execSwatchRun ch p s
  | .swatchDone block passed failing => Sys2Proof.Machine.execSwatchDone block passed failing s
  | .swatchResult ch p => Sys2Proof.Machine.execSwatchResult ch p s
  | .errlogRead ch p => Sys2Proof.Machine.execErrlogRead ch p s
  | .diagDump ch p => Sys2Proof.Machine.execDiagDump ch p s
  | .errlogClear ch p => Sys2Proof.Machine.execErrlogClear ch p s
  | .storeRead ch p => Sys2Proof.Machine.execStoreRead ch p s
  | .storeWrite ch p => Sys2Proof.Machine.execStoreWrite ch p s
  | .storeCommit ch p => Sys2Proof.Machine.execStoreCommit ch p s
  | .storeStatus ch p => Sys2Proof.Machine.execStoreStatus ch p s
  | .regRead ch p => Sys2Proof.Machine.execRegRead ch p s
  | .registerWrite ch p => Sys2Proof.Machine.execRegisterWrite ch p s
  | .lockBitSet ch h block value mask => Sys2Proof.Machine.execLockBitSet ch h block value mask s
  | .ethCfgWrite ch h value mask => Sys2Proof.Machine.execEthCfgWrite ch h value mask s
  | .coreSrSeedWrite ch h core value mask => Sys2Proof.Machine.execCoreSrSeedWrite ch h core value mask s
  | .embSrSeedWrite ch h die value mask => Sys2Proof.Machine.execEmbSrSeedWrite ch h die value mask s
  | .qEnSet ch h die cls queue => Sys2Proof.Machine.execQEnSet ch h die cls queue s
  | .qEnClear ch h die cls queue => Sys2Proof.Machine.execQEnClear ch h die cls queue s
  | .pwrCapSetWrite ch h value mask => Sys2Proof.Machine.execPwrCapSetWrite ch h value mask s
  | .pwrCeilingWrite ch h value mask => Sys2Proof.Machine.execPwrCeilingWrite ch h value mask s
  | .pwrStepLimWrite ch h value mask => Sys2Proof.Machine.execPwrStepLimWrite ch h value mask s
  | .lowWordLatchRead ch h addr => Sys2Proof.Machine.execLowWordLatchRead ch h addr s
  | .inputPowerApplied mv => Sys2Proof.Machine.execInputPowerApplied mv s
  | .hubStart selfTestOk => Sys2Proof.Machine.execHubStart selfTestOk s
  | .powerCut => Sys2Proof.Machine.execPowerCut s
  | .holdupComplete holdupUs => Sys2Proof.Machine.execHoldupComplete holdupUs s
  | .inputOvervoltage mv => Sys2Proof.Machine.execInputOvervoltage mv s
  | .inputDisconnect mv => Sys2Proof.Machine.execInputDisconnect mv s
  | .disconnectRelease mv => Sys2Proof.Machine.execDisconnectRelease mv s
  | .resetN lowNs => Sys2Proof.Machine.execResetN lowNs s
  | .resetNRelease => Sys2Proof.Machine.execResetNRelease s
  | .pwrEnDeassert => Sys2Proof.Machine.execPwrEnDeassert s
  | .pwrEnAssert => Sys2Proof.Machine.execPwrEnAssert s
  | .flowOkLow => Sys2Proof.Machine.execFlowOkLow s
  | .flowOkHigh heldNs => Sys2Proof.Machine.execFlowOkHigh heldNs s
  | .coolantStop => Sys2Proof.Machine.execCoolantStop s
  | .serviceModeAssert => Sys2Proof.Machine.execServiceModeAssert s
  | .refclkLoss => Sys2Proof.Machine.execRefclkLoss s
  | .ppsEdge => Sys2Proof.Machine.execPpsEdge s
  | .ppsTimeout => Sys2Proof.Machine.execPpsTimeout s
  | .smbStatus => Sys2Proof.Machine.execSmbStatus s
  | .smbInput => Sys2Proof.Machine.execSmbInput s
  | .smbSerial => Sys2Proof.Machine.execSmbSerial s
  | .spareReq => Sys2Proof.Machine.execSpareReq s
  | .spareAck reqId pecOk => Sys2Proof.Machine.execSpareAck reqId pecOk s
  | .timeSet seconds pecOk => Sys2Proof.Machine.execTimeSet seconds pecOk s
  | .alertResponse => Sys2Proof.Machine.execAlertResponse s
  | .thermalTrip src reading => Sys2Proof.Machine.execThermalTrip src reading s
  | .hubTrip reading => Sys2Proof.Machine.execHubTrip reading s
  | .tripResetHoldExpiry => Sys2Proof.Machine.execTripResetHoldExpiry s
  | .initComplete r => Sys2Proof.Machine.execInitComplete r s
  | .initTimeout => Sys2Proof.Machine.execInitTimeout s
  | .hubWatchdogExpiry => Sys2Proof.Machine.execHubWatchdogExpiry s
  | .initWait => Sys2Proof.Machine.execInitWait s
  | .dieResetComplete die => Sys2Proof.Machine.execDieResetComplete die s
  | .updateReloadComplete => Sys2Proof.Machine.execUpdateReloadComplete s
  | .updatePauseTimeout => Sys2Proof.Machine.execUpdatePauseTimeout s
  | .confirmDeadline => Sys2Proof.Machine.execConfirmDeadline s
  | .connectionReq r => Sys2Proof.Machine.execConnectionReq r s
  | .rtu ch => Sys2Proof.Machine.execRtu ch s
  | .dreq ch => Sys2Proof.Machine.execDreq ch s
  | .commandChannelIdleTimeout ch => Sys2Proof.Machine.execCommandChannelIdleTimeout ch s
  | .sendOnly ch r payload => Sys2Proof.Machine.execSendOnly ch r payload s
  | .rdmaWrite ch r part va rkey payload => Sys2Proof.Machine.execRdmaWrite ch r part va rkey payload s
  | .rdmaWriteWithImmediate ch r part va rkey imm payload => Sys2Proof.Machine.execRdmaWriteWithImmediate ch r part va rkey imm payload s
  | .rdmaReadRequest ch r va rkey len => Sys2Proof.Machine.execRdmaReadRequest ch r va rkey len s
  | .invalidRequest ch r opcode => Sys2Proof.Machine.execInvalidRequest ch r opcode s
  | .acknowledge ch psn payload => Sys2Proof.Machine.execAcknowledge ch psn payload s
  | .nakReceived ch code => Sys2Proof.Machine.execNakReceived ch code s
  | .rnrNakReceived ch psn timer => Sys2Proof.Machine.execRnrNakReceived ch psn timer s
  | .localAckTimeout ch => Sys2Proof.Machine.execLocalAckTimeout ch s
  | .congestionNotification ch => Sys2Proof.Machine.execCongestionNotification ch s
  | .ecnAlphaTimer ch => Sys2Proof.Machine.execEcnAlphaTimer ch s
  | .ecnRateTimer ch => Sys2Proof.Machine.execEcnRateTimer ch s
  | .pfcFrame pcp quanta => Sys2Proof.Machine.execPfcFrame pcp quanta s
  | .pfcQuantaExpiry prio => Sys2Proof.Machine.execPfcQuantaExpiry prio s
  | .arpRequest toDevice sender => Sys2Proof.Machine.execArpRequest toDevice sender s
  | .neighborSolicitation toDevice sender => Sys2Proof.Machine.execNeighborSolicitation toDevice sender s
  | .echoRequest toDevice ipVer sender data => Sys2Proof.Machine.execEchoRequest toDevice ipVer sender data s
  | .unsupportedFrame => Sys2Proof.Machine.execUnsupportedFrame s
  | .ethLinkUp lanes => Sys2Proof.Machine.execEthLinkUp lanes s
  | .ethLinkLoss => Sys2Proof.Machine.execEthLinkLoss s
  | .ethPresetSave presets => Sys2Proof.Machine.execEthPresetSave presets s
  | .streamEngineGrant die => Sys2Proof.Machine.execStreamEngineGrant die s
  | .descriptorStart stream => Sys2Proof.Machine.execDescriptorStart stream s
  | .tileStart stream => Sys2Proof.Machine.execTileStart stream s
  | .memoryOperationComplete stream op ecc refused => Sys2Proof.Machine.execMemoryOperationComplete stream op ecc refused s
  | .pageInComplete buf page => Sys2Proof.Machine.execPageInComplete buf page s
  | .migrationComplete buf page => Sys2Proof.Machine.execMigrationComplete buf page s
  | .placementEpoch => Sys2Proof.Machine.execPlacementEpoch s
  | .patrolScrub stack ecc => Sys2Proof.Machine.execPatrolScrub stack ecc s
  | .recentreWindow stack pc plus minus => Sys2Proof.Machine.execRecentreWindow stack pc plus minus s
  | .hbmTrimSave => Sys2Proof.Machine.execHbmTrimSave s
  | .sramScrub unit ecc => Sys2Proof.Machine.execSramScrub unit ecc s
  | .expanderLinkFail port position => Sys2Proof.Machine.execExpanderLinkFail port position s
  | .waitTake core obj amount limit => Sys2Proof.Machine.execWaitTake core obj amount limit s
  | .waitReach core obj value limit => Sys2Proof.Machine.execWaitReach core obj value limit s
  | .signalAdd core obj amount => Sys2Proof.Machine.execSignalAdd core obj amount s
  | .signalSet core obj value => Sys2Proof.Machine.execSignalSet core obj value s
  | .delay core ticks => Sys2Proof.Machine.execDelay core ticks s
  | .yieldTask core => Sys2Proof.Machine.execYieldTask core s
  | .endTask core => Sys2Proof.Machine.execEndTask core s
  | .taskDispatch core => Sys2Proof.Machine.execTaskDispatch core s
  | .delayExpiry die => Sys2Proof.Machine.execDelayExpiry die s
  | .taskWaitExpiry die => Sys2Proof.Machine.execTaskWaitExpiry die s
  | .syncMessage die => Sys2Proof.Machine.execSyncMessage die s
  | .stageStart graph => Sys2Proof.Machine.execStageStart graph s
  | .coreLoad core ins => Sys2Proof.Machine.execCoreLoad core ins s
  | .coreStore core ins => Sys2Proof.Machine.execCoreStore core ins s
  | .indexedLoadStore core ins => Sys2Proof.Machine.execIndexedLoadStore core ins s
  | .vectorArithmetic core ins => Sys2Proof.Machine.execVectorArithmetic core ins s
  | .permute core ins => Sys2Proof.Machine.execPermute core ins s
  | .reduction core ins => Sys2Proof.Machine.execReduction core ins s
  | .conversion core ins => Sys2Proof.Machine.execConversion core ins s
  | .mxBlockConversion core ins => Sys2Proof.Machine.execMxBlockConversion core ins s
  | .matrixMultiply core ins => Sys2Proof.Machine.execMatrixMultiply core ins s
  | .tileMove core ins => Sys2Proof.Machine.execTileMove core ins s
  | .treeScoring core ins => Sys2Proof.Machine.execTreeScoring core ins s
  | .svh64 core ins => Sys2Proof.Machine.execSvh64 core ins s
  | .xxh64 core ins => Sys2Proof.Machine.execXxh64 core ins s
  | .crc32c core ins => Sys2Proof.Machine.execCrc32c core ins s
  | .cross core ins => Sys2Proof.Machine.execCross core ins s
  | .bucket core ins => Sys2Proof.Machine.execBucket core ins s
  | .zscore core ins => Sys2Proof.Machine.execZscore core ins s
  | .minmax core ins => Sys2Proof.Machine.execMinmax core ins s
  | .clip core ins => Sys2Proof.Machine.execClip core ins s
  | .slog core ins => Sys2Proof.Machine.execSlog core ins s
  | .quantile core ins => Sys2Proof.Machine.execQuantile core ins s
  | .onehot core ins => Sys2Proof.Machine.execOnehot core ins s
  | .multihot core ins => Sys2Proof.Machine.execMultihot core ins s
  | .vsort core ins => Sys2Proof.Machine.execVsort core ins s
  | .topkStep core ins => Sys2Proof.Machine.execTopkStep core ins s
  | .vgraft core ins => Sys2Proof.Machine.execVgraft core ins s
  | .topkInit core ins => Sys2Proof.Machine.execTopkInit core ins s
  | .distFin core ins => Sys2Proof.Machine.execDistFin core ins s
  | .embPool core ins => Sys2Proof.Machine.execEmbPool core ins s
  | .physicalCoreFailure die phys => Sys2Proof.Machine.execPhysicalCoreFailure die phys s
  | .coreHang core => Sys2Proof.Machine.execCoreHang core s
  | .delim die eng => Sys2Proof.Machine.execDelim die eng s
  | .jsonl die eng => Sys2Proof.Machine.execJsonl die eng s
  | .colpage die eng => Sys2Proof.Machine.execColpage die eng s
  | .gzipDec die eng => Sys2Proof.Machine.execGzipDec die eng s
  | .gzipEnc die eng => Sys2Proof.Machine.execGzipEnc die eng s
  | .zlibDec die eng => Sys2Proof.Machine.execZlibDec die eng s
  | .zlibEnc die eng => Sys2Proof.Machine.execZlibEnc die eng s
  | .zstdDec die eng => Sys2Proof.Machine.execZstdDec die eng s
  | .zstdEnc die eng => Sys2Proof.Machine.execZstdEnc die eng s
  | .rawDec die eng => Sys2Proof.Machine.execRawDec die eng s
  | .rawEnc die eng => Sys2Proof.Machine.execRawEnc die eng s
  | .clear die eng => Sys2Proof.Machine.execClear die eng s
  | .build die eng => Sys2Proof.Machine.execBuild die eng s
  | .probe die eng => Sys2Proof.Machine.execProbe die eng s
  | .agg die eng => Sys2Proof.Machine.execAgg die eng s
  | .scan die eng => Sys2Proof.Machine.execScan die eng s
  | .partition die eng => Sys2Proof.Machine.execPartition die eng s
  | .hllEst die eng => Sys2Proof.Machine.execHllEst die eng s
  | .omaLoad die arr => Sys2Proof.Machine.execOmaLoad die arr s
  | .omaUpdate die arr => Sys2Proof.Machine.execOmaUpdate die arr s
  | .lookup die arr => Sys2Proof.Machine.execLookup die arr s
  | .range die arr => Sys2Proof.Machine.execRange die arr s
  | .dump die arr => Sys2Proof.Machine.execDump die arr s
  | .omaShiftEnd die arr => Sys2Proof.Machine.execOmaShiftEnd die arr s
  | .sortRun die eng => Sys2Proof.Machine.execSortRun die eng s
  | .merge die eng => Sys2Proof.Machine.execMerge die eng s
  | .gather die eng => Sys2Proof.Machine.execGather die eng s
  | .embUpdate die eng => Sys2Proof.Machine.execEmbUpdate die eng s
  | .snapshot die eng => Sys2Proof.Machine.execSnapshot die eng s
  | .restore die eng => Sys2Proof.Machine.execRestore die eng s
  | .rowInit die eng => Sys2Proof.Machine.execRowInit die eng s
  | .rowUpdateStep stack => Sys2Proof.Machine.execRowUpdateStep stack s
  | .parkedItemResume die cls => Sys2Proof.Machine.execParkedItemResume die cls s
  | .workItemComplete die cls queue => Sys2Proof.Machine.execWorkItemComplete die cls queue s
  | .sampleAdmit feed => Sys2Proof.Machine.execSampleAdmit feed s
  | .flushResolve feed => Sys2Proof.Machine.execFlushResolve feed s
  | .post feed die lane => Sys2Proof.Machine.execPost feed die lane s
  | .rowCopyComplete feed sample => Sys2Proof.Machine.execRowCopyComplete feed sample s
  | .feedEvaluation feed => Sys2Proof.Machine.execFeedEvaluation feed s
  | .batchDelivery feed => Sys2Proof.Machine.execBatchDelivery feed s
  | .creditReturn feed client => Sys2Proof.Machine.execCreditReturn feed client s
  | .resultPublish graph => Sys2Proof.Machine.execResultPublish graph s
  | .flitReceive link f => Sys2Proof.Machine.execFlitReceive link f s
  | .linkNak link seq => Sys2Proof.Machine.execLinkNak link seq s
  | .tileMessage link m => Sys2Proof.Machine.execTileMessage link m s
  | .laneLockLoss link lane => Sys2Proof.Machine.execLaneLockLoss link lane s
  | .laneErrorWindow link lane corrected total => Sys2Proof.Machine.execLaneErrorWindow link lane corrected total s
  | .linkEvent link m => Sys2Proof.Machine.execLinkEvent link m s
  | .linkSilence link => Sys2Proof.Machine.execLinkSilence link s
  | .hello link m => Sys2Proof.Machine.execHello link m s
  | .spareTimeout link => Sys2Proof.Machine.execSpareTimeout link s
  | .heartbeatSend => Sys2Proof.Machine.execHeartbeatSend s
  | .heartbeat link m => Sys2Proof.Machine.execHeartbeat link m s
  | .memberLost link m => Sys2Proof.Machine.execMemberLost link m s
  | .memberJoin link m => Sys2Proof.Machine.execMemberJoin link m s
  | .freqStep link m => Sys2Proof.Machine.execFreqStep link m s
  | .ceilingBoundary => Sys2Proof.Machine.execCeilingBoundary s
  | .ceiling link m => Sys2Proof.Machine.execCeiling link m s
  | .ceilingCompute => Sys2Proof.Machine.execCeilingCompute s
  | .timeExchange => Sys2Proof.Machine.execTimeExchange s
  | .time link m => Sys2Proof.Machine.execTime link m s
  | .ylPresetSave link presets => Sys2Proof.Machine.execYlPresetSave link presets s
  | .relayOffer link m => Sys2Proof.Machine.execRelayOffer link m s
  | .relayAccept link m => Sys2Proof.Machine.execRelayAccept link m s
  | .relayKey link m => Sys2Proof.Machine.execRelayKey link m s
  | .relayDone link m => Sys2Proof.Machine.execRelayDone link m s
  | .relayData link m => Sys2Proof.Machine.execRelayData link m s
  | .currentGuardSample mv ma => Sys2Proof.Machine.execCurrentGuardSample mv ma s
  | .gaugeLoop => Sys2Proof.Machine.execGaugeLoop s
  | .gaugeUnreached => Sys2Proof.Machine.execGaugeUnreached s
  | .thermalLoop sensors hbm => Sys2Proof.Machine.execThermalLoop sensors hbm s
  | .coolantInletRead tenthC => Sys2Proof.Machine.execCoolantInletRead tenthC s
  | .railSettled die => Sys2Proof.Machine.execRailSettled die s
  | .droop core mv => Sys2Proof.Machine.execDroop core mv s
  | .droopRecovery core => Sys2Proof.Machine.execDroopRecovery core s
  | .ageingRead die margin => Sys2Proof.Machine.execAgeingRead die margin s
  | .energyTick counts => Sys2Proof.Machine.execEnergyTick counts s
  | .energyWindowEnd measUj => Sys2Proof.Machine.execEnergyWindowEnd measUj s
  | .telemetryRecord => Sys2Proof.Machine.execTelemetryRecord s
  | .ringCrcFailure segment dir => Sys2Proof.Machine.execRingCrcFailure segment dir s
  | .regulatorFault rail => Sys2Proof.Machine.execRegulatorFault rail s
  | .flashFailure fb => Sys2Proof.Machine.execFlashFailure fb s
  | .framFrameWrite => Sys2Proof.Machine.execFramFrameWrite s
  | .flashProgramComplete ok => Sys2Proof.Machine.execFlashProgramComplete ok s
  | .journalCompaction eraseOk => Sys2Proof.Machine.execJournalCompaction eraseOk s
  | .counterSnap => Sys2Proof.Machine.execCounterSnap s
  | .consoleHelp line => Sys2Proof.Machine.execConsoleHelp line s
  | .consoleId => Sys2Proof.Machine.execConsoleId s
  | .consoleStatus => Sys2Proof.Machine.execConsoleStatus s
  | .consoleLadder => Sys2Proof.Machine.execConsoleLadder s
  | .consoleTp => Sys2Proof.Machine.execConsoleTp s
  | .consoleRails => Sys2Proof.Machine.execConsoleRails s
  | .consoleTemps => Sys2Proof.Machine.execConsoleTemps s
  | .consolePower => Sys2Proof.Machine.execConsolePower s
  | .consoleLog start sev => Sys2Proof.Machine.execConsoleLog start sev s
  | .consoleLinks => Sys2Proof.Machine.execConsoleLinks s
  | .consoleStore => Sys2Proof.Machine.execConsoleStore s
  | .consoleRegRd addr count => Sys2Proof.Machine.execConsoleRegRd addr count s
  | .consoleRegWr addr value mask => Sys2Proof.Machine.execConsoleRegWr addr value mask s
  | .consoleCmd op target params => Sys2Proof.Machine.execConsoleCmd op target params s
  | .consoleSwatch mask => Sys2Proof.Machine.execConsoleSwatch mask s
  | .consoleStep step => Sys2Proof.Machine.execConsoleStep step s
  | .consoleStepIsland island step => Sys2Proof.Machine.execConsoleStepIsland island step s
  | .svcEnter => Sys2Proof.Machine.execSvcEnter s
  | .svcLeave => Sys2Proof.Machine.execSvcLeave s
  | .unseal arg => Sys2Proof.Machine.execUnseal arg s
  | .seal => Sys2Proof.Machine.execSeal s
  | .consoleResetWarm => Sys2Proof.Machine.execConsoleResetWarm s
  | .consoleResetDie die => Sys2Proof.Machine.execConsoleResetDie die s
  | .baud rate => Sys2Proof.Machine.execBaud rate s
  | .romConsoleCommand line => Sys2Proof.Machine.execRomConsoleCommand line s
  | .serviceModeDeassert => Sys2Proof.Machine.execServiceModeDeassert s
  | .refclkReturn => Sys2Proof.Machine.execRefclkReturn s
  | .dieResetTimeout die => Sys2Proof.Machine.execDieResetTimeout die s
  | .smbUndefinedCode code => Sys2Proof.Machine.execSmbUndefinedCode code s
  | .hubSramUe => Sys2Proof.Machine.execHubSramUe s
  | .journalBudgetRelease => Sys2Proof.Machine.execJournalBudgetRelease s

end Sys2Proof.Machine
end

