-- ==== Sys2Proof/Machine/Idle.lean ====
section
/-! DEFINITION. What a step does when no command waits. -/

namespace Sys2Proof.Machine

/-- One nanosecond passes (DESIGN CHOICE, log entry 16): the hub's clock advances, and global time with it, ahead or behind by 1 ns in
100,000 while an
offset is to be slewed (R521). -/
def Clk.pass (c : Clk) : Clk :=
  let c := { c with mono := c.mono + 1 }
  if c.mono % 100000 = 0 && c.slew != 0 then
    if 0 < c.slew then { c with now := c.now + 2, slew := c.slew - 1 } else { c with slew := c.slew + 1 }
  else { c with now := c.now + 1 }

/-- The clocks of the cores advance (CORE_CYC): those of a powered device at its step, each core by its own (R28, R534, R662). -/
def Dev.passCycles (d : Dev) : Dev :=
  if d.hub.rails then
    { d with
      pwr := { d.pwr with cyc := d.pwr.cyc + 18 + d.pwr.step }
      cores := d.cores.map fun (n, c) => (n, { c with cyc := c.cyc + (d.coreStep n : Int) - d.pwr.step }) }
  else d

/-- The passing of time. A block whose hub has no power keeps no time; at each microsecond relays send (R638). -/
def idle (s : State) : State :=
  if s.dev.hubUp then
    let w := s.work.onDev fun d => { d.passCycles with clk := d.clk.pass }
    s.commit (if w.dev.clk.mono % 1000 = 0 && !w.dev.fw.relays.isEmpty then w.relayTick else w)
  else s

end Sys2Proof.Machine
end

