-- ==== Sys2Proof/Safety.lean ====
section
/-! DEFINITION. The words in which claims about the block are made: the invariant, the state that a command leaves, and the command
packets that pass every check of Table 2.3a. -/

namespace Sys2Proof.Machine

/-- The invariant of the block: memory has its canonical form. -/
def State.Inv (s : State) : Prop := s.mem.wf = true

/-- The state after a working copy whose graphs have settled (R486). -/
def State.after (s : State) (w : W) : State := s.commit w.tidy

/-- The byte at a physical address. -/
def State.byte (s : State) (a : Nat) : Byte := readCells s.mem.cells a

/-- An opcode's view of a packet. -/
def ctxOf (sp : OpSpec) (ch : Nat) (p : Packet) : Ctx := ⟨ch, p.hdr, sp.op, p.params⟩

/-- The working copy once a packet has been acknowledged: the channel's PSN advances, whatever the packet holds (R97). -/
def State.acked (s : State) (ch psn : Nat) : W :=
  (s.work.onChan ch fun c => { c with psn := (c.psn + 1) % 2 ^ 24 }).sendOn ch (.ack ch psn)

/-- The working copy once a packet has passed steps 1 to 4 of Table 2.3a: acknowledged, with the channel's expected SEQ past it. -/
def State.taken (s : State) (ch : Nat) (p : Packet) (psn : Nat) : W :=
  (s.acked ch psn).onChan ch fun c => { c with expSeq := some ((p.hdr.seq.toNat + 1) % 2 ^ 32) }

/-- A COMMAND channel that can take a packet: neither FAULTED, nor at a limit, in a device that runs (R46, R53, R93). -/
structure Open (s : State) (ch : Nat) (c : Chan) : Prop where
  chan : Tab.get s.dev.chans ch = some c
  command : c.kind = 1
  sound : c.state ≠ 6
  on : s.dev.hub.st ≠ .off
  runs : s.dev.hub.st ≠ .updatePause
  hubRoom : s.dev.admitted.length < 4096
  chanRoom : (s.dev.admitted.filter (· = ch)).length < c.queueLimit

/-- A packet whose magic and HDR_CRC are right (Table 2.3a steps 1 and 2). -/
structure Intact (op : Nat) (p : Packet) : Prop where
  magic : p.hdr.magic = 0x5356
  crc : crc32c (packetCrcBytes p op) = p.hdr.hdrCrc.toNat

/-- A packet of an opcode that passes steps 1 to 4 on an open channel (R39, R40). -/
structure Sound (op ch : Nat) (p : Packet) (s : State) (c : Chan) : Prop where
  chan : Open s ch c
  intact : Intact op p
  header : headerBad p = none
  seq : c.expSeq.getD p.hdr.seq.toNat = p.hdr.seq.toNat

/-- A packet of an opcode that passes every check of Table 2.3a. -/
structure Admitted (sp : OpSpec) (ch : Nat) (p : Packet) (s : State) (c : Chan) : Prop where
  sound : Sound sp.op ch p s c
  checks : admitFail sp (ctxOf sp ch p) (c.state = 2) (s.taken ch p c.psn) = none

/-- A packet of an opcode that passes steps 1 to 4 and fails a later check. -/
structure Rejected (sp : OpSpec) (ch : Nat) (p : Packet) (s : State) (c : Chan) (f : Fail) : Prop where
  sound : Sound sp.op ch p s c
  checks : admitFail sp (ctxOf sp ch p) (c.state = 2) (s.taken ch p c.psn) = some f

/-- A RoCEv2 request that a channel serves in its order (R90, R93, R108): it has arrived whole, in a class of the port, with the PSN that
the channel expects. -/
structure InOrder (s : State) (ch : Nat) (r : RoceHdr) (c : Chan) : Prop where
  port : s.dev.portUp = true
  whole : r.icrcOk = true
  cls : (s.dev.classOf r.pcp).isSome = true
  chan : Tab.get s.dev.chans ch = some c
  sound : c.state ≠ 6
  runs : s.dev.hub.st ≠ .updatePause
  psn : r.psn.toNat = c.psn

/-- The working copy in which page-ins have begun for the heads that are away, of the queues given (R304, R307). -/
def State.heads (s : State) (keys : List Nat) : W := s.work.fetchHeads (keys.filter s.dev.offers)

/-- The queue that an engine takes from, its head entry and the operation that this names (R304). -/
structure Chosen (s : State) (keys : List Nat) (op key : Nat) (b : List Byte) : Prop where
  queue : (s.heads keys).choose keys = some key
  head : (s.heads keys).head key = .desc b
  op : fld b 0 1 = op

/-- An engine that may take an item (R304, R307): its die runs, it runs none, resumes none and holds fewer than 4 parked. -/
structure EngineFree (s : State) (die cls eng : Nat) : Prop where
  inRange : die < 4
  served : eng < engines cls
  runs : s.dev.dieRuns die = true
  idle : s.dev.engBusy die cls eng = false
  may : s.dev.mayTake die cls eng = true

/-- The state after an engine has taken the head of a queue and done its work. -/
def State.worked (s : State) (keys : List Nat) (key eng : Nat) (b : List Byte) (work : Nat → Eng Unit) : State :=
  s.after ((((s.heads keys).takeItem key eng b).1).runItem key ((s.heads keys).takeItem key eng b).2 (work key))

/-- The engine operation that a row of classes PARSE, CMP, JOIN, SORT and EMB is: class, die, engine and opcode (Table 9.2). -/
def engineOf (i : Instr) : Option (Nat × Nat × Nat × Nat) :=
  match i with
  | .delim d e => some (0, d, e, 0x01)
  | .jsonl d e => some (0, d, e, 0x02)
  | .colpage d e => some (0, d, e, 0x03)
  | .gzipDec d e => some (1, d, e, 0x10)
  | .gzipEnc d e => some (1, d, e, 0x11)
  | .zlibDec d e => some (1, d, e, 0x12)
  | .zlibEnc d e => some (1, d, e, 0x13)
  | .zstdDec d e => some (1, d, e, 0x14)
  | .zstdEnc d e => some (1, d, e, 0x15)
  | .rawDec d e => some (1, d, e, 0x16)
  | .rawEnc d e => some (1, d, e, 0x17)
  | .clear d e => some (2, d, e, 0x20)
  | .build d e => some (2, d, e, 0x21)
  | .probe d e => some (2, d, e, 0x22)
  | .agg d e => some (2, d, e, 0x23)
  | .scan d e => some (2, d, e, 0x24)
  | .partition d e => some (2, d, e, 0x25)
  | .hllEst d e => some (2, d, e, 0x26)
  | .sortRun d e => some (4, d, e, 0x40)
  | .merge d e => some (4, d, e, 0x41)
  | .gather d e => some (5, d, e, 0x50)
  | .embUpdate d e => some (5, d, e, 0x51)
  | .snapshot d e => some (5, d, e, 0x52)
  | .restore d e => some (5, d, e, 0x53)
  | .rowInit d e => some (5, d, e, 0x54)
  | _ => none

/-- The operation of an array that a row of class OMA is: die, array and opcode (Table 11.3). -/
def arrayOf (i : Instr) : Option (Nat × Nat × Nat) :=
  match i with
  | .omaLoad d a => some (d, a, 0x30)
  | .omaUpdate d a => some (d, a, 0x31)
  | .lookup d a => some (d, a, 0x32)
  | .range d a => some (d, a, 0x33)
  | .dump d a => some (d, a, 0x34)
  | _ => none

/-- A link that brings messages to the device (Table 16.3): in range, with its block running, in service for a logical link. -/
structure InService (s : State) (link : Nat) : Prop where
  run : s.dev.linksRun = true
  inRange : link < 32
  works : (s.dev.link link).works = true
  logical : (s.dev.link link).logical ≠ 0xFF

/-- The working copy in which a console line has been echoed and counted (R652). -/
def State.typed (s : State) (line : String) : W := (s.work.send (.console line)).onSvc fun v => { v with cmdCnt := satAdd 32 v.cmdCnt 1 }

/-- The command packet that a row of Table 2.9 is: what its chapter gives of its opcode, its channel and the packet. -/
def packetOf (i : Instr) : Option (OpSpec × Nat × Packet) :=
  match i with
  | .nop ch p => some (nop, ch, p)
  | .deviceInfo ch p => some (deviceInfo, ch, p)
  | .deviceStatus ch p => some (deviceStatus, ch, p)
  | .deviceStart ch p => some (deviceStart, ch, p)
  | .deviceStandby ch p => some (deviceStandby, ch, p)
  | .deviceDrain ch p => some (deviceDrain, ch, p)
  | .deviceReset ch p => some (deviceReset, ch, p)
  | .handleQuery ch p => some (handleQuery, ch, p)
  | .handleDestroy ch p => some (handleDestroy, ch, p)
  | .handleList ch p => some (handleList, ch, p)
  | .chanOpen ch p => some (chanOpen, ch, p)
  | .chanAuthChallenge ch p => some (chanAuthChallenge, ch, p)
  | .chanAuthResponse ch p => some (chanAuthResponse, ch, p)
  | .chanModify ch p => some (chanModify, ch, p)
  | .chanClose ch p => some (chanClose, ch, p)
  | .bufAlloc ch p => some (bufAlloc, ch, p)
  | .bufProtect ch p => some (bufProtect, ch, p)
  | .bufFill ch p => some (bufFill, ch, p)
  | .pageSupply ch p => some (pageSupply, ch, p)
  | .placeConfig ch p => some (placeConfig, ch, p)
  | .placeQuery ch p => some (placeQuery, ch, p)
  | .tierScan ch p => some (tierScan, ch, p)
  | .memRetireQuery ch p => some (memRetireQuery, ch, p)
  | .strmCreate ch p => some (strmCreate, ch, p)
  | .strmArm ch p => some (strmArm, ch, p)
  | .strmStop ch p => some (strmStop, ch, p)
  | .strmResume ch p => some (strmResume, ch, p)
  | .strmQuery ch p => some (strmQuery, ch, p)
  | .jobCreate ch p => some (jobCreate, ch, p)
  | .graphLoad ch p => some (graphLoad, ch, p)
  | .graphRun ch p => some (graphRun, ch, p)
  | .graphDrain ch p => some (graphDrain, ch, p)
  | .graphFrog ch p => some (graphFrog, ch, p)
  | .graphQuery ch p => some (graphQuery, ch, p)
  | .jobAbort ch p => some (jobAbort, ch, p)
  | .feedOpen ch p => some (feedOpen, ch, p)
  | .feedConfig ch p => some (feedConfig, ch, p)
  | .feedAttach ch p => some (feedAttach, ch, p)
  | .feedLedgerRead ch p => some (feedLedgerRead, ch, p)
  | .resultRingConfig ch p => some (resultRingConfig, ch, p)
  | .fetchResult ch p => some (fetchResult, ch, p)
  | .resultRelease ch p => some (resultRelease, ch, p)
  | .syncCreate ch p => some (syncCreate, ch, p)
  | .syncSignal ch p => some (syncSignal, ch, p)
  | .syncWait ch p => some (syncWait, ch, p)
  | .syncRead ch p => some (syncRead, ch, p)
  | .schedConfig ch p => some (schedConfig, ch, p)
  | .pwrGaugeSet ch p => some (pwrGaugeSet, ch, p)
  | .pwrStepLimit ch p => some (pwrStepLimit, ch, p)
  | .pwrCeilingRaise ch p => some (pwrCeilingRaise, ch, p)
  | .pwrTelemetryRead ch p => some (pwrTelemetryRead, ch, p)
  | .pwrEnergyRead ch p => some (pwrEnergyRead, ch, p)
  | .fwUpdateBegin ch p => some (fwUpdateBegin, ch, p)
  | .fwBlockCommit ch p => some (fwBlockCommit, ch, p)
  | .fwRelayStart ch p => some (fwRelayStart, ch, p)
  | .fwUpdateStatus ch p => some (fwUpdateStatus, ch, p)
  | .fwVerify ch p => some (fwVerify, ch, p)
  | .fwActivate ch p => some (fwActivate, ch, p)
  | .fwConfirm ch p => some (fwConfirm, ch, p)
  | .fwRollback ch p => some (fwRollback, ch, p)
  | .secAttest ch p => some (secAttest, ch, p)
  | .secKeyAgree ch p => some (secKeyAgree, ch, p)
  | .secOwnerRotate ch p => some (secOwnerRotate, ch, p)
  | .secVersionAdvance ch p => some (secVersionAdvance, ch, p)
  | .linkStatus ch p => some (linkStatus, ch, p)
  | .linkConfig ch p => some (linkConfig, ch, p)
  | .linkSpareSwap ch p => some (linkSpareSwap, ch, p)
  | .fgroupJoin ch p => some (fgroupJoin, ch, p)
  | .fgroupLeave ch p => some (fgroupLeave, ch, p)
  | .fgroupStatus ch p => some (fgroupStatus, ch, p)
  | .remapAssume ch p => some (remapAssume, ch, p)
  | .swatchRun ch p => some (swatchRun, ch, p)
  | .swatchResult ch p => some (swatchResult, ch, p)
  | .errlogRead ch p => some (errlogRead, ch, p)
  | .diagDump ch p => some (diagDump, ch, p)
  | .errlogClear ch p => some (errlogClear, ch, p)
  | .storeRead ch p => some (storeRead, ch, p)
  | .storeWrite ch p => some (storeWrite, ch, p)
  | .storeCommit ch p => some (storeCommit, ch, p)
  | .storeStatus ch p => some (storeStatus, ch, p)
  | .regRead ch p => some (regRead, ch, p)
  | .registerWrite ch p => some (regWrite, ch, p)
  | _ => none

/-- What a command's working copy becomes at its end: as it is; with the graphs settled (R486); or, where a page has come, with the
commands that waited for it run first (R143). -/
def Ends (w e : W) : Prop := e = w ∨ e = w.tidy ∨ e = w.resumePages.tidy

/-- A core that can run an instruction which reports `ecc`: a task runs on it, its program offset may be fetched from (R240), and no
uncorrectable error of its own store stands among those reported (R243). -/
structure Issues (s : State) (core : Nat) (ecc : List EccReport) : Prop where
  task : (s.dev.running core).isSome = true
  fetch : s.dev.coreBad core (s.dev.core core).pc 1 0 = none
  stays : ((s.work.eccLines ecc).dev.running core).isSome = true
  sound : ownUe core ecc = none

/-- The working copy in which an instruction has its effect: the errors that its reads found are handled. -/
def State.fetched (s : State) (ecc : List EccReport) : W := s.work.eccLines ecc

/-- The state after an instruction of a unit (0 scalar, 1 vector, 2 matrix) whose effect leaves a working copy. -/
def State.issued (s : State) (core unit : Nat) (w : W) : State := s.after ((w.onCore core (·.issued unit)).retire core)

/-- A device in which no graph settles: each that runs or frogs has its stage under way (R486). -/
def Dev.Quiet (d : Dev) : Prop :=
  ∀ i g, Tab.get d.graphs i = some g → (g.state = 2 ∨ g.state = 5) → g.ending = false ∧
    (g.startNext.isSome = true ∨ ∀ st, g.stages[g.stage]? = some st → ∀ y, Tab.get d.syncs st.endSync = some y → y.val < st.endVal)

/-- A write whose effect can be read off byte by byte: a move goes from lines to lines, onto itself or onto a range apart. -/
def MemOp.Apart : MemOp → Prop
  | .move src dst n => src % 64 = 0 ∧ dst % 64 = 0 ∧ (src = dst ∨ src + n ≤ dst ∨ dst + n ≤ src)
  | _ => True

/-- The value of a sync object once the first j of its TAKE waiters have taken (R288). -/
def Sync.left (s : Sync) (j : Nat) : Nat := s.val - ((s.takers.take j).map Prod.snd).sum

/-- A core whose whole store may be read and written: each of its 96 frames has R and W (R240, R241). -/
def Dev.StoreOpen (d : Dev) (core : Nat) : Prop :=
  ∀ f, f < 96 → bit (Tab.getD (d.core core).frames f 0) 0 = true ∧ bit (Tab.getD (d.core core).frames f 0) 1 = true

/-- A string source that lies in the core store (R167): the offsets of 128 elements, and its byte area. -/
def StrFits (st : StrSrc) : Prop := st.offs + 4 * (st.first + 128) + 4 ≤ coreBytes ∧ st.aux + st.auxSize ≤ coreBytes

/-- The bytes in core store that an instruction reads at a local offset. -/
def State.coreLocal (s : State) (ecc : List EccReport) (core off n : Nat) : List Byte := (s.fetched ecc).rdN (coreBase core + off) n

/-- A tree ensemble header within the ranges of Table 7.8, whose arrays lie in the core store. -/
def EnsFits (h : List Byte) : Prop :=
  (1 ≤ fld h 0 4 ∧ fld h 0 4 ≤ 65536) ∧ (1 ≤ fld h 4 4 ∧ fld h 4 4 ≤ 2 ^ 20) ∧ (1 ≤ fld h 12 2 ∧ fld h 12 2 ≤ 4096) ∧
    (1 ≤ fld h 14 1 ∧ fld h 14 1 ≤ 64) ∧ zeroAt h 15 1 = true ∧ zeroAt h 24 40 = true ∧ fld h 16 4 % 64 = 0 ∧ fld h 20 4 % 64 = 0 ∧
    fld h 16 4 + 4 * fld h 0 4 ≤ coreBytes ∧ fld h 20 4 + 16 * fld h 4 4 ≤ coreBytes

/-- Where the operands of EMB_POOL lie (R425): in the core store, bag offsets in order, rows that the positions name within it, and the
results apart from the positions. -/
structure PoolFits (i : PoolIns) (os pos : List Nat) : Prop where
  bags : i.bags + 4 * (i.nbags + 1) ≤ coreBytes
  order : ∀ k, k < i.nbags → os.getD k 0 ≤ os.getD (k + 1) 0
  inRows : ∀ x ∈ os, x ≤ i.nrows
  valid : ∀ b ∈ i.valid, b + i.nrows / 8 + 1 ≤ coreBytes
  inv : ∀ b ∈ i.inv, b + 4 * i.nrows ≤ coreBytes ∧ (b + 4 * i.nrows ≤ i.out ∨ i.out + i.nbags * i.outStride + 4 * i.dim ≤ b)
  weights : ∀ b ∈ i.weights, b + 4 * i.nrows ≤ coreBytes
  rows : ∀ k, k < i.nrows → pos.getD k k = 0xFFFFFFFF ∨ i.rows + pos.getD k k * i.stride + 4 * i.dim ≤ coreBytes
  out : i.out + i.nbags * i.outStride + 4 * i.dim ≤ coreBytes

end Sys2Proof.Machine
end

