-- ==== Sys2Proof/Certificates/Slice0/Obligations.lean ====
section
/-! DEFINITION. The statements for the provers: what commands do, which packets they come from, and what every step keeps. -/

open Sys2Proof Sys2Proof.Machine

/-- R277, R279, R284, R286: what the operations of a running task do. A wait satisfied at once takes its amount and leaves the task in
RUN with 0 in scalar register 0; any other wait puts the task into WAIT, with an entry of the delay list where it has a limit, and
registers on the object; a signal acts on its object and the task runs on; DELAY and YIELD move the task to the delay list and to the
tail of its level; END makes the task DONE after its last run and starts its next run otherwise. -/
def Obligations.TaskOperationsComplete : Prop :=
  (∀ (s : State) (core obj amount limit k : Nat) (sl : Slot), s.dev.running core = some (k, sl) → s.dev.stageOver sl = false →
    s.dev.dieUp (syncDie (hIdx obj)) = true → 0 < amount → amount < 2 ^ 32 → s.dev.localSync core obj (fun y => y.canTake amount) = true →
      exec (.waitTake core obj amount limit) s = .next (s.after (((s.work.retire core).takeNow (hIdx obj) amount).onCore core fun c =>
        { c with sregs := setReg c.sregs 0 0 }))) ∧
  (∀ (s : State) (core obj amount k : Nat) (sl : Slot), s.dev.running core = some (k, sl) → s.dev.stageOver sl = false →
    s.dev.dieUp (syncDie (hIdx obj)) = true → 0 < amount → amount < 2 ^ 32 → s.dev.localSync core obj (fun y => y.canTake amount) = false →
    s.dev.syncLive obj = true →
      exec (.waitTake core obj amount 0) s = .next (s.after (((s.work.retire core).leaveCore core k .wait).taskWait (dieOfCore core) k
        (hIdx obj) (.take (.task (dieOfCore core) k) amount)))) ∧
  (∀ (s : State) (core obj value limit k : Nat) (sl : Slot), s.dev.running core = some (k, sl) → s.dev.stageOver sl = false →
    s.dev.dieUp (syncDie (hIdx obj)) = true → s.dev.localSync core obj (fun y => value ≤ y.val) = true →
      exec (.waitReach core obj value limit) s = .next (s.after ((s.work.retire core).onCore core fun c =>
        { c with sregs := setReg c.sregs 0 0 }))) ∧
  (∀ (s : State) (core obj value limit k : Nat) (sl : Slot), s.dev.running core = some (k, sl) → s.dev.stageOver sl = false →
    s.dev.dieUp (syncDie (hIdx obj)) = true → s.dev.localSync core obj (fun y => value ≤ y.val) = false → s.dev.syncLive obj = true →
    0 < limit →
      exec (.waitReach core obj value limit) s = .next (s.after ((((s.work.retire core).leaveCore core k .wait).joinDelay (dieOfCore core)
        ⟨s.dev.tickNo + limit, k, true⟩).taskWait (dieOfCore core) k (hIdx obj) (.reach (.task (dieOfCore core) k) value)))) ∧
  (∀ (s : State) (core obj amount k : Nat) (sl : Slot), s.dev.running core = some (k, sl) →
    s.dev.dieUp (syncDie (hIdx obj)) = true → s.dev.syncLive obj = true →
      exec (.signalAdd core obj amount) s =
        .next (s.after ((s.work.retire core).issueSync (dieOfCore core) (hIdx obj) (.add amount) (.task (dieOfCore core) k)))) ∧
  (∀ (s : State) (core obj value k : Nat) (sl : Slot), s.dev.running core = some (k, sl) →
    s.dev.dieUp (syncDie (hIdx obj)) = true → s.dev.syncLive obj = true →
      exec (.signalSet core obj value) s =
        .next (s.after ((s.work.retire core).issueSync (dieOfCore core) (hIdx obj) (.set (value % 2 ^ 64)) (.task (dieOfCore core) k)))) ∧
  (∀ (s : State) (core ticks k : Nat) (sl : Slot), s.dev.running core = some (k, sl) → s.dev.stageOver sl = false →
    0 < ticks → ticks < 2 ^ 24 →
      exec (.delay core ticks) s = .next (s.after ((s.work.retire core).onDev fun d =>
        { d with
          slots := Tab.mod d.slots (slotKey (dieOfCore core) k) fun x => { x with st := .delay, sregs := (d.core core).sregs, pc := (d.core core).pc }
          cores := Tab.upd d.cores core {} fun c => { c with run := none }
          dies := Tab.upd d.dies (dieOfCore core) {} fun e =>
            { e with delay := insertBy (fun a b => a.wake ≤ b.wake) ⟨d.tickNo + ticks, k, false⟩ e.delay } }))) ∧
  (∀ (s : State) (core k : Nat) (sl : Slot), s.dev.running core = some (k, sl) → s.dev.stageOver sl = false →
      exec (.yieldTask core) s =
        .next (s.after (((s.work.retire core).leaveCore core k .ready).joinReady (dieOfCore core) k))) ∧
  (∀ (s : State) (core k : Nat) (sl : Slot), s.dev.running core = some (k, sl) → s.dev.stageOver sl = false →
    sl.rec'.rep = sl.run + 1 →
      exec (.endTask core) s = .next (s.after (s.work.onDev fun d =>
        { d with
          slots := Tab.mod d.slots (slotKey (dieOfCore core) k) fun x => { x with st := .done, sregs := (d.core core).sregs, pc := (d.core core).pc }
          cores := Tab.upd d.cores core {} fun c => { c with run := none } }))) ∧
  (∀ (s : State) (core k : Nat) (sl : Slot), s.dev.running core = some (k, sl) → s.dev.stageOver sl = false →
    sl.rec'.rep ≠ sl.run + 1 →
      exec (.endTask core) s =
        .next (s.after ((s.work.leaveCore core k .done).beginRun (slotKey (dieOfCore core) k) (sl.run + 1))))

/-- R240, R243, R246, R566: what loads and stores of the running task do. A scalar load zero-extends the bytes of its range into its
register; a vector load of all lanes takes its register's 1,024 bytes from its range; a scalar store, and a vector store of all lanes
without poison, put the register's bytes into the store and change no register; an indexed access whose elements pass their checks has its
effect element by element. -/
def Obligations.CoreLoadsAndStoresComplete : Prop :=
  (∀ (s : State) (core : Nat) (i : CoreMem), Issues s core i.ecc → i.scalar = true → i.reg < 32 →
    (i.bytes = 1 ∨ i.bytes = 2 ∨ i.bytes = 4 ∨ i.bytes = 8) → (s.fetched i.ecc).dev.coreBad core i.off i.bytes 0 = none →
    (s.fetched i.ecc).corePoison core i.off i.bytes = false →
      exec (.coreLoad core i) s = .next (s.issued core 0 ((s.fetched i.ecc).onCore core fun c =>
        { c with sregs := setReg c.sregs i.reg (leNat ((s.fetched i.ecc).rdN (coreBase core + i.off) i.bytes)) }))) ∧
  (∀ (s : State) (core : Nat) (i : CoreMem), Issues s core i.ecc → i.scalar = false → i.reg < 32 → i.mask = none → i.off % 4 = 0 →
    (s.fetched i.ecc).dev.coreBad core i.off 1024 0 = none →
      ∃ w, exec (.coreLoad core i) s = .next (s.issued core 1 w) ∧ w.wr = (s.fetched i.ecc).wr ∧ w.out = (s.fetched i.ecc).out ∧
        (w.dev.core core).vreg i.reg = (s.fetched i.ecc).rdN (coreBase core + i.off) 1024 ∧
        (w.dev.core core).sregs = ((s.fetched i.ecc).dev.core core).sregs ∧
        ∀ r, r ≠ i.reg → (w.dev.core core).vreg r = ((s.fetched i.ecc).dev.core core).vreg r) ∧
  (∀ (s : State) (core : Nat) (i : CoreMem), Issues s core i.ecc → i.scalar = true → i.reg < 32 →
    (i.bytes = 1 ∨ i.bytes = 2 ∨ i.bytes = 4 ∨ i.bytes = 8) → (s.fetched i.ecc).dev.coreBad core i.off i.bytes 1 = none →
      exec (.coreStore core i) s = .next (s.issued core 0 ((s.fetched i.ecc).put (coreBase core + i.off)
        (toLe i.bytes (((s.fetched i.ecc).dev.core core).sreg i.reg))))) ∧
  (∀ (s : State) (core : Nat) (i : CoreMem), Issues s core i.ecc → i.scalar = false → i.reg < 32 → i.mask = none → i.off % 4 = 0 →
    ((s.fetched i.ecc).dev.core core).vpois i.reg = 0 → (((s.fetched i.ecc).dev.core core).vreg i.reg).length = 1024 →
    (s.fetched i.ecc).dev.coreBad core i.off 1024 1 = none →
      exec (.coreStore core i) s = .next (s.issued core 1 ((s.fetched i.ecc).put (coreBase core + i.off)
        (((s.fetched i.ecc).dev.core core).vreg i.reg)))) ∧
  (∀ (s : State) (core : Nat) (i : IndexedMem), Issues s core i.ecc → i.store = true → regsOk [i.reg, i.idx] i.mask = true →
    (∀ e ∈ indexedElems ((s.fetched i.ecc).dev.core core) i, bit (((s.fetched i.ecc).dev.core core).vpois i.idx) e.2.1 = false ∧
      e.2.2 % 4 = 0 ∧ (s.fetched i.ecc).dev.coreBad core e.2.2 (if i.wide then 8 else 4) 1 = none) →
      ∃ w, (s.fetched i.ecc).storeElems core ((s.fetched i.ecc).dev.core core) i (indexedElems ((s.fetched i.ecc).dev.core core) i) = .ok w ∧
        exec (.indexedLoadStore core i) s = .next (s.issued core 1 w)) ∧
  (∀ (s : State) (core : Nat) (i : IndexedMem), Issues s core i.ecc → i.store = false → regsOk [i.reg, i.idx] i.mask = true →
    (∀ e ∈ indexedElems ((s.fetched i.ecc).dev.core core) i, bit (((s.fetched i.ecc).dev.core core).vpois i.idx) e.2.1 = false ∧
      e.2.2 % 4 = 0 ∧ (s.fetched i.ecc).dev.coreBad core e.2.2 (if i.wide then 8 else 4) 0 = none) →
      ∃ w, exec (.indexedLoadStore core i) s = .next (s.issued core 1 w) ∧ w.wr = (s.fetched i.ecc).wr ∧ w.out = (s.fetched i.ecc).out ∧
        (w.dev.core core).sregs = ((s.fetched i.ecc).dev.core core).sregs ∧
        ∀ r, r ≠ i.reg → (w.dev.core core).vreg r = ((s.fetched i.ecc).dev.core core).vreg r)

/-- R245 to R248, R343, R390 to R392, R403: the lane-wise instructions. Where its mode is no reserved code, Table 7.3 lists its type and its
registers exist, a lane-wise instruction computes every selected element of its destination by its element function; a broadcast fills
its lanes with the scalar register; a reduction fills every lane with the result of its tree of adjacent pairs; BUCKET, DIST_FIN and the
normalisations work lane by lane with their own functions. -/
def Obligations.LaneInstructionsComplete : Prop :=
  (∀ (s : State) (core n : Nat) (i : VecArith) (r : RMode) (f : LaneFn), Issues s core [] → (s.dev.core core).mode i.mode = .ok r →
    vecFn i.op i.ty i.rel r i.sat (s.dev.core core).satC (s.dev.core core).ftz = some (n, f) →
    (i.op = .cmp ∨ i.op = .sel → i.toMask = false) → regsOk (i.dst :: vecSources i) i.mask = true →
      exec (.vectorArithmetic core i) s =
        .next (s.issued core 1 (s.work.onCore core fun c => c.lanewise n i.dst (vecSources i) i.mask f))) ∧
  (∀ (s : State) (core n : Nat) (i : VecArith) (r : RMode) (f : LaneFn), Issues s core [] → (s.dev.core core).mode i.mode = .ok r →
    vecFn i.op i.ty i.rel r i.sat (s.dev.core core).satC (s.dev.core core).ftz = some (n, f) → i.op = .cmp → i.toMask = true →
    regsOk (vecSources i) i.mask = true → i.dst < 8 → 4 ≤ n →
    Nat.land ((vecSources i).foldl (fun p r => Nat.lor p ((s.dev.core core).vpois r)) 0) ((s.dev.core core).lanes i.mask) = 0 →
      exec (.vectorArithmetic core i) s = .next (s.issued core 1 (s.work.onCore core fun c => c.cmpMask i n f))) ∧
  (∀ (s : State) (core n dst src : Nat) (mask : Option Nat), Issues s core [] → (n = 1 ∨ n = 2 ∨ n = 4 ∨ n = 8) →
    regsOk [dst] mask = true → src < 32 →
      exec (.permute core (.broadcast n dst src mask)) s = .next (s.issued core 1 (s.work.onCore core fun c =>
        c.lanewise n dst [] mask fun g _ => (c.sreg src % 2 ^ (8 * n), 0, g)))) ∧
  (∀ (s : State) (core n dst src elem : Nat), Issues s core [] → (n = 1 ∨ n = 2 ∨ n = 4 ∨ n = 8) → src < 32 → dst < 32 →
    elem < 1024 / n → (s.dev.core core).vpois src = 0 →
      exec (.permute core (.toScalar n dst src elem)) s = .next (s.issued core 1 (s.work.onCore core fun c =>
        { c with sregs := setReg c.sregs dst (fld (c.vreg src) (n * elem) n) }))) ∧
  (∀ (s : State) (core : Nat) (i : VecRed) (r : RMode) (f : Nat → Nat → Nat → Nat × Nat × Nat), Issues s core [] →
    (s.dev.core core).mode i.mode = .ok r → regsOk [i.dst, i.src] i.mask = true →
    redFn i.op i.ty r i.sat (s.dev.core core).satC (s.dev.core core).ftz = some f →
      ∃ w, exec (.reduction core i) s = .next (s.issued core 1 w) ∧ w.wr = [] ∧ w.out = [] ∧
        (w.dev.core core).vreg i.dst = (List.range 256).flatMap fun _ => toLe 4 (((treeGo f 8
          ((elemsOf 4 ((s.dev.core core).vreg i.src)).zipIdx.map fun (x, k) => if bit ((s.dev.core core).lanes i.mask) k then some x else none)
          ((s.dev.core core).gen 0) 0).1.head?.bind id).getD 0)) ∧
  (∀ (s : State) (core : Nat) (i : BucketIns), Issues s core [] → regsOk [i.dst, i.h, i.b] i.mask = true →
      exec (.bucket core i) s = .next (s.issued core 1 (s.work.onCore core fun c => c.lanewise 8 i.dst [i.h, i.b] i.mask bucketLane))) ∧
  (∀ (s : State) (core : Nat) (i : DistIns) (r : RMode), Issues s core [] → (s.dev.core core).mode i.mode = .ok r →
    regsOk [i.dst, i.dot, i.cc, i.qq] i.mask = true →
      exec (.distFin core i) s = .next (s.issued core 1 (s.work.onCore core fun c =>
        c.lanewise 4 i.dst (if i.l2 then [i.dot, i.cc, i.qq] else [i.dot]) i.mask (distLane i.l2 r c.satC c.ftz)))) ∧
  (∀ (s : State) (core : Nat) (i : NormIns) (r : RMode), Issues s core [] → (s.dev.core core).mode i.mode = .ok r → i.bf = false →
    regsOk [i.dst, i.src] i.mask = true → i.p1 < 32 → i.p2 < 32 → i.nanOut < 32 → i.part < 2 →
      ∀ (ins : Instr) (fn : Core → Nat → NormFn) (input : Bool → Nat → FV),
        ((ins = .zscore core i ∧ input = fpInput ∧ fn = fun c _ => zscoreFn fp32 c.satC c.ftz (normParam c i.p1) (normParam c i.p2)) ∨
         (ins = .minmax core i ∧ input = fpInput ∧ fn = fun c _ => minmaxFn fp32 c.satC c.ftz (normParam c i.p1) (normParam c i.p2)) ∨
         (ins = .clip core i ∧ input = fpInput ∧ fn = fun c _ => clipFn fp32 c.satC c.ftz (normParam c i.p1) (normParam c i.p2)) ∨
         (ins = .slog core i ∧ input = fpInput ∧ fn = fun c x => slogFn fp32 c.satC c.ftz x) ∨
         (ins = .quantile core i ∧ (input = fun _ (x : Nat) => FV.num false x) ∧ fn = fun c _ => quantileFn fp32 c.satC c.ftz (c.sreg i.p1))) →
        exec ins s = .next (s.issued core 1 (s.work.onCore core fun c => c.lanewise 4 i.dst [i.src] i.mask fun g xs =>
          let (y, fl, g) := fn c (xs.getD 0 0) r g (input c.ftz (xs.getD 0 0))
          if y.isNan then ((toFloat fp32 .rne c.satC c.ftz (fp32.decode (c.sreg i.nanOut % 2 ^ 32))).1,
            Nat.land fl (flNX + flUF + flOF + flDZ), g)
          else (fp32.encode y, fl, g))))

/-- R246, R250 to R255, R262, R265 to R267, R393, R425: conversions, the matrix unit, tree scoring, one-hot rows and pooling. An
instruction whose operands pass its checks issues on its unit and has its effect. A conversion between registers, a conversion to an MX
block, a matrix instruction, a tile move, a tree scoring, ONEHOT, MULTIHOT and EMB_POOL say which operands pass; a tile loaded is the
registers' columns and stores nothing; a matrix instruction changes one tile, and no byte of memory; a tree scoring changes no memory and no
register but its destination; ONEHOT, MULTIHOT and EMB_POOL change no vector register. -/
def Obligations.ConversionMatrixAndPoolingComplete : Prop :=
  (∀ (s : State) (core : Nat) (i : VecConv) (r : RMode), Issues s core i.ecc → elemClass i.srcTy = .byte → elemClass i.dstTy = .byte →
    ((s.fetched i.ecc).dev.core core).mode i.mode = .ok r → i.src < 32 → i.dst < 32 →
    (convFirst i i.srcTy + convCount i) * elemBytes i.srcTy ≤ 1024 → (convFirst i i.dstTy + convCount i) * elemBytes i.dstTy ≤ 1024 →
      ∃ w, exec (.conversion core i) s = .next (s.issued core 1 w) ∧ w.wr = (s.fetched i.ecc).wr ∧ w.out = (s.fetched i.ecc).out ∧
        (w.dev.core core).sregs = ((s.fetched i.ecc).dev.core core).sregs ∧
        ∀ k, k ≠ i.dst → (w.dev.core core).vreg k = ((s.fetched i.ecc).dev.core core).vreg k) ∧
  (∀ (s : State) (core : Nat) (i : VecConv) (w : W), Issues s core i.ecc → vecConv core i (s.fetched i.ecc) = .ok w →
      exec (.conversion core i) s = .next (s.issued core 1 w)) ∧
  (∀ (s : State) (core : Nat) (i : MxConv) (r : RMode), Issues s core [] → (s.dev.core core).mode i.mode = .ok r →
    elemClass i.srcTy = .byte → elemClass i.dstTy = .mx → i.src < 32 → (i.first + 32) * elemBytes i.srcTy ≤ 1024 →
    ((s.dev.core core).vreg i.src).length = 1024 →
    s.dev.coreBad core i.scaleOff 1 1 = none → s.dev.coreBad core i.dataOff (elemBits i.dstTy * 4) 1 = none →
      ∃ w, exec (.mxBlockConversion core i) s = .next (s.issued core 1 w) ∧ w.out = [] ∧
        (w.dev.core core).vregs = (s.dev.core core).vregs ∧ (w.dev.core core).sregs = (s.dev.core core).sregs) ∧
  (∀ (s : State) (core : Nat) (i : MatMul), Issues s core i.ecc → matOk i = true → i.offA % 64 = 0 → i.offB % 64 = 0 →
    (∀ r, r < i.m → (s.fetched i.ecc).dev.coreBad core (i.offA + r * i.strideA) (matRowBytes i.tyA i.int4A i.group i.pad i.k) 0 = none) →
    (∀ r, r < i.n → (s.fetched i.ecc).dev.coreBad core (i.offB + r * i.strideB) (matRowBytes i.tyB i.int4B i.group i.pad i.k) 0 = none) →
      ∃ w, exec (.matrixMultiply core i) s = .next (s.issued core 2 w) ∧ w.wr = (s.fetched i.ecc).wr ∧ w.out = (s.fetched i.ecc).out ∧
        (w.dev.core core).vregs = ((s.fetched i.ecc).dev.core core).vregs ∧
        ∀ k, k ≠ i.tile → (w.dev.core core).tile k = ((s.fetched i.ecc).dev.core core).tile k) ∧
  (∀ (s : State) (core : Nat) (i : TileMove), Issues s core [] → i.tile < 4 → i.reg + 8 ≤ 32 → i.load = true →
      ∃ w, exec (.tileMove core i) s = .next (s.issued core 2 w) ∧ w.wr = [] ∧ (w.dev.core core).vregs = (s.dev.core core).vregs ∧
        (w.dev.core core).tile i.tile = (List.range 2048).map fun e =>
          (elemsOf 4 ((s.dev.core core).vreg (i.reg + e % 64 / 8))).getD (e / 64 * 8 + e % 8) 0) ∧
  (∀ (s : State) (core : Nat) (i : TileMove), Issues s core [] → i.tile < 4 → i.reg + 8 ≤ 32 → i.load = false →
      ∃ w, exec (.tileMove core i) s = .next (s.issued core 2 w) ∧ w.wr = [] ∧ (w.dev.core core).acc = (s.dev.core core).acc ∧
        ∀ r, r < 8 → (w.dev.core core).vreg (i.reg + r) =
          (List.range 256).flatMap fun l => toLe 4 (((s.dev.core core).tile i.tile).getD (l / 8 * 64 + 8 * r + l % 8) 0)) ∧
  (∀ (s : State) (core : Nat) (i : TreeScore) (r : RMode), Issues s core i.ecc → ((s.fetched i.ecc).dev.core core).mode i.mode = .ok r →
    regsOk [i.dst] i.mask = true → (s.fetched i.ecc).dev.StoreOpen core → i.ens % 64 = 0 → i.feat % 4 = 0 → i.stride % 4 = 0 →
    i.ens + 64 ≤ coreBytes → EnsFits (s.coreLocal i.ecc core i.ens 64) → i.feat + 255 * i.stride + 4 * 65536 ≤ coreBytes →
      ∃ w, exec (.treeScoring core i) s = .next (s.issued core 1 w) ∧ w.wr = (s.fetched i.ecc).wr ∧ w.out = (s.fetched i.ecc).out ∧
        (w.dev.core core).sregs = ((s.fetched i.ecc).dev.core core).sregs ∧
        ∀ k, k ≠ i.dst → (w.dev.core core).vreg k = ((s.fetched i.ecc).dev.core core).vreg k) ∧
  (∀ (s : State) (core : Nat) (i : HotIns), Issues s core i.ecc → hotOk i = true → regsOk [i.src] i.valid = true → i.n ≤ 256 →
    (s.fetched i.ecc).dev.StoreOpen core → i.out + i.n * (4 * i.depth) ≤ coreBytes →
      ∃ w, exec (.onehot core i) s = .next (s.issued core 1 w) ∧ w.out = (s.fetched i.ecc).out ∧
        (w.dev.core core).vregs = ((s.fetched i.ecc).dev.core core).vregs) ∧
  (∀ (s : State) (core : Nat) (i : HotIns), Issues s core i.ecc → hotOk i = true → (s.fetched i.ecc).dev.StoreOpen core →
    i.offs + 4 * i.n + 4 ≤ coreBytes → i.out + i.n * (4 * i.depth) ≤ coreBytes →
    (∀ r, r < i.n → i.vals + 4 * (fld (s.coreLocal i.ecc core (i.offs + 4 * r) 8) 0 4 + fld (s.coreLocal i.ecc core (i.offs + 4 * r) 8) 4 4) ≤ coreBytes
      ∧ ∀ b ∈ i.bitmap, b + fld (s.coreLocal i.ecc core (i.offs + 4 * r) 8) 4 4 ≤ coreBytes) →
      ∃ w, exec (.multihot core i) s = .next (s.issued core 1 w) ∧ w.out = (s.fetched i.ecc).out ∧
        (w.dev.core core).vregs = ((s.fetched i.ecc).dev.core core).vregs) ∧
  (∀ (s : State) (core : Nat) (i : PoolIns), Issues s core i.ecc → (s.fetched i.ecc).dev.StoreOpen core →
    PoolFits i (takeElems 4 (i.nbags + 1) (s.coreLocal i.ecc core i.bags (4 * (i.nbags + 1))))
      ((i.inv.map fun b => takeElems 4 i.nrows (s.coreLocal i.ecc core b (4 * i.nrows))).getD []) →
      ∃ w, exec (.embPool core i) s = .next (s.issued core 1 w) ∧ w.out = (s.fetched i.ecc).out ∧
        (w.dev.core core).vregs = ((s.fetched i.ecc).dev.core core).vregs)

/-- R341, R342: the hash instructions and CROSS. On 128 values of 8 bytes in a register, every result is the hash, under the seed in the
scalar register, of the value's bytes; the results of CRC-32C fill the half of the destination that the instruction names; a cross of
components in registers is the hash of their encodings. On every form whose registers exist and whose strings lie in an open core store an
instruction issues, and changes no memory and no register but its destination. -/
def Obligations.HashInstructionsComplete : Prop :=
  (∀ (s : State) (core rb : Nat) (f : Nat → List Byte → Nat) (i : HashIns) (ins : Instr), Issues s core i.ecc →
    ((ins = .svh64 core i ∧ rb = 8 ∧ f = svh64) ∨ (ins = .xxh64 core i ∧ rb = 8 ∧ f = xxh64)) →
    i.str = none → i.wide = true → i.mask = none → i.dst < 32 → i.src < 32 → i.seed < 32 → i.part < 2 → i.dstPart < 2 →
    (((s.fetched i.ecc).dev.core core).vreg i.dst).length = 1024 →
      ∃ w, exec ins s = .next (s.issued core 1 w) ∧ w.wr = (s.fetched i.ecc).wr ∧ w.out = (s.fetched i.ecc).out ∧
        (w.dev.core core).vreg i.dst = (List.range 128).flatMap fun k => toLe 8
          (f (((s.fetched i.ecc).dev.core core).sreg i.seed) (slice (((s.fetched i.ecc).dev.core core).vreg i.src) (8 * k) 8))) ∧
  (∀ (s : State) (core : Nat) (i : HashIns), Issues s core i.ecc →
    i.str = none → i.wide = true → i.mask = none → i.dst < 32 → i.src < 32 → i.seed < 32 → i.part < 2 → i.dstPart < 2 →
      ∃ w, exec (.crc32c core i) s = .next (s.issued core 1 w) ∧ w.wr = (s.fetched i.ecc).wr ∧ w.out = (s.fetched i.ecc).out ∧
        (w.dev.core core).vreg i.dst =
          ((elemsOf 4 (((s.fetched i.ecc).dev.core core).vreg i.dst)).take (128 * i.dstPart)
            ++ (List.range 128).map (fun k => crc32c (slice (((s.fetched i.ecc).dev.core core).vreg i.src) (8 * k) 8))
            ++ (elemsOf 4 (((s.fetched i.ecc).dev.core core).vreg i.dst)).drop (128 * i.dstPart + 128)).flatMap (toLe 4)) ∧
  (∀ (s : State) (core : Nat) (i : HashIns) (ins : Instr), Issues s core i.ecc →
    (ins = .svh64 core i ∨ ins = .xxh64 core i ∨ ins = .crc32c core i) → regsOk [i.dst] i.mask = true → i.src < 32 → i.seed < 32 →
    i.part < 2 → i.dstPart < 2 → (∀ st ∈ i.str, (s.fetched i.ecc).dev.StoreOpen core ∧ StrFits st) →
      ∃ w, exec ins s = .next (s.issued core 1 w) ∧ w.wr = (s.fetched i.ecc).wr ∧ w.out = (s.fetched i.ecc).out ∧
        (w.dev.core core).sregs = ((s.fetched i.ecc).dev.core core).sregs ∧
        ∀ k, k ≠ i.dst → (w.dev.core core).vreg k = ((s.fetched i.ecc).dev.core core).vreg k) ∧
  (∀ (s : State) (core : Nat) (i : CrossIns), Issues s core i.ecc → 2 ≤ i.parts.length → i.parts.length ≤ 8 → i.dst < 32 → i.seed < 32 →
    (∀ p ∈ i.parts, crossType p = true ∧ (∀ m ∈ p.valid, m < 8) ∧ ∀ st ∈ p.str, (s.fetched i.ecc).dev.StoreOpen core ∧ StrFits st) →
      ∃ w, exec (.cross core i) s = .next (s.issued core 1 w) ∧ w.wr = (s.fetched i.ecc).wr ∧ w.out = (s.fetched i.ecc).out ∧
        ∀ k, k ≠ i.dst → (w.dev.core core).vreg k = ((s.fetched i.ecc).dev.core core).vreg k) ∧
  (∀ (s : State) (core : Nat) (i : CrossIns), Issues s core i.ecc → 2 ≤ i.parts.length → i.parts.length ≤ 8 → i.dst < 32 → i.seed < 32 →
    (∀ p ∈ i.parts, p.str = none ∧ crossType p = true ∧ ∀ m ∈ p.valid, m < 8) →
      ∃ w, exec (.cross core i) s = .next (s.issued core 1 w) ∧ w.wr = (s.fetched i.ecc).wr ∧ w.out = (s.fetched i.ecc).out ∧
        (w.dev.core core).vreg i.dst = (List.range 128).flatMap fun k => toLe 8
          (svh64 (((s.fetched i.ecc).dev.core core).sreg i.seed) (i.parts.flatMap fun p =>
            if (p.valid.map fun m => bit (((s.fetched i.ecc).dev.core core).mreg m) k).getD true then
              toLe 1 1 ++ toLe 8 (crossValue p.ty (fld (((s.fetched i.ecc).dev.core core).vreg p.reg)
                (elemBytes p.ty * (128 * p.part + k)) (elemBytes p.ty)))
            else zeros 9)))

/-- R397, R399 to R402, R407, R408: the sort and selection instructions. VSORT writes its 128 entries in order. TOPK_INIT gives a list of K
sentinels with counts 0. TOPK_STEP and VGRAFT give the first K entries of the union in order, then sentinels, with the number of valid
ones in the first scalar register of the counts; at least the first 8 x K bytes of the destination are that list. None changes
memory. -/
def Obligations.SelectionInstructionsComplete : Prop :=
  (∀ (s : State) (core kind : Nat) (i : TopkIns), Issues s core [] → topkOk i [i.dst, i.a] = true → topkKind i.ty = some kind →
      exec (.vsort core i) s = .next (s.issued core 1 (s.work.onCore core fun c => c.setV i.dst
        (entryBytes (sortEntries kind 4 i.maxDir (entriesOf c kind i.a i.valid))) (if c.vpois i.a != 0 then allLanes else 0)))) ∧
  (∀ (s : State) (core kind : Nat) (i : TopkIns), Issues s core [] → topkOk i [i.dst] = true → topkKind i.ty = some kind →
      ∃ w, exec (.topkInit core i) s = .next (s.issued core 1 w) ∧ w.wr = [] ∧ w.out = [] ∧
        ((w.dev.core core).vreg i.dst).take (8 * i.k) =
          entryBytes (List.replicate i.k ⟨(s.dev.core core).sreg i.fill % 2 ^ 32, 0xFFFFFFFF, 0, false⟩) ∧
        (w.dev.core core).sregs = setReg (setReg (s.dev.core core).sregs i.counts 0) (i.counts + 1) 0) ∧
  (∀ (s : State) (core kind : Nat) (i : TopkIns), Issues s core [] → topkOk i [i.dst, i.a, i.b] = true → topkKind i.ty = some kind →
    i.bound = none →
      let c := s.dev.core core
      let u := sortEntries kind 4 i.maxDir
        (((entriesOf c kind i.a none).take i.k ++ entriesOf c kind i.b i.valid).filter (·.valid))
      ∃ w tie, exec (.topkStep core i) s = .next (s.issued core 1 w) ∧ w.wr = [] ∧ w.out = [] ∧
        ((w.dev.core core).vreg i.dst).take (8 * i.k) = entryBytes (topkFill i.k (c.sreg i.fill) u) ∧
        (w.dev.core core).sregs = setReg (setReg c.sregs i.counts (min u.length i.k)) (i.counts + 1) tie ∧
        (u.length < i.k → tie = 0)) ∧
  (∀ (s : State) (core kind : Nat) (i : TopkIns), Issues s core [] → topkOk i [i.dst, i.a, i.b] = true → topkKind i.ty = some kind →
      let c := s.dev.core core
      let u := dropDups [] (sortEntries kind 4 i.maxDir
        (((entriesOf c kind i.a none).take i.k ++ (entriesOf c kind i.b none).take i.k).filter (·.valid)))
      ∃ w tie, exec (.vgraft core i) s = .next (s.issued core 1 w) ∧ w.wr = [] ∧ w.out = [] ∧
        ((w.dev.core core).vreg i.dst).take (8 * i.k) = entryBytes (topkFill i.k (c.sreg i.fill) u) ∧
        (w.dev.core core).sregs = setReg (setReg c.sregs i.counts (min u.length i.k)) (i.counts + 1) tie ∧
        (u.length < i.k → tie = 0))

/-- R269, R281, R284, R286, R485, R569: the scheduler. An idle core takes the head of its highest non-empty ready list, with the scalar
registers and the program offset that the slot saved; a DELAY whose wake tick has come leaves the delay list for READY; a limited wait
whose wake tick has come ends with 1 in scalar register 0 and counts in SCHED_TO; the oldest sync message of a die acts on its object; a
stage that may start, starts; a core that hangs, or that the chip reports as failed, is retired by case (d). -/
def Obligations.SchedulerEventsComplete : Prop :=
  (∀ (s : State) (core lv k : Nat) (sl : Slot), core < 256 → s.dev.dieRuns (dieOfCore core) = true → (s.dev.core core).offline = false →
    (s.dev.core core).run = none → s.dev.nextReady core = some (lv, k) → Tab.get s.dev.slots (slotKey (dieOfCore core) k) = some sl →
      exec (.taskDispatch core) s = .next (s.after (s.work.onDev fun d =>
        { d with
          ready := Tab.mod d.ready (readyKey core lv) (List.drop 1)
          slots := Tab.mod d.slots (slotKey (dieOfCore core) k) fun x => { x with st := .run }
          cores := Tab.upd d.cores core {} fun c => { c with run := some k, sregs := sl.sregs, pc := sl.pc } }))) ∧
  (∀ (s : State) (die : Nat) (e : DelayEnt) (sl : Slot), s.dev.dueDelay die = some e → e.isWait = false →
    Tab.get s.dev.slots (slotKey die e.slot) = some sl →
      exec (.delayExpiry die) s = .next (s.after (s.work.onDev fun d =>
        { d with
          dies := Tab.upd d.dies die {} fun x => { x with delay := x.delay.filter fun y => y.slot != e.slot }
          slots := Tab.mod d.slots (slotKey die e.slot) fun x => { x with st := .ready, obj := none }
          ready := Tab.upd d.ready (readyKey sl.rec'.core sl.rec'.prio) [] (· ++ [e.slot]) }))) ∧
  (∀ (s : State) (die : Nat) (e : DelayEnt), s.dev.dueDelay die = some e → e.isWait = true →
      exec (.taskWaitExpiry die) s = .next (s.after (((s.work.unwait (.task die e.slot)).wakeTask die e.slot 1).onDie die fun d =>
        { d with schedTo := satAdd 32 d.schedTo 1 }))) ∧
  (∀ (s : State) (die : Nat) (m : SyncMsg) (rest : List SyncMsg), s.dev.dieRuns die = true → (s.dev.die die).syncQ = m :: rest →
    (Tab.get s.dev.syncs m.obj).isSome = true →
      exec (.syncMessage die) s = .next (s.after ((s.work.onDie die fun d => { d with syncQ := rest }).syncOp m.obj m.op))) ∧
  (∀ (s : State) (i n : Nat) (g : Graph), Tab.get s.dev.graphs i = some g → g.state = 2 → g.startNext = some n → s.dev.diesRun = true →
      exec (.stageStart i) s = .next (s.after (s.work.startStage i n))) ∧
  (∀ (s : State) (core : Nat), core < 256 → s.dev.dieUp (core / 64) = true → (s.dev.core core).run.isSome = true →
    s.dev.physOfCore core < 68 →
      exec (.coreHang core) s = .next (s.after (s.work.retireCore (core / 64) (s.dev.physOfCore core) 4 0))) ∧
  (∀ (s : State) (die phys : Nat), die < 4 → phys < 68 → s.dev.dieUp die = true → bit (s.dev.die die).coreRetired phys = false →
      exec (.physicalCoreFailure die phys) s = .next (s.after (s.work.retireCore die phys 4 0)))

/-- R240, R243, R246, R256, R265, R566 (Table 7.2): which core fault an instruction raises. A register or a rounding mode that does not
exist raises kind 0x01 ILLEGAL; an access outside the store or in a frame without the right, kind 0x02 ADDR with the first such offset; a
vector access off its boundary, kind 0x03 ALIGN; a scalar load of poisoned data, kind 0x05. The fault is recorded and the task's stage is
frogged. -/
def Obligations.CoreFaultsAreRaised : Prop :=
  (∀ (s : State) (core : Nat) (i : CoreMem), Issues s core i.ecc → i.scalar = true → 32 ≤ i.reg →
      exec (.coreLoad core i) s = .next (s.after ((s.fetched i.ecc).coreFault core 0x01 0))) ∧
  (∀ (s : State) (core : Nat) (i : CoreMem) (a : Nat), Issues s core i.ecc → i.scalar = true → i.reg < 32 →
    (i.bytes = 1 ∨ i.bytes = 2 ∨ i.bytes = 4 ∨ i.bytes = 8) → (s.fetched i.ecc).dev.coreBad core i.off i.bytes 0 = some a →
      exec (.coreLoad core i) s = .next (s.after ((s.fetched i.ecc).coreFault core 0x02 a))) ∧
  (∀ (s : State) (core : Nat) (i : CoreMem) (a : Nat), Issues s core i.ecc → i.scalar = true → i.reg < 32 →
    (i.bytes = 1 ∨ i.bytes = 2 ∨ i.bytes = 4 ∨ i.bytes = 8) → (s.fetched i.ecc).dev.coreBad core i.off i.bytes 1 = some a →
      exec (.coreStore core i) s = .next (s.after ((s.fetched i.ecc).coreFault core 0x02 a))) ∧
  (∀ (s : State) (core : Nat) (i : CoreMem), Issues s core i.ecc → i.scalar = false → regsOk [i.reg] i.mask = true → i.off % 4 ≠ 0 →
      exec (.coreLoad core i) s = .next (s.after ((s.fetched i.ecc).coreFault core 0x03 i.off)) ∧
      exec (.coreStore core i) s = .next (s.after ((s.fetched i.ecc).coreFault core 0x03 i.off))) ∧
  (∀ (s : State) (core : Nat) (i : CoreMem), Issues s core i.ecc → i.scalar = true → i.reg < 32 →
    (i.bytes = 1 ∨ i.bytes = 2 ∨ i.bytes = 4 ∨ i.bytes = 8) → (s.fetched i.ecc).dev.coreBad core i.off i.bytes 0 = none →
    (s.fetched i.ecc).corePoison core i.off i.bytes = true →
      exec (.coreLoad core i) s = .next (s.after ((s.fetched i.ecc).coreFault core 0x05 i.off))) ∧
  (∀ (s : State) (core : Nat) (i : VecArith), Issues s core [] → (i.mode.toNat = 5 ∨ i.mode.toNat = 6) →
      exec (.vectorArithmetic core i) s = .next (s.after (s.work.coreFault core 0x01 0)))

/-- R39, R43: every command packet of Table 2.9 that passes all checks of Table 2.3a answers a state: that which the effect of its opcode
leaves on the working copy in which the packet has been acknowledged and its SEQ taken. -/
def Obligations.AdmittedPacketsHaveTheirEffect : Prop :=
  ∀ (i : Instr) (sp : OpSpec) (ch : Nat) (p : Packet) (s : State) (c : Chan), packetOf i = some (sp, ch, p) → Admitted sp ch p s c →
    ∃ w, exec i s = .next (s.commit w) ∧ Ends (sp.body (ctxOf sp ch p) (s.taken ch p c.psn)) w

/-- R39, R43 (Table 2.3a): a command packet that fails a check after step 4 has no effect but its acknowledgement, the advance of the
expected SEQ and the reply that carries the status and the detail of the first check that fails. -/
def Obligations.RejectedPacketsOnlyReply : Prop :=
  ∀ (i : Instr) (sp : OpSpec) (ch : Nat) (p : Packet) (s : State) (c : Chan) (f : Fail), packetOf i = some (sp, ch, p) →
    Rejected sp ch p s c f →
    ∃ w, exec i s = .next (s.commit w) ∧ Ends ((s.taken ch p c.psn).reply ch p.hdr sp.op f.status f.detail f.payload) w

/-- R73 to R76, R80, R153, R158, R228, R295, R474, R554, R557, R587, R608, R613, R628, R639, R661 and the rules of the other query commands:
a query that is admitted leaves the device as it is but for the acknowledgement of its packet, and answers OK with its record. -/
def Obligations.QueriesOnlyReply : Prop :=
  ∀ (i : Instr) (sp : OpSpec) (ch : Nat) (p : Packet) (s : State) (c : Chan), packetOf i = some (sp, ch, p) →
    sp.op ∈ [0x0000, 0x0001, 0x0002, 0x0007, 0x0009, 0x0205, 0x0207, 0x0304, 0x0405, 0x0603, 0x0703, 0x0704, 0x0803, 0x0808, 0x0900, 0x0905,
      0x0A01, 0x0A02, 0x0B00, 0x0B03] → Admitted sp ch p s c →
    ∃ payload, exec i s = .next (s.commit ((s.taken ch p c.psn).reply ch p.hdr sp.op 0 0 payload))

/-- R74 to R76, R295, R554: what the records of five queries hold. NOP returns its parameters; DEVICE_INFO 128 bytes that begin with the
serial number, DEVICE_STATUS 96 bytes that begin with the state code and DEGRADED, the state before and the step in force; SYNC_READ the
value of the object; PWR_ENERGY_READ global time and the 64 accumulators after their totals. -/
def Obligations.QueryRecordsHold : Prop :=
  (∀ (s : State) (ch : Nat) (p : Packet) (c : Chan), Admitted nop ch p s c →
      exec (.nop ch p) s = .next (s.commit ((s.taken ch p c.psn).reply ch p.hdr 0x0000 0 0 p.params))) ∧
  (∀ (s : State) (ch : Nat) (p : Packet) (c : Chan), Admitted deviceInfo ch p s c →
      ∃ b, exec (.deviceInfo ch p) s = .next (s.commit ((s.taken ch p c.psn).reply ch p.hdr 0x0001 0 0 b)) ∧
        b.length = 128 ∧ b.take 8 = toLe 8 s.dev.fuse.serial) ∧
  (∀ (s : State) (ch : Nat) (p : Packet) (c : Chan), Admitted deviceStatus ch p s c →
      ∃ b, exec (.deviceStatus ch p) s = .next (s.commit ((s.taken ch p c.psn).reply ch p.hdr 0x0002 0 0 b)) ∧
        b.length = 96 ∧ b.take 3 = toLe 1 (s.dev.hub.st.code + 16 * b2n s.dev.hub.degraded) ++ toLe 1 s.dev.hub.prev ++ toLe 1 s.dev.pwr.step) ∧
  (∀ (s : State) (ch : Nat) (p : Packet) (c : Chan) (y : Sync), Admitted syncRead ch p s c →
    Tab.get s.dev.syncs (hIdx p.hdr.target.toNat) = some y →
      ∃ b, exec (.syncRead ch p) s = .next (s.commit ((s.taken ch p c.psn).reply ch p.hdr 0x0603 0 0 b)) ∧ b.take 8 = toLe 8 y.val) ∧
  (∀ (s : State) (ch : Nat) (p : Packet) (c : Chan), Admitted pwrEnergyRead ch p s c →
      ∃ b, exec (.pwrEnergyRead ch p) s = .next (s.commit ((s.taken ch p c.psn).reply ch p.hdr 0x0704 0 0 b)) ∧
        b.length = 544 ∧ b.take 8 = toLe 8 s.dev.clk.now ∧
        b.drop 32 = (List.range 64).flatMap fun t => toLe 8 (wholeUj (Tab.getD s.dev.pwr.en t 0)))

/-- R39, R42, R57, R65, R70, R72, R77 to R79: what the commands that change the device do once admitted. DEVICE_START goes PENDING and INIT
begins; DEVICE_STANDBY leaves STANDBY with the dies and HBM without power and no object of theirs; DEVICE_DRAIN goes PENDING in DRAINING;
DEVICE_RESET answers and resets, or goes PENDING while its die is reset; HANDLE_DESTROY answers and removes its object; an opcode
outside Table 2.9 is answered BAD_OPCODE with the opcode; a command that has run 100 microseconds sends its interim reply once. -/
def Obligations.DeviceCommandsAct : Prop :=
  (∀ (s : State) (ch : Nat) (p : Packet) (c : Chan), Admitted deviceStart ch p s c → s.dev.hub.stage = 3 → s.dev.hub.resetHold = false →
    s.dev.pin.refclk = true →
      ∃ w, exec (.deviceStart ch p) s = .next (s.commit w) ∧ w.dev.hub.st = .init ∧ w.dev.hub.prev = 1 ∧
        w.dev.cmds = s.dev.cmds ++ [⟨ch, p.hdr, 0x0003, s.dev.clk.mono, false, .init⟩]) ∧
  (∀ (s : State) (ch : Nat) (p : Packet) (c : Chan), Admitted deviceStandby ch p s c → s.dev.pin.serviceMode = false →
      ∃ w, exec (.deviceStandby ch p) s = .next (s.commit w) ∧ w.dev.hub.st = .standby ∧ w.dev.hub.prev = 3 ∧ w.dev.hub.rails = false ∧
        w.dev.bufs = [] ∧ w.dev.strms = [] ∧ w.dev.syncs = [] ∧ w.dev.slots = [] ∧ w.dev.graphs = [] ∧ w.dev.feeds = [] ∧ w.dev.jobs = [] ∧
        w.dev.queues = [] ∧ w.dev.tables = [] ∧ w.dev.matchsets = []) ∧
  (∀ (s : State) (ch : Nat) (p : Packet) (c : Chan), Admitted deviceDrain ch p s c →
      let x := ((s.taken ch p c.psn).pend (ctxOf deviceDrain ch p) .drain).setState .draining
      exec (.deviceDrain ch p) s =
        .next (s.after (((x.dev.graphs.filter fun (_, g) => g.state = 2).map Prod.fst).foldl W.drainGraph x))) ∧
  (∀ (s : State) (ch : Nat) (p : Packet) (c : Chan), Admitted deviceReset ch p s c → fld p.params 0 1 = 1 →
      exec (.deviceReset ch p) s = .next (s.after ((s.taken ch p c.psn).reply ch p.hdr 0x0006 0 0 []).warmReset)) ∧
  (∀ (s : State) (ch : Nat) (p : Packet) (c : Chan), Admitted deviceReset ch p s c → fld p.params 0 1 = 2 →
      exec (.deviceReset ch p) s = .next (s.after (((s.taken ch p c.psn).pend (ctxOf deviceReset ch p)
        (.dieReset (fld p.params 1 1))).askDieReset (fld p.params 1 1)))) ∧
  (∀ (s : State) (ch : Nat) (p : Packet) (c : Chan), Admitted handleDestroy ch p s c → hKind p.hdr.target.toNat ≠ 8 →
      exec (.handleDestroy ch p) s = .next (s.after (((s.taken ch p c.psn).reply ch p.hdr 0x0008 0 0 []).dropObj
        (hKind p.hdr.target.toNat) (hIdx p.hdr.target.toNat)))) ∧
  (∀ (s : State) (ch : Nat) (opcode : BitVec 16) (p : Packet) (c : Chan), Sound opcode.toNat ch p s c → opcode.toNat ∉ knownOps →
      exec (.unknownOpcodePacket ch opcode p) s =
        .next (s.commit ((s.taken ch p c.psn).reply ch p.hdr opcode.toNat 0x03 opcode.toNat []))) ∧
  (∀ (s : State) (ch : Nat) (seq : Word) (q : PendCmd), (s.dev.cmds.find? fun p => p.ch = ch && p.hdr.seq = seq && !p.interim) = some q →
    ackReq q.hdr = true → q.begun + 100000 ≤ s.dev.clk.mono →
      exec (.pendingInterimReply ch seq) s = .next (s.commit ((s.work.onDev fun d =>
        { d with cmds := d.cmds.map fun r => if r = q then { r with interim := true } else r }).reply ch q.hdr q.op 1 0 [])))

/-- R102, R103, R106, R107: the channel commands once admitted. CHAN_OPEN puts an ACTIVE context at the lowest free index, as the
parameters say; a challenge puts a fresh nonce on the channel; a right signature makes it ACTIVE; CHAN_MODIFY sets its parameters; CHAN_CLOSE
answers and closes it. -/
def Obligations.ChannelCommandsAct : Prop :=
  (∀ (s : State) (ch i : Nat) (p : Packet) (c : Chan), Admitted chanOpen ch p s c → Tab.firstFree (s.taken ch p c.psn).dev.chans 0 16384 = some i →
      ∃ (w : W) (k : Chan), exec (.chanOpen ch p) s = .next (s.commit w) ∧ Tab.get w.dev.chans i = some k ∧ k.state = 2 ∧ k.kind = fld p.params 0 1 ∧
        k.prio = fld p.params 1 1 ∧ k.ipVer = fld p.params 2 1 ∧ k.rdDepth = fld p.params 3 1 ∧ k.remoteQpn = fld p.params 4 4 ∧
        k.psn = fld p.params 8 4 ∧ k.rxBuf = fld p.params 12 4 ∧ k.rxSync = fld p.params 16 4 ∧ k.tag = p.hdr.jobTag.toNat ∧ k.txPsn < 2 ^ 24) ∧
  (∀ (s : State) (ch : Nat) (p : Packet) (c k : Chan), Admitted chanAuthChallenge ch p s c →
    Tab.get s.dev.chans (hIdx p.hdr.target.toNat) = some k →
      ∃ (w : W) (k' : Chan) (nonce : List Byte), exec (.chanAuthChallenge ch p) s = .next (s.commit w) ∧ Tab.get w.dev.chans (hIdx p.hdr.target.toNat) = some k' ∧
        k'.nonce = some (nonce, s.dev.clk.mono) ∧ nonce.length = 32 ∧ k'.state = k.state) ∧
  (∀ (s : State) (ch : Nat) (p : Packet) (c k : Chan) (nonce key : List Byte) (t : Nat), Admitted chanAuthResponse ch p s c →
    Tab.get (s.taken ch p c.psn).dev.chans (hIdx p.hdr.target.toNat) = some k → k.nonce = some (nonce, t) → s.dev.clk.mono ≤ t + 10000000000 →
    s.dev.fuse.ownerKey = some key →
    ed448Verify 0 key (ascii "SV24-CHAN-AUTH") (s.dev.authMessage nonce (hIdx p.hdr.target.toNat)) (slice p.params 0 114) = true →
      exec (.chanAuthResponse ch p) s = .next (s.commit ((((s.taken ch p c.psn).onChan (hIdx p.hdr.target.toNat) fun k =>
        { k with nonce := none }).onChan (hIdx p.hdr.target.toNat) fun k => { k with state := 2 }).reply ch p.hdr 0x0102 0 0 []))) ∧
  (∀ (s : State) (ch : Nat) (p : Packet) (c k : Chan), Admitted chanModify ch p s c → Tab.get s.dev.chans (hIdx p.hdr.target.toNat) = some k →
      ∃ (w : W) (k' : Chan), exec (.chanModify ch p) s = .next (s.commit w) ∧ Tab.get w.dev.chans (hIdx p.hdr.target.toNat) = some k' ∧
        k'.prio = fld p.params 0 1 ∧ (k'.ecn ↔ fld p.params 1 1 = 1) ∧ k'.queueLimit = fld p.params 2 1 ∧ k'.rateCap = fld p.params 4 4 ∧
        k'.state = k.state ∧ k'.rc ≤ k.rc ∧ k'.rt ≤ k.rt) ∧
  (∀ (s : State) (ch : Nat) (p : Packet) (c : Chan), Admitted chanClose ch p s c →
      exec (.chanClose ch p) s = .next (s.commit (((s.taken ch p c.psn).reply ch p.hdr 0x0104 0 0 []).closeChan (hIdx p.hdr.target.toNat) true)) ∧
      ∀ t, exec (.chanClose ch p) s = .next t → Tab.get t.dev.chans (hIdx p.hdr.target.toNat) = none)

/-- R132, R134, R147, R149, R158: the memory commands once admitted. BUF_ALLOC answers the handle of a new buffer at the base that holds it;
BUF_PROTECT sets the bits of a buffer that it need not pin; PAGE_SUPPLY makes its page present, and poisoned where it says so;
PLACE_CONFIG holds its settings for the next epoch; TIER_SCAN takes the expanders it finds. -/
def Obligations.MemoryCommandsAct : Prop :=
  (∀ (s : State) (ch : Nat) (p : Packet) (c : Chan), Admitted bufAlloc ch p s c →
      ∃ (i : Nat) (w : W), exec (.bufAlloc ch p) s = .next (s.commit (w.reply ch p.hdr 0x0200 0 0
        (toLe 4 (w.dev.handleOf 3 i) ++ zeros 4 ++ toLe 8 (((Tab.get w.dev.bufs i).map Buf.base).getD 0)))) ∧
      Tab.firstFree s.dev.bufs 0 65536 = some i ∧ ∃ b, Tab.get w.dev.bufs i = some b ∧ b.size = fld p.params 0 8) ∧
  (∀ (s : State) (ch : Nat) (p : Packet) (c : Chan) (b : Buf), Admitted bufProtect ch p s c →
    Tab.get s.dev.bufs (hIdx p.hdr.target.toNat) = some b → (bit (fld p.params 0 1) 2 = true → b.pin = true) → s.dev.cmds = [] →
      ∃ (w : W) (b' : Buf), exec (.bufProtect ch p) s = .next (s.commit w.tidy) ∧ Tab.get w.dev.bufs (hIdx p.hdr.target.toNat) = some b' ∧
        b'.read = bit (fld p.params 0 1) 0 ∧ b'.write = bit (fld p.params 0 1) 1 ∧ b'.pin = bit (fld p.params 0 1) 2 ∧ b'.size = b.size ∧
        b'.base = b.base) ∧
  (∀ (s : State) (ch : Nat) (p : Packet) (c : Chan), Admitted placeConfig ch p s c →
      let x : Place := { budget := fld p.params 0 4, epochUs := fld p.params 4 4, promoteMin := fld p.params 8 2
                         demoteMax := fld p.params 10 2, holdEpochs := fld p.params 12 1 }
      exec (.placeConfig ch p) s =
        .next (s.commit (((s.taken ch p c.psn).onMs fun m => { m with placeNext := some x }).reply ch p.hdr 0x0204 0 0 []))) ∧
  (∀ (s : State) (ch : Nat) (p : Packet) (c : Chan), Admitted tierScan ch p s c →
      ∃ w, exec (.tierScan ch p) s = .next (s.commit w) ∧ w.dev.ms.expanders = s.dev.foundExpanders ∧
        w.dev.ms.tierBytes = (s.dev.foundExpanders.map Expander.capacity).sum) ∧
  (∀ (s : State) (ch : Nat) (p : Packet) (c : Chan) (b : Buf), Admitted pageSupply ch p s c →
    Tab.get s.dev.bufs (hIdx p.hdr.target.toNat) = some b →
      let k := fld p.params 0 8 / b.page
      let x := ((s.taken ch p c.psn).onPage (hIdx p.hdr.target.toNat) k fun q => { q with st := .placedHbm, count := 0, hold := 0 })
      let y := if fld p.params 8 1 = 1 then (match x.dev.page (hIdx p.hdr.target.toNat) k with
        | some q => x.op (.mark q.phys b.page)
        | none => x) else x
      exec (.pageSupply ch p) s = .next (s.after (((((y.onMs fun m =>
        { m with pageIns := m.pageIns + 1, pageinBytes := Tab.upd m.pageinBytes (b.home k) 0 (· + bigPage) }).wakePage
          (hIdx p.hdr.target.toNat) k).startQueued (b.home k)).reply ch p.hdr 0x0203 0 0 []).resumePages)))

/-- R221 to R223, R226, R228, R475, R482, R487, R488: the commands of streams and graphs once admitted. A stream created stands at the
lowest free index of its die; an arm advances its generation; a stop goes PENDING; a job takes its index; a graph run makes the graph
ACTIVE and the device RUNNING; a drain goes PENDING; a frog ends the graph's stage with reason 0x01; an abort frogs the job's graphs. -/
def Obligations.StreamAndGraphCommandsAct : Prop :=
  (∀ (s : State) (ch i : Nat) (p : Packet) (c : Chan), Admitted strmCreate ch p s c →
    Tab.firstFree s.dev.strms (1024 * fld p.params 0 1) 1024 = some i →
      ∃ w g, exec (.strmCreate ch p) s = .next (s.commit w) ∧ Tab.get w.dev.strms i = some (strmOf (ctxOf strmCreate ch p) g)) ∧
  (∀ (s : State) (ch : Nat) (p : Packet) (c : Chan) (y : Strm), Admitted strmArm ch p s c →
    Tab.get ((s.taken ch p c.psn).armStrm (hIdx p.hdr.target.toNat) (armOf (ctxOf strmArm ch p))).dev.strms (hIdx p.hdr.target.toNat) = some y →
      exec (.strmArm ch p) s = .next (s.after (((s.taken ch p c.psn).armStrm (hIdx p.hdr.target.toNat) (armOf (ctxOf strmArm ch p))).reply
        ch p.hdr 0x0301 0 0 (toLe 4 y.sgen ++ toLe 1 y.state ++ zeros 3)))) ∧
  (∀ (s : State) (ch : Nat) (p : Packet) (c : Chan), Admitted strmStop ch p s c →
      exec (.strmStop ch p) s = .next (s.after (((s.taken ch p c.psn).pend (ctxOf strmStop ch p)
        (.strmStop (hIdx p.hdr.target.toNat))).stopStrm (hIdx p.hdr.target.toNat) (fld p.params 0 1)))) ∧
  (∀ (s : State) (ch : Nat) (p : Packet) (c : Chan), Admitted jobCreate ch p s c →
      ∃ w g, exec (.jobCreate ch p) s = .next (s.commit w) ∧ Tab.get w.dev.jobs p.hdr.jobTag.toNat = some { gen := g } ∧
        1 ≤ p.hdr.jobTag.toNat ∧ p.hdr.jobTag.toNat ≤ 63) ∧
  (∀ (s : State) (ch : Nat) (p : Packet) (c : Chan) (g : Graph), Admitted graphRun ch p s c →
    Tab.get s.dev.graphs (hIdx p.hdr.target.toNat) = some g → bit (fld p.params 2 1) 0 = true → g.feeds = [] →
      let x := ((s.taken ch p c.psn).startQueues g).onGraph (hIdx p.hdr.target.toNat) fun g =>
        { g with state := 2, runTime := s.dev.clk.now, ending := false, startNext := none }
      exec (.graphRun ch p) s = .next (s.after (((if s.dev.hub.st = .ready then x.setState .running else x).startStage
        (hIdx p.hdr.target.toNat) (fld p.params 0 2)).reply ch p.hdr 0x0402 0 0 []))) ∧
  (∀ (s : State) (ch : Nat) (p : Packet) (c : Chan), Admitted graphDrain ch p s c →
      exec (.graphDrain ch p) s = .next (s.after (((s.taken ch p c.psn).pend (ctxOf graphDrain ch p)
        (.graphDrain (hIdx p.hdr.target.toNat))).drainGraph (hIdx p.hdr.target.toNat)))) ∧
  (∀ (s : State) (ch : Nat) (p : Packet) (c : Chan), Admitted graphFrog ch p s c →
      exec (.graphFrog ch p) s = .next (s.after (((s.taken ch p c.psn).frog (hIdx p.hdr.target.toNat) 0x01 0x02).reply ch p.hdr 0x0404 0 0 []))) ∧
  (∀ (s : State) (ch : Nat) (p : Packet) (c : Chan), Admitted jobAbort ch p s c →
      exec (.jobAbort ch p) s = .next (s.after (((s.taken ch p c.psn).abortJob (hIdx p.hdr.target.toNat)).reply ch p.hdr 0x0406 0 0 [])))

/-- R442, R445, R459, R462, R470 to R474: the feed and result commands once admitted. FEED_OPEN puts a feed at the lowest free index;
FEED_CONFIG takes its mode at once and the rest at the next evaluation; FEED_ATTACH adds a client with its whole credit at the lowest free
number; FEED_LEDGER_READ, RESULT_RING_CONFIG, FETCH_RESULT and RESULT_RELEASE wait for absent pages and else answer with their effect. -/
def Obligations.FeedCommandsAct : Prop :=
  (∀ (s : State) (ch i : Nat) (p : Packet) (c : Chan), Admitted feedOpen ch p s c → Tab.firstFree s.dev.feeds 0 1024 = some i →
      ∃ (w : W) (f : Feed), exec (.feedOpen ch p) s = .next (s.commit w) ∧ Tab.get w.dev.feeds i = some f ∧ f.buf = fld p.params 0 4 ∧
        f.dieMask = fld p.params 4 1 ∧ f.samples = [] ∧ f.clients = [] ∧ f.nextSeq = 1) ∧
  (∀ (s : State) (ch : Nat) (p : Packet) (c : Chan), Admitted feedConfig ch p s c →
      exec (.feedConfig ch p) s = .next (s.commit (((s.taken ch p c.psn).onFeed (hIdx p.hdr.target.toNat) fun f =>
        { f with cfg := { f.cfg with mode := fld p.params 0 1 }, cfgNext := some (feedCfgOf (ctxOf feedConfig ch p)) }).reply
          ch p.hdr 0x0501 0 0 []))) ∧
  (∀ (s : State) (ch k : Nat) (p : Packet) (c : Chan) (f : Feed), Admitted feedAttach ch p s c →
    Tab.get s.dev.feeds (hIdx p.hdr.target.toNat) = some f → (List.range 16).find? (fun k => f.clients.all fun x => x.idx != k) = some k →
      let cl : Client := { idx := k, chan := hIdx (fld p.params 0 4), cslots := fld p.params 4 4, va := fld p.params 8 8
                           rkey := fld p.params 16 4, stride := fld p.params 20 4, credits := fld p.params 4 4 }
      exec (.feedAttach ch p) s = .next (s.commit (((s.taken ch p c.psn).onFeed (hIdx p.hdr.target.toNat) fun f =>
        { f with clients := f.clients ++ [cl] }).reply ch p.hdr 0x0502 0 0 (toLe 1 k ++ zeros 7)))) ∧
  (∀ (s : State) (ch : Nat) (p : Packet) (c : Chan) (f : Feed) (b : Buf), Admitted feedLedgerRead ch p s c →
    Tab.get s.dev.feeds (hIdx p.hdr.target.toNat) = some f → Tab.get s.dev.bufs (hIdx (fld p.params 20 4)) = some b → fld p.params 24 1 = 0 →
      let n := f.copied (fld p.params 0 8) (fld p.params 16 4)
      exec (.feedLedgerRead ch p) s = .next (s.commit ((s.taken ch p c.psn).withPages (ctxOf feedLedgerRead ch p)
        [(b.base + fld p.params 8 8, 32 * n)] fun w =>
          match Tab.get (w.writeVa (b.base + fld p.params 8 8) (w.ledgerBytes f (fld p.params 0 8) n)).dev.feeds (hIdx p.hdr.target.toNat) with
          | some f => (w.writeVa (b.base + fld p.params 8 8) (w.ledgerBytes f (fld p.params 0 8) n)).reply ch p.hdr 0x0503 0 0 (f.status n)
          | none => w.writeVa (b.base + fld p.params 8 8) (w.ledgerBytes f (fld p.params 0 8) n)))) ∧
  (∀ (s : State) (ch : Nat) (p : Packet) (c : Chan) (g : Graph) (r : ResultRing), Admitted fetchResult ch p s c →
    Tab.get s.dev.graphs (hIdx p.hdr.target.toNat) = some g → g.ring = some r → fld p.params 8 4 = 0 →
      let va := s.dev.windowVa r (r.window (fld p.params 0 8))
      exec (.fetchResult ch p) s = .next (s.commit ((s.taken ch p c.psn).withPages (ctxOf fetchResult ch p) [(va, r.winBytes)] fun w =>
        (w.countRead va).reply ch p.hdr 0x0505 0 0
          ((w.countRead va).readVa va (64 + leNat ((w.countRead va).readVa (va + 24) 8)))))) ∧
  (∀ (s : State) (ch : Nat) (p : Packet) (c : Chan) (g : Graph), Admitted resultRelease ch p s c →
    Tab.get s.dev.graphs (hIdx p.hdr.target.toNat) = some g → g.ring = none →
      exec (.resultRelease ch p) s = .next (s.after ((s.taken ch p c.psn).reply ch p.hdr 0x0506 0 0 []))) ∧
  (∀ (s : State) (ch : Nat) (p : Packet) (c : Chan) (g : Graph) (r : ResultRing), Admitted resultRelease ch p s c →
    Tab.get s.dev.graphs (hIdx p.hdr.target.toNat) = some g → g.ring = some r → fld p.params 0 8 = r.released →
      exec (.resultRelease ch p) s = .next (s.after (((s.taken ch p c.psn).onRing (hIdx p.hdr.target.toNat) fun r =>
        { r with released := max r.released (fld p.params 0 8) }).reply ch p.hdr 0x0506 0 0 [])))

/-- R283, R293 to R295: the commands of sync objects and ticks once admitted. SYNC_CREATE makes its run of objects with their initial value;
SYNC_SIGNAL adds or sets and answers the value after it; SYNC_WAIT without a limit takes or reaches at once, or answers TIMEOUT, and with one
goes PENDING; SCHED_CONFIG sets the tick period from its next multiple. -/
def Obligations.SyncCommandsAct : Prop :=
  (∀ (s : State) (ch k : Nat) (p : Packet) (c : Chan), Admitted syncCreate ch p s c →
    s.dev.syncRun (fld p.params 0 1) (fld p.params 2 2) (fld p.params 1 1) = some k →
      ∃ w, exec (.syncCreate ch p) s = .next (s.commit w) ∧ ∀ j, j < fld p.params 1 1 →
        ∃ g, Tab.get w.dev.syncs (2048 * fld p.params 0 1 + k + j) = some { gen := g, tag := p.hdr.jobTag.toNat, val := fld p.params 8 8 }) ∧
  (∀ (s : State) (ch : Nat) (p : Packet) (c : Chan), Admitted syncSignal ch p s c →
      let w := (s.taken ch p c.psn).syncOp (hIdx p.hdr.target.toNat)
        (if fld p.params 0 1 = 0 then .add (fld p.params 8 8) else .set (fld p.params 8 8))
      exec (.syncSignal ch p) s = .next (s.after (w.reply ch p.hdr 0x0601 0 0
        (toLe 8 (((Tab.get w.dev.syncs (hIdx p.hdr.target.toNat)).map Sync.val).getD 0))))) ∧
  (∀ (s : State) (ch : Nat) (p : Packet) (c : Chan) (y : Sync), Admitted syncWait ch p s c →
    Tab.get s.dev.syncs (hIdx p.hdr.target.toNat) = some y → fld p.params 4 4 = 0 → fld p.params 0 1 = 0 → y.canTake (fld p.params 8 8) = true →
      exec (.syncWait ch p) s = .next (s.after (((s.taken ch p c.psn).takeNow (hIdx p.hdr.target.toNat) (fld p.params 8 8)).reply
        ch p.hdr 0x0602 0 0 (toLe 8 (y.val - fld p.params 8 8))))) ∧
  (∀ (s : State) (ch : Nat) (p : Packet) (c : Chan) (y : Sync), Admitted syncWait ch p s c →
    Tab.get s.dev.syncs (hIdx p.hdr.target.toNat) = some y → fld p.params 4 4 = 0 → fld p.params 0 1 = 0 → y.canTake (fld p.params 8 8) = false →
      exec (.syncWait ch p) s = .next (s.after ((s.taken ch p c.psn).reply ch p.hdr 0x0602 0x0C 0 []))) ∧
  (∀ (s : State) (ch : Nat) (p : Packet) (c : Chan) (y : Sync), Admitted syncWait ch p s c →
    Tab.get s.dev.syncs (hIdx p.hdr.target.toNat) = some y → fld p.params 4 4 = 0 → fld p.params 0 1 = 1 → fld p.params 8 8 ≤ y.val →
      exec (.syncWait ch p) s = .next (s.after ((s.taken ch p c.psn).reply ch p.hdr 0x0602 0 0 (toLe 8 y.val)))) ∧
  (∀ (s : State) (ch : Nat) (p : Packet) (c : Chan) (y : Sync), Admitted syncWait ch p s c →
    Tab.get s.dev.syncs (hIdx p.hdr.target.toNat) = some y → 0 < fld p.params 4 4 →
      exec (.syncWait ch p) s = .next (s.after (((s.taken ch p c.psn).pend (ctxOf syncWait ch p) (.syncWait (hIdx p.hdr.target.toNat)
        (fld p.params 8 8) (fld p.params 0 1 = 1) (fld p.params 4 4))).syncOp (hIdx p.hdr.target.toNat)
          (if fld p.params 0 1 = 1 then .reach (.cmd ch p.hdr.seq.toNat) (fld p.params 8 8)
            else .take (.cmd ch p.hdr.seq.toNat) (fld p.params 8 8))))) ∧
  (∀ (s : State) (ch : Nat) (p : Packet) (c : Chan), Admitted schedConfig ch p s c →
      let k := s.dev.clk.settle
      exec (.schedConfig ch p) s = .next (s.commit (((s.taken ch p c.psn).onClk fun _ =>
        { k with tickNext := some ((k.now / fld p.params 0 4 + 1) * fld p.params 0 4, fld p.params 0 4) }).reply ch p.hdr 0x0604 0 0 [])))

/-- R5, R6, R8, R82, R116, R257, R303, R338, R432, R539 to R541: writes and reads of registers through their packets. A write changes the
bits of the writable fields that MASK selects: PWR_CAP_SET and PWR_STEP_LIM their values, PWR_CEILING only upwards by a fused slot
(VALID, and OK answered, where its read-back matches: a free value, DESIGN CHOICE, log entry 26), PWR_TJ_CFG and its lock, ETH_CFG and
CXL_CFG; a write to CORE_SR_SEED or EMB_SR_SEED seeds the generators anew; Q_EN set enables an idle queue from its first entry and Q_EN
cleared disables it; a read of a low word latches the high word. -/
def Obligations.RegisterCommandsAct : Prop :=
  (∀ (s : State) (ch : Nat) (h : Header) (v m : Word) (c : Chan), Admitted regWrite ch ⟨h, regWriteParams 0x300004 v m⟩ s c →
      exec (.pwrCapSetWrite ch h v m) s = .next (s.commit (((s.taken ch ⟨h, regWriteParams 0x300004 v m⟩ c.psn).onPwr fun p =>
        { p with capSet := mergeRw p.capSet v.toNat m.toNat 0xFFFF }).reply ch h 0x0C01 0 0 []))) ∧
  (∀ (s : State) (ch : Nat) (h : Header) (v m : Word) (c : Chan), Admitted regWrite ch ⟨h, regWriteParams 0x300008 v m⟩ s c →
    let x := mergeRw s.dev.fuse.ceilingW v.toNat m.toNat 0xFFFF
    s.dev.ceilingRaises x = true → s.dev.fuse.ceilingLeft ≠ 0 →
      exec (.pwrCeilingWrite ch h v m) s = .next (s.commit (((s.taken ch ⟨h, regWriteParams 0x300008 v m⟩ c.psn).onDev fun d =>
        { d with freeCtr := d.freeCtr + 1, fuse := { d.fuse with ceiling := d.fuse.ceiling ++ [(x, s.dev.slotReads)] } }).reply ch h 0x0C01
          (if s.dev.slotReads then 0 else 0x0E) (if s.dev.slotReads then 0 else ctrCeiling) []))) ∧
  (∀ (s : State) (ch : Nat) (h : Header) (v m : Word) (c : Chan), Admitted regWrite ch ⟨h, regWriteParams 0x30000C v m⟩ s c →
      exec (.pwrStepLimWrite ch h v m) s = .next (s.commit ((((s.taken ch ⟨h, regWriteParams 0x30000C v m⟩ c.psn).onPwr fun p =>
        { p with stepLim := mergeRw p.stepLim v.toNat m.toNat 31 }).settleStep).reply ch h 0x0C01 0 0 []))) ∧
  (∀ (s : State) (ch : Nat) (h : Header) (v m : Word) (c : Chan), Admitted regWrite ch ⟨h, regWriteParams 0x300010 v m⟩ s c →
      ∃ w, exec (.lockBitSet ch h .pwr v m) s = .next (s.commit w) ∧
        w.dev.pwr = { s.dev.pwr with tjCfg := BitVec.ofNat 32 (tjCfgAfter s.dev.pwr.tjCfg.toNat v.toNat m.toNat) }) ∧
  (∀ (s : State) (ch : Nat) (h : Header) (v m : Word) (c : Chan), Admitted regWrite ch ⟨h, regWriteParams 0x200000 v m⟩ s c →
      ∃ w, exec (.lockBitSet ch h .cxl v m) s = .next (s.commit w) ∧
        w.dev.ms = { s.dev.ms with cxlCfg := BitVec.ofNat 32 (cxlCfgAfter s.dev.ms.cxlCfg.toNat v.toNat m.toNat) }) ∧
  (∀ (s : State) (ch : Nat) (h : Header) (v m : Word) (c : Chan), Admitted regWrite ch ⟨h, regWriteParams 0x100004 v m⟩ s c →
    let x := ethCfgAfter s.dev.eth.cfg.toNat v.toNat m.toNat
    bit s.dev.eth.cfg.toNat 23 = true ∨ bits x 29 3 ≠ bits x 26 3 →
      (∃ w, exec (.ethCfgWrite ch h v m) s = .next (s.commit w) ∧ w.dev.eth.cfg = BitVec.ofNat 32 x) ∧
      exec (.lockBitSet ch h .eth v m) s = exec (.ethCfgWrite ch h v m) s) ∧
  (∀ (s : State) (ch core : Nat) (h : Header) (v m : Word) (c : Chan), core < 256 → s.dev.physOfCore core < 68 →
    Admitted regWrite ch ⟨h, regWriteParams (dieBase (core / 64) + 0x800010 + 0x1000 * (core % 64)) v m⟩ s c →
      ∃ w, exec (.coreSrSeedWrite ch h core v m) s = .next (s.commit w) ∧
        w.dev.core core = { s.dev.core core with srSeed := BitVec.ofNat 32 (mergeRw (s.dev.core core).srSeed.toNat v.toNat m.toNat 0xFFFFFFFF)
                                                 gens := [] }) ∧
  (∀ (s : State) (ch die : Nat) (h : Header) (v m : Word) (c : Chan), die < 4 →
    Admitted regWrite ch ⟨h, regWriteParams (engBase die 5 + 0xC) v m⟩ s c →
      ∃ w, exec (.embSrSeedWrite ch h die v m) s = .next (s.commit w) ∧
        Tab.getD w.dev.embSeed die 0 = mergeRw (Tab.getD s.dev.embSeed die 0) v.toNat m.toNat 0xFFFFFFFF ∧
        w.dev.ruus = s.dev.ruus.map fun (k, r) => (k, if dieOfStack k = die then { r with gen := none } else r)) ∧
  (∀ (s : State) (ch die queue : Nat) (h : Header) (cls : EngClass) (c : Chan), die < 4 → queue < 8 →
    Admitted regWrite ch ⟨h, regWriteParams (qCfgReg die cls queue) 0x80000000#32 0x80000000#32⟩ s c →
    let q := s.dev.queue (queueKey die (classCode cls) queue)
    q.en = false → 1 ≤ q.count → q.count ≤ 4096 → q.submit < 2048 → q.job < 64 →
      ∃ w, exec (.qEnSet ch h die cls queue) s = .next (s.commit w) ∧
        w.dev.queue (queueKey die (classCode cls) queue) = { q with en := true, head := 0, seq := 0 }) ∧
  (∀ (s : State) (ch die queue : Nat) (h : Header) (cls : EngClass) (c : Chan), die < 4 → queue < 8 →
    Admitted regWrite ch ⟨h, regWriteParams (qCfgReg die cls queue) 0#32 0x80000000#32⟩ s c →
    let q := s.dev.queue (queueKey die (classCode cls) queue)
    q.en = true → q.count < 8192 → q.submit < 2048 → q.job < 64 →
      ∃ w, exec (.qEnClear ch h die cls queue) s = .next (s.commit w) ∧
        w.dev.queue (queueKey die (classCode cls) queue) = { q with en := false }) ∧
  (∀ (s : State) (ch v : Nat) (h : Header) (addr : Word) (c : Chan),
    Admitted regRead ch ⟨h, toLe 4 addr.toNat ++ toLe 2 1 ++ zeros 2⟩ s c → s.dev.wide addr.toNat = some v →
      ∃ w : W, exec (.lowWordLatchRead ch h addr) s =
          .next (s.commit (w.reply ch h 0x0C00 0 0 (toLe 4 (v % 2 ^ 32)))) ∧
        Tab.get w.dev.latch (addr.toNat + 4) = some (v / 2 ^ 32)) ∧
  (∀ (s : State) (ch : Nat) (p : Packet) (c : Chan), Admitted regWrite ch p s c →
      let r := (s.taken ch p c.psn).writeReg (fld p.params 0 4) (fld p.params 4 4) (fld p.params 8 4)
      exec (.registerWrite ch p) s = .next (s.commit (r.2.2.reply ch p.hdr 0x0C01 r.1 r.2.1 []))) ∧
  (∀ (s : State) (ch : Nat) (p : Packet) (c : Chan), Admitted regRead ch p s c →
      let r := (s.taken ch p c.psn).readRegs (fld p.params 0 4) (fld p.params 4 2)
      exec (.regRead ch p) s = .next (s.commit (r.2.reply ch p.hdr 0x0C00 0 0 (r.1.flatMap (toLe 4)))))

/-- R531, R539 to R541, R627 to R634, R640 to R644: the commands of power and firmware once admitted. PWR_GAUGE_SET and PWR_STEP_LIMIT set their
register and answer its old value; PWR_CEILING_RAISE fuses a slot (VALID where its read-back matches: a free value, DESIGN CHOICE, log entry
26); a block not yet held whose CRC is right goes PENDING; FW_CONFIRM on a confirmed device answers OK; FW_ACTIVATE enters UPDATE_PAUSE with
the new slot active and not confirmed; FW_ROLLBACK falls back and resets; SEC_KEY_AGREE keeps the agreement under a new number;
SEC_OWNER_ROTATE, with both signatures right, fuses a slot of the new key likewise; SEC_VERSION_ADVANCE sets the version. -/
def Obligations.PowerAndFirmwareCommandsAct : Prop :=
  (∀ (s : State) (ch : Nat) (p : Packet) (c : Chan), Admitted pwrGaugeSet ch p s c →
      exec (.pwrGaugeSet ch p) s = .next (s.commit (((s.taken ch p c.psn).onPwr fun q => { q with capSet := fld p.params 0 2 }).reply
        ch p.hdr 0x0700 0 0 (toLe 2 s.dev.pwr.capSet ++ zeros 2)))) ∧
  (∀ (s : State) (ch : Nat) (p : Packet) (c : Chan), Admitted pwrStepLimit ch p s c →
      exec (.pwrStepLimit ch p) s = .next (s.commit ((((s.taken ch p c.psn).onPwr fun q => { q with stepLim := fld p.params 0 1 }).settleStep).reply
        ch p.hdr 0x0701 0 0 (toLe 1 s.dev.pwr.stepLim ++ zeros 3)))) ∧
  (∀ (s : State) (ch : Nat) (p : Packet) (c : Chan), Admitted pwrCeilingRaise ch p s c →
      ∃ w, exec (.pwrCeilingRaise ch p) s = .next (s.commit w) ∧
        w.dev.fuse = { s.dev.fuse with ceiling := s.dev.fuse.ceiling ++ [(fld p.params 0 2, s.dev.slotReads)] }) ∧
  (∀ (s : State) (ch : Nat) (p : Packet) (c : Chan) (u : Upd) (b : Buf), Admitted fwBlockCommit ch p s c →
    Tab.get s.dev.fw.upds (hIdx p.hdr.target.toNat) = some u → fld p.params 0 4 ∉ u.held →
    Tab.get s.dev.bufs (hIdx u.stageBuf) = some b →
      let va := b.base + fld p.params 8 8
      exec (.fwBlockCommit ch p) s = .next (s.commit ((s.taken ch p c.psn).withPages (ctxOf fwBlockCommit ch p) [(va, 4096)] fun w =>
        if crc32c (w.readVa va 4096) != fld p.params 4 4 || w.poisonVa va 4096 then
          w.reply ch p.hdr 0x0801 0x0E (crc32c (w.readVa va 4096)) []
        else w.pend (ctxOf fwBlockCommit ch p) (.fwCommit (hIdx p.hdr.target.toNat) (fld p.params 0 4) (w.readVa va 4096))))) ∧
  (∀ (s : State) (ch : Nat) (p : Packet) (c : Chan), Admitted fwConfirm ch p s c → s.dev.fw.confirmed = true →
      exec (.fwConfirm ch p) s = .next (s.commit ((s.taken ch p c.psn).reply ch p.hdr 0x0806 0 0 []))) ∧
  (∀ (s : State) (ch : Nat) (p : Packet) (c : Chan) (u : Upd), Admitted fwActivate ch p s c →
    Tab.get s.dev.fw.upds (hIdx p.hdr.target.toNat) = some u →
      ∃ w, exec (.fwActivate ch p) s = .next (s.commit w) ∧ w.dev.hub.st = .updatePause ∧ w.dev.fw.active = u.slot ∧
        w.dev.fw.prev = s.dev.fw.active ∧ w.dev.fw.confirmed = false ∧ w.dev.fw.failedBoots = 0 ∧
        w.dev.fw.pause = some (u.slot, s.dev.clk.mono)) ∧
  (∀ (s : State) (ch : Nat) (p : Packet) (c : Chan), Admitted fwRollback ch p s c →
      exec (.fwRollback ch p) s =
        .next (s.commit ((((s.taken ch p c.psn).reply ch p.hdr 0x0807 0 0 []).fallBackTxn 3).warmReset))) ∧
  (∀ (s : State) (ch : Nat) (p : Packet) (c : Chan), Admitted secKeyAgree ch p s c →
      ∃ (w : W) (a : Agreement), exec (.secKeyAgree ch p) s = .next (s.commit w) ∧ w.dev.fw.kaNext = (s.dev.fw.kaNext + 1) % 2 ^ 32 ∧
        w.dev.fw.ka.getLast? = some a ∧ a.id = s.dev.fw.kaNext ∧ a.at' = s.dev.clk.mono) ∧
  (∀ (s : State) (ch : Nat) (p : Packet) (c : Chan) (key : List Byte), Admitted secOwnerRotate ch p s c → s.dev.fuse.ownerKey = some key →
    ed448Verify 0 key (ascii "SV24-OWNER-ROTATE") (slice p.params 0 57 ++ toLe 8 s.dev.fuse.serial) (slice p.params 64 114) = true →
    ed448Verify 0 (slice p.params 0 57) (ascii "SV24-OWNER-ROTATE") (slice p.params 0 57 ++ toLe 8 s.dev.fuse.serial)
      (slice p.params 178 114) = true →
      ∃ w, exec (.secOwnerRotate ch p) s = .next (s.commit w) ∧
        w.dev.fuse = { s.dev.fuse with owner := s.dev.fuse.owner ++ [(slice p.params 0 57, s.dev.slotReads)] }) ∧
  (∀ (s : State) (ch : Nat) (p : Packet) (c : Chan), Admitted secVersionAdvance ch p s c →
      exec (.secVersionAdvance ch p) s = .next (s.commit (((s.taken ch p c.psn).onFuse fun f => { f with secVersion := fld p.params 0 1 }).reply
        ch p.hdr 0x080B 0 0 [])))

/-- R500, R512, R519, R520, R524, R583 to R587, R609 to R611, R660: the commands of links, of service and of the store once admitted.
LINK_CONFIG takes the coordinate and the size and goes PENDING; FGROUP_JOIN makes the group at step 0, FGROUP_LEAVE leaves it; SWATCH_RUN goes
PENDING with its mask; ERRLOG_CLEAR clears the counters; STORE_WRITE stages its record on the channel; STORE_COMMIT with nothing staged
answers zeros. -/
def Obligations.LinkServiceAndStoreCommandsAct : Prop :=
  (∀ (s : State) (ch : Nat) (p : Packet) (c : Chan), Admitted fgroupJoin ch p s c →
      exec (.fgroupJoin ch p) s = .next (s.commit ((((s.taken ch p c.psn).onSys fun y =>
        { y with group := some { id := fld p.params 0 4, members := fld p.params 4 2, lowCeil := s.dev.pwr.ceil } }).lowerStep 0).reply
          ch p.hdr 0x0903 0 0 []))) ∧
  (∀ (s : State) (ch : Nat) (p : Packet) (c : Chan), Admitted fgroupLeave ch p s c →
      exec (.fgroupLeave ch p) s = .next (s.commit ((s.taken ch p c.psn).leaveGroup.reply ch p.hdr 0x0904 0 0 []))) ∧
  (∀ (s : State) (ch : Nat) (p : Packet) (c : Chan), Admitted swatchRun ch p s c →
      exec (.swatchRun ch p) s = .next (s.commit ((((s.taken ch p c.psn).pend (ctxOf swatchRun ch p) .swatch).beginSwatches
        (fld p.params 0 8) false).endSwatches))) ∧
  (∀ (s : State) (ch : Nat) (p : Packet) (c : Chan), Admitted errlogClear ch p s c →
      exec (.errlogClear ch p) s = .next (s.commit ((s.taken ch p c.psn).clearCounters.reply ch p.hdr 0x0A04 0 0 []))) ∧
  (∀ (s : State) (ch : Nat) (p : Packet) (c : Chan), Admitted storeWrite ch p s c →
      exec (.storeWrite ch p) s = .next (s.commit (((s.taken ch p c.psn).onChan ch fun x =>
        { x with staged := stageOne x.staged (stagedOf (ctxOf storeWrite ch p)) }).reply ch p.hdr 0x0B01 0 0 []))) ∧
  (∀ (s : State) (ch : Nat) (p : Packet) (c : Chan), Admitted storeCommit ch p s c → c.staged = [] →
      exec (.storeCommit ch p) s = .next (s.commit ((s.taken ch p c.psn).reply ch p.hdr 0x0B02 0 0 (zeros 16)))) ∧
  (∀ (s : State) (ch : Nat) (p : Packet) (c : Chan), Admitted linkConfig ch p s c →
      ∃ w, exec (.linkConfig ch p) s = .next (s.commit w) ∧
        w.dev.sys.coord = some (fld p.params 0 1, fld p.params 1 1, fld p.params 2 1) ∧
        w.dev.sys.size = (fld p.params 3 1, fld p.params 4 1, fld p.params 5 1)) ∧
  (∀ (s : State) (ch : Nat) (p : Packet) (c : Chan), Admitted diagDump ch p s c → fld p.params 4 4 = 0 →
      let d := (s.taken ch p c.psn).dump ((List.range 7).filter fun k => bit (fld p.params 0 4) k)
      exec (.diagDump ch p) s = .next (s.commit (d.2.reply ch p.hdr 0x0A03 0 d.1.length (d.1.take 4032))))

/-- R543, R600, R601, R669, R672, R676: the input and the trips. The module starts from OFF with time at 0 and unset; it goes OFF at a
power cut, with CUT_COUNT one higher in the counter frame and the hold-up sequence running, at a disconnect above 58.0 V, and at a trip
of the hub die, where it stays until its input has been removed; a cut while it is OFF is what removes it. An overvoltage and a thermal
trip of a die shed the dies and HBM in FAULT; PWR_TRIP_SRC names the sensor of the trip. -/
def Obligations.InputAndTripsAct : Prop :=
  (∀ (mv : Nat) (s : State), s.dev.hub.st = .off → s.dev.hub.disconnected = false → s.dev.hub.tripOff = false → 40000 ≤ mv → mv ≤ 48000 →
    s.dev.hub.holdup = none →
      ∃ w, exec (.inputPowerApplied mv) s = .next (s.commit w) ∧ w.dev.hub.st = .standby ∧ w.dev.hub.stage = 1 ∧ w.dev.clk = {} ∧
        w.dev.pin.vin = mv ∧ w.dev.hub.tripAt = none ∧ w.dev.pwr.flowLost = false ∧ w.dev.chans = [] ∧ w.dev.bufs = [] ∧
        w.dev.graphs = [] ∧ w.dev.fuse = s.dev.fuse ∧ w.wr = [] ∧ w.out = []) ∧
  (∀ (mv : Nat) (s : State) (b : Bool), s.dev.hub.st = .off → s.dev.hub.disconnected = false → s.dev.hub.tripOff = false → 40000 ≤ mv →
    mv ≤ 48000 → s.dev.hub.holdup = some b →
      exec (.inputPowerApplied mv) s = .next { s with dev :=
        { s.dev with pin := { s.dev.pin with vin := mv }, hub := { s.dev.hub with holdup := some true } } }) ∧
  (∀ (s : State), s.dev.hub.st ≠ .off →
      ∃ w, exec .powerCut s = .next (s.commit w) ∧ w.dev.hub.st = .off ∧ w.dev.hub.holdup = some false ∧ w.dev.hub.rails = false ∧
        w.dev.pin.vin = 0 ∧ w.dev.store.frame.cutCount = (s.dev.store.frame.cutCount + 1) % 2 ^ 32) ∧
  (∀ (s : State), s.dev.hub.st = .off →
      ∃ w, exec .powerCut s = .next (s.commit w) ∧ w.dev.hub.tripOff = false ∧ w.dev.hub.holdup = s.dev.hub.holdup.map (fun _ => false) ∧
        w.dev.store = s.dev.store) ∧
  (∀ (us : Nat) (s : State), s.dev.hub.holdup = some false →
      ∃ w, exec (.holdupComplete us) s = .next (s.commit w) ∧ w.dev.hub.holdup = none ∧ w.dev.store.frame.holdupUs = min us (2 ^ 32 - 1) ∧
        w.dev.store.limit = (if us < 45000 then 32768 else 65536)) ∧
  (∀ (mv : Nat) (s : State), s.dev.hub.st ≠ .off → 52000 < mv →
      exec (.inputOvervoltage mv) s = .next (s.after ((((s.work.onPin fun p => { p with vin := mv }).onHub fun h =>
        { h with overvolt := true }).devFault 3).shed))) ∧
  (∀ (mv : Nat) (s : State), 58000 < mv →
      ∃ w, exec (.inputDisconnect mv) s = .next (s.commit w) ∧ w.dev.hub.st = .off ∧ w.dev.hub.disconnected = true ∧ w.dev.pin.vin = mv) ∧
  (∀ (mv : Nat) (s : State), s.dev.hub.disconnected = true → 38000 ≤ mv → mv < 52000 → s.dev.hub.tripOff = false → s.dev.hub.holdup = none →
      ∃ w, exec (.disconnectRelease mv) s = .next (s.commit w) ∧ w.dev.hub.st = .standby ∧ w.dev.hub.stage = 1 ∧
        w.dev.hub.disconnected = false ∧ w.dev.clk = {} ∧ w.dev.pin.vin = mv) ∧
  (∀ (src reading die : Nat) (s : State), tripDie src = some die → s.dev.hub.rails = true →
      exec (.thermalTrip src reading) s = .next (s.after ((((s.work.onHub fun h =>
        { h with trip := BitVec.ofNat 32 (0x80000000 + src), tripAt := some s.dev.clk.mono }).logRec 0x0030 die 0xFF 0 src 0
          (toLe 2 reading)).enterFault 1 s.work.nextLogSeq).shed))) ∧
  (∀ (reading : Nat) (s : State), s.dev.hub.st ≠ .off → 1200 ≤ reading →
      ∃ w, exec (.hubTrip reading) s = .next (s.commit w) ∧ w.dev.hub.st = .off ∧ w.dev.hub.tripOff = true ∧ w.dev.hub.holdup = none) ∧
  (∀ (s : State), s.dev.hub.warmHeld = true → exec .tripResetHoldExpiry s = .next (s.after s.work.warmReset)) ∧
  (∀ (s : State), s.dev.hub.st = .standby → s.dev.hub.stage = 1 →
      exec (.hubStart true) s = .next (s.after s.work.bootSlot.started) ∧
      exec (.hubStart false) s = .next (s.after (s.work.declareFailed 0x03 4)))

/-- R545 to R547, R655, R672, R673, R675, R677, R684, R691: the other pins. RESET_N low for 10 microseconds or longer resets, and INIT
begins at its release; PWR_EN low sheds the dies in FAULT and PWR_EN high lets INIT begin or go on; FLOW_OK low makes the coolant limit
0, more than 20 ms of it stop the module, 10 ms high restore the limit and 1 s high release a held INIT; the strap takes the device to
SERVICE; without REFCLK the Ethernet link is down and powered dies are in FAULT. -/
def Obligations.PinsAct : Prop :=
  (∀ (ns : Nat) (s : State), ns < 1000 → exec (.resetN ns) s = .next (s.after s.work)) ∧
  (∀ (ns : Nat) (s : State), 10000 ≤ ns →
      exec (.resetN ns) s = .next (s.after ((s.work.onPin fun p => { p with resetN := false }).onHub fun h =>
        { h with resetHold := true }).warmReset)) ∧
  (∀ (s : State),
      exec .resetNRelease s = .next (s.commit ((s.work.onPin fun p => { p with resetN := true }).onHub fun h =>
        { h with resetHold := false }).tryAutoInit)) ∧
  (∀ (s : State), s.dev.hub.rails = false → exec .pwrEnDeassert s = .next (s.after (s.work.onPin fun p => { p with pwrEn := false }))) ∧
  (∀ (s : State), s.dev.hub.rails = true → s.dev.hub.st ≠ .failed →
      exec .pwrEnDeassert s = .next (s.after ((s.work.onPin fun p => { p with pwrEn := false }).devFault 0).shed)) ∧
  (∀ (s : State), s.dev.hub.st = .standby → s.dev.cfg.autoStart = true →
      exec .pwrEnAssert s = .next (s.commit ((s.work.onPin fun p => { p with pwrEn := true }).onHub fun h =>
        { h with autoInit := true }).tryAutoInit)) ∧
  (∀ (s : State) (t : Nat), s.dev.hub.st = .init → s.dev.hub.initWait = some t → s.dev.pin.flowOk = true → s.dev.pin.refclk = true →
      ∃ w, exec .pwrEnAssert s = .next (s.commit w) ∧ w.dev.pin.pwrEn = true ∧ w.dev.hub.rails = true ∧ w.dev.hub.initWait = none ∧
        w.dev.hub.st = .init) ∧
  (∀ (s : State), s.dev.hub.st ≠ .off →
      ∃ w, exec .flowOkLow s = .next (s.commit w) ∧ w.dev.pwr.lim.coolant = 0 ∧ w.dev.pin.flowOk = false ∧
        w.dev.pin.flowLowAt = some s.dev.clk.mono) ∧
  (∀ (ns : Nat) (s : State), s.dev.hub.st ≠ .off → s.dev.hub.st ≠ .init → s.dev.hub.flowHold = false → 10000000 ≤ ns →
      ∃ w, exec (.flowOkHigh ns) s = .next (s.commit w) ∧ w.dev.pwr.lim.coolant = 18 ∧ w.dev.pin.flowOk = true) ∧
  (∀ (ns : Nat) (s : State), s.dev.hub.st ≠ .off → s.dev.hub.st ≠ .init → ns < 10000000 →
      ∃ w, exec (.flowOkHigh ns) s = .next (s.commit w) ∧ w.dev.pwr.lim = s.dev.pwr.lim ∧ w.dev.pin.flowOk = true) ∧
  (∀ (s : State) (t : Nat), s.dev.pin.flowLowAt = some t → s.dev.hub.rails = true → t + 20000000 < s.dev.clk.mono →
      exec .coolantStop s = .next (s.after ((((s.work.logHub 0x0031 0 []).enterFault 2 s.work.nextLogSeq).onPwr fun p =>
        { p with flowLost := true }).shed))) ∧
  (∀ (s : State), exec .serviceModeAssert s = .next (s.after (s.work.onPin fun p => { p with serviceMode := true }).enterService)) ∧
  (∀ (s : State),
      exec .serviceModeDeassert s = .next { s with dev := { s.dev with pin := { s.dev.pin with serviceMode := false } } }) ∧
  (∀ (s : State), s.dev.hub.rails = false →
      exec .refclkLoss s = .next (s.after ((s.work.onPin fun p => { p with refclk := false }).onEth fun e =>
        { e with linkUp := false, pcs := false, laneLock := 0, upSince := none }))) ∧
  (∀ (s : State), s.dev.hub.rails = true →
      exec .refclkLoss s = .next (s.after (((s.work.onPin fun p => { p with refclk := false }).onEth fun e =>
        { e with linkUp := false, pcs := false, laneLock := 0, upSince := none }).devFault 0))) ∧
  (∀ (s : State), exec .refclkReturn s = .next { s with dev := { s.dev with pin := { s.dev.pin with refclk := true } } })

/-- R56, R72, R544, R572, R573, R580, R626, R627, R673: INIT and the resets of a die. INIT without a failure ends in READY with
DEVICE_START answered OK; 300 s without READY, the watchdog, and 60 s without PWR_EN and FLOW_OK end it in FAULT; a die reset completes,
or fails after 2 s, the second failure in succession with the device FAILED. -/
def Obligations.BootEventsAct : Prop :=
  (∀ (r : InitResult) (s : State), s.dev.hub.st = .init → s.dev.hub.rails = true →
      exec (.initComplete r) s = .next (s.after (s.work.endInit r))) ∧
  (∀ (s : State), s.dev.hub.st = .init → s.dev.hub.initStart + 300000000000 ≤ s.dev.clk.mono →
      exec .initTimeout s = .next (s.after (s.work.devFault 0))) ∧
  (∀ (s : State), s.dev.hub.st = .init → exec .hubWatchdogExpiry s = .next (s.after (s.work.devFault 0))) ∧
  (∀ (s : State) (t : Nat), s.dev.hub.st = .init → s.dev.hub.initWait = some t → t + 60000000000 ≤ s.dev.clk.mono →
      exec .initWait s = .next (s.after ((s.work.logHub 0x0036
        ((if s.dev.pin.flowOk then 0 else 1) + 2 * (if s.dev.pin.pwrEn then 0 else 1)) []).enterFault 0 s.work.nextLogSeq))) ∧
  (∀ (die : Nat) (s : State), s.dev.hub.rails = true → die < 4 → (Tab.get s.dev.hub.dieReset die).isSome = true →
    s.dev.hub.dieOut.contains die = false →
      exec (.dieResetComplete die) s = .next (s.after (s.work.endDieReset die))) ∧
  (∀ (die t : Nat) (s : State), Tab.get s.dev.hub.dieReset die = some t → s.dev.hub.dieOut.contains die = false →
    t + 2000000000 ≤ s.dev.clk.mono → Tab.getD s.dev.hub.dieFails die 0 = 0 →
      let w := (s.work.onHub fun h => { h with dieOut := h.dieOut ++ [die], dieFails := Tab.put h.dieFails die 1 }).free
      exec (.dieResetTimeout die) s = .next (s.after (w.2.completeAll (fun p => p.wait = .dieReset die) 0x0B (w.1 % 2 ^ 32) []))) ∧
  (∀ (die t n : Nat) (s : State), Tab.get s.dev.hub.dieReset die = some t → s.dev.hub.dieOut.contains die = false →
    t + 2000000000 ≤ s.dev.clk.mono → Tab.getD s.dev.hub.dieFails die 0 = n + 1 →
      let w := ((s.work.onHub fun h =>
        { h with dieOut := h.dieOut ++ [die], dieFails := Tab.put h.dieFails die (n + 2) }).declareFailed 0x02 die).free
      exec (.dieResetTimeout die) s = .next (s.after (w.2.completeAll (fun p => p.wait = .dieReset die) 0x0B (w.1 % 2 ^ 32) [])))

/-- R521, R681, R682, R685, R686: the PPS input and the SMBus. Three edges a second apart make the input valid; a TIME_SET takes effect at
once, or at the next valid edge, or when the input becomes invalid; none while global time is set. A read answers its bytes, a write whose
PEC is wrong and a code outside Table 22.8 are NAKed, an acknowledged spare request is removed. -/
def Obligations.PpsAndSmbusAct : Prop :=
  (∀ (s : State) (a b : Nat), s.dev.hub.st ≠ .off → s.dev.clk.ppsEdges = [a, b] → s.dev.clk.ppsValid = false → s.dev.clk.unset = true →
    s.dev.clk.timeSet = none → secondApart a b = true → secondApart b s.dev.clk.mono = true →
      exec .ppsEdge s = .next { s with dev := { s.dev with clk := { s.dev.clk with
        ppsEdges := [a, b, s.dev.clk.mono], ppsValid := true } } }) ∧
  (∀ (s : State) (t m : Nat), s.dev.hub.st ≠ .off → s.dev.clk.ppsValid = true → s.dev.clk.timeSet = some (t, m) →
      ∃ w, exec .ppsEdge s = .next (s.commit w) ∧ w.dev.clk.now = t * 1000000000 ∧ w.dev.clk.unset = false ∧ w.dev.clk.timeSet = none) ∧
  (∀ (s : State) (t m l : Nat), s.dev.hub.st ≠ .off → s.dev.clk.ppsEdges.getLast? = some l → l + 1500000000 ≤ s.dev.clk.mono →
    s.dev.clk.timeSet = some (t, m) →
      ∃ w, exec .ppsTimeout s = .next (s.commit w) ∧ w.dev.clk.ppsValid = false ∧ w.dev.clk.unset = false ∧
        w.dev.clk.now = t * 1000000000 + (s.dev.clk.mono - m)) ∧
  (∀ (sec : DWord) (s : State), s.dev.hub.st ≠ .off → s.dev.clk.unset = true → s.dev.clk.ppsValid = false →
      exec (.timeSet sec true) s = .next { s with dev := { s.dev with clk := { s.dev.clk with
        now := sec.toNat * 1000000000, unset := false, timeSet := none, slew := 0 } } }) ∧
  (∀ (sec : DWord) (s : State), s.dev.hub.st ≠ .off → s.dev.clk.unset = true → s.dev.clk.ppsValid = true →
      exec (.timeSet sec true) s = .next { s with dev := { s.dev with clk := { s.dev.clk with
        timeSet := some (sec.toNat, s.dev.clk.mono) } } }) ∧
  (∀ (sec : DWord) (s : State), s.dev.hub.st ≠ .off → s.dev.clk.unset = false → exec (.timeSet sec true) s = .next s) ∧
  (∀ (sec : DWord) (id : BitVec 16) (s : State), s.dev.hub.st ≠ .off →
      exec (.timeSet sec false) s = .next { s with tx := s.tx ++ [.smbNak] } ∧
      exec (.spareAck id false) s = .next { s with tx := s.tx ++ [.smbNak] }) ∧
  (∀ (code : Byte) (s : State), s.dev.hub.st ≠ .off → code.toNat ∉ [0x01, 0x02, 0x03, 0x10, 0x11, 0x20] →
      exec (.smbUndefinedCode code) s = .next { s with tx := s.tx ++ [.smbNak] }) ∧
  (∀ (s : State), s.dev.hub.st ≠ .off →
      exec .smbStatus s = .next { s with tx := s.tx ++ [.smb (toLe 2 (s.dev.stateByte + s.dev.ladder * 256))] } ∧
      exec .smbInput s = .next { s with tx := s.tx ++ [.smb (toLe 2 s.dev.pin.vin ++ toLe 2 s.dev.pin.iin ++
        toLe 2 (satFloor 16 s.dev.pwr.pMeas) ++ toLe 2 (unsext 16 s.dev.pin.inlet))] } ∧
      exec .smbSerial s = .next { s with tx := s.tx ++ [.smb (toLe 8 s.dev.fuse.serial)] }) ∧
  (∀ (s : State), s.dev.hub.st ≠ .off → s.dev.sys.reqs = [] →
      exec .spareReq s = .next { s with tx := s.tx ++ [.smb (List.replicate 16 0)] } ∧ exec .alertResponse s = .next s) ∧
  (∀ (s : State) (r : SpareReq) (l : List SpareReq), s.dev.hub.st ≠ .off → s.dev.sys.reqs = r :: l →
      exec .spareReq s = .next { s with tx := s.tx ++ [.smb (s.dev.reqBytes r)] } ∧
      exec .alertResponse s = .next { s with tx := s.tx ++ [.smb (toLe 1 (2 * (0x40 + s.dev.pin.slotId)))] }) ∧
  (∀ (id : BitVec 16) (s : State), s.dev.hub.st ≠ .off →
      exec (.spareAck id true) s = .next { s with dev := { s.dev with sys := { s.dev.sys with
        reqs := s.dev.sys.reqs.filter fun r => r.id != id.toNat } } })

/-- R84, R85, R87, R109, R114, R691: the Ethernet port. A frame that the hub firmware answers is answered, at most 10,000 in a second; a
frame of another kind is dropped and counted; PFC pauses and releases a class; the link comes up with REFCLK from boot stage 3, and goes
down with every channel context kept; the settings become the presets after 24 hours. -/
def Obligations.PortEventsAct : Prop :=
  (∀ (sender : List Byte) (s : State), s.dev.portUp = true → s.dev.eth.rateSec = s.dev.sec → s.dev.eth.rateCnt < 10000 →
      let eth := { s.dev.eth with rateCnt := s.dev.eth.rateCnt + 1 }
      exec (.arpRequest true sender) s = .next { s with tx := s.tx ++ [.arpReply sender], dev := { s.dev with eth := eth } } ∧
      exec (.neighborSolicitation true sender) s = .next
        { s with tx := s.tx ++ [.neighbourAdvert sender], dev := { s.dev with eth := eth } } ∧
      ∀ ver data, exec (.echoRequest true ver sender data) s = .next
        { s with tx := s.tx ++ [.echoReply sender data], dev := { s.dev with eth := eth } }) ∧
  (∀ (sender : List Byte) (s : State), s.dev.portUp = true → s.dev.eth.rateSec = s.dev.sec → 10000 ≤ s.dev.eth.rateCnt →
      exec (.arpRequest true sender) s = .next
        { s with dev := { s.dev with eth := { s.dev.eth with rxDrop := satAdd 32 s.dev.eth.rxDrop 1 } } }) ∧
  (∀ (sender : List Byte) (s : State), exec (.arpRequest false sender) s = .next s) ∧
  (∀ (s : State), s.dev.portUp = true →
      exec .unsupportedFrame s = .next
        { s with dev := { s.dev with eth := { s.dev.eth with rxDrop := satAdd 32 s.dev.eth.rxDrop 1 } } }) ∧
  (∀ (pcp : BitVec 3) (quanta : BitVec 16) (cls : Nat) (s : State), s.dev.portUp = true → bit s.dev.eth.cfg.toNat 25 = true →
    s.dev.classOf (some pcp) = some cls →
      exec (.pfcFrame pcp quanta) s = .next (s.commit (s.work.pauseClass cls (quanta != 0)))) ∧
  (∀ (pcp : BitVec 3) (quanta : BitVec 16) (s : State), bit s.dev.eth.cfg.toNat 25 = false →
      exec (.pfcFrame pcp quanta) s = .next s) ∧
  (∀ (s : State),
      exec (.pfcQuantaExpiry .command) s = .next (s.commit (s.work.pauseClass 1 false)) ∧
      exec (.pfcQuantaExpiry .bulk) s = .next (s.commit (s.work.pauseClass 0 false))) ∧
  (∀ (lanes : Byte) (s : State), s.dev.portUp = true → s.dev.pin.refclk = true →
      exec (.ethLinkUp lanes) s = .next { s with dev := { s.dev with eth :=
        { s.dev.eth with linkUp := true, pcs := true, laneLock := lanes, upSince := some s.dev.clk.mono } } }) ∧
  (∀ (s : State),
      exec .ethLinkLoss s = .next { s with dev := { s.dev with eth :=
        { s.dev.eth with linkUp := false, pcs := false, laneLock := 0, upSince := none } } }) ∧
  (∀ (presets : List Byte) (t : Nat) (s : State), s.dev.eth.upSince = some t → t + 86400000000000 ≤ s.dev.clk.mono →
      exec (.ethPresetSave presets) s = .next (s.commit ((s.work.onEth fun e =>
        { e with upSince := some s.dev.clk.mono }).journal1 0x0021 0 presets)))

/-- R88, R91, R97, R104: the requests of a peer that a channel serves in their order. Each is served as its kind of channel serves it:
a Send is a command packet on a COMMAND channel and fills the receive ring on another; a write is stored, with immediate data also put
into the ring; a read is answered; any other opcode is refused. -/
def Obligations.RoceRequestsAreServed : Prop :=
  (∀ (ch : Nat) (r : RoceHdr) (c : Chan) (payload : List Byte) (s : State), InOrder s ch r c → c.kind = 1 →
      exec (.sendOnly ch r payload) s = .next (s.after ((s.work.answerCe ch r.ce).recvCommand ch c.psn payload))) ∧
  (∀ (ch : Nat) (r : RoceHdr) (c : Chan) (payload : List Byte) (s : State), InOrder s ch r c → c.kind ≠ 1 →
      exec (.sendOnly ch r payload) s = .next (s.after ((s.work.answerCe ch r.ce).recvSend ch c c.psn payload))) ∧
  (∀ (ch : Nat) (r : RoceHdr) (c : Chan) (part : WritePart) (va : DWord) (rkey : Word) (payload : List Byte) (s : State), InOrder s ch r c →
      exec (.rdmaWrite ch r part va rkey payload) s =
        .next (s.commit ((s.work.answerCe ch r.ce).recvWrite ch c c.psn part va.toNat rkey.toNat payload))) ∧
  (∀ (ch : Nat) (r : RoceHdr) (c : Chan) (part : WritePart) (va : DWord) (rkey imm : Word) (payload : List Byte) (s : State),
    InOrder s ch r c → part = .last ∨ part = .only →
      exec (.rdmaWriteWithImmediate ch r part va rkey imm payload) s =
        .next (s.after ((s.work.answerCe ch r.ce).recvWriteImm ch c c.psn part va.toNat rkey.toNat imm.toNat payload))) ∧
  (∀ (ch : Nat) (r : RoceHdr) (c : Chan) (part : WritePart) (va : DWord) (rkey imm : Word) (payload : List Byte) (s : State),
    InOrder s ch r c → part = .first ∨ part = .middle →
      exec (.rdmaWriteWithImmediate ch r part va rkey imm payload) s =
        .next (s.after ((s.work.answerCe ch r.ce).recvWrite ch c c.psn part va.toNat rkey.toNat payload))) ∧
  (∀ (ch : Nat) (r : RoceHdr) (c : Chan) (va : DWord) (rkey len : Word) (s : State), InOrder s ch r c →
      exec (.rdmaReadRequest ch r va rkey len) s =
        .next (s.commit ((s.work.answerCe ch r.ce).recvRead ch c c.psn va.toNat rkey.toNat len.toNat))) ∧
  (∀ (ch : Nat) (r : RoceHdr) (c : Chan) (op : Byte) (s : State), InOrder s ch r c →
      exec (.invalidRequest ch r op) s = .next (s.commit ((s.work.answerCe ch r.ce).nak ch c.psn .invalidRequest)))

/-- R90, R93, R94, R99 to R101, R111: connections, acknowledgements and rate control. A connection request opens a COMMAND channel in
state IDLE and is answered; RTU starts its 30 s; DREQ closes the channel; an acknowledgement ends the requests up to its PSN; a NAK faults
the channel; an RNR NAK and a timeout send the requests again, the eighth timeout faults the channel; the rates follow R111. -/
def Obligations.ChannelEventsAct : Prop :=
  (∀ (r : ConnReq) (i : Nat) (s : State), s.dev.portUp = true → s.dev.hub.st ≠ .updatePause → s.dev.connBar r = none →
    Tab.firstFree s.dev.chans 0 16384 = some i →
      ∃ (w : W) (k : Chan), exec (.connectionReq r) s = .next (s.commit w) ∧ Tab.get w.dev.chans i = some k ∧ k.kind = 1 ∧ k.state = 1 ∧
        k.tag = 0 ∧ k.remoteQpn = r.remoteQpn.toNat ∧ k.psn = r.remotePsn.toNat ∧ k.remoteIp = r.remoteIp ∧
        w.out = [.rep (mkHandle 1 k.gen i)]) ∧
  (∀ (r : ConnReq) (why : String) (s : State), s.dev.portUp = true → s.dev.hub.st ≠ .updatePause → s.dev.connBar r = some why →
      exec (.connectionReq r) s = .next { s with tx := s.tx ++ [.rej why] }) ∧
  (∀ (ch : Nat) (c : Chan) (s : State), Tab.get s.dev.chans ch = some c → c.kind = 1 → c.rtuAt = none → s.dev.portUp = true →
      ∃ w, exec (.rtu ch) s = .next (s.commit w) ∧ Tab.get w.dev.chans ch = some { c with rtuAt := some s.dev.clk.mono }) ∧
  (∀ (ch : Nat) (s : State), (Tab.get s.dev.chans ch).isSome = true → s.dev.portUp = true →
      exec (.dreq ch) s = .next (s.commit ((s.work.send (.drep ch)).closeChan ch false))) ∧
  (∀ (ch t : Nat) (c : Chan) (s : State), Tab.get s.dev.chans ch = some c → c.kind = 1 → c.state = 1 → c.rtuAt = some t →
    t + 30000000000 ≤ s.dev.clk.mono →
      exec (.commandChannelIdleTimeout ch) s = .next (s.commit (s.work.closeChan ch true))) ∧
  (∀ (ch : Nat) (psn : BitVec 24) (payload : List Byte) (c : Chan) (s : State), Tab.get s.dev.chans ch = some c → c.state ≠ 6 →
      exec (.acknowledge ch psn payload) s = .next (s.after (s.work.acked ch psn.toNat))) ∧
  (∀ (ch : Nat) (code : NakCode) (c : Chan) (s : State), Tab.get s.dev.chans ch = some c → c.state ≠ 6 →
      exec (.nakReceived ch code) s = .next (s.commit (s.work.faultChan ch))) ∧
  (∀ (ch : Nat) (psn : BitVec 24) (timer : BitVec 5) (c : Chan) (s : State), Tab.get s.dev.chans ch = some c → c.state ≠ 6 →
      exec (.rnrNakReceived ch psn timer) s = .next (s.after
        (((s.work.acked ch ((psn.toNat + 2 ^ 24 - 1) % 2 ^ 24)).onChan ch fun c =>
          { c with rnrUntil := (s.work.acked ch ((psn.toNat + 2 ^ 24 - 1) % 2 ^ 24)).dev.clk.mono + rnrDelay timer.toNat }).resend ch))) ∧
  (∀ (ch : Nat) (c : Chan) (r : DevReq) (rest : List DevReq) (s : State), Tab.get s.dev.chans ch = some c → c.reqs = r :: rest →
    c.rnrUntil ≤ s.dev.clk.mono → s.dev.hub.st ≠ .updatePause → r.tries < 7 →
      exec (.localAckTimeout ch) s = .next (s.commit ((s.work.onChan ch fun c =>
        { c with reqs := { r with tries := r.tries + 1 } :: rest }).resend ch))) ∧
  (∀ (ch : Nat) (c : Chan) (r : DevReq) (rest : List DevReq) (s : State), Tab.get s.dev.chans ch = some c → c.reqs = r :: rest →
    c.rnrUntil ≤ s.dev.clk.mono → s.dev.hub.st ≠ .updatePause → 7 ≤ r.tries →
      exec (.localAckTimeout ch) s = .next (s.commit (s.work.faultChan ch))) ∧
  (∀ (ch : Nat) (c : Chan) (s : State), Tab.get s.dev.chans ch = some c → c.state ≠ 6 → c.ecn = true →
      ∃ w, exec (.congestionNotification ch) s = .next (s.commit w) ∧ Tab.get w.dev.chans ch = some
        { c with rt := c.rc, rc := max (c.rc * (1 - c.alpha / 2)) 100, alpha := (1 - 1 / 256) * c.alpha + 1 / 256, stage := 0,
                 lastCnpIn := some s.dev.clk.mono }) ∧
  (∀ (ch : Nat) (c : Chan) (s : State), Tab.get s.dev.chans ch = some c → c.state ≠ 6 → c.ecn = true → c.quiet s.dev.clk.mono 55000 = true →
      ∃ w, exec (.ecnAlphaTimer ch) s = .next (s.commit w) ∧ Tab.get w.dev.chans ch = some { c with alpha := (1 - 1 / 256) * c.alpha }) ∧
  (∀ (ch : Nat) (c : Chan) (s : State), Tab.get s.dev.chans ch = some c → c.state ≠ 6 → c.ecn = true →
    c.quiet s.dev.clk.mono 300000 = true →
      let rt := if c.stage < 5 then c.rt else min (c.rt + 40) c.maxRate
      ∃ w, exec (.ecnRateTimer ch) s = .next (s.commit w) ∧ Tab.get w.dev.chans ch = some
        { c with stage := c.stage + 1, rt := rt, rc := min ((rt + c.rc) / 2) c.maxRate })

/-- R202, R203, R207, R208, R212: the stream engines. The eligible stream that an engine grants issues the next read or write of its
ready tile; where a stream's running descriptor has started all its tiles, the next of its burst starts, with FENCE only once no tile is
open; a tile of a plain stream starts while fewer than LOOKAHEAD are open; an operation that completes frees its slot and, for a read,
gives its data to the tile it belongs to, poisoned where a line could not be corrected. -/
def Obligations.StreamEngineEventsAct : Prop :=
  (∀ (die i : Nat) (st : Strm) (t : Tile) (c : Chunk) (s : State), s.dev.dieRuns die = true → s.dev.outstanding die < 4096 →
    s.dev.grantee die = some i → Tab.get s.dev.strms i = some st → st.ready = some (t, true) → t.reads[t.nextRd]? = some c →
      exec (.streamEngineGrant die) s = .next (s.after (s.work.issueRead i t c))) ∧
  (∀ (die i : Nat) (st : Strm) (t : Tile) (c : Chunk) (s : State), s.dev.dieRuns die = true → s.dev.outstanding die < 4096 →
    s.dev.grantee die = some i → Tab.get s.dev.strms i = some st → st.ready = some (t, false) → t.writes[t.nextWr]? = some c →
      exec (.streamEngineGrant die) s = .next (s.after (s.work.issueWrite i st t c))) ∧
  (∀ (die : Nat) (s : State), 4096 ≤ s.dev.outstanding die → exec (.streamEngineGrant die) s = .next (s.after s.work)) ∧
  (∀ (i : Nat) (st : Strm) (x : SDesc) (rest : List SDesc) (s : State), Tab.get s.dev.strms i = some st → st.state = 2 ∨ st.state = 3 →
    st.stop = none → s.dev.dieRuns (strmDie i) = true → st.running = none → st.exhausted = false → st.burst = x :: rest →
    x.fence = false ∨ st.tiles = [] →
      exec (.descriptorStart i) s = .next (s.after ((s.work.startDesc i x).advance i))) ∧
  (∀ (i : Nat) (st : Strm) (x : SDesc) (src dst : Layout) (s : State), Tab.get s.dev.strms i = some st → st.state = 2 ∨ st.state = 3 →
    st.stop = none → s.dev.dieRuns (strmDie i) = true → st.running = some (x, src, dst) → st.nextTile < x.rep → st.srcSkein = false →
    st.dstSkein = false → (st.tiles.filter fun t => !t.void).length < st.look →
      exec (.tileStart i) s = .next (s.after ((s.work.openTile i x src dst).advance i))) ∧
  (∀ (i id : Nat) (ecc : List EccReport) (st : Strm) (o : MemOpOut) (s : State), Tab.get s.dev.strms i = some st →
    (st.ops.find? fun o => o.id = id) = some o → o.isRead = true → o.stale = false → st.stop = none →
      exec (.memoryOperationComplete i id ecc false) s = .next (s.after (((((s.work.eccLines ecc).onStrm i fun x =>
        { x with ops := x.ops.filter fun p => p.id != id }).onStrm i fun x => { x with tiles := x.tiles.map fun t =>
          if t.g = o.g && !t.void then
            { t with got := t.got ++ o.data.map fun d =>
              (d.1, d.2.2.1, d.2.2.2 || (ecc.any fun e => !e.corrected && lineOf e.line = lineOf d.2.1)) }
          else t }).advance i)))) ∧
  (∀ (i id : Nat) (ecc : List EccReport) (st : Strm) (o : MemOpOut) (s : State), Tab.get s.dev.strms i = some st →
    (st.ops.find? fun o => o.id = id) = some o → o.isRead = false →
      exec (.memoryOperationComplete i id ecc false) s = .next (s.after (((s.work.eccLines ecc).onStrm i fun x =>
        { x with ops := x.ops.filter fun p => p.id != id }).advance i)) ∧
      exec (.memoryOperationComplete i id ecc true) s = .next (s.after ((((s.work.eccLines ecc).onStrm i fun x =>
        { x with ops := x.ops.filter fun p => p.id != id }).loseStrm i).advance i)))

/-- R121, R125, R126, R142 to R144, R149, R150, R152, R562: paging, placement and the memories' own events. A page-in ends with its page
in its frame, a migration with its page in its new place, and the commands that waited go on; an epoch ends on every die, and new
settings hold from the next; a scrub reports the lines of its own memory; a trim moves one step toward the side with at least 8 fewer
corrections, and stays where neither has; trims are saved after 24 hours; an expander that fails poisons every page it holds. -/
def Obligations.MemoryEventsAct : Prop :=
  (∀ (buf page : Nat) (q : PageIn) (s : State), (s.dev.ms.pageins.find? fun q => q.buf = buf && q.page = page && q.st = 0) = some q →
    s.dev.diesRun = true →
      exec (.pageInComplete buf page) s = .next (s.after (s.work.endPageIn buf page).resumePages)) ∧
  (∀ (buf page : Nat) (m : Migration) (s : State), (s.dev.ms.migs.find? fun m => m.buf = buf && m.page = page) = some m →
    s.dev.diesRun = true → s.dev.dstHeld m = false →
      exec (.migrationComplete buf page) s = .next (s.after (s.work.endMigration buf page).resumePages)) ∧
  (∀ (s : State), s.dev.diesRun = true →
      exec .placementEpoch s = .next (s.after (([0, 1, 2, 3].foldl W.epochOf s.work).onMs fun m =>
        { m with pageinBytes := [], place := m.placeNext.getD m.place, placeNext := none }))) ∧
  (∀ (stack : Nat) (ecc : List EccReport) (s : State), stack < 24 → s.dev.diesRun = true → s.dev.scrubHours (dieOfStack stack) ≠ 0 →
      exec (.patrolScrub stack ecc) s = .next (s.after (s.work.eccLines (ecc.filter fun e => e.line / 2 ^ 36 = stack)))) ∧
  (∀ (stack : Nat) (ecc : List EccReport) (s : State), s.dev.scrubHours (dieOfStack stack) = 0 →
      exec (.patrolScrub stack ecc) s = .next (s.after s.work)) ∧
  (∀ (core : Nat) (ecc : List EccReport) (s : State), core < 256 → s.dev.diesRun = true →
      exec (.sramScrub (.core core) ecc) s = .next (s.after (s.work.eccLines (ecc.filter fun e =>
        coreBase core ≤ e.line && e.line < coreBase core + coreBytes)))) ∧
  (∀ (die slice : Nat) (ecc : List EccReport) (s : State), die < 4 → slice < 8 → s.dev.diesRun = true →
      exec (.sramScrub (.slice die slice) ecc) s = .next (s.after (s.work.eccLines (ecc.filter fun e =>
        joinBase die + slice * 2 ^ 24 ≤ e.line && e.line < joinBase die + (slice + 1) * 2 ^ 24)))) ∧
  (∀ (stack pc plus minus : Nat) (t : Int) (s : State), stack < 24 → pc < 32 → s.dev.diesRun = true →
    bit (Tab.getD s.dev.ms.scrubCfg (dieOfStack stack) 0x0801).toNat 0 = true → Tab.getD s.dev.ms.trims (32 * stack + pc) 0 = t →
    -31 ≤ t → t < 31 → plus + 8 ≤ minus →
      exec (.recentreWindow stack pc plus minus) s = .next { s with dev := { s.dev with ms :=
        { s.dev.ms with trims := Tab.put s.dev.ms.trims (32 * stack + pc) (t + 1) } } }) ∧
  (∀ (stack pc plus minus : Nat) (t : Int) (s : State), stack < 24 → pc < 32 → s.dev.diesRun = true →
    bit (Tab.getD s.dev.ms.scrubCfg (dieOfStack stack) 0x0801).toNat 0 = true → Tab.getD s.dev.ms.trims (32 * stack + pc) 0 = t →
    -31 < t → t ≤ 31 → minus + 8 ≤ plus →
      exec (.recentreWindow stack pc plus minus) s = .next { s with dev := { s.dev with ms :=
        { s.dev.ms with trims := Tab.put s.dev.ms.trims (32 * stack + pc) (t - 1) } } }) ∧
  (∀ (stack pc plus minus : Nat) (s : State), minus < plus + 8 → plus < minus + 8 →
      exec (.recentreWindow stack pc plus minus) s = .next s) ∧
  (∀ (s : State), s.dev.diesRun = true → s.dev.ms.trimSavedAt + 86400000000000 ≤ s.dev.clk.mono →
      exec .hbmTrimSave s = .next (s.commit s.work.saveTrims)) ∧
  (∀ (port position : Nat) (s : State), (s.dev.ms.expanders.any fun e => e.port = port && e.pos = position && !e.failed) = true →
      exec (.expanderLinkFail port position) s = .next (s.commit
        ((((s.dev.pagesOfExpander port position).foldl (fun w e => w.op (.mark e.1 e.2)) s.work).onMs fun m =>
          { m with expanders := m.expanders.map fun e => if e.port = port && e.pos = position then { e with failed := true } else e }).logRec
            0x0015 4 0xFF 0 (port * 4 + position) 0 [])))

/-- R295, R503, R524, R632, R638, R640 to R643, R645, R661: what ends a command that waits. A host wait whose limit has passed replies
TIMEOUT with the microseconds it ran; LINK_CONFIG completes after 10 s, REMAP_ASSUME with TIMEOUT after 20 s; a swatch ends with its
result; a block programmed completes its commit; a firmware reload ends the pause, or falls back, and so does the confirm deadline; a
relay record or a chunk of the kind that its row names is taken. -/
def Obligations.WaitsEnd : Prop :=
  (∀ (ch : Nat) (seq : Word) (p : PendCmd) (a b limit : Nat) (reach : Bool) (s : State), (s.dev.cmds.find? fun p => p.ch = ch && p.hdr.seq = seq) = some p →
    p.wait = .syncWait a b reach limit → p.begun + 1000 * limit ≤ s.dev.clk.mono →
      exec (.syncWaitLimitExpiry ch seq) s = .next (s.after
        ((s.work.unwait (.cmd ch seq.toNat)).complete p 0x0C ((s.dev.clk.mono - p.begun) / 1000) []))) ∧
  (∀ (s : State), exec .linkConfigTimeout s = .next (s.commit (s.work.completeLinks fun p =>
      p.wait = .linkConfig && s.dev.ranFor p 10000000000))) ∧
  (∀ (p : PendCmd) (s : State), (s.dev.cmds.find? fun p => p.wait = .remap && s.dev.ranFor p 20000000000) = some p →
      exec .remapAssumeTimeout s = .next (s.commit (s.work.complete p 0x0C ((s.dev.clk.mono - p.begun) / 1000) []))) ∧
  (∀ (block : Nat) (rest : List Nat) (s : State), s.dev.svc.swatchLeft = block :: rest → s.dev.swatchSkips block [] = false →
    s.dev.svc.swatchConsole = false →
      exec (.swatchDone block true []) s = .next (s.after ((s.work.onSvc fun v =>
        { v with swatchLeft := rest, swatchFrom := s.dev.clk.mono
                 swatch := Tab.put v.swatch block (0, 0, 0, ((s.dev.clk.mono - s.dev.svc.swatchFrom) / 1000000) % 2 ^ 32) }).endSwatches))) ∧
  (∀ (upd block : Nat) (data : List Byte) (p : PendCmd) (s : State), s.dev.hub.st ≠ .off →
    s.dev.cmds.find? (PendCmd.programs upd block) = some p → p.wait = .fwCommit upd block data →
      exec (.fwBlockProgrammed upd block true) s = .next (s.commit ((s.work.holdBlock upd block data).complete p 0 0 []))) ∧
  (∀ (s : State), s.dev.hub.st = .updatePause →
      exec .updatePauseTimeout s = .next (s.after (s.work.fallBackTxn 4).warmReset)) ∧
  (∀ (s : State), s.dev.hub.st ≠ .off → s.dev.fw.confirmed = false → s.dev.fw.actUptime + s.dev.fw.deadline ≤ s.dev.store.frame.uptimeS →
      exec .confirmDeadline s = .next (s.after (s.work.fallBackTxn 1).warmReset)) ∧
  (∀ (s : State), s.dev.fw.confirmed = true → exec .confirmDeadline s = .next (s.after s.work)) ∧
  (∀ (slot t : Nat) (s : State), s.dev.fw.pause = some (slot, t) → s.dev.hub.st = .updatePause → s.dev.clk.mono < t + 6000000000 →
      exec .updateReloadComplete s = .next (s.after (((s.work.runImage slot).completeAll PendCmd.activates 0 0 []).releaseHeld.endHold.settleFault.strapIn))) ∧
  (∀ (link : Nat) (m : List Byte) (s : State),
      (isRec m 1 = true → exec (.relayOffer link m) s = .next (s.commit (s.work.onMessage link m fun w => w.takeRec link m))) ∧
      (isRec m 2 = true → exec (.relayAccept link m) s = .next (s.commit (s.work.onMessage link m fun w => w.takeRec link m))) ∧
      (isRec m 3 = true → exec (.relayKey link m) s = .next (s.commit (s.work.onMessage link m fun w => w.takeRec link m))) ∧
      (isRec m 4 = true → exec (.relayDone link m) s = .next (s.commit (s.work.onMessage link m fun w => w.takeRec link m))) ∧
      (msgType m = 0x11 → exec (.relayData link m) s = .next (s.commit (s.work.onMessage link m fun w => w.takeData link m))))

/-- R302, R304, R307, R377, R382: every operation of the engines. A free engine of a running die takes the head entry that Table 9.2's
order gives it, and where that names the row's operation it does the work of the operation on the item taken; an array of class OMA,
besides, has no LOAD parked, and a LOAD starts only when every other item has completed; LOOKUP, RANGE and DUMP also run while an UPDATE
waits on a shift. -/
def Obligations.EngineOperationsRun : Prop :=
  (∀ (i : Instr) (cls die eng op key : Nat) (b : List Byte) (work : Nat → Eng Unit) (s : State), engineOf i = some (cls, die, eng, op) →
    engWork cls op = some work → EngineFree s die cls eng → Chosen s (engKeys die cls eng) op key b →
      exec i s = .next (s.worked (engKeys die cls eng) key eng b work)) ∧
  (∀ (i : Instr) (cls die eng op : Nat) (s : State), engineOf i = some (cls, die, eng, op) → s.dev.engBusy die cls eng = true →
      exec i s = .next (s.after s.work)) ∧
  (∀ (i : Instr) (die arr op key : Nat) (b : List Byte) (work : Nat → Eng Unit) (s : State), arrayOf i = some (die, arr, op) →
    engWork 3 op = some work → EngineFree s die 3 arr → s.dev.loadParked die arr = false →
    (op = 0x30 → ∀ x ∈ s.dev.engItems die 3 arr, x.2.st = 2) → Chosen s (engKeys die 3 arr) op key b →
      exec i s = .next (s.worked (engKeys die 3 arr) key arr b work)) ∧
  (∀ (i : Instr) (die arr op key k : Nat) (x : Item) (b : List Byte) (work : Nat → Eng Unit) (s : State), arrayOf i = some (die, arr, op) →
    0x32 ≤ op → engWork 3 op = some work → die < 4 → arr < 2 → s.dev.dieRuns die = true → s.dev.mayTake die 3 arr = true →
    s.dev.loadParked die arr = false → ((s.dev.engItems die 3 arr).filter fun x => x.2.st = 1 || x.2.st = 5) = [(k, x)] → x.st = 5 →
    Chosen s ((engKeys die 3 arr).filter fun q => q != k) op key b →
      exec i s = .next (s.worked ((engKeys die 3 arr).filter fun q => q != k) key arr b work))

/-- R305 to R307, R310, R381, R429, R433: what follows of items. The lowest free engine of a class that can, resumes its oldest parked item
whose page is present; the oldest item of a queue that has ended writes its record and signals; the end of a shift lets the UPDATE that
waits go on; the unit of a stack applies its oldest step whose row it can reach. -/
def Obligations.WorkItemsGoOn : Prop :=
  (∀ (die key : Nat) (cls : EngClass) (it : Item) (s : State), die < 4 → s.dev.dieRuns die = true →
    ((List.range (engines (classCode cls))).findSome? fun e =>
      if s.dev.engBusy die (classCode cls) e then none else s.dev.resumable die (classCode cls) e) = some (key, it) →
      exec (.parkedItemResume die cls) s = .next (s.after (s.work.resumeItem key it))) ∧
  (∀ (die queue : Nat) (cls : EngClass) (it : Item) (s : State), die < 4 → queue < 8 → s.dev.dieRuns die = true →
    ((s.dev.queue (queueKey die (classCode cls) queue)).items.find? fun i => i.st = 1) = some it →
      exec (.workItemComplete die cls queue) s = .next (s.after (s.work.completeItem (queueKey die (classCode cls) queue) it))) ∧
  (∀ (die arr key : Nat) (it : Item) (s : State), die < 4 → arr < 2 → s.dev.dieRuns die = true → (s.dev.oma die arr).shift = true →
    ((s.work.onOma die arr fun a => { a with shift := false }).dev.engItems die 3 arr).find? (fun x => x.2.st = 5) = some (key, it) →
      exec (.omaShiftEnd die arr) s = .next (s.after
        ((s.work.onOma die arr fun a => { a with shift := false }).runItem key it (omaUpdateWork key)))) ∧
  (∀ (stack : Nat) (x : RowStep) (s : State), stack < 24 → s.dev.dieRuns (dieOfStack stack) = true →
    (Tab.getD s.dev.ruus stack {}).steps.find? (s.work.fetchSteps (Tab.getD s.dev.ruus stack {}).steps).dev.stepReady = some x →
      exec (.rowUpdateStep stack) s = .next (s.after
        ((s.work.fetchSteps (Tab.getD s.dev.ruus stack {}).steps).rowStep stack x)))

/-- R447 to R449, R453 to R459, R461 to R464: the feed service. At the lowest die of the feed, a FLUSH
marker is noted and, under ARRIVAL with a batch open, a sample takes the lowest free lane with room in the ledger; the oldest
FLUSH marker resolves once nothing before it is in decode; a post is read, cleared and handled; a placed row is copied to its position
and recorded, or makes its sample CORRUPT where it reads a poisoned line; written settings apply at an evaluation, which judges every
sample in decode. A faulted feed admits nothing. -/
def Obligations.FeedServiceActs : Prop :=
  (∀ (feed die : Nat) (f : Feed) (s : State), Tab.get s.dev.feeds feed = some f → s.dev.feedRuns f = true → f.draining = false →
    (maskDies f.dieMask).head? = some die → ((Tab.get s.dev.syncs (f.obj die 0)).map fun y => y.canTake 1) = some true →
    bit (fld (s.work.readVa (s.dev.intakeVa f die) 32) 0x18 4) 0 = true →
      exec (.sampleAdmit feed) s = .next (s.after (((s.work.takeIntake feed die).onFeed feed fun f =>
        { f with flushes := f.flushes ++ [f.sampleNo] }).settleFeed feed))) ∧
  (∀ (feed die lane : Nat) (f : Feed) (s : State), Tab.get s.dev.feeds feed = some f → s.dev.feedRuns f = true → f.draining = false →
    (maskDies f.dieMask).head? = some die → ((Tab.get s.dev.syncs (f.obj die 0)).map fun y => y.canTake 1) = some true →
    bit (fld (s.work.readVa (s.dev.intakeVa f die) 32) 0x18 4) 0 = false → f.cfg.mode = 0 → f.openBatch.isSome = true →
    f.freeLane die false = some lane → 3 ≤ f.ledgerRoom →
      let r := s.work.readVa (s.dev.intakeVa f die) 32
      let x : Sample := { id := fld r 0 8, ord := fld r 8 8, arg := fld r 0x10 8, die := die, start := s.dev.clk.now, lane := lane
                          no := f.sampleNo }
      exec (.sampleAdmit feed) s = .next (s.after ((((s.work.takeIntake feed die).onFeed feed fun f =>
        { f with samples := f.samples ++ [x], sampleNo := f.sampleNo + 1 }).dispatchStep feed x).settleFeed feed))) ∧
  (∀ (feed : Nat) (f : Feed) (s : State), Tab.get s.dev.feeds feed = some f → f.faulted = true ∨ f.draining = true →
      exec (.sampleAdmit feed) s = .next (s.after s.work)) ∧
  (∀ (feed t : Nat) (rest : List Nat) (f : Feed) (b : Batch) (s : State), Tab.get s.dev.feeds feed = some f → s.dev.feedRuns f = true →
    f.flushes = t :: rest → f.openBatch = some b →
    (f.samples.any fun x => (x.no < t && !x.slow && !x.dropped) || (x.copying && some b.seq = x.place.map Prod.fst)) = false →
      exec (.flushResolve feed) s = .next (s.after ((((s.work.onFeed feed fun f => { f with flushes := rest }).recordMissing feed
        b).closeBatch feed b.seq 0x11).settleFeed feed))) ∧
  (∀ (feed die lane : Nat) (f : Feed) (x : Sample) (s : State), Tab.get s.dev.feeds feed = some f → bit f.dieMask die = true →
    lane < f.decodeSlots + f.slowMax → s.dev.feedRuns f = true →
    ((Tab.get s.dev.syncs (f.obj die 2)).map fun y => y.canTake 1) = some true →
    fld (s.work.readVa (s.dev.feedArea f + f.off (4 * die + 2) + 32 * lane) 32) 0 1 = 1 →
    (f.samples.find? fun x => x.die = die && x.lane = lane && x.row.isNone) = some x →
      let va := s.dev.feedArea f + f.off (4 * die + 2) + 32 * lane
      exec (.post feed die lane) s = .next (s.after (((((s.work.takeNow (f.obj die 2) 1).writeVa va [0]).handlePost feed f x
        (s.work.readVa va 32)).settleFeed feed)))) ∧
  (∀ (feed no va seq p : Nat) (f : Feed) (x : Sample) (s : State), Tab.get s.dev.feeds feed = some f →
    (f.samples.find? fun x => x.no = no && x.copying) = some x → x.row = some va → x.place = some (seq, p) → s.dev.feedRuns f = true →
    s.dev.rangeFail va f.rowBytes true false = none → s.work.poisonVa va f.rowBytes = false →
      exec (.rowCopyComplete feed no) s = .next (s.after (((((s.work.writeVa
        (s.dev.batchVa f seq + 64 + f.maskBytes + f.idBytes + p * f.rowBytes) (s.work.readVa va f.rowBytes)).ledger feed 1 0 p x.die seq
          x.id).onBatch feed seq fun b => { b with taken := Tab.put b.taken p (some (x.id, x.die)) }).dropSample feed no).settleFeed feed))) ∧
  (∀ (feed no va seq p : Nat) (f : Feed) (x : Sample) (s : State), Tab.get s.dev.feeds feed = some f →
    (f.samples.find? fun x => x.no = no && x.copying) = some x → x.row = some va → x.place = some (seq, p) → s.dev.feedRuns f = true →
    s.dev.rangeFail va f.rowBytes true false = none → s.work.poisonVa va f.rowBytes = true →
      exec (.rowCopyComplete feed no) s = .next (s.after ((s.work.corrupt feed x).settleFeed feed))) ∧
  (∀ (feed : Nat) (f : Feed) (s : State), Tab.get s.dev.feeds feed = some f → s.dev.feedRuns f = true → 3 ≤ f.ledgerRoom →
      let f' := { f with cfg := f.cfgNext.getD f.cfg, cfgNext := none }
      exec (.feedEvaluation feed) s = .next (s.after (((f.samples.filter fun x => x.row.isNone && !x.dropped).foldl
        (fun w x => w.evalSample feed f' x) (s.work.onFeed feed fun f => { f with cfg := f.cfgNext.getD f.cfg, cfgNext := none })).settleFeed
          feed)))

/-- R459, R461, R462, R470: what leaves the device. The prepared batch of the lowest number goes to the client with a credit that has
waited longest, its body before its header, and costs it one credit; the oldest filled slot of a client's ring is read and taken; one unit
of PUB_SYNC publishes the next window of a graph's ring. -/
def Obligations.BatchesAndResultsLeave : Prop :=
  (∀ (feed : Nat) (f : Feed) (b : Batch) (c : Client) (s : State), Tab.get s.dev.feeds feed = some f →
    f.batches.find? (fun b => b.st = 1) = some b → s.dev.nextClient f = some c → f.faulted = false → s.dev.hub.st ≠ .updatePause →
    s.dev.hub.st ≠ .off →
      let w := (s.work.onFeed feed fun f =>
        { f with
          beginNo := f.beginNo + 1
          clients := f.clients.map fun x =>
            if x.idx = c.idx then { x with credits := x.credits - 1, begun := x.begun + 1, lastBegin := f.beginNo + 1 } else x
          batches := f.batches.map fun x => if x.seq = b.seq then { x with st := 2, client := c.idx } else x }).checkAlarm feed
      let va := w.dev.batchVa f b.seq
      let hd := f.header (w.dev.handleOf 7 feed) b (((Tab.get w.dev.feeds feed).map Feed.alarm).getD false)
      let w := w.writeVa va hd
      let body := w.readVa (va + 64) (f.batchBytes - 64)
      let slot := c.va + c.begun % c.cslots * c.stride
      exec (.batchDelivery feed) s = .next (s.after ((w.initiate c.chan (ceilDiv body.length 4096)
        (fun psn => .write c.chan psn (slot + 64) c.rkey body none) none).initiate c.chan 1
        (fun psn => .write c.chan psn slot c.rkey hd (some (b.seq % 2 ^ 32))) (some (feed, b.seq))))) ∧
  (∀ (feed client : Nat) (f : Feed) (cl : Client) (k : Chan) (y : Sync) (b : Buf) (s : State), Tab.get s.dev.feeds feed = some f →
    (f.clients.find? fun c => c.idx = client) = some cl → Tab.get s.dev.chans cl.chan = some k → Tab.get s.dev.bufs (hIdx k.rxBuf) = some b →
    Tab.get s.dev.syncs (hIdx k.rxSync) = some y → s.dev.syncLive k.rxSync = true → y.canTake 1 = true → 4160 ≤ b.size →
      let n := b.size / 4160
      let va := b.base + (k.ringPos + n - y.val % n) % n * 4160
      let m := s.work.readVa va 80
      s.dev.rangeFail va 80 false false = none →
      (fld m 0 2 = 1 ∧ fld m 2 2 = 16 ∧ fld m 64 4 = 0x43465653 ∧ fld m 68 2 = 1 ∧ 1 ≤ fld m 70 2 ∧ fld m 70 2 ≤ 64 ∧
          zeroAt m 72 8 = true →
        exec (.creditReturn feed client) s = .next (s.after ((s.work.takeNow (hIdx k.rxSync) 1).onFeed feed fun f =>
          { f with clients := f.clients.map fun x =>
              if x.idx = client then { x with credits := min (x.credits + fld m 70 2) x.cslots } else x }))) ∧
      (fld m 70 2 = 0 →
        exec (.creditReturn feed client) s = .next (s.after ((s.work.takeNow (hIdx k.rxSync) 1).onFeedCnt fun c =>
          { c with badmsg := satAdd 32 c.badmsg 1 })))) ∧
  (∀ (graph va : Nat) (r : ResultRing) (y : Sync) (p : Nat) (s : State), (Tab.get s.dev.graphs graph).bind Graph.ring = some r →
    Tab.get s.dev.syncs (hIdx r.pubSync) = some y → s.dev.syncLive r.pubSync = true → r.seen < y.val →
    s.dev.windowVa r (r.window (r.published + 1)) = va → s.dev.access va true true = .ok p → r.overwrite = false →
    leNat (s.work.readVa (va + 0x18) 8) ≤ r.winBytes - 64 →
      exec (.resultPublish graph) s = .next (s.after ((s.work.writeVa va (windowHeader true (r.published + 1) 0 (r.window (r.published + 1))
        (leNat (s.work.readVa (va + 0x18) 8)) s.dev.clk.now)).onRing graph fun x => { x with published := r.published + 1, seen := x.seen + 1 })))

/-- R493 to R497, R500, R501, R522: flits, lanes and silence. A flit that cannot be corrected, or whose TYPE is reserved, counts and is
not accepted; another counts its corrected symbols and is taken on the link's logical link; a NAK replays what its ACK does not cover; a
lane that loses lock, or corrects more than one byte in a million in its window, is retired; a link without a flit for 1 ms has no lane
left, or its neighbour is lost; a spare that is not in service 10 s after its request gives way to the next; a link's settings become its
presets after 24 hours. -/
def Obligations.LinkEventsAct : Prop :=
  (∀ (link : Nat) (f : Flit) (s : State), s.dev.linksRun = true → link < 32 → (s.dev.link link).works = true → flitDecode f.bytes = none →
      exec (.flitReceive link f) s = .next (s.commit (s.work.badFlit link))) ∧
  (∀ (link hdr corr : Nat) (f : Flit) (body : List Byte) (s : State), InService s link → flitDecode f.bytes = some (hdr, body, corr) →
      let w := s.work.onLink link fun l =>
        { l with
          fecCorr := satAdd 32 l.fecCorr corr, lastFlit := s.dev.clk.mono
          rxLanes := if l.rxLanes = 0 then lanesLeft l.rxRetired else l.rxLanes }
      (bits hdr 4 4 ≤ 3 → exec (.flitReceive link f) s = .next (s.commit (w.takeFlit link (s.dev.link link).logical hdr))) ∧
      (3 < bits hdr 4 4 → exec (.flitReceive link f) s = .next (s.commit (w.badFlit link)))) ∧
  (∀ (link seq : Nat) (s : State), InService s link →
      exec (.linkNak link seq) s = .next (s.commit (s.work.replay (s.dev.link link).logical (seq % 4096)))) ∧
  (∀ (link lane : Nat) (s : State), s.dev.linksRun = true → link < 32 → lane < 5 → (s.dev.link link).works = true →
      exec (.laneLockLoss link lane) s = .next (s.after (s.work.retireLane link lane))) ∧
  (∀ (link lane corrected total : Nat) (s : State), s.dev.linksRun = true → link < 32 → lane < 5 → (s.dev.link link).works = true →
      (total < corrected * 1000000 →
        exec (.laneErrorWindow link lane corrected total) s = .next (s.after (s.work.retireLane link lane))) ∧
      (corrected * 1000000 ≤ total → exec (.laneErrorWindow link lane corrected total) s = .next (s.after s.work))) ∧
  (∀ (link : Nat) (s : State), s.dev.linksRun = true → link < 32 → (s.dev.link link).works = true →
    (s.dev.link link).lastFlit + 1000000 ≤ s.dev.clk.mono → s.dev.isRole (s.dev.link link).logical = true →
      let w := s.work.onLink link fun l => { l with rxLanes := 0 }
      let k := (s.dev.link link).logical
      let c := w.dev.peerCoord k
      let silent := (w.dev.roleLinks.filter fun k => w.dev.peerCoord k = c).all fun k => match w.dev.carrier k with
        | some p => decide ((w.dev.link p).lastFlit + 1000000 ≤ s.dev.clk.mono)
        | none => true
      exec (.linkSilence link) s = .next (s.after (if silent = true then w.detectLost c ((w.dev.llink k).peerSerial.getD 0) 0x01
        else w.lanesChanged link))) ∧
  (∀ (link : Nat) (s : State), s.dev.clk.mono < (s.dev.link link).lastFlit + 1000000 →
      exec (.linkSilence link) s = .next (s.after s.work)) ∧
  (∀ (k q t : Nat) (s : State), (s.dev.llink k).spare = some (q, t) → t + 10000000000 ≤ s.dev.clk.mono →
      exec (.spareTimeout k) s = .next (s.after (((s.work.onLink q fun l => { l with state := 8 }).onLLink k fun l =>
        { l with spare := none }).requestSpare k))) ∧
  (∀ (link t : Nat) (presets : List Byte) (s : State), (s.dev.link link).upSince = some t → link < 32 → s.dev.linksRun = true →
    t + 86400000000000 ≤ s.dev.clk.mono →
      exec (.ylPresetSave link presets) s = .next (s.commit ((s.work.onLink link fun l =>
        { l with upSince := some s.dev.clk.mono }).journal1 0x0021 (1 + link) presets)))

/-- R504, R509, R513, R514, R517, R518, R520 to R523: the messages of links. On a link in service each is handled; while the device is in
UPDATE_PAUSE it waits; on a link that is not in service it does nothing. -/
def Obligations.LinkMessagesAreHandled : Prop :=
  (∀ (link : Nat) (m : List Byte) (s : State), InService s link → s.dev.hub.st ≠ .updatePause →
      exec (.tileMessage link m) s = .next (s.after (s.work.takeTile link m)) ∧
      (msgType m = 2 → exec (.heartbeat link m) s = .next (s.after (s.work.takeHeartbeat link m))) ∧
      (msgType m = 3 → exec (.freqStep link m) s = .next (s.commit (s.work.takeFreq link m))) ∧
      (msgType m = 4 → exec (.ceiling link m) s = .next (s.commit (s.work.takeCeiling link m))) ∧
      (msgType m = 5 → exec (.linkEvent link m) s = .next (s.after (s.work.takeEvent link m))) ∧
      (msgType m = 6 → exec (.memberLost link m) s = .next (s.after (s.work.takeLost link m))) ∧
      (msgType m = 7 → exec (.memberJoin link m) s = .next (s.commit (s.work.takeJoin link m))) ∧
      (msgType m = 8 → exec (.time link m) s = .next (s.commit (s.work.takeTime link m)))) ∧
  (∀ (link : Nat) (m : List Byte) (s : State), InService s link → s.dev.hub.st = .updatePause →
      let t := { s with dev := { s.dev with sys := { s.dev.sys with held := s.dev.sys.held ++ [(link, m)] } } }
      exec (.freqStep link m) s = .next t ∧ exec (.ceiling link m) s = .next t ∧ exec (.memberJoin link m) s = .next t ∧
        exec (.time link m) s = .next t) ∧
  (∀ (link : Nat) (m : List Byte) (s : State), (s.dev.link link).works = false →
      exec (.freqStep link m) s = .next s ∧ exec (.ceiling link m) s = .next s ∧ exec (.memberJoin link m) s = .next s ∧
        exec (.time link m) s = .next s) ∧
  (∀ (link : Nat) (m : List Byte) (s : State), s.dev.linksRun = true → link < 32 → msgType m = 1 → s.dev.hub.st ≠ .updatePause →
    s.dev.isRole link = true → (s.dev.link link).logical = link → (s.dev.link link).state ≠ 0 →
      exec (.hello link m) s = .next (s.after (s.work.helloRole link m))) ∧
  (∀ (link : Nat) (m : List Byte) (s : State), s.dev.linksRun = true → link < 32 → msgType m = 1 → s.dev.hub.st ≠ .updatePause →
    s.dev.isRole link = false → (s.dev.link link).role = 4 → (s.dev.link link).works = true →
      exec (.hello link m) s = .next (s.after (s.work.helloSpare link m)))

/-- R513, R517, R518, R521, R522: the group's frequency, its ceilings and its time. An accepted FREQ_STEP of the device's group that names a
lower step is adopted at once; a ceiling is kept for its boundary; at a boundary the lowest ceiling of the interval is flooded, and 10 ms
later a member that holds every report goes to the lowest of them; heartbeats and times go out on every link in service. -/
def Obligations.GroupEventsAct : Prop :=
  (∀ (g : FGroup) (s : State), s.dev.sys.group = some g → s.dev.linksRun = true → s.dev.hub.st ≠ .updatePause →
      let t := s.dev.clk.now / 100000000 * 100000000
      let low := min g.lowCeil s.dev.pwr.ceil
      exec .ceilingBoundary s = .next (s.commit ((s.work.onSys fun y =>
        { y with group := some { (g.report t s.dev.coord low) with lowCeil := s.dev.pwr.ceil } }).flood 0x04 g.id (toLe 8 t ++ toLe 1 low)))) ∧
  (∀ (s : State), s.dev.sys.group = none → exec .ceilingBoundary s = .next s ∧ exec .ceilingCompute s = .next s) ∧
  (∀ (g : FGroup) (s : State), s.dev.sys.group = some g → s.dev.linksRun = true → g.reports ≠ [] → g.boundary + 10000000 ≤ s.dev.clk.now →
    g.members ≤ g.reports.length →
      let new := g.reports.foldl (fun m r => min m r.2) g.freqMin
      (new < s.dev.pwr.step → exec .ceilingCompute s = .next (s.commit (s.work.lowerStep new))) ∧
      (s.dev.pwr.step < new → exec .ceilingCompute s = .next (s.commit (s.work.raiseStep new))) ∧
      (new = s.dev.pwr.step → exec .ceilingCompute s = .next s)) ∧
  (∀ (s : State), s.dev.linksRun = true →
      exec .heartbeatSend s = .next (s.commit (s.work.sendUp fun _ w =>
        w.ownMessage 0x02 w.dev.groupId (toLe 8 w.dev.clk.now ++ toLe 1 w.dev.hub.st.code ++ toLe 1 (b2n w.dev.hub.degraded)))) ∧
      ∃ w, exec .timeExchange s = .next (s.commit w) ∧ ∀ p l, (p, l) ∈ w.dev.links → l.state = 2 ∨ l.state = 3 → l.ownTx = s.dev.clk.now) ∧
  (∀ (link : Nat) (m : List Byte) (g : FGroup) (s : State), InService s link → s.dev.hub.st ≠ .updatePause → msgType m = 3 →
    s.dev.acceptsFlood m = true → (s.work.acceptFlood link m).dev.sys.group = some g → g.id = msgGroup m →
    fld (msgBody m) 0 1 < (s.work.acceptFlood link m).dev.pwr.step →
      exec (.freqStep link m) s = .next (s.commit (((s.work.acceptFlood link m).onSys fun y =>
        { y with group := some { g with
          freqMin := min g.freqMin (fld (msgBody m) 0 1), freqSteps := satAdd 32 g.freqSteps 1, lastOrigin := msgOrigin m
          lastTime := (s.work.acceptFlood link m).dev.clk.now } }).lowerStep (fld (msgBody m) 0 1))))

/-- R529, R534 to R537, R542, R545: the loops of power control. A current over 102.5 A lowers the guard's limit by two steps and counts;
the gauge loop lowers its limit below the step while the power is above the gauge, at most once in 1 ms; step 0 with the power above the
gauge for 100 ms sets GAUGE_UNREACHED; a sensor above its target lowers the thermal limit, at most once in 10 ms; an inlet up to 45.0
degrees gives the coolant limit 18, and each degree begun above it two steps less; a droop lowers its island and 1 microsecond without one
raises it a step; a raise ends when the rails of all four dies have settled. -/
def Obligations.PowerLoopsAct : Prop :=
  (∀ (mv ma : Nat) (s : State), s.dev.hub.st ≠ .off → s.dev.hub.rails = true → 102500 < ma →
      exec (.currentGuardSample mv ma) s = .next (s.commit ((s.work.takeSample mv ma).guardAct (s.dev.pwr.step - 2)))) ∧
  (∀ (mv ma : Nat) (s : State), s.dev.hub.st ≠ .off → s.dev.hub.rails = false →
      exec (.currentGuardSample mv ma) s = .next (s.commit (s.work.takeSample mv ma))) ∧
  (∀ (s : State), s.dev.hub.rails = true → ((s.dev.gauge : Nat) : Rat) < s.dev.pwr.gaugePower → s.dev.pwr.lastDown = none →
      exec .gaugeLoop s = .next (s.commit (((s.work.onPwr fun p =>
        { p with zeroSince := if p.step = 0 then some (p.zeroSince.getD s.dev.clk.mono) else none }).onPwr fun p =>
          { p with lastDown := some s.dev.clk.mono, gaugeUnreached := p.gaugeUnreached }).onLim fun l => { l with gauge := s.dev.pwr.step - 1 }))) ∧
  (∀ (t : Nat) (s : State), s.dev.pwr.zeroSince = some t → t + 100000000 ≤ s.dev.clk.mono → s.dev.pwr.gaugeUnreached = false →
    s.dev.hub.rails = true →
      exec .gaugeUnreached s = .next (s.commit ((s.work.onPwr fun p => { p with gaugeUnreached := true }).logHub 0x0032 s.dev.gauge []))) ∧
  (∀ (s : State), s.dev.pwr.zeroSince = none → exec .gaugeUnreached s = .next s) ∧
  (∀ (sensors hbm : List Int) (s : State), s.dev.hub.rails = true → sensors.length = 260 → hbm.length = 24 → s.dev.pwr.thermDown = none →
    s.dev.pwr.targets.2 < (hottest hbm).2 →
      ∃ w, exec (.thermalLoop sensors hbm) s = .next (s.commit w) ∧ w.dev.pwr.lim.thermal = s.dev.pwr.lim.thermal - 1 ∧
        w.dev.pwr.thermDown = some s.dev.clk.mono ∧ w.dev.pwr.hbmMax = hottest hbm) ∧
  (∀ (t : Int) (s : State), s.dev.hub.st ≠ .off → s.dev.pin.flowOk = true → s.dev.pin.flowHighAt = none →
      ∃ w, exec (.coolantInletRead t) s = .next (s.commit w) ∧ w.dev.pin.inlet = t ∧ (t ≤ 450 → w.dev.pwr.lim.coolant = 18) ∧
        ∀ n : Nat, 450 + 10 * (n : Int) < t → t ≤ 460 + 10 * (n : Int) → w.dev.pwr.lim.coolant = 18 - 2 * (n + 1)) ∧
  (∀ (die t : Nat) (ds : List Nat) (s : State), s.dev.pwr.raise = some (t, ds) → die < 4 → die ∉ ds →
      (ds.length ≠ 3 → exec (.railSettled die) s =
        .next { s with dev := { s.dev with pwr := { s.dev.pwr with raise := some (t, die :: ds) } } }) ∧
      (ds.length = 3 → ∃ w, exec (.railSettled die) s = .next (s.commit w) ∧ w.dev.pwr.step = t ∧ w.dev.pwr.raise = none)) ∧
  (∀ (core mv : Nat) (s : State), core < 256 → s.dev.hub.rails = true → 30 ≤ mv →
      ∃ w, exec (.droop core mv) s = .next (s.commit w) ∧ w.dev.pwr.droopCnt = satAdd 32 s.dev.pwr.droopCnt 1 ∧
        w.dev.core core = { s.dev.core core with
          droop := max (s.dev.core core).droop (if 50 ≤ mv then 2 else 1), droopAt := s.dev.clk.mono }) ∧
  (∀ (core mv : Nat) (s : State), mv < 30 → exec (.droop core mv) s = .next s) ∧
  (∀ (core : Nat) (s : State), core < 256 → (s.dev.core core).droop ≠ 0 → (s.dev.core core).droopAt + 1000 ≤ s.dev.clk.mono →
      ∃ w, exec (.droopRecovery core) s = .next (s.commit w) ∧
        w.dev.core core = { s.dev.core core with droop := (s.dev.core core).droop - 1, droopAt := s.dev.clk.mono })

/-- R532, R548, R550 to R557: energy, ageing and telemetry. A tick opens a new bucket of the last 1,000 and charges each count to its tag;
a window's end adds the measured energy to the lifetime total and starts a new window; a margin below 4 percent raises the die's trim by
one, once its record is committed; a record of telemetry joins the last 64 each second. -/
def Obligations.EnergyAndTelemetryAct : Prop :=
  (∀ (counts : List (Nat × Nat)) (s : State), s.dev.hub.st ≠ .off →
      exec (.energyTick counts) s = .next (s.commit ((counts.foldl (fun w k => w.energyCount k.1 k.2)
        (s.work.onPwr fun p => { p with estTicks := ((0, 0) :: p.estTicks).take 1000 })).chargeTick))) ∧
  (∀ (uj : Nat) (s : State), s.dev.hub.st ≠ .off →
      ∃ w, exec (.energyWindowEnd uj) s = .next (s.commit w) ∧
        w.dev.store.frame.energyUj = (s.dev.store.frame.energyUj + uj) % 2 ^ 64 ∧ w.dev.pwr.winCnt = [] ∧ w.dev.pwr.winEst = [] ∧
        w.dev.pwr.enMeas = s.dev.pwr.enMeas + (uj : Rat)) ∧
  (∀ (die : Nat) (margin : Int) (s : State), die < 4 → s.dev.hub.st = .ready → margin < 40 → s.dev.pwr.trimNext = none →
    s.dev.pwr.trim.getD die 0 < 12 →
      exec (.ageingRead die margin) s = .next (s.commit ((s.work.onPwr fun p =>
        { p with trimNext := some (listSet s.dev.pwr.trim die (· + 1)) }).saveAgeTrim (listSet s.dev.pwr.trim die (· + 1))))) ∧
  (∀ (die : Nat) (margin : Int) (s : State), 40 ≤ margin → exec (.ageingRead die margin) s = .next s) ∧
  (∀ (s : State), s.dev.hub.st ≠ .off →
      ∃ w, exec .telemetryRecord s = .next (s.commit w) ∧ w.dev.pwr.telem.getLast? = some s.dev.telemetry ∧
        w.dev.pwr.telemSeq = s.dev.pwr.telemSeq + 1 ∧ w.dev.pwr.telem.length ≤ 64)

/-- R563, R572, R574, R588, R595, R596, R599, R604, R606, Table 18.1: errors of the hub and its stores. A line of hub SRAM that cannot be
corrected puts the device in FAULT, and fails it the second time within 24 hours; the third retrain of a ring segment within 1 s fails
it, and so does the fault of a core rail; a flash that fails is out of use; each second the counter frame is written, its sequence number
one higher; a program's end commits or fails its record; a sector is compacted; what waited on the budget is written. -/
def Obligations.HubAndStoreEventsAct : Prop :=
  (∀ (s : State), s.dev.hub.st ≠ .off → s.dev.hub.lastUe = none →
      exec .hubSramUe s = .next (s.after (((s.work.logHub 0x0043 0 []).onHub fun h =>
        { h with lastUe := some s.dev.clk.mono }).enterFault 0 s.work.nextLogSeq))) ∧
  (∀ (t : Nat) (s : State), s.dev.hub.st ≠ .off → s.dev.hub.lastUe = some t → s.dev.clk.mono < t + 86400000000000 →
      exec .hubSramUe s = .next (s.after (((s.work.logHub 0x0043 0 []).onHub fun h =>
        { h with lastUe := some s.dev.clk.mono }).declareFailed 0x03 4))) ∧
  (∀ (seg dir n : Nat) (ts : List Nat) (s : State), s.dev.hub.st ≠ .off → seg < 5 → dir < 2 →
    Tab.getD s.dev.hub.ring (2 * seg + dir) (0, []) = (n, ts) →
      let retry := BitVec.ofNat 32 (satAdd 32 s.dev.hub.ringRetry.toNat 1)
      let ts' := s.dev.clk.mono :: ts.filter fun t => s.dev.clk.mono < t + 1000000000
      (n < 15 → exec (.ringCrcFailure seg dir) s = .next (s.after (s.work.onHub fun h =>
        { h with ringRetry := retry, ring := Tab.put h.ring (2 * seg + dir) (n + 1, ts) }))) ∧
      (15 ≤ n → ts'.length < 3 → exec (.ringCrcFailure seg dir) s = .next (s.after (s.work.onHub fun h =>
        { h with ringRetry := retry, ring := Tab.put h.ring (2 * seg + dir) (0, ts') }))) ∧
      (15 ≤ n → 3 ≤ ts'.length → exec (.ringCrcFailure seg dir) s = .next (s.after ((s.work.onHub fun h =>
        { h with ringRetry := retry, ring := Tab.put h.ring (2 * seg + dir) (0, ts') }).declareFailed 0x06 4)))) ∧
  (∀ (rail : Nat) (s : State), s.dev.hub.st ≠ .off → rail ∉ s.dev.hub.regFault →
      let w := s.work.onHub fun h => { h with regFault := h.regFault ++ [rail] }
      (rail < 4 → exec (.regulatorFault rail) s = .next (s.after (w.declareFailed 0x02 rail))) ∧
      (4 ≤ rail → rail ≤ 10 → exec (.regulatorFault rail) s = .next (s.after w))) ∧
  (∀ (fb : Bool) (s : State), s.dev.hub.st ≠ .off →
      exec (.flashFailure fb) s = .next (s.after ((((s.work.failFlash fb).onStore Store.prune).finishCommits).release'))) ∧
  (∀ (s : State), s.dev.hub.st ≠ .off → s.dev.clk.now % 1000000000 = 0 →
      ∃ w, exec .framFrameWrite s = .next (s.commit w) ∧ w.dev.store.frame.seq = s.dev.store.frame.seq + 1 ∧
        w.dev.store.frame.uptimeS = s.dev.store.frame.uptimeS + (if s.dev.hub.st = .standby then 0 else 1) ∧
        (w.dev.store.fram0 = some w.dev.store.frame ∨ w.dev.store.fram1 = some w.dev.store.frame)) ∧
  (∀ (ok : Bool) (s : State), s.dev.hub.st ≠ .off →
      exec (.flashProgramComplete ok) s = .next (s.after (s.work.flashDone ok))) ∧
  (∀ (eraseOk : Bool) (s : State), s.dev.hub.st ≠ .off → s.dev.store.fa.ok = true → s.dev.store.fa.tail ≠ s.dev.store.fa.head →
      ∃ w, exec (.journalCompaction eraseOk) s = .next (s.after w) ∧
        w.dev.store.live.map (fun r => (r.key, r.fmt, r.inst, r.payload)) = s.dev.store.live.map (fun r => (r.key, r.fmt, r.inst, r.payload)) ∧
        ∀ r ∈ w.dev.store.live, r.sector ≠ s.dev.store.fa.tail) ∧
  (∀ (s : State), s.dev.hub.st ≠ .off → s.dev.store.lastSnap + 86400000000000 ≤ s.dev.clk.mono →
      exec .counterSnap s = .next (s.commit ((s.work.journal1 0x0031 0 s.dev.store.frame.bytes).onStore fun x =>
        { x with lastSnap := s.dev.clk.mono }))) ∧
  (∀ (s : State), s.dev.hub.st ≠ .off → exec .journalBudgetRelease s = .next (s.after s.work.release'))

/-- R651, R652, R654, R658: the console's readings. A line is echoed and counted; its answer's lines follow, and OK; an unknown line gets
ERR BAD_OPCODE, one of more than 255 characters ERR BAD_PARAM; the boot ROM's console knows three commands. -/
def Obligations.ConsoleReadingsAnswer : Prop :=
  (∀ (s : State), s.dev.consoleUp = true →
      exec .consoleId s = .next (s.commit (((s.typed "id").line s.dev.idLine).final 0 0)) ∧
      exec .consoleStatus s = .next (s.commit (((s.typed "status").line s.dev.statusLine).final 0 0)) ∧
      exec .consoleLadder s = .next (s.commit (((s.typed "ladder").line s.dev.ladderLine).final 0 0))) ∧
  (∀ (s : State), s.dev.consoleUp = true → s.dev.svc.rom = false →
      exec (.consoleHelp (ascii "help")) s = .next (s.commit (((s.typed "help").linesOut helpLines).final 0 0)) ∧
      exec .consoleTp s = .next (s.commit (((List.range 16).foldl (fun w k => w.tpLine (k + 1)) (s.typed "tp")).final 0 0)) ∧
      exec .consoleRails s = .next (s.commit ((railNames.zipIdx.foldl (fun w n => w.railLine n.2 n.1) (s.typed "rails")).final 0 0)) ∧
      exec .consoleLinks s = .next (s.commit (((s.typed "links").linesOut ((List.range 32).map s.dev.linkLine)).final 0 0)) ∧
      (∃ a b, exec .consoleTemps s = .next (s.commit (((s.typed "temps").linesOut [a, b]).final 0 0))) ∧
      (∃ ls, exec .consolePower s = .next (s.commit (((s.typed "power").linesOut ls).final 0 0)) ∧
        ls.length = if s.dev.pwr.telem = [] then 0 else telemFields.length) ∧
      (∃ ls, exec .consoleStore s = .next (s.commit (((s.typed "store").linesOut ls).final 0 0)) ∧ ls.length = storeFields.length)) ∧
  (∀ (start sev : Nat) (s : State), s.dev.consoleUp = true → s.dev.svc.rom = false →
      let w := s.typed ("log " ++ dec start ++ " " ++ dec sev)
      (sev ≤ 3 → exec (.consoleLog start sev) s = .next (s.commit ((w.linesOut ((s.dev.log.pick start sev 62).map LogRec.line)).final 0 0))) ∧
      (3 < sev → exec (.consoleLog start sev) s = .next (s.commit (w.final 0x04 0)))) ∧
  (∀ (addr : Word) (count : Nat) (s : State), s.dev.consoleUp = true → s.dev.svc.rom = false → count ≠ 0 → count ≤ 256 →
    rangeOk addr.toNat count = true → s.dev.regUp addr.toNat = true →
      let x := (s.typed ("reg rd " ++ hex32 addr.toNat ++ " " ++ dec count)).readRegs addr.toNat count
      exec (.consoleRegRd addr count) s = .next (s.commit ((x.2.linesOut (x.1.zipIdx.map fun v =>
        hex32 (addr.toNat + 4 * v.2) ++ " " ++ hex32 v.1)).final 0 0))) ∧
  (∀ (line : List Byte) (s : State), s.dev.consoleUp = true → s.dev.svc.rom = false → line ≠ [] → line.length ≤ 255 →
    consoleWords.contains (firstWord line) = false → lineText line ≠ "help" →
      exec (.consoleHelp line) s = .next (s.commit ((s.typed (lineText line)).final 0x03 0))) ∧
  (∀ (line : List Byte) (s : State), s.dev.consoleUp = true → 255 < line.length →
      exec (.consoleHelp line) s = .next (s.commit ((s.work.line (lineText line)).final 0x04 0))) ∧
  (∀ (line : List Byte) (s : State), s.dev.consoleUp = true → s.dev.svc.rom = true → line ≠ [] → line.length ≤ 255 →
      let w := s.typed (lineText line)
      (lineText line = "id" → exec (.romConsoleCommand line) s = .next (s.commit ((w.line s.dev.idLine).final 0 0))) ∧
      (lineText line = "status" → exec (.romConsoleCommand line) s = .next (s.commit ((w.line s.dev.statusLine).final 0 0))) ∧
      (lineText line = "ladder" → exec (.romConsoleCommand line) s = .next (s.commit ((w.line s.dev.ladderLine).final 0 0))) ∧
      (lineText line ∉ ["id", "status", "ladder"] → exec (.romConsoleCommand line) s = .next (s.commit (w.final 0x03 0)))) ∧
  (∀ (line : List Byte) (s : State), s.dev.svc.rom = false → exec (.romConsoleCommand line) s = .next s)

/-- R55, R57, R72, R82, R591, R651, R655 to R658, R660, R662: the console's changes. Each has its effect in the states of Table 21.1's
Needs column and answers OK; in another state, and where its own condition fails, it answers its error and changes nothing but the count of
commands. A reset comes after its answer, and so does a change of the rate. -/
def Obligations.ConsoleCommandsAct : Prop :=
  (∀ (s : State), s.dev.consoleUp = true → s.dev.svc.rom = false →
      exec .seal s = .next (s.commit (((s.typed "seal").onSvc fun v => { v with unsealed := false }).final 0 0)) ∧
      exec .consoleResetWarm s = .next (s.after ((s.typed "reset warm").final 0 0).warmReset)) ∧
  (∀ (rate : Nat) (s : State), s.dev.consoleUp = true → s.dev.svc.rom = false →
      let w := s.typed ("baud " ++ dec rate)
      (rate ∈ [115200, 460800, 921600, 1500000, 3000000] →
        exec (.baud rate) s = .next (s.commit ((w.final 0 0).onSvc fun v => { v with baud := rate }))) ∧
      (rate ∉ [115200, 460800, 921600, 1500000, 3000000] → exec (.baud rate) s = .next (s.commit (w.final 0x04 0)))) ∧
  (∀ (s : State), s.dev.consoleUp = true → s.dev.svc.rom = false → mayEnterService s.dev.hub.st = true →
      exec .svcEnter s = .next (s.after ((s.typed "svc enter").enterService.final 0 0))) ∧
  (∀ (s : State), s.dev.consoleUp = true → s.dev.svc.rom = false → mayEnterService s.dev.hub.st = false →
      ∃ d, exec .svcEnter s = .next (s.after ((s.typed "svc enter").final 0x06 d))) ∧
  (∀ (die : Nat) (s : State), s.dev.consoleUp = true → s.dev.svc.rom = false → mayResetDie s.dev.hub.st = true →
      let w := s.typed ("reset die " ++ dec die)
      (die < 4 → exec (.consoleResetDie die) s = .next (s.after ((w.final 0 0).askDieReset die))) ∧
      (3 < die → exec (.consoleResetDie die) s = .next (s.after (w.final 0x04 0)))) ∧
  (∀ (s : State), s.dev.consoleUp = true → s.dev.svc.rom = false → s.dev.hub.st = .service →
      (s.dev.pin.serviceMode = false → exec .svcLeave s = .next (s.after ((s.typed "svc leave").leaveService.final 0 0))) ∧
      (s.dev.pin.serviceMode = true → ∃ d, exec .svcLeave s = .next (s.after ((s.typed "svc leave").final 0x06 d)))) ∧
  (∀ (arg : DWord) (s : State), s.dev.consoleUp = true → s.dev.svc.rom = false → s.dev.hub.st = .service →
      let w := s.typed ("unseal " ++ hexW 16 arg.toNat)
      (s.dev.pin.serviceMode = true → arg.toNat = s.dev.fuse.serial → s.dev.fuse.sealCount < 32 →
        exec (.unseal arg) s = .next (s.commit ((((w.onFuse fun f => { f with sealCount := f.sealCount + 1 }).onSvc fun v =>
          { v with unsealed := true }).line (kv "counts_left" (dec (32 - (s.dev.fuse.sealCount + 1))))).final 0 0))) ∧
      (s.dev.pin.serviceMode = false → ∃ d, exec (.unseal arg) s = .next (s.commit (w.final 0x06 d)))) ∧
  (∀ (step : Nat) (s : State), s.dev.consoleUp = true → s.dev.svc.rom = false → s.dev.hub.st = .service → step ≤ 18 →
      exec (.consoleStep step) s = .next (s.commit ((((s.typed ("step " ++ dec step)).onSvc fun v =>
        { v with stepLimit := some step }).onLim fun l => { l with service := step }).final 0 0))) ∧
  (∀ (island step : Nat) (s : State), s.dev.consoleUp = true → s.dev.svc.rom = false → s.dev.hub.st = .service → step ≤ 18 →
      let w := s.typed ("step island " ++ islandName island ++ " " ++ dec step)
      (island < 256 → exec (.consoleStepIsland island step) s =
        .next (s.commit ((w.onCore island fun c => { c with held := some step }).final 0 0))) ∧
      (256 ≤ island → island < 260 → exec (.consoleStepIsland island step) s =
        .next (s.commit ((w.onPwr fun p => { p with blkHeld := Tab.put p.blkHeld (island - 256) step }).final 0 0)))) ∧
  (∀ (addr value mask : Word) (s : State), s.dev.consoleUp = true → s.dev.svc.rom = false → s.dev.hub.st = .service →
      let w := s.typed ("reg wr " ++ hex32 addr.toNat ++ " " ++ hex32 value.toNat ++ " " ++ hex32 mask.toNat)
      (s.dev.svc.unsealed = true → s.dev.regUp addr.toNat = true → rangeOk addr.toNat 1 = true →
        let x := w.writeReg addr.toNat value.toNat mask.toNat
        exec (.consoleRegWr addr value mask) s = .next (s.after (x.2.2.final x.1 x.2.1))) ∧
      (s.dev.svc.unsealed = false → ∃ d, exec (.consoleRegWr addr value mask) s = .next (s.after (w.final 0x06 d)))) ∧
  (∀ (mask : DWord) (s : State), s.dev.consoleUp = true → s.dev.svc.rom = false → s.dev.hub.st = .service → mask.toNat < 2 ^ 40 →
    s.dev.cmds = [] → s.dev.swatchConflict mask.toNat = false →
      ∃ p : PendCmd, p.ch = consoleCh ∧ p.wait = .swatch ∧ exec (.consoleSwatch mask) s = .next (s.commit
        ((((s.typed ("swatch " ++ hexW 1 mask.toNat)).onDev fun d => { d with cmds := [p] }).beginSwatches mask.toNat true).endSwatches))) ∧
  (∀ (op : BitVec 16) (target : Word) (ps : List Byte) (s : State), s.dev.consoleUp = true → s.dev.svc.rom = false →
      let w := s.typed ("cmd " ++ hexW 4 op.toNat ++ " " ++ hexBytes (toLe 4 target.toNat ++ ps))
      (specOf op.toNat = none → exec (.consoleCmd op target ps) s = .next (s.after (w.final 0x03 op.toNat))) ∧
      ∀ sp, specOf op.toNat = some sp →
        (sp.set ≠ .stat → exec (.consoleCmd op target ps) s = .next (s.after (w.final 0x03 op.toNat))) ∧
        (sp.set = .stat → ∀ r w', w.packetReply sp target.toNat ps = (some r, w') →
          exec (.consoleCmd op target ps) s = .next (s.after ((w'.line (joined " " [kv "status" (statusName r.status),
            kv "detail" (hex32 r.detail), kv "payload" (hexBytes r.payload)])).final 0 0))))

/-- One step takes the command at the front of the queue and executes it with the queue's rest, first in, first out. -/
def Obligations.StepRunsTheFrontCommand : Prop :=
  ∀ (s : State) (c : Instr) (rest : List Instr), s.pending = c :: rest → step s = exec c { s with pending := rest }

/-- The model's choice (DESIGN CHOICE, log entry 16): a step on an empty queue answers a state; it changes nothing while the hub has no power, and else, with
no relay under way, advances the clocks by 1 ns and nothing else: a waiting slew of global time moves by its step (R521). -/
def Obligations.AnIdleStepPassesTime : Prop :=
  (∀ s : State, s.pending = [] → ∃ t, step s = .next t ∧ t.pending = []) ∧
  (∀ s : State, s.pending = [] → s.dev.hub.st = .off → step s = .next s) ∧
  (∀ s : State, s.pending = [] → s.dev.hub.st ≠ .off → s.dev.fw.relays = [] →
    step s = .next { s with dev := { s.dev.passCycles with clk := s.dev.clk.pass } }) ∧
  (∀ c : Clk, c.pass.mono = c.mono + 1 ∧ (c.slew = 0 → c.pass.now = c.now + 1 ∧ c.pass.slew = 0)) ∧
  (∀ d : Dev, d.hub.rails = false → d.passCycles = d)

/-- Every command answers a state; it appends to what the block has sent and leaves the queue of waiting commands as it is. -/
def Obligations.CommandsAnswerAndKeepTheQueue : Prop :=
  ∀ (c : Instr) (s : State), ∃ t, exec c s = .next t ∧ t.pending = s.pending ∧ s.tx <+: t.tx

/-- The block right after reset (Table 2.4, R58): memory in canonical form with nothing listed, the invariant holds, no command waits, nothing
is sent, nothing pends, and no object lives. -/
def Obligations.ResetLeavesAnEmptyMachine : Prop :=
  State.reset.Inv ∧ State.reset.mem.cells = [] ∧ State.reset.mem.poison = [] ∧ State.reset.pending = [] ∧ State.reset.tx = [] ∧
    State.reset.dev.hub.st = .standby ∧ State.reset.dev.cmds = [] ∧ State.reset.dev.chans = [] ∧ State.reset.dev.bufs = [] ∧
    State.reset.dev.strms = [] ∧ State.reset.dev.graphs = [] ∧ State.reset.dev.jobs = [] ∧ State.reset.dev.feeds = [] ∧
    (∀ a, State.reset.byte a = 0)

/-- R10: registers of every block with a reset value other than 0 in their Reset column read as it from reset (Tables 2.7, 3.7, 4.8, 7.7, 8.5,
16.6, 17.7, 18.8 and 21.4): HUB_DEV_STATE, HUB_ERRLOG_NEXT_LO, ETH_CFG, PWR_CAP_SET, PWR_CEILING, PWR_STEP_LIM, PWR_TJ_CFG, SVC_BAUD; and on
each die SCHED_TICK, MEM_SCRUB_CFG, YL_CFG and CORE_FP_CTL of each core. -/
def Obligations.RegistersHoldTheirResetValues : Prop :=
  (∀ e ∈ [(0x10, 0x1), (0x3020, 0x1), (0x100004, 0xCF001000), (0x300004, 0xD48), (0x300008, 0x960), (0x30000C, 0x12), (0x300010, 0x5A5F),
      (0x600004, 0x1C200)], (State.reset.work.readRegs e.1 1).1 = [e.2]) ∧
  (∀ die ∈ List.range 4, ∀ e ∈ [(0x200000, 0x3E8), (0x300000, 0x801), (0x700800, 0x1)],
    (State.reset.work.readRegs (0x1000000 + 0x1000000 * die + e.1) 1).1 = [e.2]) ∧
  (∀ die ∈ List.range 4, ∀ core ∈ List.range 64,
    (State.reset.work.readRegs (0x1800000 + 0x1000000 * die + 0x1000 * core + 8) 1).1 = [0x40])

/-- R58 (Table 2.7): the register HUB_DEV_STATE, at 0x0000_0010, reports the device state: the state code in [3:0], DEGRADED in [4], the state
code before the last transition in [15:8], the number of job tags with a running graph in [23:16], 0 in the other bits; a write to it has no
effect. -/
def Obligations.HubDevStateReportsTheState : Prop :=
  (∀ w : W, w.dev.hub.prev < 10 → w.dev.runningTags < 256 →
    ∃ v, (w.readRegs 0x10 1).1 = [v] ∧ v < 2 ^ 24 ∧ bits v 0 4 = w.dev.hub.st.code ∧ bit v 4 = w.dev.hub.degraded ∧ bits v 5 3 = 0 ∧
      bits v 8 8 = w.dev.hub.prev ∧ bits v 16 8 = w.dev.runningTags) ∧
  (∀ (w : W) (v m : Nat), w.writeReg 0x10 v m = (0, 0, w))

/-- The canonical form of memory (addresses strictly rising, no listed byte 0, poison marks strictly rising) is kept by every step of the
block, whatever the command, from every state that has it. -/
def Obligations.EveryStepKeepsMemoryCanonical : Prop :=
  ∀ s t : State, s.Inv → step s = .next t → t.Inv

/-- R120, R564: what a command's writes leave in memory. Each byte is that of the latest write that covers its address, else the byte from
before; a write of a whole line clears its poison, a write of part of it keeps the poison, a moved range takes its poison along. -/
def Obligations.MemoryReadsBackWhatIsWritten : Prop :=
  ∀ (m : Mem) (ops : List MemOp), m.wf = true → (∀ o ∈ ops, o.Apart) →
    (∀ a, readCells (m.applyAll ops.reverse).cells a = readOver (readCells m.cells) ops a) ∧
    (∀ l, l % 64 = 0 → (m.applyAll ops.reverse).poison.contains l = poisonOver (fun k => m.poison.contains k) ops l)

/-- R240, R564: a scalar store of the running task stores its register's low bytes, little-endian, at its range of the core store; every other
byte of the device's memory keeps its value, every poison mark stays, nothing is sent. -/
def Obligations.ScalarStoresChangeOnlyTheirBytes : Prop :=
  ∀ (s : State) (core : Nat) (i : CoreMem), s.Inv → s.dev.Quiet → Issues s core i.ecc → i.ecc = [] → i.scalar = true → i.reg < 32 →
    (i.bytes = 1 ∨ i.bytes = 2 ∨ i.bytes = 4 ∨ i.bytes = 8) → s.dev.coreBad core i.off i.bytes 1 = none →
      ∃ t, exec (.coreStore core i) s = .next t ∧ t.Inv ∧ t.tx = s.tx ∧ t.pending = s.pending ∧ t.mem.poison = s.mem.poison ∧
        (∀ k, k < i.bytes → t.byte (coreBase core + i.off + k) = (toLe i.bytes ((s.dev.core core).sreg i.reg)).getD k 0) ∧
        (∀ a, ¬ (coreBase core + i.off ≤ a ∧ a < coreBase core + i.off + i.bytes) → t.byte a = s.byte a) ∧
        (∀ n, (t.dev.core n).sregs = (s.dev.core n).sregs ∧ (t.dev.core n).vregs = (s.dev.core n).vregs ∧
          (t.dev.core n).masks = (s.dev.core n).masks ∧ (t.dev.core n).acc = (s.dev.core n).acc)

/-- R39 (Table 2.3a, steps 1 to 4, with R40): on a channel that takes packets, the first of these checks that fails decides. A wrong MAGIC is
counted and has no reply; a wrong HDR_CRC returns INTEGRITY with the value computed; a header field returns BAD_PARAM with its offset; a SEQ
that is not the expected one returns BAD_PARAM, detail 0x0008, and the expected SEQ. Nothing else happens but the acknowledgement. -/
def Obligations.PacketChecksDecideInOrder : Prop :=
  ∀ (i : Instr) (sp : OpSpec) (ch : Nat) (p : Packet) (s : State) (c : Chan), packetOf i = some (sp, ch, p) → Open s ch c →
    (p.hdr.magic ≠ 0x5356 → ∃ e, exec i s = .next (s.commit e) ∧
      Ends ((s.acked ch c.psn).onEth fun x => { x with cmdDrop := satAdd 32 x.cmdDrop 1 }) e) ∧
    (p.hdr.magic = 0x5356 → crc32c (packetCrcBytes p sp.op) ≠ p.hdr.hdrCrc.toNat → ∃ e, exec i s = .next (s.commit e) ∧
      Ends ((s.acked ch c.psn).reply ch p.hdr sp.op 0x0E (crc32c (packetCrcBytes p sp.op)) []) e) ∧
    (∀ off, Intact sp.op p → headerBad p = some off → ∃ e, exec i s = .next (s.commit e) ∧
      Ends ((s.acked ch c.psn).reply ch p.hdr sp.op 0x04 off []) e) ∧
    (∀ x, Intact sp.op p → headerBad p = none → c.expSeq = some x → x ≠ p.hdr.seq.toNat → ∃ e, exec i s = .next (s.commit e) ∧
      Ends ((s.acked ch c.psn).reply ch p.hdr sp.op 0x04 0x0008 (toLe 4 x)) e)

/-- R40: the first packet of a channel that passes steps 1 to 3 sets the expected SEQ to its own and passes step 4; each later packet must
carry the previous value plus 1, modulo 2^32; a packet that is discarded or rejected at steps 1 to 4 leaves the expected SEQ as it was. -/
def Obligations.ExpectedSeqAdvances : Prop :=
  (∀ (op ch : Nat) (p : Packet) (s : State) (c : Chan), Open s ch c → Intact op p → headerBad p = none → c.expSeq = none → Sound op ch p s c) ∧
  (∀ (op ch : Nat) (p : Packet) (s : State) (c : Chan) (x : Nat), Open s ch c → c.expSeq = some x →
    (Sound op ch p s c ↔ Intact op p ∧ headerBad p = none ∧ p.hdr.seq.toNat = x)) ∧
  (∀ (op ch : Nat) (p : Packet) (s : State) (c : Chan), Sound op ch p s c →
    (Tab.get (s.taken ch p c.psn).dev.chans ch).bind (·.expSeq) = some ((p.hdr.seq.toNat + 1) % 2 ^ 32)) ∧
  (∀ (i : Instr) (sp : OpSpec) (ch : Nat) (p : Packet) (s : State) (c : Chan), packetOf i = some (sp, ch, p) → Open s ch c →
    ¬ Sound sp.op ch p s c → ∃ w e, exec i s = .next (s.commit e) ∧ Ends w e ∧ (Tab.get w.dev.chans ch).bind (·.expSeq) = c.expSeq)

/-- R37 (Tables 2.1 and 2.2): a reply on the wire is 64 bytes of header and the payload. The header repeats the command's, but for STATUS,
PAYLOAD_LEN, DETAIL, DEV_STATE and HDR_CRC, which is the CRC-32C of the 60 bytes before it. A successful command with ACK_REQ = 0 has none. -/
def Obligations.RepliesRepeatTheHeader : Prop :=
  (∀ r : Reply, r.hdr.reserved.length = 43 →
    r.wire.length = 64 + r.payload.length ∧ fld r.wire 0x00 2 = r.hdr.magic.toNat ∧ fld r.wire 0x02 1 = r.hdr.version.toNat ∧
      fld r.wire 0x03 1 = r.status % 2 ^ 8 ∧ fld r.wire 0x04 2 = r.op % 2 ^ 16 ∧ fld r.wire 0x06 2 = r.payload.length % 2 ^ 16 ∧
      fld r.wire 0x08 4 = r.hdr.seq.toNat ∧ fld r.wire 0x0C 4 = r.hdr.target.toNat ∧ fld r.wire 0x10 1 = r.hdr.jobTag.toNat ∧
      slice r.wire 0x11 3 = r.hdr.reserved.take 3 ∧ fld r.wire 0x14 4 = r.detail % 2 ^ 32 ∧ fld r.wire 0x18 1 = r.devState % 2 ^ 8 ∧
      slice r.wire 0x19 35 = r.hdr.reserved.drop 8 ∧ fld r.wire 0x3C 4 = crc32c (slice r.wire 0 60) % 2 ^ 32 ∧ r.wire.drop 64 = r.payload) ∧
  (∀ (w : W) (ch op : Nat) (h : Header) (b : List Byte), ackReq h = false → w.reply ch h op 0 0 b = w)

/-- R288: after an operation on a sync object its die wakes, in order of registration, every REACH waiter whose amount the value reaches; then
TAKE waiters from the head of their queue, each taking its amount, while the head's amount is at most the value. The first that the value
cannot satisfy holds back all behind it. -/
def Obligations.WakingFollowsR288 : Prop :=
  ∀ (w : W) (obj : Nat) (s : Sync), Tab.get w.dev.syncs obj = some s → ∃ k, k ≤ s.takers.length ∧
    (∀ j t, j < k → s.takers[j]? = some t → t.2 ≤ s.left j) ∧ (∀ t, s.takers[k]? = some t → s.left k < t.2) ∧
    w.settle obj =
      ((s.takers.take k).zipIdx).foldl (fun w t => (w.noteTake obj t.1.2).release t.1.1 (s.left (t.2 + 1)))
        ((s.reachers.filter fun r => r.2 ≤ s.val).foldl (fun w r => w.release r.1 s.val)
          (w.onSync obj fun s => { s with
            val := s.left k, takers := s.takers.drop k, reachers := s.reachers.filter fun r => !(r.2 ≤ s.val) })) ∧
    ∃ s', Tab.get (w.settle obj).dev.syncs obj = some s' ∧ s'.val = s.left k ∧ s'.takers = s.takers.drop k ∧
      s'.reachers = s.reachers.filter fun r => !(r.2 ≤ s.val)

/-- R287, R288: on an object for which nothing waits, ADD adds and saturates at 2^64 - 1 with SYNC_SAT set, SET replaces the value, TAKE
subtracts an amount that the value reaches and else waits, and REACH waits for a value not yet reached and subtracts nothing. -/
def Obligations.SyncOperationsChangeTheValue : Prop :=
  ∀ (w : W) (obj : Nat) (s : Sync), Tab.get w.dev.syncs obj = some s → s.takers = [] → s.reachers = [] →
    (∀ a, ∃ s', Tab.get (w.syncOp obj (.add a)).dev.syncs obj = some s' ∧ s'.val = min (s.val + a) (2 ^ 64 - 1) ∧
      s'.sat = (s.sat || decide (2 ^ 64 - 1 < s.val + a)) ∧ s'.takers = [] ∧ s'.reachers = []) ∧
    (∀ v, ∃ s', Tab.get (w.syncOp obj (.set v)).dev.syncs obj = some s' ∧ s'.val = v ∧ s'.sat = s.sat) ∧
    (∀ wt a, ∃ s', Tab.get (w.syncOp obj (.take wt a)).dev.syncs obj = some s' ∧
      (a ≤ s.val → s'.val = s.val - a ∧ s'.takers = []) ∧ (s.val < a → s'.val = s.val ∧ s'.takers = [(wt, a)])) ∧
    (∀ wt v, ∃ s', Tab.get (w.syncOp obj (.reach wt v)).dev.syncs obj = some s' ∧ s'.val = s.val ∧
      (v ≤ s.val → s'.reachers = []) ∧ (s.val < v → s'.reachers = [(wt, v)]))

/-- R61: generations run from 1 to 4,095. An index that has had an object takes the previous generation plus 1, and 4,095 is followed by 1; an
index that has had none since the reset takes (boot count mod 4,095) + 1. What is issued is remembered, for its own index alone. -/
def Obligations.GenerationsAdvance : Prop :=
  ∀ (w : W) (kind i : Nat), i < 65536 →
    (∀ p, Tab.get w.dev.hgen (kind * 65536 + i) = some p → 1 ≤ p → p ≤ 4095 →
      (w.nextGen kind i).1 = (if p = 4095 then 1 else p + 1) ∧ 1 ≤ (w.nextGen kind i).1 ∧ (w.nextGen kind i).1 ≤ 4095) ∧
    (Tab.get w.dev.hgen (kind * 65536 + i) = none → (w.nextGen kind i).1 = w.dev.hub.bootBase % 4095 + 1) ∧
    Tab.get (w.nextGen kind i).2.dev.hgen (kind * 65536 + i) = some (w.nextGen kind i).1 ∧
    (∀ kind' j, j < 65536 → ¬ (kind' = kind ∧ j = i) →
      Tab.get (w.nextGen kind i).2.dev.hgen (kind' * 65536 + j) = Tab.get w.dev.hgen (kind' * 65536 + j))

/-- R249: a matrix instruction that names FP64 (code 0x19) raises ILLEGAL. -/
def Obligations.MatrixFp64IsIllegal : Prop :=
  ∀ (s : State) (core : Nat) (i : MatMul), Issues s core i.ecc → (i.tyA = 0x19 ∨ i.tyB = 0x19) →
    exec (.matrixMultiply core i) s = .next (s.after ((s.fetched i.ecc).coreFault core 0x01 0))
end

