-- ==== Sys2Proof/Laws/Mem.lean ====
section
/-! SUPPORT. Memory: every operation keeps the canonical form, and a write is read back where it went and nowhere else. -/

namespace Sys2Proof.Machine

/-- The cells' half of the canonical form. -/
def CellsWf (m : List Host.Cell) : Prop := (m.map Prod.fst).Pairwise (· < ·) ∧ ∀ c ∈ m, c.2 ≠ 0

theorem Mem.wf_iff (m : Mem) : m.wf = true ↔ CellsWf m.cells ∧ m.poison.Pairwise (· < ·) := by
  simp [Mem.wf, CellsWf]

theorem CellsWf.tail {c : Host.Cell} {m : List Host.Cell} (h : CellsWf (c :: m)) : CellsWf m :=
  ⟨(List.pairwise_cons.mp h.1).2, fun x hx => h.2 x (List.mem_cons_of_mem _ hx)⟩

theorem CellsWf.lt {c x : Host.Cell} {m : List Host.Cell} (h : CellsWf (c :: m)) (hx : x ∈ m) : c.1 < x.1 :=
  (List.pairwise_cons.mp h.1).1 x.1 (List.mem_map_of_mem hx)

theorem CellsWf.cons {c : Host.Cell} {m : List Host.Cell} (h : CellsWf m) (hc : c.2 ≠ 0) (hlt : ∀ x ∈ m, c.1 < x.1) : CellsWf (c :: m) := by
  refine ⟨List.pairwise_cons.mpr ⟨?_, h.1⟩, ?_⟩
  · intro a ha
    obtain ⟨x, hx, rfl⟩ := List.mem_map.mp ha
    exact hlt x hx
  · intro x hx
    rcases List.mem_cons.mp hx with rfl | hx
    · exact hc
    · exact h.2 x hx

theorem mem_writeCell {m : List Host.Cell} {n : Nat} {b : Byte} {x : Host.Cell} (h : x ∈ writeCell m n b) : x = (n, b) ∨ x ∈ m := by
  induction m with
  | nil => simp only [writeCell] at h; split at h <;> simp_all
  | cons c t ih =>
    obtain ⟨a, v⟩ := c
    simp only [writeCell] at h
    split at h
    · split at h
      · exact .inr (List.mem_cons_of_mem _ h)
      · next hn _ => subst hn; simp at h; rcases h with h | h <;> simp_all
    · split at h
      · split at h
        · exact .inr h
        · simp at h; rcases h with h | h | h <;> simp_all
      · rcases List.mem_cons.mp h with h | h
        · exact .inr (by simp [h])
        · rcases ih h with h | h
          · exact .inl h
          · exact .inr (List.mem_cons_of_mem _ h)

theorem writeCell_wf {m : List Host.Cell} (h : CellsWf m) (n : Nat) (b : Byte) : CellsWf (writeCell m n b) := by
  induction m with
  | nil =>
    simp only [writeCell]; split
    · exact h
    · next hb => exact CellsWf.cons h hb (by simp)
  | cons c t ih =>
    obtain ⟨a, v⟩ := c
    simp only [writeCell]
    split
    · next hn =>
      subst hn
      split
      · exact h.tail
      · next hb => exact CellsWf.cons h.tail hb (fun x hx => h.lt hx)
    · split
      · next hn hlt =>
        split
        · exact h
        · next hb =>
          refine CellsWf.cons h hb ?_
          intro x hx
          rcases List.mem_cons.mp hx with rfl | hx
          · exact hlt
          · exact lt_trans hlt (h.lt hx)
      · next hn hlt =>
        refine CellsWf.cons (ih h.tail) (h.2 _ (List.mem_cons_self ..)) ?_
        intro x hx
        rcases mem_writeCell hx with rfl | hx
        · show a < n; omega
        · exact h.lt hx

theorem writeBytes_wf {m : List Host.Cell} (h : CellsWf m) (a : Nat) (bs : List Byte) : CellsWf (writeBytes m a bs) := by
  induction bs generalizing m a with
  | nil => exact h
  | cons b t ih => exact ih (writeCell_wf h a b) (a + 1)

theorem filter_wf {m : List Host.Cell} (h : CellsWf m) (p : Host.Cell → Bool) : CellsWf (m.filter p) :=
  ⟨h.1.sublist ((List.filter_sublist).map _), fun c hc => h.2 c (List.mem_filter.mp hc).1⟩

theorem foldWrite_wf {m : List Host.Cell} (h : CellsWf m) (cs : List Host.Cell) (f : Host.Cell → Nat) :
    CellsWf (cs.foldl (fun acc c => writeCell acc (f c) c.2) m) := by
  induction cs generalizing m with
  | nil => exact h
  | cons c t ih => exact ih (writeCell_wf h _ _)

theorem mem_addLine {l : List Nat} {n x : Nat} (h : x ∈ addLine l n) : x = n ∨ x ∈ l := by
  induction l with
  | nil => simp [addLine] at h; exact .inl h
  | cons y t ih =>
    simp only [addLine] at h
    split at h
    · exact .inr h
    · split at h
      · rcases List.mem_cons.mp h with h | h
        · exact .inl h
        · exact .inr h
      · rcases List.mem_cons.mp h with h | h
        · exact .inr (by simp [h])
        · rcases ih h with h | h
          · exact .inl h
          · exact .inr (List.mem_cons_of_mem _ h)

theorem addLine_wf {l : List Nat} (h : l.Pairwise (· < ·)) (n : Nat) : (addLine l n).Pairwise (· < ·) := by
  induction l with
  | nil => simp [addLine]
  | cons y t ih =>
    have hy := List.pairwise_cons.mp h
    simp only [addLine]
    split
    · exact h
    · split
      · next hlt =>
        refine List.pairwise_cons.mpr ⟨?_, h⟩
        intro x hx
        rcases List.mem_cons.mp hx with rfl | hx
        · exact hlt
        · exact lt_trans hlt (hy.1 x hx)
      · next hn hlt =>
        refine List.pairwise_cons.mpr ⟨?_, ih hy.2⟩
        intro x hx
        rcases mem_addLine hx with rfl | hx
        · omega
        · exact hy.1 x hx

theorem foldLines_wf {l : List Nat} (h : l.Pairwise (· < ·)) (ns : List Nat) (f : Nat → Nat) :
    (ns.foldl (fun acc x => addLine acc (f x)) l).Pairwise (· < ·) := by
  induction ns generalizing l with
  | nil => exact h
  | cons n t ih => exact ih (addLine_wf h _)

/-- Every write keeps the canonical form. -/
theorem Mem.apply_wf {m : Mem} (h : m.wf = true) (o : MemOp) : (m.apply o).wf = true := by
  obtain ⟨hc, hp⟩ := (Mem.wf_iff m).mp h
  have hf : ∀ p : Nat → Bool, (m.poison.filter p).Pairwise (· < ·) := fun p => hp.sublist (List.filter_sublist)
  refine (Mem.wf_iff _).mpr ?_
  cases o with
  | put a bs => exact ⟨writeBytes_wf hc a bs, hf _⟩
  | clear a n => exact ⟨filter_wf hc _, hf _⟩
  | move src dst n =>
    exact ⟨filter_wf (foldWrite_wf (filter_wf hc _) _ (fun c => c.1 - src + dst)) _, foldLines_wf (hf _) _ (fun l => l - src + dst)⟩
  | mark a n => exact ⟨hc, foldLines_wf hp _ id⟩
  | clean a n => exact ⟨hc, hf _⟩

/-- A command's writes keep the canonical form. -/
theorem Mem.applyAll_wf {m : Mem} (h : m.wf = true) (ops : List MemOp) : (m.applyAll ops).wf = true := by
  induction ops generalizing m with
  | nil => exact h
  | cons o t ih => exact ih (Mem.apply_wf h o)

theorem readCells_of_lt {m : List Host.Cell} {n : Nat} (h : ∀ x ∈ m, n < x.1) : readCells m n = 0 := by
  cases m with
  | nil => rfl
  | cons c t =>
    have := h c (List.mem_cons_self ..)
    simp only [readCells]
    rw [if_neg (by omega), if_pos this]

/-- A byte stored is read back where it went; every other address reads as before. -/
theorem readCells_writeCell {m : List Host.Cell} (h : CellsWf m) (n : Nat) (b : Byte) (a : Nat) :
    readCells (writeCell m n b) a = if a = n then b else readCells m a := by
  induction m with
  | nil =>
    simp only [writeCell]
    split
    · next hb => simp [readCells, hb]
    · simp [readCells]
  | cons c t ih =>
    obtain ⟨k, v⟩ := c
    simp only [writeCell]
    split
    · next hn =>
      subst hn
      split
      · next hb =>
        by_cases ha : a = n
        · subst ha; simp [hb, readCells_of_lt (fun x hx => h.lt hx)]
        · by_cases hl : a < n
          · simp [readCells, ha, hl, readCells_of_lt (fun x hx => lt_trans hl (h.lt hx))]
          · simp [readCells, ha, hl]
      · by_cases ha : a = n <;> simp [readCells, ha]
    · next hn =>
      split
      · next hlt =>
        split
        · next hb =>
          by_cases ha : a = n
          · subst ha; simp [readCells, hn, hlt, hb]
          · simp [ha]
        · by_cases ha : a = n
          · simp [readCells, ha]
          · by_cases hl : a < n
            · have h1 : a ≠ k := by omega
              have h2 : a < k := by omega
              simp [readCells, ha, hl, h1, h2]
            · simp [readCells, ha, hl]
      · next hlt =>
        by_cases hk : a = k
        · have : a ≠ n := by omega
          simp [readCells, hk]; intro h0; exact absurd h0.symm hn
        · by_cases hl : a < k
          · have : a ≠ n := by omega
            simp [readCells, hk, hl, this]
          · simp [readCells, hk, hl, ih h.tail]

/-- A sequence of bytes stored is read back where it went; every other address reads as before. -/
theorem readCells_writeBytes {m : List Host.Cell} (h : CellsWf m) (p : Nat) (bs : List Byte) (a : Nat) :
    readCells (writeBytes m p bs) a = if p ≤ a ∧ a < p + bs.length then bs.getD (a - p) 0 else readCells m a := by
  induction bs generalizing m p with
  | nil =>
    rw [if_neg (by simp only [List.length_nil]; omega)]; rfl
  | cons b t ih =>
    simp only [writeBytes]
    rw [ih (writeCell_wf h p b) (p + 1), readCells_writeCell h]
    by_cases h0 : a = p
    · subst h0; simp
    · by_cases h1 : p + 1 ≤ a ∧ a < p + 1 + t.length
      · have h2 : p ≤ a ∧ a < p + (t.length + 1) := by omega
        have h3 : a - p = (a - (p + 1)) + 1 := by omega
        simp [h1, h2, h3]
      · have h2 : ¬ (p ≤ a ∧ a < p + (t.length + 1)) := by omega
        rw [if_neg h1, if_neg h0]; simp only [List.length_cons]; rw [if_neg h2]

end Sys2Proof.Machine
end

