-- ==== Sys2Proof/Laws/State.lean ====
section
/-! SUPPORT. What each named update of a command's working copy changes and what it leaves, field by field; and the fields of a
committed state. -/

namespace Sys2Proof.Machine

variable (w : W) (s : State)

@[simp] theorem W.onDev_dev (f : Dev → Dev) : (w.onDev f).dev = f w.dev := rfl
@[simp] theorem W.onDev_base (f : Dev → Dev) : (w.onDev f).base = w.base := rfl
@[simp] theorem W.onDev_wr (f : Dev → Dev) : (w.onDev f).wr = w.wr := rfl
@[simp] theorem W.onDev_out (f : Dev → Dev) : (w.onDev f).out = w.out := rfl
@[simp] theorem W.onHub_dev (f : Hub → Hub) : (w.onHub f).dev = { w.dev with hub := f w.dev.hub } := rfl
@[simp] theorem W.onHub_base (f : Hub → Hub) : (w.onHub f).base = w.base := rfl
@[simp] theorem W.onHub_wr (f : Hub → Hub) : (w.onHub f).wr = w.wr := rfl
@[simp] theorem W.onHub_out (f : Hub → Hub) : (w.onHub f).out = w.out := rfl
@[simp] theorem W.onClk_dev (f : Clk → Clk) : (w.onClk f).dev = { w.dev with clk := f w.dev.clk } := rfl
@[simp] theorem W.onClk_base (f : Clk → Clk) : (w.onClk f).base = w.base := rfl
@[simp] theorem W.onClk_wr (f : Clk → Clk) : (w.onClk f).wr = w.wr := rfl
@[simp] theorem W.onClk_out (f : Clk → Clk) : (w.onClk f).out = w.out := rfl
@[simp] theorem W.onPin_dev (f : Pins → Pins) : (w.onPin f).dev = { w.dev with pin := f w.dev.pin } := rfl
@[simp] theorem W.onPin_base (f : Pins → Pins) : (w.onPin f).base = w.base := rfl
@[simp] theorem W.onPin_wr (f : Pins → Pins) : (w.onPin f).wr = w.wr := rfl
@[simp] theorem W.onPin_out (f : Pins → Pins) : (w.onPin f).out = w.out := rfl
@[simp] theorem W.onEth_dev (f : Eth → Eth) : (w.onEth f).dev = { w.dev with eth := f w.dev.eth } := rfl
@[simp] theorem W.onEth_base (f : Eth → Eth) : (w.onEth f).base = w.base := rfl
@[simp] theorem W.onEth_wr (f : Eth → Eth) : (w.onEth f).wr = w.wr := rfl
@[simp] theorem W.onEth_out (f : Eth → Eth) : (w.onEth f).out = w.out := rfl
@[simp] theorem W.onMs_dev (f : MemSys → MemSys) : (w.onMs f).dev = { w.dev with ms := f w.dev.ms } := rfl
@[simp] theorem W.onMs_base (f : MemSys → MemSys) : (w.onMs f).base = w.base := rfl
@[simp] theorem W.onMs_wr (f : MemSys → MemSys) : (w.onMs f).wr = w.wr := rfl
@[simp] theorem W.onMs_out (f : MemSys → MemSys) : (w.onMs f).out = w.out := rfl
@[simp] theorem W.onLog_dev (f : Log → Log) : (w.onLog f).dev = { w.dev with log := f w.dev.log } := rfl
@[simp] theorem W.onLog_base (f : Log → Log) : (w.onLog f).base = w.base := rfl
@[simp] theorem W.onLog_wr (f : Log → Log) : (w.onLog f).wr = w.wr := rfl
@[simp] theorem W.onLog_out (f : Log → Log) : (w.onLog f).out = w.out := rfl
@[simp] theorem W.onStore_dev (f : Store → Store) : (w.onStore f).dev = { w.dev with store := f w.dev.store } := rfl
@[simp] theorem W.onStore_base (f : Store → Store) : (w.onStore f).base = w.base := rfl
@[simp] theorem W.onStore_wr (f : Store → Store) : (w.onStore f).wr = w.wr := rfl
@[simp] theorem W.onStore_out (f : Store → Store) : (w.onStore f).out = w.out := rfl
@[simp] theorem W.onFuse_dev (f : Fuse → Fuse) : (w.onFuse f).dev = { w.dev with fuse := f w.dev.fuse } := rfl
@[simp] theorem W.onFuse_base (f : Fuse → Fuse) : (w.onFuse f).base = w.base := rfl
@[simp] theorem W.onFuse_wr (f : Fuse → Fuse) : (w.onFuse f).wr = w.wr := rfl
@[simp] theorem W.onFuse_out (f : Fuse → Fuse) : (w.onFuse f).out = w.out := rfl
@[simp] theorem W.onFw_dev (f : Fw → Fw) : (w.onFw f).dev = { w.dev with fw := f w.dev.fw } := rfl
@[simp] theorem W.onFw_base (f : Fw → Fw) : (w.onFw f).base = w.base := rfl
@[simp] theorem W.onFw_wr (f : Fw → Fw) : (w.onFw f).wr = w.wr := rfl
@[simp] theorem W.onFw_out (f : Fw → Fw) : (w.onFw f).out = w.out := rfl
@[simp] theorem W.onSvc_dev (f : Svc → Svc) : (w.onSvc f).dev = { w.dev with svc := f w.dev.svc } := rfl
@[simp] theorem W.onSvc_base (f : Svc → Svc) : (w.onSvc f).base = w.base := rfl
@[simp] theorem W.onSvc_wr (f : Svc → Svc) : (w.onSvc f).wr = w.wr := rfl
@[simp] theorem W.onSvc_out (f : Svc → Svc) : (w.onSvc f).out = w.out := rfl
@[simp] theorem W.onPwr_dev (f : Pwr → Pwr) : (w.onPwr f).dev = { w.dev with pwr := f w.dev.pwr } := rfl
@[simp] theorem W.onPwr_base (f : Pwr → Pwr) : (w.onPwr f).base = w.base := rfl
@[simp] theorem W.onPwr_wr (f : Pwr → Pwr) : (w.onPwr f).wr = w.wr := rfl
@[simp] theorem W.onPwr_out (f : Pwr → Pwr) : (w.onPwr f).out = w.out := rfl
@[simp] theorem W.onSys_dev (f : LinkSys → LinkSys) : (w.onSys f).dev = { w.dev with sys := f w.dev.sys } := rfl
@[simp] theorem W.onSys_base (f : LinkSys → LinkSys) : (w.onSys f).base = w.base := rfl
@[simp] theorem W.onSys_wr (f : LinkSys → LinkSys) : (w.onSys f).wr = w.wr := rfl
@[simp] theorem W.onSys_out (f : LinkSys → LinkSys) : (w.onSys f).out = w.out := rfl
@[simp] theorem W.onChan_dev (i : Nat) (f : Chan → Chan) : (w.onChan i f).dev = { w.dev with chans := Tab.mod w.dev.chans i f } := rfl
@[simp] theorem W.onChan_base (i : Nat) (f : Chan → Chan) : (w.onChan i f).base = w.base := rfl
@[simp] theorem W.onChan_wr (i : Nat) (f : Chan → Chan) : (w.onChan i f).wr = w.wr := rfl
@[simp] theorem W.onChan_out (i : Nat) (f : Chan → Chan) : (w.onChan i f).out = w.out := rfl
@[simp] theorem W.onBuf_dev (i : Nat) (f : Buf → Buf) : (w.onBuf i f).dev = { w.dev with bufs := Tab.mod w.dev.bufs i f } := rfl
@[simp] theorem W.onBuf_base (i : Nat) (f : Buf → Buf) : (w.onBuf i f).base = w.base := rfl
@[simp] theorem W.onBuf_wr (i : Nat) (f : Buf → Buf) : (w.onBuf i f).wr = w.wr := rfl
@[simp] theorem W.onBuf_out (i : Nat) (f : Buf → Buf) : (w.onBuf i f).out = w.out := rfl
@[simp] theorem W.onSync_dev (i : Nat) (f : Sync → Sync) : (w.onSync i f).dev = { w.dev with syncs := Tab.mod w.dev.syncs i f } := rfl
@[simp] theorem W.onSync_base (i : Nat) (f : Sync → Sync) : (w.onSync i f).base = w.base := rfl
@[simp] theorem W.onSync_wr (i : Nat) (f : Sync → Sync) : (w.onSync i f).wr = w.wr := rfl
@[simp] theorem W.onSync_out (i : Nat) (f : Sync → Sync) : (w.onSync i f).out = w.out := rfl
@[simp] theorem W.onSlot_dev (i : Nat) (f : Slot → Slot) : (w.onSlot i f).dev = { w.dev with slots := Tab.mod w.dev.slots i f } := rfl
@[simp] theorem W.onSlot_base (i : Nat) (f : Slot → Slot) : (w.onSlot i f).base = w.base := rfl
@[simp] theorem W.onSlot_wr (i : Nat) (f : Slot → Slot) : (w.onSlot i f).wr = w.wr := rfl
@[simp] theorem W.onSlot_out (i : Nat) (f : Slot → Slot) : (w.onSlot i f).out = w.out := rfl
@[simp] theorem W.onStrm_dev (i : Nat) (f : Strm → Strm) : (w.onStrm i f).dev = { w.dev with strms := Tab.mod w.dev.strms i f } := rfl
@[simp] theorem W.onStrm_base (i : Nat) (f : Strm → Strm) : (w.onStrm i f).base = w.base := rfl
@[simp] theorem W.onStrm_wr (i : Nat) (f : Strm → Strm) : (w.onStrm i f).wr = w.wr := rfl
@[simp] theorem W.onStrm_out (i : Nat) (f : Strm → Strm) : (w.onStrm i f).out = w.out := rfl
@[simp] theorem W.onGraph_dev (i : Nat) (f : Graph → Graph) : (w.onGraph i f).dev = { w.dev with graphs := Tab.mod w.dev.graphs i f } := rfl
@[simp] theorem W.onGraph_base (i : Nat) (f : Graph → Graph) : (w.onGraph i f).base = w.base := rfl
@[simp] theorem W.onGraph_wr (i : Nat) (f : Graph → Graph) : (w.onGraph i f).wr = w.wr := rfl
@[simp] theorem W.onGraph_out (i : Nat) (f : Graph → Graph) : (w.onGraph i f).out = w.out := rfl
@[simp] theorem W.onDie_dev (i : Nat) (f : Die → Die) : (w.onDie i f).dev = { w.dev with dies := Tab.upd w.dev.dies i {} f } := rfl
@[simp] theorem W.onDie_base (i : Nat) (f : Die → Die) : (w.onDie i f).base = w.base := rfl
@[simp] theorem W.onDie_wr (i : Nat) (f : Die → Die) : (w.onDie i f).wr = w.wr := rfl
@[simp] theorem W.onDie_out (i : Nat) (f : Die → Die) : (w.onDie i f).out = w.out := rfl
@[simp] theorem W.onCore_dev (i : Nat) (f : Core → Core) : (w.onCore i f).dev = { w.dev with cores := Tab.upd w.dev.cores i {} f } := rfl
@[simp] theorem W.onCore_base (i : Nat) (f : Core → Core) : (w.onCore i f).base = w.base := rfl
@[simp] theorem W.onCore_wr (i : Nat) (f : Core → Core) : (w.onCore i f).wr = w.wr := rfl
@[simp] theorem W.onCore_out (i : Nat) (f : Core → Core) : (w.onCore i f).out = w.out := rfl
@[simp] theorem W.op_dev (x : MemOp) : (w.op x).dev = w.dev := rfl
@[simp] theorem W.op_base (x : MemOp) : (w.op x).base = w.base := rfl
@[simp] theorem W.op_wr (x : MemOp) : (w.op x).wr = x :: w.wr := rfl
@[simp] theorem W.op_out (x : MemOp) : (w.op x).out = w.out := rfl
@[simp] theorem W.send_dev (x : Tx) : (w.send x).dev = w.dev := rfl
@[simp] theorem W.send_base (x : Tx) : (w.send x).base = w.base := rfl
@[simp] theorem W.send_wr (x : Tx) : (w.send x).wr = w.wr := rfl
@[simp] theorem W.send_out (x : Tx) : (w.send x).out = x :: w.out := rfl
@[simp] theorem State.work_dev : s.work.dev = s.dev := rfl
@[simp] theorem State.work_base : s.work.base = s.mem := rfl
@[simp] theorem State.work_wr : s.work.wr = [] := rfl
@[simp] theorem State.work_out : s.work.out = [] := rfl
@[simp] theorem State.commit_pending : (s.commit w).pending = s.pending := rfl
@[simp] theorem State.commit_dev : (s.commit w).dev = w.dev := rfl
@[simp] theorem State.commit_tx : (s.commit w).tx = s.tx ++ w.out.reverse := rfl
@[simp] theorem State.commit_mem : (s.commit w).mem = s.mem.applyAll w.wr.reverse := rfl

end Sys2Proof.Machine
end

