-- ==== Sys2Proof/Laws/Tab.lean ====
section
/-! SUPPORT. What a read of a sparse table gives after a change of the table. -/

namespace Sys2Proof

variable {α : Type}

/-- An entry put is read back; every other number reads as before. -/
theorem Tab.get_put (t : Tab α) (n m : Nat) (x : α) : Tab.get (Tab.put t n x) m = if m = n then some x else Tab.get t m := by
  induction t with
  | nil =>
    by_cases h : m = n
    · simp [Tab.put, Tab.get, h]
    · simp [Tab.put, Tab.get, h]
  | cons e t ih =>
    obtain ⟨k, v⟩ := e
    simp only [Tab.put]
    split
    · next hk => subst hk; by_cases h : m = n <;> simp [Tab.get, h]
    · next hk =>
      split
      · next hl =>
        by_cases h : m = n
        · simp [Tab.get, h]
        · by_cases h1 : m < n
          · have h2 : m ≠ k := by omega
            have h3 : m < k := by omega
            simp [Tab.get, h, h1, h2, h3]
          · simp [Tab.get, h, h1]
      · next hl =>
        by_cases h : m = k
        · subst h; have : m ≠ n := fun e => hk e.symm
          simp [Tab.get, this]
        · by_cases h1 : m < k
          · have : m ≠ n := by omega
            simp [Tab.get, h, h1, this]
          · simp [Tab.get, h, h1, ih]

@[simp] theorem Tab.get_put_self (t : Tab α) (n : Nat) (x : α) : Tab.get (Tab.put t n x) n = some x := by simp [Tab.get_put]

theorem Tab.get_put_ne (t : Tab α) {n m : Nat} (h : m ≠ n) (x : α) : Tab.get (Tab.put t n x) m = Tab.get t m := by simp [Tab.get_put, h]

/-- A change of an entry is read back where it lives; every other number reads as before. -/
theorem Tab.get_mod (t : Tab α) (n m : Nat) (f : α → α) :
    Tab.get (Tab.mod t n f) m = if m = n then (Tab.get t n).map f else Tab.get t m := by
  induction t with
  | nil => simp [Tab.mod, Tab.get]
  | cons e t ih =>
    obtain ⟨k, v⟩ := e
    simp only [Tab.mod, List.map_cons] at ih ⊢
    by_cases hk : k = n
    · subst hk
      by_cases h : m = k
      · simp [Tab.get, h]
      · by_cases h1 : m < k
        · simp [Tab.get, h, h1]
        · simp [Tab.get, h, h1, ih]
    · by_cases h : m = n
      · subst h
        have hk' : m ≠ k := fun e => hk e.symm
        by_cases h1 : m < k
        · simp [Tab.get, hk, hk', h1]
        · simp [Tab.get, hk, hk', h1, ih]
      · by_cases h2 : m = k
        · simp [Tab.get, hk, h2]
        · by_cases h1 : m < k
          · simp [Tab.get, hk, h, h1, h2]
          · simp [Tab.get, hk, h, h1, h2, ih]

@[simp] theorem Tab.get_mod_self (t : Tab α) (n : Nat) (f : α → α) : Tab.get (Tab.mod t n f) n = (Tab.get t n).map f := by
  simp [Tab.get_mod]

theorem Tab.get_mod_ne (t : Tab α) {n m : Nat} (h : m ≠ n) (f : α → α) : Tab.get (Tab.mod t n f) m = Tab.get t m := by
  simp [Tab.get_mod, h]

/-- A change with a default is read back; every other number reads as before. -/
theorem Tab.getD_upd (t : Tab α) (n m : Nat) (d : α) (f : α → α) :
    Tab.getD (Tab.upd t n d f) m d = if m = n then f (Tab.getD t n d) else Tab.getD t m d := by
  by_cases h : m = n <;> simp [Tab.getD, Tab.upd, Tab.get_put, h]

@[simp] theorem Tab.getD_upd_self (t : Tab α) (n : Nat) (d : α) (f : α → α) : Tab.getD (Tab.upd t n d f) n d = f (Tab.getD t n d) := by
  simp [Tab.getD_upd]

/-- A number deleted reads as absent. -/
@[simp] theorem Tab.get_del_self (t : Tab α) (n : Nat) : Tab.get (Tab.del t n) n = none := by
  induction t with
  | nil => rfl
  | cons e t ih =>
    obtain ⟨k, v⟩ := e
    by_cases hk : k = n
    · simpa [Tab.del, hk] using ih
    · have hk' : n ≠ k := fun e => hk e.symm
      by_cases h1 : n < k
      · simp [Tab.del, hk, Tab.get, hk', h1]
      · simpa [Tab.del, hk, Tab.get, hk', h1] using ih

end Sys2Proof
end

