-- ==== Sys2Proof/Laws/Ops.lean ====
section
/-! SUPPORT. What the shared operations of commands do: the outcome of a command, and the admission of a packet (Table 2.3a). -/

namespace Sys2Proof.Machine

/-- A command answers the state that its effect leaves. -/
theorem run_next (s : State) (f : W → W) : run s f = .next (s.commit (f s.work)) := rfl

/-- A command of a graph answers the state in which the graphs have settled. -/
theorem runT_next (s : State) (f : W → W) : runT s f = .next (s.after (f s.work)) := rfl

/-- Where no graph is loaded, none settles. -/
theorem tidy_of_none {w : W} (h : w.dev.graphs = []) : w.tidy = w := by simp [W.tidy, h]

/-- A sound packet is acknowledged, its SEQ is taken, and its command begins. -/
theorem arrive_sound {op ch : Nat} {p : Packet} {s : State} {c : Chan} (h : Sound op ch p s c) (go : Bool → W → W) :
    arrive ch op p go s.work = go (c.state = 2) (s.taken ch p c.psn) := by
  obtain ⟨⟨hc, hk, h6, hoff, hup, ha, hq⟩, ⟨hm, hcrc⟩, hb, hs⟩ := h
  have ha' : ¬ 4096 ≤ s.dev.admitted.length := by omega
  have hq' : ¬ c.queueLimit ≤ (s.dev.admitted.filter (· = ch)).length := by omega
  simp [arrive, hc, hk, h6, hoff, hup, ha', hq', hm, hcrc, hb, hs, State.taken, State.acked]

/-- An admitted command has its effect on the working copy in which its packet is taken. -/
theorem hostCommand_admitted {sp : OpSpec} {ch : Nat} {p : Packet} {s : State} {c : Chan} (h : Admitted sp ch p s c) :
    hostCommand sp ch p s.work = sp.body (ctxOf sp ch p) (s.taken ch p c.psn) := by
  have := h.checks
  simp only [ctxOf] at this
  rw [hostCommand, arrive_sound h.sound]; simp only [beginCmd, ctxOf, this]

/-- A command that fails a check only answers. -/
theorem hostCommand_rejected {sp : OpSpec} {ch : Nat} {p : Packet} {s : State} {c : Chan} {f : Fail} (h : Rejected sp ch p s c f) :
    hostCommand sp ch p s.work = (s.taken ch p c.psn).failWith (ctxOf sp ch p) f := by
  have := h.checks
  simp only [ctxOf] at this
  rw [hostCommand, arrive_sound h.sound]; simp only [beginCmd, ctxOf, this]

/-- A message on a channel is sent, or held until the pause of its class ends; nothing else changes. -/
theorem sendOn_cases (w : W) (ch : Nat) (t : Tx) :
    w.sendOn ch t = w.send t ∨ ∃ prio, w.sendOn ch t = w.onEth fun e => { e with held := e.held ++ [(prio, t)] } := by
  simp only [W.sendOn]
  split
  · exact Or.inr ⟨_, rfl⟩
  · exact Or.inl rfl

/-- A message on a channel changes nothing of the device but the messages that wait for the end of a pause. -/
theorem sendOn_dev (w : W) (ch : Nat) (t : Tx) : ∃ l, (w.sendOn ch t).dev = { w.dev with eth := { w.dev.eth with held := l } } := by
  obtain h | ⟨p, h⟩ := sendOn_cases w ch t
  · exact ⟨w.dev.eth.held, by rw [h]; rfl⟩
  · exact ⟨_, by rw [h]; rfl⟩

/-- A message on a channel stores nothing. -/
@[simp] theorem sendOn_wr (w : W) (ch : Nat) (t : Tx) : (w.sendOn ch t).wr = w.wr := by
  obtain h | ⟨p, h⟩ := sendOn_cases w ch t <;> rw [h] <;> rfl

/-- A message on a channel leaves memory as the command found it. -/
@[simp] theorem sendOn_base (w : W) (ch : Nat) (t : Tx) : (w.sendOn ch t).base = w.base := by
  obtain h | ⟨p, h⟩ := sendOn_cases w ch t <;> rw [h] <;> rfl

/-- A request of the device changes nothing of the device but its channels and the messages that wait. -/
theorem initiate_dev (w : W) (ch n : Nat) (msg : Nat → Tx) (f : Option (Nat × Nat)) :
    ∃ c l, (w.initiate ch n msg f).dev = { w.dev with chans := c, eth := { w.dev.eth with held := l } } := by
  simp only [W.initiate]
  split
  · split
    · exact ⟨_, _, rfl⟩
    · obtain ⟨l, h⟩ := sendOn_dev (w.onChan ch fun c =>
        { c with txPsn := (c.txPsn + n) % 2 ^ 24, reqs := c.reqs ++ [⟨c.txPsn, n, 0, msg c.txPsn, f⟩] }) ch (msg _)
      exact ⟨_, l, h⟩
  · exact ⟨_, _, rfl⟩

/-- A reply changes nothing of the device but its channels and the messages that wait. -/
theorem reply_dev (w : W) (ch : Nat) (h : Header) (op st d : Nat) (b : List Byte) :
    ∃ c l, (w.reply ch h op st d b).dev = { w.dev with chans := c, eth := { w.dev.eth with held := l } } := by
  simp only [W.reply]
  split
  · exact ⟨_, _, rfl⟩
  · exact initiate_dev ..

/-- A reply stores nothing. -/
@[simp] theorem reply_wr (w : W) (ch : Nat) (h : Header) (op st d : Nat) (b : List Byte) : (w.reply ch h op st d b).wr = w.wr := by
  simp only [W.reply, W.initiate]
  repeat' split
  all_goals first | rfl | rw [sendOn_wr]; rfl

/-- A packet taken changes nothing of the device but its channels and the messages that wait. -/
theorem taken_dev (s : State) (ch : Nat) (p : Packet) (psn : Nat) :
    ∃ c l, (s.taken ch p psn).dev = { s.dev with chans := c, eth := { s.dev.eth with held := l } } := by
  obtain ⟨l, h⟩ := sendOn_dev (s.work.onChan ch fun c => { c with psn := (c.psn + 1) % 2 ^ 24 }) ch (.ack ch psn)
  refine ⟨(s.taken ch p psn).dev.chans, l, ?_⟩
  have e : (s.taken ch p psn).dev = { ((s.work.onChan ch fun c => { c with psn := (c.psn + 1) % 2 ^ 24 }).sendOn ch (.ack ch psn)).dev with
      chans := (s.taken ch p psn).dev.chans } := rfl
  rw [e, h]; rfl

/-- A packet taken stores nothing. -/
@[simp] theorem taken_wr (s : State) (ch : Nat) (p : Packet) (psn : Nat) : (s.taken ch p psn).wr = [] := by
  simp [State.taken, State.acked]

/-- An instruction that a core can run has its effect; the unit counts it and the task goes on. -/
theorem coreIns_ok {s : State} {core unit : Nat} {ecc : List EccReport} {f : Ins} {w : W} (h : Issues s core ecc)
    (hf : f (s.fetched ecc) = .ok w) : runT s (fun w => w.coreIns core unit ecc f) = .next (s.issued core unit w) := by
  obtain ⟨h1, h2, h3, h4⟩ := h
  have n1 : (s.dev.running core).isNone = false := by simpa using h1
  have n2 : ((s.work.eccLines ecc).dev.running core).isNone = false := by simpa using h3
  have hf' : f (s.work.eccLines ecc) = .ok w := hf
  simp only [runT_next, W.coreIns, State.work_dev, n1, h2, n2, h4, hf', State.issued, Bool.false_eq_true, if_false]

/-- An instruction that a core can run and whose condition fails faults the core. -/
theorem coreIns_fault {s : State} {core unit : Nat} {ecc : List EccReport} {f : Ins} {k a : Nat} (h : Issues s core ecc)
    (hf : f (s.fetched ecc) = .error (k, a)) :
    runT s (fun w => w.coreIns core unit ecc f) = .next (s.after ((s.fetched ecc).coreFault core k a)) := by
  obtain ⟨h1, h2, h3, h4⟩ := h
  have n1 : (s.dev.running core).isNone = false := by simpa using h1
  have n2 : ((s.work.eccLines ecc).dev.running core).isNone = false := by simpa using h3
  have hf' : f (s.work.eccLines ecc) = .error (k, a) := hf
  simp only [runT_next, W.coreIns, State.work_dev, n1, h2, n2, h4, hf', State.fetched, Bool.false_eq_true, if_false]

end Sys2Proof.Machine
end

