-- ==== Sys2Proof/WellFormed.lean ====
section
/-! DEFINITION. Well-formed commands: the operands that a sender can name. `exec` gives every command an outcome; the checks say which
commands name parts of the block that exist and carry what their source always carries. -/

namespace Sys2Proof

/-- The 43 bytes from 0x11 to 0x3B of a header (Table 2.1). -/
def Header.wf (h : Header) : Bool := decide (h.reserved.length = 43)

/-- A packet with a whole header (R34). -/
def Packet.wf (p : Packet) : Bool := p.hdr.wf

/-- A connection request's addresses: 16 bytes of IP address, 6 of MAC address; IP version 4 or 6. -/
def ConnReq.wf (r : ConnReq) : Bool :=
  decide (r.remoteIp.length = 16) && decide (r.sourceMac.length = 6) && (decide (r.ipVer = 4) || decide (r.ipVer = 6))

/-- The units that INIT reports exist. -/
def InitResult.wf (r : InitResult) : Bool :=
  r.stacksFailed.all (fun s => decide (s < 24)) && r.coresFailed.all (fun c => decide (c.1 < 4) && decide (c.2 < 68))
    && r.slicesFailed.all (fun c => decide (c.1 < 4) && decide (c.2 < 9)) && r.cxlFailed.all fun k => decide (k < 4)

/-- The SRAM that a scrub names exists. -/
def SramUnit.wf : SramUnit → Bool
  | .core n => decide (n < 256)
  | .slice die s => decide (die < 4) && decide (s < 9)

/-- A command whose operands are in their ranges (handles' indices of Table 2.8; dies, cores, links, lanes, stacks of chapter 1). -/
def Instr.wf : Instr → Bool
  | .nop ch p | .deviceInfo ch p | .deviceStatus ch p | .deviceStart ch p | .deviceStandby ch p | .deviceDrain ch p
  | .deviceReset ch p | .handleQuery ch p | .handleDestroy ch p | .handleList ch p | .unknownOpcodePacket ch _ p | .chanOpen ch p
  | .chanAuthChallenge ch p | .chanAuthResponse ch p | .chanModify ch p | .chanClose ch p | .bufAlloc ch p | .bufProtect ch p
  | .bufFill ch p | .pageSupply ch p | .placeConfig ch p | .placeQuery ch p | .tierScan ch p | .memRetireQuery ch p
  | .strmCreate ch p | .strmArm ch p | .strmStop ch p | .strmResume ch p | .strmQuery ch p | .jobCreate ch p | .graphLoad ch p
  | .graphRun ch p | .graphDrain ch p | .graphFrog ch p | .graphQuery ch p | .jobAbort ch p | .feedOpen ch p | .feedConfig ch p
  | .feedAttach ch p | .feedLedgerRead ch p | .resultRingConfig ch p | .fetchResult ch p | .resultRelease ch p | .syncCreate ch p
  | .syncSignal ch p | .syncWait ch p | .syncRead ch p | .schedConfig ch p | .pwrGaugeSet ch p | .pwrStepLimit ch p
  | .pwrCeilingRaise ch p | .pwrTelemetryRead ch p | .pwrEnergyRead ch p | .fwUpdateBegin ch p | .fwBlockCommit ch p
  | .fwRelayStart ch p | .fwUpdateStatus ch p | .fwVerify ch p | .fwActivate ch p | .fwConfirm ch p | .fwRollback ch p
  | .secAttest ch p | .secKeyAgree ch p | .secOwnerRotate ch p | .secVersionAdvance ch p | .linkStatus ch p | .linkConfig ch p
  | .linkSpareSwap ch p | .fgroupJoin ch p | .fgroupLeave ch p | .fgroupStatus ch p | .remapAssume ch p | .swatchRun ch p
  | .swatchResult ch p | .errlogRead ch p | .diagDump ch p | .errlogClear ch p | .storeRead ch p | .storeWrite ch p
  | .storeCommit ch p | .storeStatus ch p | .regRead ch p | .registerWrite ch p => decide (ch < 16384) && p.wf
  | .pendingInterimReply ch _ | .syncWaitLimitExpiry ch _ | .rtu ch | .dreq ch | .commandChannelIdleTimeout ch | .sendOnly ch _ _
  | .rdmaWrite ch _ _ _ _ _ | .rdmaWriteWithImmediate ch _ _ _ _ _ _ | .rdmaReadRequest ch _ _ _ _ | .invalidRequest ch _ _
  | .acknowledge ch _ _ | .nakReceived ch _ | .rnrNakReceived ch _ _ | .localAckTimeout ch | .congestionNotification ch
  | .ecnAlphaTimer ch | .ecnRateTimer ch => decide (ch < 16384)
  | .fwBlockProgrammed upd _ _ => decide (upd < 4)
  | .linkConfigTimeout | .remapAssumeTimeout | .inputPowerApplied _ | .hubStart _ | .powerCut | .holdupComplete _
  | .inputOvervoltage _ | .inputDisconnect _ | .disconnectRelease _ | .resetN _ | .resetNRelease | .pwrEnDeassert | .pwrEnAssert
  | .flowOkLow | .flowOkHigh _ | .coolantStop | .serviceModeAssert | .refclkLoss | .ppsEdge | .ppsTimeout | .smbStatus | .smbInput
  | .smbSerial | .spareReq | .spareAck _ _ | .timeSet _ _ | .alertResponse | .thermalTrip _ _ | .hubTrip _ | .tripResetHoldExpiry
  | .initTimeout | .hubWatchdogExpiry | .initWait | .updateReloadComplete | .updatePauseTimeout | .confirmDeadline | .pfcFrame _ _
  | .pfcQuantaExpiry _ | .arpRequest _ _ | .neighborSolicitation _ _ | .echoRequest _ _ _ _ | .unsupportedFrame | .ethLinkUp _
  | .ethLinkLoss | .ethPresetSave _ | .placementEpoch | .hbmTrimSave | .heartbeatSend | .ceilingBoundary | .ceilingCompute
  | .timeExchange | .currentGuardSample _ _ | .gaugeLoop | .gaugeUnreached | .thermalLoop _ _ | .coolantInletRead _
  | .energyTick _ | .energyWindowEnd _ | .telemetryRecord | .flashFailure _ | .framFrameWrite | .flashProgramComplete _
  | .journalCompaction _ | .counterSnap | .consoleHelp _ | .consoleId | .consoleStatus | .consoleLadder | .consoleTp
  | .consoleRails | .consoleTemps | .consolePower | .consoleLinks | .consoleStore | .consoleRegRd _ _ | .consoleRegWr _ _ _
  | .consoleCmd _ _ _ | .consoleSwatch _ | .svcEnter | .svcLeave | .unseal _ | .seal | .consoleResetWarm | .baud _
  | .romConsoleCommand _ | .serviceModeDeassert | .refclkReturn | .smbUndefinedCode _ | .hubSramUe | .journalBudgetRelease => true
  | .swatchDone block _ _ => decide (block < 40)
  | .lockBitSet ch h _ _ _ | .ethCfgWrite ch h _ _ | .pwrCapSetWrite ch h _ _ | .pwrCeilingWrite ch h _ _
  | .pwrStepLimWrite ch h _ _ | .lowWordLatchRead ch h _ => decide (ch < 16384) && h.wf
  | .coreSrSeedWrite ch h core _ _ => decide (ch < 16384) && h.wf && decide (core < 256)
  | .embSrSeedWrite ch h die _ _ => decide (ch < 16384) && h.wf && decide (die < 4)
  | .qEnSet ch h die _ queue | .qEnClear ch h die _ queue => decide (ch < 16384) && h.wf && decide (die < 4) && decide (queue < 8)
  | .initComplete r | .connectionReq r => r.wf
  | .dieResetComplete die | .streamEngineGrant die | .delayExpiry die | .taskWaitExpiry die | .syncMessage die | .delim die _
  | .jsonl die _ | .colpage die _ | .gzipDec die _ | .gzipEnc die _ | .zlibDec die _ | .zlibEnc die _ | .zstdDec die _
  | .zstdEnc die _ | .rawDec die _ | .rawEnc die _ | .clear die _ | .build die _ | .probe die _ | .agg die _ | .scan die _
  | .partition die _ | .hllEst die _ | .sortRun die _ | .merge die _ | .gather die _ | .embUpdate die _ | .snapshot die _
  | .restore die _ | .rowInit die _ | .parkedItemResume die _ | .railSettled die | .ageingRead die _ | .consoleResetDie die
  | .dieResetTimeout die => decide (die < 4)
  | .descriptorStart stream | .tileStart stream | .memoryOperationComplete stream _ _ _ => decide (stream < 4096)
  | .pageInComplete buf _ | .migrationComplete buf _ => decide (buf < 65536)
  | .patrolScrub stack _ | .rowUpdateStep stack => decide (stack < 24)
  | .recentreWindow stack pc _ _ => decide (stack < 24) && decide (pc < 32)
  | .sramScrub unit _ => unit.wf
  | .expanderLinkFail port position => decide (port < 4) && decide (position < 4)
  | .waitTake core _ _ _ | .waitReach core _ _ _ | .signalAdd core _ _ | .signalSet core _ _ | .delay core _ | .yieldTask core
  | .endTask core | .taskDispatch core | .coreLoad core _ | .coreStore core _ | .indexedLoadStore core _
  | .vectorArithmetic core _ | .permute core _ | .reduction core _ | .conversion core _ | .mxBlockConversion core _
  | .matrixMultiply core _ | .tileMove core _ | .treeScoring core _ | .svh64 core _ | .xxh64 core _ | .crc32c core _
  | .cross core _ | .bucket core _ | .zscore core _ | .minmax core _ | .clip core _ | .slog core _ | .quantile core _
  | .onehot core _ | .multihot core _ | .vsort core _ | .topkStep core _ | .vgraft core _ | .topkInit core _ | .distFin core _
  | .embPool core _ | .coreHang core | .droop core _ | .droopRecovery core => decide (core < 256)
  | .stageStart graph | .resultPublish graph => decide (graph < 256)
  | .physicalCoreFailure die phys => decide (die < 4) && decide (phys < 68)
  | .omaLoad die arr | .omaUpdate die arr | .lookup die arr | .range die arr | .dump die arr | .omaShiftEnd die arr => decide (die < 4) && decide (arr < 2)
  | .workItemComplete die _ queue => decide (die < 4) && decide (queue < 8)
  | .sampleAdmit feed | .flushResolve feed | .rowCopyComplete feed _ | .feedEvaluation feed | .batchDelivery feed => decide (feed < 1024)
  | .post feed die _ => decide (feed < 1024) && decide (die < 4)
  | .creditReturn feed client => decide (feed < 1024) && decide (client < 16)
  | .flitReceive link f => decide (link < 32) && decide (f.bytes.length = 272)
  | .linkNak link _ | .linkSilence link | .spareTimeout link | .ylPresetSave link _ => decide (link < 32)
  | .tileMessage link m | .linkEvent link m | .hello link m | .heartbeat link m | .memberLost link m | .memberJoin link m
  | .freqStep link m | .ceiling link m | .time link m | .relayOffer link m | .relayAccept link m | .relayKey link m
  | .relayDone link m | .relayData link m => decide (link < 32) && decide (64 ≤ m.length)
  | .laneLockLoss link lane | .laneErrorWindow link lane _ _ => decide (link < 32) && decide (lane < 5)
  | .ringCrcFailure segment dir => decide (segment < 5) && decide (dir < 2)
  | .regulatorFault rail => decide (rail < 11)
  | .consoleLog _ sev => decide (sev < 4)
  | .consoleStep step => decide (step < 19)
  | .consoleStepIsland island step => decide (island < 260) && decide (step < 19)

end Sys2Proof
end

