-- ==== Sys2Proof/Tests/Slice0.lean ====
section
/-! SUPPORT. Tests: small steps and known answers, ill-formed terms that WellFormed refuses, and for every statement a state and operands
that meet its hypotheses. -/

namespace Sys2Proof.Tests

set_option Elab.async false

open Sys2Proof.Machine

/-- A command header with its HDR_CRC, for an opcode. -/
def hdr (op target tag len : Nat) : Header :=
  let h : Header := ⟨0x5356, 1, 1, BitVec.ofNat 16 len, 7, BitVec.ofNat 32 target, BitVec.ofNat 8 tag, zeros 43, 0⟩
  { h with hdrCrc := BitVec.ofNat 32 (crc32c (packetCrcBytes ⟨h, []⟩ op)) }

/-- A command packet of an opcode. -/
def pkt (op target tag : Nat) (ps : List Byte) : Packet := ⟨hdr op target tag ps.length, ps⟩

/-- An ACTIVE COMMAND channel that expects SEQ 7. -/
def chan : Chan := { gen := 1, tag := 0, kind := 1, state := 2, expSeq := some 7 }

/-- A device in a state, powered where the state has power, with the channel at index 0. -/
def dev (st : DevState) : Dev :=
  { chans := [(0, chan)], hub := { st := st, rails := st != .standby && st != .off && st != .failed } }

/-- A state with a device. -/
def on (d : Dev) : State := { dev := d }

theorem issues_of {s : State} {core : Nat} {ecc : List EccReport}
    (h : ((s.dev.running core).isSome && (s.dev.coreBad core (s.dev.core core).pc 1 0).isNone &&
      ((s.work.eccLines ecc).dev.running core).isSome && (ownUe core ecc).isNone) = true) : Issues s core ecc := by
  simp only [Bool.and_eq_true, Option.isNone_iff_eq_none] at h
  exact ⟨h.1.1.1, h.1.1.2, h.1.2, h.2⟩

theorem open_of {s : State} {ch : Nat} {c : Chan}
    (h : (decide (Tab.get s.dev.chans ch = some c) && decide (c.kind = 1) && decide (c.state ≠ 6) && decide (s.dev.hub.st ≠ .off) &&
      decide (s.dev.hub.st ≠ .updatePause) && decide (s.dev.admitted.length < 4096) &&
      decide ((s.dev.admitted.filter (· = ch)).length < c.queueLimit)) = true) : Open s ch c := by
  simp only [Bool.and_eq_true, decide_eq_true_eq] at h
  exact ⟨h.1.1.1.1.1.1, h.1.1.1.1.1.2, h.1.1.1.1.2, h.1.1.1.2, h.1.1.2, h.1.2, h.2⟩

theorem intact_of {op : Nat} {p : Packet}
    (h : (decide (p.hdr.magic = 0x5356) && decide (crc32c (packetCrcBytes p op) = p.hdr.hdrCrc.toNat)) = true) : Intact op p := by
  simp only [Bool.and_eq_true, decide_eq_true_eq] at h
  exact ⟨h.1, h.2⟩

/-- The first four steps, as one test. -/
def soundTest (op ch : Nat) (p : Packet) (s : State) (c : Chan) : Bool :=
  decide (Tab.get s.dev.chans ch = some c) && decide (c.kind = 1) && decide (c.state ≠ 6) && decide (s.dev.hub.st ≠ .off) &&
    decide (s.dev.hub.st ≠ .updatePause) && decide (s.dev.admitted.length < 4096) &&
    decide ((s.dev.admitted.filter (· = ch)).length < c.queueLimit) && decide (p.hdr.magic = 0x5356) &&
    decide (crc32c (packetCrcBytes p op) = p.hdr.hdrCrc.toNat) && decide (headerBad p = none) &&
    decide (c.expSeq.getD p.hdr.seq.toNat = p.hdr.seq.toNat)

theorem sound_of {op ch : Nat} {p : Packet} {s : State} {c : Chan} (h : soundTest op ch p s c = true) : Sound op ch p s c := by
  simp only [soundTest, Bool.and_eq_true, decide_eq_true_eq] at h
  obtain ⟨⟨⟨⟨h1, h2⟩, h3⟩, h4⟩, h5⟩ := h
  obtain ⟨⟨⟨⟨⟨⟨a1, a2⟩, a3⟩, a4⟩, a5⟩, a6⟩, a7⟩ := h1
  exact ⟨⟨a1, a2, a3, a4, a5, a6, a7⟩, ⟨h2, h3⟩, h4, h5⟩

theorem admitted_of {sp : OpSpec} {ch : Nat} {p : Packet} {s : State} {c : Chan}
    (h : (soundTest sp.op ch p s c && (admitFail sp (ctxOf sp ch p) (c.state = 2) (s.taken ch p c.psn)).isNone) = true) :
    Admitted sp ch p s c := by
  simp only [Bool.and_eq_true, Option.isNone_iff_eq_none] at h
  exact ⟨sound_of h.1, h.2⟩

theorem rejected_of {sp : OpSpec} {ch : Nat} {p : Packet} {s : State} {c : Chan} {f : Fail}
    (h : soundTest sp.op ch p s c = true) (hf : admitFail sp (ctxOf sp ch p) (c.state = 2) (s.taken ch p c.psn) = some f) :
    Rejected sp ch p s c f := ⟨sound_of h, hf⟩

theorem inOrder_of {s : State} {ch : Nat} {r : RoceHdr} {c : Chan}
    (h : (s.dev.portUp && r.icrcOk && (s.dev.classOf r.pcp).isSome && decide (Tab.get s.dev.chans ch = some c) && decide (c.state ≠ 6) &&
      decide (s.dev.hub.st ≠ .updatePause) && decide (r.psn.toNat = c.psn)) = true) : InOrder s ch r c := by
  simp only [Bool.and_eq_true, decide_eq_true_eq] at h
  exact ⟨h.1.1.1.1.1.1, h.1.1.1.1.1.2, h.1.1.1.1.2, h.1.1.1.2, h.1.1.2, h.1.2, h.2⟩

theorem free_of {s : State} {die cls eng : Nat}
    (h : (decide (die < 4) && decide (eng < engines cls) && s.dev.dieRuns die && !s.dev.engBusy die cls eng && s.dev.mayTake die cls eng) =
      true) : EngineFree s die cls eng := by
  simp only [Bool.and_eq_true, decide_eq_true_eq, Bool.not_eq_true'] at h
  exact ⟨h.1.1.1.1, h.1.1.1.2, h.1.1.2, h.1.2, h.2⟩

theorem service_of {s : State} {link : Nat}
    (h : (s.dev.linksRun && decide (link < 32) && (s.dev.link link).works && decide ((s.dev.link link).logical ≠ 0xFF)) = true) :
    InService s link := by
  simp only [Bool.and_eq_true, decide_eq_true_eq] at h
  exact ⟨h.1.1.1, h.1.1.2, h.1.2, h.2⟩

/-- A task running in the last slot of the last core, whose whole store may be read, written and executed; poisoned line 0. -/
def coreDev : Dev :=
  { dev .running with
    cores := [(255, { run := some 4095, frames := (List.range 96).map fun f => (f, 7) })]
    slots := [(16383, { st := .run, rec' := ⟨4095, 255, 15, 0, 0, 0, 2, false, 0⟩, graph := 0 })]
    syncs := [(8191, { gen := 1, tag := 0, val := 5 })] }

/-- A handle of the sync object on the task's die. -/
def obj : Nat := 0x50011FFF

/-- The state of that device. -/
def coreS : State := on coreDev

/-- The same with the first frame shut, and a poisoned line. -/
def shutS : State :=
  { on { coreDev with cores := [(255, { run := some 4095, pc := 0x10000, frames := (List.range 95).map fun f => (f + 1, 7) })] } with
    mem := { poison := [coreBase 255 + 0x10000] } }

/-- A vector operation on the last registers. -/
def vec (op : VecOp) (ty : Nat) (toMask : Bool) (mode : BitVec 3) : VecArith := ⟨op, ty, 31, 31, 30, 29, .lt, toMask, mode, false, some 7⟩

/-- A store that holds the header of an ensemble of one tree of one leaf. -/
def treeS : State :=
  { coreS with mem := { cells := writeBytes [] (coreBase 255) (toLe 4 1 ++ toLe 4 1 ++ toLe 4 0 ++ toLe 2 1 ++ toLe 1 1 ++ zeros 1 ++ toLe 4 64
      ++ toLe 4 128) } }

theorem ok_of {e : Except (Nat × Nat) W} (h : (match e with | .ok _ => true | .error _ => false) = true) : ∃ w, e = .ok w := by
  cases e with
  | error _ => simp at h
  | ok w => exact ⟨w, rfl⟩

theorem storeOpen_of {d : Dev} {core : Nat}
    (h : ((List.range 96).all fun f => bit (Tab.getD (d.core core).frames f 0) 0 && bit (Tab.getD (d.core core).frames f 0) 1) = true) :
    d.StoreOpen core := by
  intro f hf
  have := List.all_eq_true.mp h f (List.mem_range.mpr hf)
  simpa using this

/-- A buffer of one page in HBM. -/
def buf : Buf :=
  { gen := 1, tag := 0, size := 0x200000, base := 0x200000, page := 0x200000, read := true, write := true, pin := true, backing := 0,
    homeDie := 0, mask := 0, core := 0, notify := 0, pages := [{ st := .pinned }] }

/-- A stream without objects. -/
def strm : Strm :=
  { gen := 1, tag := 0, mcast := 0, outMax := 512, dstFull := 0, dstEmpty := 0, srcFull := 0, srcEmpty := 0, dstSlot := 0, srcSlot := 0,
    mcastDie := 0, fullLocal := 0, mcastMask := 0 }

/-- A graph of one stage in a state. -/
def graph (st : Nat) : Graph := { gen := 1, tag := 63, state := st, codeVer := 1, stages := [⟨0, 0, 8191, 0xFFFF, 9⟩] }

/-- A feed of batches of one row of 64 bytes. -/
def feed : Feed :=
  { gen := 1, tag := 0, buf := 0x30010000, dieMask := 1, qdepth := 64, batch := 1, rowBytes := 64, lateSlots := 1, decodeSlots := 1,
    slowMax := 1, intakeSlots := 64, ledgerCap := 4096, fill := 0, base := [(0, 0)] }

/-- A device with an object at the greatest index of each kind. -/
def full (st : DevState) : Dev :=
  { dev st with
    bufs := [(65535, buf)]
    strms := [(4095, strm)]
    syncs := [(8191, { gen := 1, tag := 0, val := 5 })]
    graphs := [(255, graph 1)]
    jobs := [(63, { gen := 1 })]
    feeds := [(1023, feed)]
    fw := { upds := [(3, { gen := 1, tag := 0, slot := 1, imageId := [], fileBytes := 4096, phase := 2, stageBuf := 0x3001FFFF })] } }

/-- The Ed448 key of the seed of 57 zeros (RFC 8032). -/
def pubA : List Byte :=
  [0x5b, 0x3a, 0xfe, 0x03, 0x87, 0x8a, 0x49, 0xb2, 0x82, 0x32, 0xd4, 0xf1, 0xa4, 0x42, 0xae, 0xbd, 0xe1, 0x09, 0xf8, 0x07,
   0xac, 0xef, 0x7d, 0xfd, 0x9a, 0x7f, 0x65, 0xb9, 0x62, 0xfe, 0x52, 0xd6, 0x54, 0x73, 0x12, 0xca, 0xce, 0xcf, 0xf0, 0x43,
   0x37, 0x50, 0x8f, 0x9d, 0x25, 0x29, 0xa8, 0xf1, 0x66, 0x91, 0x69, 0xb2, 0x1c, 0x32, 0xc4, 0x80, 0x00]

/-- The Ed448 key of the seed 1, 0, 0, …. -/
def pubB : List Byte :=
  [0x05, 0x72, 0xc1, 0x4c, 0xb1, 0x30, 0x77, 0x44, 0xb9, 0x2f, 0x38, 0x37, 0xf9, 0x96, 0x39, 0xab, 0xbb, 0x20, 0xff, 0xc4,
   0x71, 0xd8, 0x9d, 0x9d, 0x54, 0x53, 0x49, 0xdc, 0x70, 0x0e, 0x01, 0x27, 0x49, 0x1f, 0x06, 0x13, 0x14, 0xfa, 0xf8, 0x9a,
   0x85, 0xc7, 0x07, 0x60, 0xbd, 0x01, 0x88, 0xa5, 0x66, 0x9d, 0x1a, 0x43, 0x93, 0xf0, 0x83, 0x4b, 0x80]

/-- Its signature of the authentication message of channel 0 for a nonce of 32 zeros. -/
def sigAuth : List Byte :=
  [0x1a, 0x4d, 0x6d, 0x42, 0x24, 0x6f, 0x30, 0x57, 0x52, 0xb8, 0x68, 0xcd, 0xcf, 0xef, 0xb7, 0x20, 0xb6, 0x37, 0x2e, 0xb9,
   0x01, 0xa2, 0x73, 0xd1, 0xb8, 0x03, 0x4e, 0x9b, 0xab, 0x1b, 0x49, 0x47, 0xba, 0x38, 0xb9, 0xd3, 0x36, 0x55, 0x6d, 0xeb,
   0x30, 0x16, 0xfd, 0xdb, 0xb4, 0x30, 0xdd, 0x06, 0xea, 0xa7, 0x5c, 0x61, 0xd0, 0x99, 0x44, 0x01, 0x00, 0x64, 0x98, 0x0b,
   0x69, 0x43, 0x17, 0x02, 0x46, 0x13, 0x9b, 0x96, 0xdf, 0x50, 0x0e, 0xdd, 0xad, 0xa8, 0x34, 0xd5, 0x00, 0x61, 0xe5, 0x88,
   0x75, 0xf2, 0xb2, 0x16, 0xa7, 0xa1, 0x1c, 0x69, 0x4d, 0x12, 0x63, 0xe0, 0xc2, 0xef, 0xa3, 0x62, 0x7a, 0x27, 0x27, 0x59,
   0x0a, 0x86, 0x3f, 0x01, 0x2b, 0x5a, 0xff, 0xd4, 0x79, 0xad, 0xcf, 0x48, 0x15, 0x00]

/-- The old key's signature of the new key and serial number 0. -/
def sigOld : List Byte :=
  [0x68, 0x8c, 0x6d, 0x49, 0xdf, 0xa7, 0xd4, 0x2f, 0x0a, 0xbc, 0x8d, 0x95, 0xc4, 0x20, 0x2b, 0x49, 0x51, 0xd7, 0xb2, 0x73,
   0xfb, 0x96, 0x50, 0xd9, 0x51, 0xc8, 0xc3, 0xb6, 0x4d, 0x7f, 0x9f, 0xce, 0xc4, 0xab, 0xb3, 0xbb, 0x45, 0xa2, 0xed, 0x09,
   0x16, 0x87, 0xf5, 0x6f, 0xbb, 0x63, 0x73, 0xb8, 0xa1, 0xe3, 0xdb, 0x5c, 0xc3, 0xe7, 0xeb, 0x02, 0x00, 0xe6, 0xf6, 0x22,
   0x9f, 0x39, 0x29, 0x8e, 0xdf, 0xef, 0x3b, 0x8c, 0x28, 0xb3, 0x3d, 0x92, 0x3d, 0x3f, 0x14, 0x29, 0x1e, 0x17, 0x13, 0xd4,
   0xb5, 0x6c, 0x20, 0x52, 0x22, 0x11, 0x1c, 0x25, 0xa9, 0x48, 0xd3, 0xd4, 0x4f, 0xe0, 0x52, 0xd3, 0xb8, 0xf6, 0xbd, 0x0e,
   0x7f, 0xf8, 0x96, 0x3f, 0x42, 0xa7, 0x14, 0x67, 0x9f, 0x61, 0x62, 0x7f, 0x07, 0x00]

/-- The new key's signature of the same. -/
def sigNew : List Byte :=
  [0xb7, 0x58, 0x74, 0x78, 0x44, 0x85, 0x8d, 0x99, 0xb0, 0x50, 0x89, 0xf0, 0x00, 0x6c, 0xac, 0x63, 0x3b, 0xa4, 0xcc, 0x2f,
   0x17, 0xb7, 0x49, 0xc7, 0x98, 0x06, 0x9f, 0xfb, 0x46, 0xe0, 0xef, 0xcf, 0x68, 0x89, 0x60, 0x84, 0x3e, 0x25, 0x4d, 0x9f,
   0xdc, 0x05, 0xc6, 0xa3, 0x84, 0xd2, 0x4b, 0xd7, 0x76, 0x60, 0xb6, 0x13, 0xed, 0x1c, 0x21, 0xfc, 0x00, 0x49, 0x64, 0xb2,
   0xd4, 0x68, 0x6e, 0x2f, 0x4e, 0xb2, 0x15, 0x7a, 0xb5, 0xd4, 0x53, 0xa5, 0x0d, 0x0f, 0xe4, 0x16, 0xc7, 0x30, 0xbc, 0xae,
   0xd6, 0x4a, 0xcd, 0xe5, 0x7d, 0x9b, 0x61, 0x52, 0xad, 0xf5, 0x16, 0x14, 0xe0, 0x3f, 0x44, 0x05, 0xc7, 0x0f, 0xdf, 0xc5,
   0x55, 0x36, 0x93, 0x89, 0xf9, 0x27, 0x44, 0x41, 0xbc, 0x78, 0x4f, 0x2a, 0x00, 0x00]

/-- Channel 0 in state IDLE, with its nonce. -/
def idleChan : Chan := { chan with state := 1, nonce := some (zeros 32, 0) }

/-- A device whose channel 0 is IDLE, and whose owner key is the first. -/
def authDev : Dev := { full .ready with chans := [(0, idleChan)], fuse := { owner := [(pubA, true)] }, clk := { mono := 10000000000 } }

/-- A result ring of 64 windows, one published. -/
def ring : ResultRing :=
  { buf := 0x3001FFFF, nwin := 64, off := 0, winBytes := 4096, overwrite := false, freeSync := 0x50011FFF, pubSync := 0x50011FFF,
    published := 1 }

/-- A device whose graph has that ring. -/
def ringDev : Dev := { full .ready with graphs := [(255, { graph 1 with ring := some ring })] }

/-- A device without power. -/
def off (f : Hub → Hub) : State := on { dev .off with hub := f { st := .off } }

/-- A device with an object of each kind, in a state of the hub and the pins. -/
def hub (st : DevState) (f : Hub → Hub) (p : Pins → Pins) : State := on { full st with hub := f (full st).hub, pin := p (full st).pin }

/-- The same at a device time. -/
def later (s : State) (t : Nat) : State := { s with dev := { s.dev with clk := { s.dev.clk with mono := t } } }

/-- A device whose last channel is given, at a device time. -/
def last (c : Chan) (t : Nat) : State := on { full .ready with chans := [(16383, c)], clk := { mono := t } }

/-- A stream descriptor of one tile, a layout without dimensions and a tile of them. -/
def desc0 : SDesc := ⟨0, 0, 0, 0, 0, 0, 0, 1, 0, 0, 0, 0, 0⟩

def lay : Layout :=
  { format := 0, elem := 0, rank := 0, flags := 0, base := 0x200000, fill := 0, size := [], start := [], count := [], stride := [] }

def tile : Tile :=
  { desc := desc0, src := lay, dst := lay, k := 0, g := 0, last := true, reads := [⟨0, 64, 0x200000, 64, false, false⟩]
    writes := [⟨0, 64, 0x200000, 64, false, false⟩] }

/-- A device whose last stream is given. -/
def strmS (s : Strm) : State := on { full .running with strms := [(4095, s)] }

/-- A device on which a queue of a class offers an item of an operation. -/
def engS (die cls q op : Nat) : State :=
  { on { full .ready with
      queues := [(queueKey die cls q, { ring := 0x200000, count := 1, submit := 2047, job := 63, en := true })]
      syncs := [(2048 * die + 2047, { gen := 1, tag := 0, val := 1 })] } with
    mem := { cells := [(0, BitVec.ofNat 8 op)] } }

/-- A work item of an engine in a state. -/
def item (eng st : Nat) (d : List Byte) : Item := { no := 0, seq := 1, desc := d, eng := eng, st := st }

/-- A header of a PENDING command and the command, for what it waits for. -/
def waitFor (w : Wait) : PendCmd := ⟨0, hdr 3 0 0 0, 3, 7, false, w⟩

/-- A device with that command. -/
def waitS (w : Wait) (t : Nat) : State := later (on { full .ready with cmds := [waitFor w] }) t

/-- A table of rows of one FP32 value, 64 rows of 64 bytes at the start of the buffer. -/
def tableS (d : List Byte) (r : List RowStep) : State :=
  on { full .ready with tables := [(4095, { gen := 1, tag := 0, desc := d })], ruus := [(23, { steps := r })] }

/-- A sample of a feed, and an open batch of it. -/
def sample : Sample := { id := 9, ord := 0, arg := 0, die := 0, start := 0, lane := 0, no := 0 }

def batch0 : Batch := { seq := 1, openTime := 0 }

/-- A device whose last feed is given, in a buffer with the cells given, its first three objects at 1. -/
def feedS (f : Feed) (cells : List Host.Cell) : State :=
  { on { full .ready with
      feeds := [(1023, { f with buf := 0x3001FFFF, base := [(0, 0)] })]
      syncs := [(0, { gen := 1, tag := 0, val := 1 }), (1, { gen := 1, tag := 0, val := 0 }), (2, { gen := 1, tag := 0, val := 1 })] } with
    mem := { cells := cells } }

/-- That feed. -/
def fd (f : Feed) : Feed := { f with buf := 0x3001FFFF, base := [(0, 0)] }

/-- A client of a feed. -/
def client : Client := { idx := 15, chan := 16383, cslots := 64, va := 0, rkey := 0, stride := 0x200, credits := 1 }

/-- A feed with a batch to deliver and that client, and a device with it, the client's channel and a credit message of n in its ring. -/
def dfeed : Feed := { feed with batches := [{ batch0 with st := 1 }], clients := [client] }

def creditS (n : Byte) : State :=
  { on { full .ready with
      feeds := [(1023, dfeed)], chans := [(16383, { chan with kind := 3, rxBuf := 0x3001FFFF, rxSync := 0x50011FFF })]
      syncs := [(8191, { gen := 1, tag := 0, val := 504 })] } with
    mem := { cells := [(0, 1), (2, 16), (64, 0x53), (65, 0x56), (66, 0x46), (67, 0x43), (68, 1), (70, n)] } }

/-- A device on which the graph's first result is ready to be published. -/
def pubS : State :=
  { on { full .ready with
      graphs := [(255, { graph 1 with ring := some { ring with nwin := 1 } })], syncs := [(8191, { gen := 1, tag := 0, val := 1 })] } with
    mem := { cells := [(0x18, 0xC0), (0x19, 0x0F)] } }

/-- A physical link in service for its own logical link. -/
def lnk : Link := { state := 2, role := 1, logical := 31, peer := 10 }

/-- A device whose last link is given, at a device time, in a state. -/
def linkS (l : Link) (t : Nat) : State := later (on { full .ready with links := [(31, l)] }) t

/-- The same in UPDATE_PAUSE. -/
def pausedS : State := on { full .updatePause with hub := { (full .updatePause).hub with rails := true }, links := [(31, lnk)] }

/-- A group of one member, with a ceiling reported. -/
def group (c : Nat) : FGroup := { id := 1, members := 1, reports := [(0, c)] }

/-- A device in that group at a step. -/
def groupS (c step : Nat) : State :=
  on { full .ready with
    sys := { group := some (group c) }, clk := { now := 10000000 }, links := [(31, lnk)], pwr := { step := step } }

/-- A device with its console under the boot ROM. -/
def romS : State := on { full .standby with svc := { rom := true } }

/-- A device in SERVICE, with SERVICE_MODE high or low, unsealed or not. -/
def svcS (pin unsealed : Bool) : State :=
  on { full .service with pin := { serviceMode := pin }, svc := { unsealed := unsealed }, fuse := { serial := 2 ^ 64 - 1, sealCount := 31 } }

/-- A packet with a header of its own, its HDR_CRC kept. -/
def pktOf (h : Header) : Packet := ⟨h, []⟩

/-- Packets with a sound CRC: of another version, and of another SEQ. -/
def sealed (h : Header) : Packet := ⟨{ h with hdrCrc := BitVec.ofNat 32 (crc32c (packetCrcBytes ⟨h, []⟩ 0)) }, []⟩

def verPkt : Packet := sealed { hdr 0 0 0 0 with version := 2 }

def seqPkt : Packet := sealed { hdr 0 0 0 0 with seq := 6 }

/-- Witnesses of TaskOperationsComplete. -/
theorem witness_taskOperationsComplete :
    (∃ (s : State) (core obj amount k : Nat) (sl : Slot), s.dev.running core = some (k, sl) ∧ s.dev.stageOver sl = false ∧ s.dev.dieUp
      (syncDie (hIdx obj)) = true ∧ 0 < amount ∧ amount < 2 ^ 32 ∧ s.dev.localSync core obj (fun y => y.canTake amount) = true) ∧
    (∃ (s : State) (core obj amount k : Nat) (sl : Slot), s.dev.running core = some (k, sl) ∧ s.dev.stageOver sl = false ∧ s.dev.dieUp
      (syncDie (hIdx obj)) = true ∧ 0 < amount ∧ amount < 2 ^ 32 ∧ s.dev.localSync core obj (fun y => y.canTake amount) = false ∧
      s.dev.syncLive obj = true) ∧
    (∃ (s : State) (core obj value k : Nat) (sl : Slot), s.dev.running core = some (k, sl) ∧ s.dev.stageOver sl = false ∧ s.dev.dieUp
      (syncDie (hIdx obj)) = true ∧ s.dev.localSync core obj (fun y => value ≤ y.val) = true) ∧
    (∃ (s : State) (core obj value limit k : Nat) (sl : Slot), s.dev.running core = some (k, sl) ∧ s.dev.stageOver sl = false ∧
      s.dev.dieUp (syncDie (hIdx obj)) = true ∧ s.dev.localSync core obj (fun y => value ≤ y.val) = false ∧ s.dev.syncLive obj = true ∧ 0
      < limit) ∧
    (∃ (s : State) (core obj k : Nat) (sl : Slot), s.dev.running core = some (k, sl) ∧ s.dev.dieUp (syncDie (hIdx obj)) = true ∧
      s.dev.syncLive obj = true) ∧
    (∃ (s : State) (core obj k : Nat) (sl : Slot), s.dev.running core = some (k, sl) ∧ s.dev.dieUp (syncDie (hIdx obj)) = true ∧
      s.dev.syncLive obj = true) ∧
    (∃ (s : State) (core ticks k : Nat) (sl : Slot), s.dev.running core = some (k, sl) ∧ s.dev.stageOver sl = false ∧ 0 < ticks ∧ ticks <
      2 ^ 24) ∧
    (∃ (s : State) (core k : Nat) (sl : Slot), s.dev.running core = some (k, sl) ∧ s.dev.stageOver sl = false) ∧
    (∃ (s : State) (core k : Nat) (sl : Slot), s.dev.running core = some (k, sl) ∧ s.dev.stageOver sl = false ∧ sl.rec'.rep = sl.run + 1) ∧
    (∃ (s : State) (core k : Nat) (sl : Slot), s.dev.running core = some (k, sl) ∧ s.dev.stageOver sl = false ∧ sl.rec'.rep ≠ sl.run + 1) :=
  ⟨⟨coreS, 255, obj, 5, 4095, _, rfl, by decide +kernel, by decide +kernel, by decide +kernel, by decide +kernel, by decide +kernel⟩,
   ⟨coreS, 255, obj, 2 ^ 32 - 1, 4095, _, rfl, by decide +kernel, by decide +kernel, by decide +kernel, by decide +kernel,
     by decide +kernel, by decide +kernel⟩,
   ⟨coreS, 255, obj, 5, 4095, _, rfl, by decide +kernel, by decide +kernel, by decide +kernel⟩,
   ⟨coreS, 255, obj, 6, 9, 4095, _, rfl, by decide +kernel, by decide +kernel, by decide +kernel, by decide +kernel, by decide +kernel⟩,
   ⟨coreS, 255, obj, 4095, _, rfl, by decide +kernel, by decide +kernel⟩,
   ⟨coreS, 255, obj, 4095, _, rfl, by decide +kernel, by decide +kernel⟩,
   ⟨coreS, 255, 2 ^ 24 - 1, 4095, _, rfl, by decide +kernel, by decide +kernel, by decide +kernel⟩,
   ⟨coreS, 255, 4095, _, rfl, by decide +kernel⟩,
   ⟨on { coreDev with slots := coreDev.slots.map fun x => (x.1, { x.2 with run := 1 }) }, 255, 4095, _, rfl, by decide +kernel,
     by decide +kernel⟩,
   ⟨coreS, 255, 4095, _, rfl, by decide +kernel, by decide +kernel⟩⟩

/-- Witnesses of CoreLoadsAndStoresComplete. -/
theorem witness_coreLoadsAndStoresComplete :
    (∃ (s : State) (core : Nat) (i : CoreMem), Issues s core i.ecc ∧ i.scalar = true ∧ i.reg < 32 ∧ (i.bytes = 1 ∨ i.bytes = 2 ∨ i.bytes
      = 4 ∨ i.bytes = 8) ∧ (s.fetched i.ecc).dev.coreBad core i.off i.bytes 0 = none ∧ (s.fetched i.ecc).corePoison core i.off i.bytes =
      false) ∧
    (∃ (s : State) (core : Nat) (i : CoreMem), Issues s core i.ecc ∧ i.scalar = false ∧ i.reg < 32 ∧ i.mask = none ∧ i.off % 4 = 0 ∧
      (s.fetched i.ecc).dev.coreBad core i.off 1024 0 = none) ∧
    (∃ (s : State) (core : Nat) (i : CoreMem), Issues s core i.ecc ∧ i.scalar = true ∧ i.reg < 32 ∧ (i.bytes = 1 ∨ i.bytes = 2 ∨ i.bytes
      = 4 ∨ i.bytes = 8) ∧ (s.fetched i.ecc).dev.coreBad core i.off i.bytes 1 = none) ∧
    (∃ (s : State) (core : Nat) (i : CoreMem), Issues s core i.ecc ∧ i.scalar = false ∧ i.reg < 32 ∧ i.mask = none ∧ i.off % 4 = 0 ∧
      ((s.fetched i.ecc).dev.core core).vpois i.reg = 0 ∧ (((s.fetched i.ecc).dev.core core).vreg i.reg).length = 1024 ∧ (s.fetched
      i.ecc).dev.coreBad core i.off 1024 1 = none) ∧
    (∃ (s : State) (core : Nat) (i : IndexedMem), Issues s core i.ecc ∧ i.store = true ∧ regsOk [i.reg, i.idx] i.mask = true ∧ (∀ e ∈
      indexedElems ((s.fetched i.ecc).dev.core core) i, bit (((s.fetched i.ecc).dev.core core).vpois i.idx) e.2.1 = false ∧ e.2.2 % 4 = 0
      ∧ (s.fetched i.ecc).dev.coreBad core e.2.2 (if i.wide then 8 else 4) 1 = none)) ∧
    (∃ (s : State) (core : Nat) (i : IndexedMem), Issues s core i.ecc ∧ i.store = false ∧ regsOk [i.reg, i.idx] i.mask = true ∧ (∀ e ∈
      indexedElems ((s.fetched i.ecc).dev.core core) i, bit (((s.fetched i.ecc).dev.core core).vpois i.idx) e.2.1 = false ∧ e.2.2 % 4 = 0
      ∧ (s.fetched i.ecc).dev.coreBad core e.2.2 (if i.wide then 8 else 4) 0 = none)) :=
  ⟨⟨coreS, 255, ⟨true, 31, 0x5FFFF8, 8, none, []⟩, issues_of (by decide +kernel), by decide +kernel, by decide +kernel,
     by decide +kernel, by decide +kernel, by decide +kernel⟩,
   ⟨coreS, 255, ⟨false, 31, 0x5FFC00, 1024, none, []⟩, issues_of (by decide +kernel), by decide +kernel, by decide +kernel,
     by decide +kernel, by decide +kernel, by decide +kernel⟩,
   ⟨coreS, 255, ⟨true, 31, 0x5FFFFF, 1, none, []⟩, issues_of (by decide +kernel), by decide +kernel, by decide +kernel,
     by decide +kernel, by decide +kernel⟩,
   ⟨coreS, 255, ⟨false, 31, 0x5FFC00, 1024, none, []⟩, issues_of (by decide +kernel), by decide +kernel, by decide +kernel,
     by decide +kernel, by decide +kernel, by decide +kernel, by decide +kernel, by decide +kernel⟩,
   ⟨coreS, 255, ⟨true, 31, 0, 0, true, none, []⟩, issues_of (by decide +kernel), by decide +kernel, by decide +kernel, by decide +kernel⟩,
   ⟨coreS, 255, ⟨false, 31, 0, 0x5FFFFC, false, none, []⟩, issues_of (by decide +kernel), by decide +kernel, by decide +kernel,
     by decide +kernel⟩⟩

/-- Witnesses of LaneInstructionsComplete. -/
theorem witness_laneInstructionsComplete :
    (∃ (s : State) (core n : Nat) (i : VecArith) (r : RMode) (f : LaneFn), Issues s core [] ∧ (s.dev.core core).mode i.mode = .ok r ∧
      vecFn i.op i.ty i.rel r i.sat (s.dev.core core).satC (s.dev.core core).ftz = some (n, f) ∧ (i.op = .cmp ∨ i.op = .sel → i.toMask =
      false) ∧ regsOk (i.dst :: vecSources i) i.mask = true) ∧
    (∃ (s : State) (core n : Nat) (i : VecArith) (r : RMode) (f : LaneFn), Issues s core [] ∧ (s.dev.core core).mode i.mode = .ok r ∧
      vecFn i.op i.ty i.rel r i.sat (s.dev.core core).satC (s.dev.core core).ftz = some (n, f) ∧ i.op = .cmp ∧ i.toMask = true ∧ regsOk
      (vecSources i) i.mask = true ∧ i.dst < 8 ∧ 4 ≤ n ∧ Nat.land ((vecSources i).foldl (fun p r => Nat.lor p ((s.dev.core core).vpois
      r)) 0) ((s.dev.core core).lanes i.mask) = 0) ∧
    (∃ (s : State) (core n dst src : Nat) (mask : Option Nat), Issues s core [] ∧ (n = 1 ∨ n = 2 ∨ n = 4 ∨ n = 8) ∧ regsOk [dst] mask =
      true ∧ src < 32) ∧
    (∃ (s : State) (core n dst src elem : Nat), Issues s core [] ∧ (n = 1 ∨ n = 2 ∨ n = 4 ∨ n = 8) ∧ src < 32 ∧ dst < 32 ∧ elem < 1024 /
      n ∧ (s.dev.core core).vpois src = 0) ∧
    (∃ (s : State) (core : Nat) (i : VecRed) (r : RMode) (f : Nat → Nat → Nat → Nat × Nat × Nat), Issues s core [] ∧ (s.dev.core
      core).mode i.mode = .ok r ∧ regsOk [i.dst, i.src] i.mask = true ∧ redFn i.op i.ty r i.sat (s.dev.core core).satC (s.dev.core
      core).ftz = some f) ∧
    (∃ (s : State) (core : Nat) (i : BucketIns), Issues s core [] ∧ regsOk [i.dst, i.h, i.b] i.mask = true) ∧
    (∃ (s : State) (core : Nat) (i : DistIns) (r : RMode), Issues s core [] ∧ (s.dev.core core).mode i.mode = .ok r ∧ regsOk [i.dst,
      i.dot, i.cc, i.qq] i.mask = true) ∧
    (∃ (s : State) (core : Nat) (i : NormIns) (r : RMode) (ins : Instr) (fn : Core → Nat → NormFn) (input : Bool → Nat → FV), Issues s
      core [] ∧ (s.dev.core core).mode i.mode = .ok r ∧ i.bf = false ∧ regsOk [i.dst, i.src] i.mask = true ∧ i.p1 < 32 ∧ i.p2 < 32 ∧
      i.nanOut < 32 ∧ i.part < 2 ∧ ((ins = .zscore core i ∧ input = fpInput ∧ fn = fun c _ => zscoreFn fp32 c.satC c.ftz (normParam c
      i.p1) (normParam c i.p2)) ∨ (ins = .minmax core i ∧ input = fpInput ∧ fn = fun c _ => minmaxFn fp32 c.satC c.ftz (normParam c i.p1)
      (normParam c i.p2)) ∨ (ins = .clip core i ∧ input = fpInput ∧ fn = fun c _ => clipFn fp32 c.satC c.ftz (normParam c i.p1)
      (normParam c i.p2)) ∨ (ins = .slog core i ∧ input = fpInput ∧ fn = fun c x => slogFn fp32 c.satC c.ftz x) ∨ (ins = .quantile core i
      ∧ (input = fun _ (x : Nat) => FV.num false x) ∧ fn = fun c _ => quantileFn fp32 c.satC c.ftz (c.sreg i.p1)))) :=
  ⟨⟨coreS, 255, _, vec .fma 0x01 false 0, _, _, issues_of (by decide +kernel), rfl, rfl, by decide +kernel, by decide +kernel⟩,
   ⟨coreS, 255, _, { vec .cmp 0x01 true 7 with dst := 7 }, _, _, issues_of (by decide +kernel), rfl, rfl, by decide +kernel,
     by decide +kernel, by decide +kernel, by decide +kernel, by decide +kernel, by decide +kernel⟩,
   ⟨coreS, 255, 8, 31, 31, some 7, issues_of (by decide +kernel), by decide +kernel, by decide +kernel, by decide +kernel⟩,
   ⟨coreS, 255, 8, 31, 31, 127, issues_of (by decide +kernel), by decide +kernel, by decide +kernel, by decide +kernel,
     by decide +kernel, by decide +kernel⟩,
   ⟨coreS, 255, ⟨.max, 0x01, 31, 31, 0, false, some 7⟩, _, _, issues_of (by decide +kernel), rfl, by decide +kernel, rfl⟩,
   ⟨coreS, 255, ⟨31, 31, 30, some 7⟩, issues_of (by decide +kernel), by decide +kernel⟩,
   ⟨coreS, 255, ⟨31, 31, 30, 29, true, 0, some 7⟩, _, issues_of (by decide +kernel), rfl, by decide +kernel⟩,
   ⟨coreS, 255, ⟨31, 31, 31, 31, 31, false, 1, 0, some 7⟩, _, _, _, _, issues_of (by decide +kernel), rfl, by decide +kernel,
     by decide +kernel, by decide +kernel, by decide +kernel, by decide +kernel, by decide +kernel,
     .inr (.inr (.inr (.inr ⟨rfl, rfl, rfl⟩)))⟩⟩

/-- Witnesses of ConversionMatrixAndPoolingComplete. -/
theorem witness_conversionMatrixAndPoolingComplete :
    (∃ (s : State) (core : Nat) (i : VecConv) (r : RMode), Issues s core i.ecc ∧ elemClass i.srcTy = .byte ∧ elemClass i.dstTy = .byte ∧
      ((s.fetched i.ecc).dev.core core).mode i.mode = .ok r ∧ i.src < 32 ∧ i.dst < 32 ∧ (convFirst i i.srcTy + convCount i) * elemBytes
      i.srcTy ≤ 1024 ∧ (convFirst i i.dstTy + convCount i) * elemBytes i.dstTy ≤ 1024) ∧
    (∃ (s : State) (core : Nat) (i : VecConv) (w : W), Issues s core i.ecc ∧ vecConv core i (s.fetched i.ecc) = .ok w) ∧
    (∃ (s : State) (core : Nat) (i : MxConv) (r : RMode), Issues s core [] ∧ (s.dev.core core).mode i.mode = .ok r ∧ elemClass i.srcTy =
      .byte ∧ elemClass i.dstTy = .mx ∧ i.src < 32 ∧ (i.first + 32) * elemBytes i.srcTy ≤ 1024 ∧ ((s.dev.core core).vreg i.src).length =
      1024 ∧ s.dev.coreBad core i.scaleOff 1 1 = none ∧ s.dev.coreBad core i.dataOff (elemBits i.dstTy * 4) 1 = none) ∧
    (∃ (s : State) (core : Nat) (i : MatMul), Issues s core i.ecc ∧ matOk i = true ∧ i.offA % 64 = 0 ∧ i.offB % 64 = 0 ∧ (∀ r, r < i.m →
      (s.fetched i.ecc).dev.coreBad core (i.offA + r * i.strideA) (matRowBytes i.tyA i.int4A i.group i.pad i.k) 0 = none) ∧ (∀ r, r < i.n
      → (s.fetched i.ecc).dev.coreBad core (i.offB + r * i.strideB) (matRowBytes i.tyB i.int4B i.group i.pad i.k) 0 = none)) ∧
    (∃ (s : State) (core : Nat) (i : TileMove), Issues s core [] ∧ i.tile < 4 ∧ i.reg + 8 ≤ 32 ∧ i.load = true) ∧
    (∃ (s : State) (core : Nat) (i : TileMove), Issues s core [] ∧ i.tile < 4 ∧ i.reg + 8 ≤ 32 ∧ i.load = false) ∧
    (∃ (s : State) (core : Nat) (i : TreeScore) (r : RMode), Issues s core i.ecc ∧ ((s.fetched i.ecc).dev.core core).mode i.mode = .ok r
      ∧ regsOk [i.dst] i.mask = true ∧ (s.fetched i.ecc).dev.StoreOpen core ∧ i.ens % 64 = 0 ∧ i.feat % 4 = 0 ∧ i.stride % 4 = 0 ∧ i.ens
      + 64 ≤ coreBytes ∧ EnsFits (s.coreLocal i.ecc core i.ens 64) ∧ i.feat + 255 * i.stride + 4 * 65536 ≤ coreBytes) ∧
    (∃ (s : State) (core : Nat) (i : HotIns), Issues s core i.ecc ∧ hotOk i = true ∧ regsOk [i.src] i.valid = true ∧ i.n ≤ 256 ∧
      (s.fetched i.ecc).dev.StoreOpen core ∧ i.out + i.n * (4 * i.depth) ≤ coreBytes) ∧
    (∃ (s : State) (core : Nat) (i : HotIns), Issues s core i.ecc ∧ hotOk i = true ∧ (s.fetched i.ecc).dev.StoreOpen core ∧ i.offs + 4 *
      i.n + 4 ≤ coreBytes ∧ i.out + i.n * (4 * i.depth) ≤ coreBytes ∧ (∀ r, r < i.n → i.vals + 4 * (fld (s.coreLocal i.ecc core (i.offs +
      4 * r) 8) 0 4 + fld (s.coreLocal i.ecc core (i.offs + 4 * r) 8) 4 4) ≤ coreBytes ∧ ∀ b ∈ i.bitmap, b + fld (s.coreLocal i.ecc core
      (i.offs + 4 * r) 8) 4 4 ≤ coreBytes)) ∧
    (∃ (s : State) (core : Nat) (i : PoolIns), Issues s core i.ecc ∧ (s.fetched i.ecc).dev.StoreOpen core ∧ PoolFits i (takeElems 4
      (i.nbags + 1) (s.coreLocal i.ecc core i.bags (4 * (i.nbags + 1)))) ((i.inv.map fun b => takeElems 4 i.nrows (s.coreLocal i.ecc core
      b (4 * i.nrows))).getD [])) :=
  ⟨⟨coreS, 255, ⟨0x01, 0x19, 31, 31, ⟨0, 0, false⟩, 1, 0, []⟩, _, issues_of (by decide +kernel), by decide +kernel, by decide +kernel,
     rfl, by decide +kernel, by decide +kernel, by decide +kernel, by decide +kernel⟩,
   (ok_of (e := vecConv 255 ⟨0x01, 0x06, 31, 0, ⟨0, 1, false⟩, 0, 0, []⟩ (coreS.fetched [])) (by decide +kernel)).elim fun w h =>
      ⟨coreS, 255, _, w, issues_of (by decide +kernel), h⟩,
   ⟨coreS, 255, ⟨0x01, 0x06, 31, 224, 0x5FFFFF, 0, 0⟩, _, issues_of (by decide +kernel), rfl, by decide +kernel, by decide +kernel,
     by decide +kernel, by decide +kernel, by decide +kernel, by decide +kernel, by decide +kernel⟩,
   ⟨coreS, 255, ⟨3, 32, 64, 64, 0x02, 0x02, false, false, 0, 64, 0x5FE000, 64, 1, false, true, true, []⟩, issues_of (by decide +kernel),
     by decide +kernel, by decide +kernel, by decide +kernel, by decide +kernel, by decide +kernel⟩,
   ⟨coreS, 255, ⟨3, 24, true⟩, issues_of (by decide +kernel), by decide +kernel, by decide +kernel, by decide +kernel⟩,
   ⟨coreS, 255, ⟨3, 24, false⟩, issues_of (by decide +kernel), by decide +kernel, by decide +kernel, by decide +kernel⟩,
   ⟨treeS, 255, ⟨31, 0, 0x1000, 4, 0, some 7, []⟩, _, issues_of (by decide +kernel), rfl, by decide +kernel,
     storeOpen_of (by decide +kernel), by decide +kernel, by decide +kernel, by decide +kernel, by decide +kernel,
     by unfold EnsFits; decide +kernel, by decide +kernel⟩,
   ⟨coreS, 255, ⟨0x01, 65536, 0x5C0000 - 0x40000, false, 31, some 7, 1, 0, 0, none, false, []⟩, issues_of (by decide +kernel),
     by decide +kernel, by decide +kernel, by decide +kernel, storeOpen_of (by decide +kernel), by decide +kernel⟩,
   ⟨coreS, 255, ⟨0x11, 16, 0, true, 0, none, 1, 0x5FFF00, 0x5FFF80, some 0x5FFFF0, true, []⟩, issues_of (by decide +kernel),
     by decide +kernel, storeOpen_of (by decide +kernel), by decide +kernel, by decide +kernel, by decide +kernel⟩,
   ⟨coreS, 255, ⟨0, 4, 1, false, 1, 0x5FFFF8, 1, none, none, none, .sum, 0x100, 4, false, []⟩, issues_of (by decide +kernel),
     storeOpen_of (by decide +kernel),
     ⟨by decide +kernel, by decide +kernel, by decide +kernel, by simp, by simp, by simp, by decide +kernel, by decide +kernel⟩⟩⟩

/-- Witnesses of HashInstructionsComplete. -/
theorem witness_hashInstructionsComplete :
    (∃ (s : State) (core rb : Nat) (f : Nat → List Byte → Nat) (i : HashIns) (ins : Instr), Issues s core i.ecc ∧ ((ins = .svh64 core i ∧
      rb = 8 ∧ f = svh64) ∨ (ins = .xxh64 core i ∧ rb = 8 ∧ f = xxh64)) ∧ i.str = none ∧ i.wide = true ∧ i.mask = none ∧ i.dst < 32 ∧
      i.src < 32 ∧ i.seed < 32 ∧ i.part < 2 ∧ i.dstPart < 2 ∧ (((s.fetched i.ecc).dev.core core).vreg i.dst).length = 1024) ∧
    (∃ (s : State) (core : Nat) (i : HashIns), Issues s core i.ecc ∧ i.str = none ∧ i.wide = true ∧ i.mask = none ∧ i.dst < 32 ∧ i.src <
      32 ∧ i.seed < 32 ∧ i.part < 2 ∧ i.dstPart < 2) ∧
    (∃ (s : State) (core : Nat) (i : HashIns) (ins : Instr), Issues s core i.ecc ∧ (ins = .svh64 core i ∨ ins = .xxh64 core i ∨ ins =
      .crc32c core i) ∧ regsOk [i.dst] i.mask = true ∧ i.src < 32 ∧ i.seed < 32 ∧ i.part < 2 ∧ i.dstPart < 2 ∧ (∀ st ∈ i.str, (s.fetched
      i.ecc).dev.StoreOpen core ∧ StrFits st)) ∧
    (∃ (s : State) (core : Nat) (i : CrossIns), Issues s core i.ecc ∧ 2 ≤ i.parts.length ∧ i.parts.length ≤ 8 ∧ i.dst < 32 ∧ i.seed < 32
      ∧ (∀ p ∈ i.parts, crossType p = true ∧ (∀ m ∈ p.valid, m < 8) ∧ ∀ st ∈ p.str, (s.fetched i.ecc).dev.StoreOpen core ∧ StrFits st)) ∧
    (∃ (s : State) (core : Nat) (i : CrossIns), Issues s core i.ecc ∧ 2 ≤ i.parts.length ∧ i.parts.length ≤ 8 ∧ i.dst < 32 ∧ i.seed < 32
      ∧ (∀ p ∈ i.parts, p.str = none ∧ crossType p = true ∧ ∀ m ∈ p.valid, m < 8)) :=
  ⟨⟨coreS, 255, _, _, ⟨31, 31, true, 1, 1, none, 31, none, []⟩, _, issues_of (by decide +kernel), .inr ⟨rfl, rfl, rfl⟩,
     by decide +kernel, by decide +kernel, by decide +kernel, by decide +kernel, by decide +kernel, by decide +kernel, by decide +kernel,
     by decide +kernel, by decide +kernel⟩,
   ⟨coreS, 255, ⟨31, 31, true, 1, 1, none, 31, none, []⟩, issues_of (by decide +kernel), by decide +kernel, by decide +kernel,
     by decide +kernel, by decide +kernel, by decide +kernel, by decide +kernel, by decide +kernel, by decide +kernel⟩,
   ⟨coreS, 255, ⟨31, 31, false, 1, 1, some ⟨0x5FFDFC, 0x5FFFFF, 1, 0⟩, 31, some 7, []⟩, _, issues_of (by decide +kernel),
     .inr (.inr rfl), by decide +kernel, by decide +kernel, by decide +kernel, by decide +kernel, by decide +kernel,
     by simp only [Option.mem_def, Option.some.injEq, forall_eq']; exact ⟨storeOpen_of (by decide +kernel), by unfold StrFits; decide +kernel⟩⟩,
   ⟨coreS, 255, ⟨31, [⟨0x50, 0, 0, some ⟨0, 0x5FFFFF, 1, 0⟩, some 7⟩, ⟨0x01, 31, 1, none, none⟩], 31, []⟩, issues_of (by decide +kernel),
     by decide +kernel, by decide +kernel, by decide +kernel, by decide +kernel,
     by simp only [List.mem_cons, List.not_mem_nil, or_false, forall_eq_or_imp, forall_eq]; refine ⟨⟨by decide +kernel, by simp, ?_⟩, by decide +kernel, by simp, by simp⟩; simp only [Option.mem_def, Option.some.injEq, forall_eq']; exact ⟨storeOpen_of (by decide +kernel), by unfold StrFits; decide +kernel⟩⟩,
   ⟨coreS, 255, ⟨31, [⟨0x01, 31, 1, none, some 7⟩, ⟨0x19, 31, 0, none, none⟩], 31, []⟩, issues_of (by decide +kernel), by decide +kernel,
     by decide +kernel, by decide +kernel, by decide +kernel, by simp; decide +kernel⟩⟩

/-- Witnesses of SelectionInstructionsComplete. -/
theorem witness_selectionInstructionsComplete :
    (∃ (s : State) (core kind : Nat) (i : TopkIns), Issues s core [] ∧ topkOk i [i.dst, i.a] = true ∧ topkKind i.ty = some kind) ∧
    (∃ (s : State) (core kind : Nat) (i : TopkIns), Issues s core [] ∧ topkOk i [i.dst] = true ∧ topkKind i.ty = some kind) ∧
    (∃ (s : State) (core kind : Nat) (i : TopkIns), Issues s core [] ∧ topkOk i [i.dst, i.a, i.b] = true ∧ topkKind i.ty = some kind ∧
      i.bound = none) ∧
    (∃ (s : State) (core kind : Nat) (i : TopkIns), Issues s core [] ∧ topkOk i [i.dst, i.a, i.b] = true ∧ topkKind i.ty = some kind) :=
  ⟨⟨coreS, 255, _, ⟨0x01, true, 128, 31, 31, 31, 31, 30, 30, none, some 7⟩, issues_of (by decide +kernel), by decide +kernel, rfl⟩,
   ⟨coreS, 255, _, ⟨0x01, true, 128, 31, 31, 31, 31, 30, 30, none, some 7⟩, issues_of (by decide +kernel), by decide +kernel, rfl⟩,
   ⟨coreS, 255, _, ⟨0x01, true, 128, 31, 31, 31, 31, 30, 30, none, some 7⟩, issues_of (by decide +kernel), by decide +kernel, rfl,
     by decide +kernel⟩,
   ⟨coreS, 255, _, ⟨0x01, true, 128, 31, 31, 31, 31, 30, 30, none, some 7⟩, issues_of (by decide +kernel), by decide +kernel, rfl⟩⟩

/-- Witnesses of SchedulerEventsComplete. -/
theorem witness_schedulerEventsComplete :
    (∃ (s : State) (core lv k : Nat) (sl : Slot), core < 256 ∧ s.dev.dieRuns (dieOfCore core) = true ∧ (s.dev.core core).offline = false
      ∧ (s.dev.core core).run = none ∧ s.dev.nextReady core = some (lv, k) ∧ Tab.get s.dev.slots (slotKey (dieOfCore core) k) = some sl) ∧
    (∃ (s : State) (die : Nat) (e : DelayEnt) (sl : Slot), s.dev.dueDelay die = some e ∧ e.isWait = false ∧ Tab.get s.dev.slots (slotKey
      die e.slot) = some sl) ∧
    (∃ (s : State) (die : Nat) (e : DelayEnt), s.dev.dueDelay die = some e ∧ e.isWait = true) ∧
    (∃ (s : State) (die : Nat) (m : SyncMsg) (rest : List SyncMsg), s.dev.dieRuns die = true ∧ (s.dev.die die).syncQ = m :: rest ∧
      (Tab.get s.dev.syncs m.obj).isSome = true) ∧
    (∃ (s : State) (i n : Nat) (g : Graph), Tab.get s.dev.graphs i = some g ∧ g.state = 2 ∧ g.startNext = some n ∧ s.dev.diesRun = true) ∧
    (∃ (s : State) (core : Nat), core < 256 ∧ s.dev.dieUp (core / 64) = true ∧ (s.dev.core core).run.isSome = true ∧ s.dev.physOfCore
      core < 68) ∧
    (∃ (s : State) (die phys : Nat), die < 4 ∧ phys < 68 ∧ s.dev.dieUp die = true ∧ bit (s.dev.die die).coreRetired phys = false) :=
  ⟨⟨on { coreDev with cores := [], slots := coreDev.slots, ready := [(readyKey 255 15, [4095])] }, 255, 15, 4095, _, by decide +kernel,
     by decide +kernel, by decide +kernel, by decide +kernel, by decide +kernel, rfl⟩,
   ⟨on { coreDev with dies := [(3, { delay := [⟨0, 4095, false⟩] })] }, 3, _, _, rfl, by decide +kernel, rfl⟩,
   ⟨on { coreDev with dies := [(3, { delay := [⟨0, 4095, true⟩] })] }, 3, _, rfl, by decide +kernel⟩,
   ⟨on { coreDev with dies := [(3, { syncQ := [⟨8191, .add 1, .task 0 0⟩] })] }, 3, _, _, by decide +kernel, rfl, by decide +kernel⟩,
   ⟨on { coreDev with graphs := [(255, { gen := 1, tag := 1, codeVer := 1, state := 2, startNext := some 1 })] }, 255, 1, _, rfl,
     by decide +kernel, by decide +kernel, by decide +kernel⟩,
   ⟨coreS, 255, by decide +kernel, by decide +kernel, by decide +kernel, by decide +kernel⟩,
   ⟨coreS, 3, 67, by decide +kernel, by decide +kernel, by decide +kernel, by decide +kernel⟩⟩

/-- Witnesses of CoreFaultsAreRaised. -/
theorem witness_coreFaultsAreRaised :
    (∃ (s : State) (core : Nat) (i : CoreMem), Issues s core i.ecc ∧ i.scalar = true ∧ 32 ≤ i.reg) ∧
    (∃ (s : State) (core : Nat) (i : CoreMem) (a : Nat), Issues s core i.ecc ∧ i.scalar = true ∧ i.reg < 32 ∧ (i.bytes = 1 ∨ i.bytes = 2
      ∨ i.bytes = 4 ∨ i.bytes = 8) ∧ (s.fetched i.ecc).dev.coreBad core i.off i.bytes 0 = some a) ∧
    (∃ (s : State) (core : Nat) (i : CoreMem) (a : Nat), Issues s core i.ecc ∧ i.scalar = true ∧ i.reg < 32 ∧ (i.bytes = 1 ∨ i.bytes = 2
      ∨ i.bytes = 4 ∨ i.bytes = 8) ∧ (s.fetched i.ecc).dev.coreBad core i.off i.bytes 1 = some a) ∧
    (∃ (s : State) (core : Nat) (i : CoreMem), Issues s core i.ecc ∧ i.scalar = false ∧ regsOk [i.reg] i.mask = true ∧ i.off % 4 ≠ 0) ∧
    (∃ (s : State) (core : Nat) (i : CoreMem), Issues s core i.ecc ∧ i.scalar = true ∧ i.reg < 32 ∧ (i.bytes = 1 ∨ i.bytes = 2 ∨ i.bytes
      = 4 ∨ i.bytes = 8) ∧ (s.fetched i.ecc).dev.coreBad core i.off i.bytes 0 = none ∧ (s.fetched i.ecc).corePoison core i.off i.bytes =
      true) ∧
    (∃ (s : State) (core : Nat) (i : VecArith), Issues s core [] ∧ (i.mode.toNat = 5 ∨ i.mode.toNat = 6)) :=
  ⟨⟨coreS, 255, ⟨true, 32, 0, 8, none, []⟩, issues_of (by decide +kernel), by decide +kernel, by decide +kernel⟩,
   ⟨coreS, 255, ⟨true, 31, 0x5FFFF9, 8, none, []⟩, _, issues_of (by decide +kernel), by decide +kernel, by decide +kernel,
     by decide +kernel, rfl⟩,
   ⟨shutS, 255, ⟨true, 31, 0xFFFF, 1, none, []⟩, _, issues_of (by decide +kernel), by decide +kernel, by decide +kernel,
     by decide +kernel, rfl⟩,
   ⟨coreS, 255, ⟨false, 31, 1, 1024, some 7, []⟩, issues_of (by decide +kernel), by decide +kernel, by decide +kernel, by decide +kernel⟩,
   ⟨shutS, 255, ⟨true, 31, 0x1003F, 1, none, []⟩, issues_of (by decide +kernel), by decide +kernel, by decide +kernel, by decide +kernel,
     by decide +kernel, by decide +kernel⟩,
   ⟨coreS, 255, vec .add 0x01 false 6, issues_of (by decide +kernel), by decide +kernel⟩⟩

/-- Witnesses of MatrixFp64IsIllegal. -/
theorem witness_matrixFp64IsIllegal :
    (∃ (s : State) (core : Nat) (i : MatMul), Issues s core i.ecc ∧ (i.tyA = 0x19 ∨ i.tyB = 0x19)) :=
  ⟨coreS, 255, ⟨3, 32, 64, 64, 0x19, 0x19, false, false, 0, 64, 0, 64, 1, false, true, true, []⟩, issues_of (by decide +kernel),
     by decide +kernel⟩

/-- Witnesses of ScalarStoresChangeOnlyTheirBytes. -/
theorem witness_scalarStoresChangeOnlyTheirBytes :
    (∃ (s : State) (core : Nat) (i : CoreMem), s.Inv ∧ s.dev.Quiet ∧ Issues s core i.ecc ∧ i.ecc = [] ∧ i.scalar = true ∧ i.reg < 32 ∧
      (i.bytes = 1 ∨ i.bytes = 2 ∨ i.bytes = 4 ∨ i.bytes = 8) ∧ s.dev.coreBad core i.off i.bytes 1 = none) :=
  ⟨coreS, 255, ⟨true, 31, 0x5FFFF8, 8, none, []⟩, rfl, by intro i g h; exact absurd h (by simp [coreS, on, coreDev, dev, Tab.get]),
     issues_of (by decide +kernel), by decide +kernel, by decide +kernel, by decide +kernel, by decide +kernel, by decide +kernel⟩

/-- Witnesses of AdmittedPacketsHaveTheirEffect. -/
theorem witness_admittedPacketsHaveTheirEffect :
    (∃ (i : Instr) (sp : OpSpec) (ch : Nat) (p : Packet) (s : State) (c : Chan), packetOf i = some (sp, ch, p) ∧ Admitted sp ch p s c) :=
  ⟨.nop 0 (pkt 0 0 63 [1]), _, 0, pkt 0 0 63 [1], on (full .failed), chan, rfl, admitted_of (by decide +kernel)⟩

/-- Witnesses of RejectedPacketsOnlyReply. -/
theorem witness_rejectedPacketsOnlyReply :
    (∃ (i : Instr) (sp : OpSpec) (ch : Nat) (p : Packet) (s : State) (c : Chan) (f : Fail), packetOf i = some (sp, ch, p) ∧ Rejected sp
      ch p s c f) :=
  ⟨.nop 0 (pkt 0 0 64 [1]), _, 0, pkt 0 0 64 [1], on (full .failed), chan, _, rfl, rejected_of (by decide +kernel) rfl⟩

/-- Witnesses of QueriesOnlyReply. -/
theorem witness_queriesOnlyReply :
    (∃ (i : Instr) (sp : OpSpec) (ch : Nat) (p : Packet) (s : State) (c : Chan), packetOf i = some (sp, ch, p) ∧ sp.op ∈ [0x0000, 0x0001,
      0x0002, 0x0007, 0x0009, 0x0205, 0x0207, 0x0304, 0x0405, 0x0603, 0x0703, 0x0704, 0x0803, 0x0808, 0x0900, 0x0905, 0x0A01, 0x0A02,
      0x0B00, 0x0B03] ∧ Admitted sp ch p s c) :=
  ⟨.graphQuery 0 (pkt 0x0405 0x400100FF 63 []), _, 0, pkt 0x0405 0x400100FF 63 [], on (full .ready), chan, rfl, by decide +kernel,
     admitted_of (by decide +kernel)⟩

/-- Witnesses of QueryRecordsHold. -/
theorem witness_queryRecordsHold :
    (∃ (s : State) (ch : Nat) (p : Packet) (c : Chan), Admitted nop ch p s c) ∧
    (∃ (s : State) (ch : Nat) (p : Packet) (c : Chan), Admitted deviceInfo ch p s c) ∧
    (∃ (s : State) (ch : Nat) (p : Packet) (c : Chan), Admitted deviceStatus ch p s c) ∧
    (∃ (s : State) (ch : Nat) (p : Packet) (c : Chan) (y : Sync), Admitted syncRead ch p s c ∧ Tab.get s.dev.syncs (hIdx
      p.hdr.target.toNat) = some y) ∧
    (∃ (s : State) (ch : Nat) (p : Packet) (c : Chan), Admitted pwrEnergyRead ch p s c) :=
  ⟨⟨on (full .ready), 0, pkt 0x0000 0 0 (zeros 4032), chan, admitted_of (by decide +kernel)⟩,
   ⟨on (full .failed), 0, pkt 0x0001 0 0 [], chan, admitted_of (by decide +kernel)⟩,
   ⟨on (full .failed), 0, pkt 0x0002 0 0 [], chan, admitted_of (by decide +kernel)⟩,
   ⟨on (full .ready), 0, pkt 0x0603 0x50011FFF 0 [], chan, _, admitted_of (by decide +kernel), rfl⟩,
   ⟨on (full .failed), 0, pkt 0x0704 0 0 [], chan, admitted_of (by decide +kernel)⟩⟩

/-- Witnesses of DeviceCommandsAct. -/
theorem witness_deviceCommandsAct :
    (∃ (s : State) (ch : Nat) (p : Packet) (c : Chan), Admitted deviceStart ch p s c ∧ s.dev.hub.stage = 3 ∧ s.dev.hub.resetHold = false
      ∧ s.dev.pin.refclk = true) ∧
    (∃ (s : State) (ch : Nat) (p : Packet) (c : Chan), Admitted deviceStandby ch p s c ∧ s.dev.pin.serviceMode = false) ∧
    (∃ (s : State) (ch : Nat) (p : Packet) (c : Chan), Admitted deviceDrain ch p s c) ∧
    (∃ (s : State) (ch : Nat) (p : Packet) (c : Chan), Admitted deviceReset ch p s c ∧ fld p.params 0 1 = 1) ∧
    (∃ (s : State) (ch : Nat) (p : Packet) (c : Chan), Admitted deviceReset ch p s c ∧ fld p.params 0 1 = 2) ∧
    (∃ (s : State) (ch : Nat) (p : Packet) (c : Chan), Admitted handleDestroy ch p s c ∧ hKind p.hdr.target.toNat ≠ 8) ∧
    (∃ (s : State) (ch : Nat) (opcode : BitVec 16) (p : Packet) (c : Chan), Sound opcode.toNat ch p s c ∧ opcode.toNat ∉ knownOps) ∧
    (∃ (s : State) (ch : Nat) (seq : Word) (q : PendCmd), (s.dev.cmds.find? fun p => p.ch = ch && p.hdr.seq = seq && !p.interim) = some q
      ∧ ackReq q.hdr = true ∧ q.begun + 100000 ≤ s.dev.clk.mono) :=
  ⟨⟨on (full .standby), 0, pkt 0x0003 0 0 [], chan, admitted_of (by decide +kernel), by decide +kernel, by decide +kernel,
     by decide +kernel⟩,
   ⟨on (full .ready), 0, pkt 0x0004 0 0 [], chan, admitted_of (by decide +kernel), by decide +kernel⟩,
   ⟨on (full .running), 0, pkt 0x0005 0 0 [], chan, admitted_of (by decide +kernel)⟩,
   ⟨on (full .failed), 0, pkt 0x0006 0 0 (toLe 4 1), chan, admitted_of (by decide +kernel), by decide +kernel⟩,
   ⟨on (full .fault), 0, pkt 0x0006 0 0 (toLe 4 0x0302), chan, admitted_of (by decide +kernel), by decide +kernel⟩,
   ⟨on (full .ready), 0, pkt 0x0008 0x20010FFF 0 [], chan, admitted_of (by decide +kernel), by decide +kernel⟩,
   ⟨on (full .ready), 0, 0xFFFF, pkt 0xFFFF 0 0 [], chan, sound_of (by decide +kernel), by decide +kernel⟩,
   ⟨on { full .ready with cmds := [⟨0, hdr 3 0 0 0, 3, 0, false, .init⟩], clk := { mono := 100000 } }, 0, 7, ⟨0, hdr 3 0 0 0, 3, 0,
     false, .init⟩, by decide +kernel, by decide +kernel, by decide +kernel⟩⟩

/-- Witnesses of ChannelCommandsAct. -/
theorem witness_channelCommandsAct :
    (∃ (s : State) (ch i : Nat) (p : Packet) (c : Chan), Admitted chanOpen ch p s c ∧ Tab.firstFree (s.taken ch p c.psn).dev.chans 0
      16384 = some i) ∧
    (∃ (s : State) (ch : Nat) (p : Packet) (c k : Chan), Admitted chanAuthChallenge ch p s c ∧ Tab.get s.dev.chans (hIdx
      p.hdr.target.toNat) = some k) ∧
    (∃ (s : State) (ch : Nat) (p : Packet) (c k : Chan) (nonce key : List Byte) (t : Nat), Admitted chanAuthResponse ch p s c ∧ Tab.get
      (s.taken ch p c.psn).dev.chans (hIdx p.hdr.target.toNat) = some k ∧ k.nonce = some (nonce, t) ∧ s.dev.clk.mono ≤ t + 10000000000 ∧
      s.dev.fuse.ownerKey = some key ∧ ed448Verify 0 key (ascii "SV24-CHAN-AUTH") (s.dev.authMessage nonce (hIdx p.hdr.target.toNat))
      (slice p.params 0 114) = true) ∧
    (∃ (s : State) (ch : Nat) (p : Packet) (c k : Chan), Admitted chanModify ch p s c ∧ Tab.get s.dev.chans (hIdx p.hdr.target.toNat) =
      some k) ∧
    (∃ (s : State) (ch : Nat) (p : Packet) (c : Chan), Admitted chanClose ch p s c) :=
  ⟨⟨on (full .ready), 0, 1, pkt 0x0100 0 0 (toLe 1 3 ++ toLe 1 1 ++ toLe 1 4 ++ toLe 1 16 ++ zeros 44), chan,
     admitted_of (by decide +kernel), by decide +kernel⟩,
   ⟨on authDev, 0, pkt 0x0101 0x10010000 0 [], idleChan, _, admitted_of (by decide +kernel), rfl⟩,
   ⟨on authDev, 0, pkt 0x0102 0x10010000 0 (sigAuth ++ zeros 2), idleChan, _, zeros 32, pubA, 0, admitted_of (by decide +kernel), rfl,
     by decide +kernel, by decide +kernel, by decide +kernel, by decide +kernel⟩,
   ⟨on (full .ready), 0, pkt 0x0103 0x10010000 0 ([1, 1, 64, 0] ++ toLe 4 800000), chan, _, admitted_of (by decide +kernel), rfl⟩,
   ⟨on (full .ready), 0, pkt 0x0104 0x10010000 0 [], chan, admitted_of (by decide +kernel)⟩⟩

/-- Witnesses of MemoryCommandsAct. -/
theorem witness_memoryCommandsAct :
    (∃ (s : State) (ch : Nat) (p : Packet) (c : Chan), Admitted bufAlloc ch p s c) ∧
    (∃ (s : State) (ch : Nat) (p : Packet) (c : Chan) (b : Buf), Admitted bufProtect ch p s c ∧ Tab.get s.dev.bufs (hIdx
      p.hdr.target.toNat) = some b ∧ (bit (fld p.params 0 1) 2 = true → b.pin = true) ∧ s.dev.cmds = []) ∧
    (∃ (s : State) (ch : Nat) (p : Packet) (c : Chan), Admitted placeConfig ch p s c) ∧
    (∃ (s : State) (ch : Nat) (p : Packet) (c : Chan), Admitted tierScan ch p s c) ∧
    (∃ (s : State) (ch : Nat) (p : Packet) (c : Chan) (b : Buf), Admitted pageSupply ch p s c ∧ Tab.get s.dev.bufs (hIdx
      p.hdr.target.toNat) = some b) :=
  ⟨⟨on (dev .running), 0, pkt 0x0200 0 0 (toLe 8 0x200000 ++ toLe 8 0x200000 ++ [0, 3, 0, 3, 0, 0, 0, 0] ++ zeros 8), chan,
     admitted_of (by decide +kernel)⟩,
   ⟨on (full .ready), 0, pkt 0x0201 0x3001FFFF 0 ([7] ++ zeros 7), chan, _, admitted_of (by decide +kernel), rfl, by decide +kernel,
     by decide +kernel⟩,
   ⟨on (full .ready), 0, pkt 0x0204 0 0 (toLe 4 100000 ++ toLe 4 1000000 ++ toLe 2 65535 ++ toLe 2 65534 ++ zeros 4), chan,
     admitted_of (by decide +kernel)⟩,
   ⟨on (full .ready), 0, pkt 0x0206 0 0 [], chan, admitted_of (by decide +kernel)⟩,
   ⟨on { full .ready with bufs := [(65535, { buf with backing := 2, pin := false, pages := [{ st := .filling }] })] }, 0, pkt 0x0203
     0x3001FFFF 0 (toLe 8 0 ++ [1] ++ zeros 7), chan, _, admitted_of (by decide +kernel), rfl⟩⟩

/-- Witnesses of StreamAndGraphCommandsAct. -/
theorem witness_streamAndGraphCommandsAct :
    (∃ (s : State) (ch i : Nat) (p : Packet) (c : Chan), Admitted strmCreate ch p s c ∧ Tab.firstFree s.dev.strms (1024 * fld p.params 0
      1) 1024 = some i) ∧
    (∃ (s : State) (ch : Nat) (p : Packet) (c : Chan) (y : Strm), Admitted strmArm ch p s c ∧ Tab.get ((s.taken ch p c.psn).armStrm (hIdx
      p.hdr.target.toNat) (armOf (ctxOf strmArm ch p))).dev.strms (hIdx p.hdr.target.toNat) = some y) ∧
    (∃ (s : State) (ch : Nat) (p : Packet) (c : Chan), Admitted strmStop ch p s c) ∧
    (∃ (s : State) (ch : Nat) (p : Packet) (c : Chan), Admitted jobCreate ch p s c) ∧
    (∃ (s : State) (ch : Nat) (p : Packet) (c : Chan) (g : Graph), Admitted graphRun ch p s c ∧ Tab.get s.dev.graphs (hIdx
      p.hdr.target.toNat) = some g ∧ bit (fld p.params 2 1) 0 = true ∧ g.feeds = []) ∧
    (∃ (s : State) (ch : Nat) (p : Packet) (c : Chan), Admitted graphDrain ch p s c) ∧
    (∃ (s : State) (ch : Nat) (p : Packet) (c : Chan), Admitted graphFrog ch p s c) ∧
    (∃ (s : State) (ch : Nat) (p : Packet) (c : Chan), Admitted jobAbort ch p s c) :=
  ⟨⟨on (full .ready), 0, 3072, pkt 0x0300 0 0 ([3, 0] ++ toLe 2 512 ++ zeros 44), chan, admitted_of (by decide +kernel),
     by decide +kernel⟩,
   ⟨on (full .ready), 0, pkt 0x0301 0x20010FFF 0 (toLe 8 0 ++ toLe 4 65536 ++ toLe 4 65535 ++ [3] ++ zeros 7), chan, _,
     admitted_of (by decide +kernel), rfl⟩,
   ⟨on { full .running with strms := [(4095, { strm with state := 4 })] }, 0, pkt 0x0302 0x20010FFF 0 ([1, 0, 0, 0]), chan,
     admitted_of (by decide +kernel)⟩,
   ⟨on (full .ready), 0, pkt 0x0400 0 62 [], chan, admitted_of (by decide +kernel)⟩,
   ⟨on (full .ready), 0, pkt 0x0402 0x400100FF 0 ([0, 0, 1, 0, 0, 0, 0, 0]), chan, _, admitted_of (by decide +kernel), rfl,
     by decide +kernel, by decide +kernel⟩,
   ⟨on { full .running with graphs := [(255, graph 2)] }, 0, pkt 0x0403 0x400100FF 0 [], chan, admitted_of (by decide +kernel)⟩,
   ⟨on { full .running with graphs := [(255, graph 5)] }, 0, pkt 0x0404 0x400100FF 0 [], chan, admitted_of (by decide +kernel)⟩,
   ⟨on (full .ready), 0, pkt 0x0406 0x8001003F 0 [], chan, admitted_of (by decide +kernel)⟩⟩

/-- Witnesses of FeedCommandsAct. -/
theorem witness_feedCommandsAct :
    (∃ (s : State) (ch i : Nat) (p : Packet) (c : Chan), Admitted feedOpen ch p s c ∧ Tab.firstFree s.dev.feeds 0 1024 = some i) ∧
    (∃ (s : State) (ch : Nat) (p : Packet) (c : Chan), Admitted feedConfig ch p s c) ∧
    (∃ (s : State) (ch k : Nat) (p : Packet) (c : Chan) (f : Feed), Admitted feedAttach ch p s c ∧ Tab.get s.dev.feeds (hIdx
      p.hdr.target.toNat) = some f ∧ (List.range 16).find? (fun k => f.clients.all fun x => x.idx != k) = some k) ∧
    (∃ (s : State) (ch : Nat) (p : Packet) (c : Chan) (f : Feed) (b : Buf), Admitted feedLedgerRead ch p s c ∧ Tab.get s.dev.feeds (hIdx
      p.hdr.target.toNat) = some f ∧ Tab.get s.dev.bufs (hIdx (fld p.params 20 4)) = some b ∧ fld p.params 24 1 = 0) ∧
    (∃ (s : State) (ch : Nat) (p : Packet) (c : Chan) (g : Graph) (r : ResultRing), Admitted fetchResult ch p s c ∧ Tab.get s.dev.graphs
      (hIdx p.hdr.target.toNat) = some g ∧ g.ring = some r ∧ fld p.params 8 4 = 0) ∧
    (∃ (s : State) (ch : Nat) (p : Packet) (c : Chan) (g : Graph), Admitted resultRelease ch p s c ∧ Tab.get s.dev.graphs (hIdx
      p.hdr.target.toNat) = some g ∧ g.ring = none) ∧
    (∃ (s : State) (ch : Nat) (p : Packet) (c : Chan) (g : Graph) (r : ResultRing), Admitted resultRelease ch p s c ∧ Tab.get
      s.dev.graphs (hIdx p.hdr.target.toNat) = some g ∧ g.ring = some r ∧ fld p.params 0 8 = r.released) :=
  ⟨⟨on { full .ready with bufs := [(65535, { buf with size := 0x2000000 })] }, 0, 0, pkt 0x0500 0 0 (toLe 4 0x3001FFFF ++ [1, 64] ++ toLe
     2 1 ++ toLe 4 64 ++ toLe 2 1024 ++ toLe 2 256 ++ [64, 0, 0, 0] ++ toLe 4 64 ++ toLe 4 4096 ++ zeros 12), chan,
     admitted_of (by decide +kernel), by decide +kernel⟩,
   ⟨on (full .ready), 0, pkt 0x0501 0x700103FF 0 ([1, 63, 64, 0] ++ toLe 2 4096 ++ toLe 2 0 ++ toLe 4 10000000 ++ zeros 12), chan,
     admitted_of (by decide +kernel)⟩,
   ⟨on { full .ready with chans := [(0, chan), (16383, { chan with kind := 3, rxBuf := 0x3001FFFF })] }, 0, 0, pkt 0x0502 0x700103FF 0
     (toLe 4 0x10013FFF ++ toLe 4 64 ++ zeros 8 ++ toLe 4 0 ++ toLe 4 0x200 ++ zeros 8), chan, _, admitted_of (by decide +kernel), rfl,
     by decide +kernel⟩,
   ⟨on (full .ready), 0, pkt 0x0503 0x700103FF 0 (zeros 16 ++ toLe 4 1048576 ++ toLe 4 0x3001FFFF ++ zeros 8), chan, _, _,
     admitted_of (by decide +kernel), rfl, rfl, by decide +kernel⟩,
   ⟨on ringDev, 0, pkt 0x0505 0x400100FF 0 (toLe 8 1 ++ zeros 16), chan, _, _, admitted_of (by decide +kernel), rfl, rfl,
     by decide +kernel⟩,
   ⟨on (full .ready), 0, pkt 0x0506 0x400100FF 0 (zeros 8), chan, _, admitted_of (by decide +kernel), rfl, by decide +kernel⟩,
   ⟨on { ringDev with graphs := [(255, { graph 1 with ring := some { ring with released := 1 } })] }, 0, pkt 0x0506 0x400100FF 0 (toLe 8
     1), chan, _, _, admitted_of (by decide +kernel), rfl, rfl, by decide +kernel⟩⟩

/-- Witnesses of SyncCommandsAct. -/
theorem witness_syncCommandsAct :
    (∃ (s : State) (ch k : Nat) (p : Packet) (c : Chan), Admitted syncCreate ch p s c ∧ s.dev.syncRun (fld p.params 0 1) (fld p.params 2
      2) (fld p.params 1 1) = some k) ∧
    (∃ (s : State) (ch : Nat) (p : Packet) (c : Chan), Admitted syncSignal ch p s c) ∧
    (∃ (s : State) (ch : Nat) (p : Packet) (c : Chan) (y : Sync), Admitted syncWait ch p s c ∧ Tab.get s.dev.syncs (hIdx
      p.hdr.target.toNat) = some y ∧ fld p.params 4 4 = 0 ∧ fld p.params 0 1 = 0 ∧ y.canTake (fld p.params 8 8) = true) ∧
    (∃ (s : State) (ch : Nat) (p : Packet) (c : Chan) (y : Sync), Admitted syncWait ch p s c ∧ Tab.get s.dev.syncs (hIdx
      p.hdr.target.toNat) = some y ∧ fld p.params 4 4 = 0 ∧ fld p.params 0 1 = 0 ∧ y.canTake (fld p.params 8 8) = false) ∧
    (∃ (s : State) (ch : Nat) (p : Packet) (c : Chan) (y : Sync), Admitted syncWait ch p s c ∧ Tab.get s.dev.syncs (hIdx
      p.hdr.target.toNat) = some y ∧ fld p.params 4 4 = 0 ∧ fld p.params 0 1 = 1 ∧ fld p.params 8 8 ≤ y.val) ∧
    (∃ (s : State) (ch : Nat) (p : Packet) (c : Chan) (y : Sync), Admitted syncWait ch p s c ∧ Tab.get s.dev.syncs (hIdx
      p.hdr.target.toNat) = some y ∧ 0 < fld p.params 4 4) ∧
    (∃ (s : State) (ch : Nat) (p : Packet) (c : Chan), Admitted schedConfig ch p s c) :=
  ⟨⟨on (full .ready), 0, 1984, pkt 0x0600 0 0 ([3, 63] ++ toLe 2 1984 ++ zeros 12), chan, admitted_of (by decide +kernel),
     by decide +kernel⟩,
   ⟨on (full .ready), 0, pkt 0x0601 0x50011FFF 0 (zeros 8 ++ toLe 8 0xFFFFFFFF), chan, admitted_of (by decide +kernel)⟩,
   ⟨on (full .ready), 0, pkt 0x0602 0x50011FFF 0 ([0, 0, 0, 0] ++ toLe 4 0 ++ toLe 8 5), chan, _, admitted_of (by decide +kernel), rfl,
     by decide +kernel, by decide +kernel, by decide +kernel⟩,
   ⟨on (full .ready), 0, pkt 0x0602 0x50011FFF 0 ([0, 0, 0, 0] ++ toLe 4 0 ++ toLe 8 6), chan, _, admitted_of (by decide +kernel), rfl,
     by decide +kernel, by decide +kernel, by decide +kernel⟩,
   ⟨on (full .ready), 0, pkt 0x0602 0x50011FFF 0 ([1, 0, 0, 0] ++ toLe 4 0 ++ toLe 8 5), chan, _, admitted_of (by decide +kernel), rfl,
     by decide +kernel, by decide +kernel, by decide +kernel⟩,
   ⟨on (full .ready), 0, pkt 0x0602 0x50011FFF 0 ([0, 0, 0, 0] ++ toLe 4 60000000 ++ toLe 8 6), chan, _, admitted_of (by decide +kernel),
     rfl, by decide +kernel⟩,
   ⟨on (full .ready), 0, pkt 0x0604 0 0 (toLe 4 1000000 ++ zeros 4), chan, admitted_of (by decide +kernel)⟩⟩

/-- Witnesses of RegisterCommandsAct. -/
theorem witness_registerCommandsAct :
    (∃ (s : State) (ch : Nat) (h : Header) (v m : Word) (c : Chan), Admitted regWrite ch ⟨h, regWriteParams 0x300004 v m⟩ s c) ∧
    (∃ (s : State) (ch : Nat) (h : Header) (v m : Word) (c : Chan), Admitted regWrite ch ⟨h, regWriteParams 0x300008 v m⟩ s c ∧
      s.dev.ceilingRaises (mergeRw s.dev.fuse.ceilingW v.toNat m.toNat 0xFFFF) = true ∧ s.dev.fuse.ceilingLeft ≠ 0) ∧
    (∃ (s : State) (ch : Nat) (h : Header) (v m : Word) (c : Chan), Admitted regWrite ch ⟨h, regWriteParams 0x30000C v m⟩ s c) ∧
    (∃ (s : State) (ch : Nat) (h : Header) (v m : Word) (c : Chan), Admitted regWrite ch ⟨h, regWriteParams 0x300010 v m⟩ s c) ∧
    (∃ (s : State) (ch : Nat) (h : Header) (v m : Word) (c : Chan), Admitted regWrite ch ⟨h, regWriteParams 0x200000 v m⟩ s c) ∧
    (∃ (s : State) (ch : Nat) (h : Header) (v m : Word) (c : Chan), Admitted regWrite ch ⟨h, regWriteParams 0x100004 v m⟩ s c ∧ (bit
      s.dev.eth.cfg.toNat 23 = true ∨ bits (ethCfgAfter s.dev.eth.cfg.toNat v.toNat m.toNat) 29 3 ≠ bits (ethCfgAfter s.dev.eth.cfg.toNat
      v.toNat m.toNat) 26 3)) ∧
    (∃ (s : State) (ch core : Nat) (h : Header) (v m : Word) (c : Chan), core < 256 ∧ s.dev.physOfCore core < 68 ∧ Admitted regWrite ch
      ⟨h, regWriteParams (dieBase (core / 64) + 0x800010 + 0x1000 * (core % 64)) v m⟩ s c) ∧
    (∃ (s : State) (ch die : Nat) (h : Header) (v m : Word) (c : Chan), die < 4 ∧ Admitted regWrite ch ⟨h, regWriteParams (engBase die 5
      + 0xC) v m⟩ s c) ∧
    (∃ (s : State) (ch die queue : Nat) (h : Header) (cls : EngClass) (c : Chan), die < 4 ∧ queue < 8 ∧ Admitted regWrite ch ⟨h,
      regWriteParams (qCfgReg die cls queue) 0x80000000#32 0x80000000#32⟩ s c ∧ (s.dev.queue (queueKey die (classCode cls) queue)).en =
      false ∧ 1 ≤ (s.dev.queue (queueKey die (classCode cls) queue)).count ∧ (s.dev.queue (queueKey die (classCode cls) queue)).count ≤
      4096 ∧ (s.dev.queue (queueKey die (classCode cls) queue)).submit < 2048 ∧ (s.dev.queue (queueKey die (classCode cls) queue)).job <
      64) ∧
    (∃ (s : State) (ch die queue : Nat) (h : Header) (cls : EngClass) (c : Chan), die < 4 ∧ queue < 8 ∧ Admitted regWrite ch ⟨h,
      regWriteParams (qCfgReg die cls queue) 0#32 0x80000000#32⟩ s c ∧ (s.dev.queue (queueKey die (classCode cls) queue)).en = true ∧
      (s.dev.queue (queueKey die (classCode cls) queue)).count < 8192 ∧ (s.dev.queue (queueKey die (classCode cls) queue)).submit < 2048
      ∧ (s.dev.queue (queueKey die (classCode cls) queue)).job < 64) ∧
    (∃ (s : State) (ch v : Nat) (h : Header) (addr : Word) (c : Chan), Admitted regRead ch ⟨h, toLe 4 addr.toNat ++ toLe 2 1 ++ zeros 2⟩
      s c ∧ s.dev.wide addr.toNat = some v) ∧
    (∃ (s : State) (ch : Nat) (p : Packet) (c : Chan), Admitted regWrite ch p s c) ∧
    (∃ (s : State) (ch : Nat) (p : Packet) (c : Chan), Admitted regRead ch p s c) :=
  ⟨⟨on (full .ready), 0, hdr 0x0C01 0 0 12, 0xFFFFFFFF#32, 0xFFFFFFFF#32, chan, admitted_of (by decide +kernel)⟩,
   ⟨on (full .ready), 0, hdr 0x0C01 0 0 12, 3000#32, 0xFFFFFFFF#32, chan, admitted_of (by decide +kernel), by decide +kernel,
     by decide +kernel⟩,
   ⟨on (full .ready), 0, hdr 0x0C01 0 0 12, 0xFFFFFFFF#32, 0xFFFFFFFF#32, chan, admitted_of (by decide +kernel)⟩,
   ⟨on (full .ready), 0, hdr 0x0C01 0 0 12, 0xFFFFFFFF#32, 0xFFFFFFFF#32, chan, admitted_of (by decide +kernel)⟩,
   ⟨on (full .ready), 0, hdr 0x0C01 0 0 12, 0xFFFFFFFF#32, 0xFFFFFFFF#32, chan, admitted_of (by decide +kernel)⟩,
   ⟨on (full .ready), 0, hdr 0x0C01 0 0 12, 0xCF000000#32, 0xFFFFFFFF#32, chan, admitted_of (by decide +kernel), by decide +kernel⟩,
   ⟨on (full .ready), 0, 255, hdr 0x0C01 0 0 12, 1#32, 1#32, chan, by decide +kernel, by decide +kernel, admitted_of (by decide +kernel)⟩,
   ⟨on (full .ready), 0, 3, hdr 0x0C01 0 0 12, 1#32, 1#32, chan, by decide +kernel, admitted_of (by decide +kernel)⟩,
   ⟨on { full .ready with queues := [(queueKey 3 5 7, { count := 4096, submit := 2047, job := 63 })] }, 0, 3, 7, hdr 0x0C01 0 0 12, .emb,
     chan, by decide +kernel, by decide +kernel, admitted_of (by decide +kernel), by decide +kernel, by decide +kernel,
     by decide +kernel, by decide +kernel, by decide +kernel⟩,
   ⟨on { full .ready with queues := [(queueKey 3 5 7, { count := 8191, submit := 2047, job := 63, en := true })] }, 0, 3, 7, hdr 0x0C01 0
     0 12, .emb, chan, by decide +kernel, by decide +kernel, admitted_of (by decide +kernel), by decide +kernel, by decide +kernel,
     by decide +kernel, by decide +kernel⟩,
   ⟨on (full .failed), 0, _, hdr 0x0C00 0 0 8, 0x500020#32, chan, admitted_of (by decide +kernel), rfl⟩,
   ⟨on (full .ready), 0, pkt 0x0C01 0 0 (regWriteParams 0x30000C 18 0xFFFFFFFF), chan, admitted_of (by decide +kernel)⟩,
   ⟨on (full .failed), 0, pkt 0x0C00 0 0 (toLe 4 0x10 ++ toLe 2 1008 ++ zeros 2), chan, admitted_of (by decide +kernel)⟩⟩

/-- Witnesses of PowerAndFirmwareCommandsAct. -/
theorem witness_powerAndFirmwareCommandsAct :
    (∃ (s : State) (ch : Nat) (p : Packet) (c : Chan), Admitted pwrGaugeSet ch p s c) ∧
    (∃ (s : State) (ch : Nat) (p : Packet) (c : Chan), Admitted pwrStepLimit ch p s c) ∧
    (∃ (s : State) (ch : Nat) (p : Packet) (c : Chan), Admitted pwrCeilingRaise ch p s c) ∧
    (∃ (s : State) (ch : Nat) (p : Packet) (c : Chan) (u : Upd) (b : Buf), Admitted fwBlockCommit ch p s c ∧ Tab.get s.dev.fw.upds (hIdx
      p.hdr.target.toNat) = some u ∧ fld p.params 0 4 ∉ u.held ∧ Tab.get s.dev.bufs (hIdx u.stageBuf) = some b) ∧
    (∃ (s : State) (ch : Nat) (p : Packet) (c : Chan), Admitted fwConfirm ch p s c ∧ s.dev.fw.confirmed = true) ∧
    (∃ (s : State) (ch : Nat) (p : Packet) (c : Chan) (u : Upd), Admitted fwActivate ch p s c ∧ Tab.get s.dev.fw.upds (hIdx
      p.hdr.target.toNat) = some u) ∧
    (∃ (s : State) (ch : Nat) (p : Packet) (c : Chan), Admitted fwRollback ch p s c) ∧
    (∃ (s : State) (ch : Nat) (p : Packet) (c : Chan), Admitted secKeyAgree ch p s c) ∧
    (∃ (s : State) (ch : Nat) (p : Packet) (c : Chan) (key : List Byte), Admitted secOwnerRotate ch p s c ∧ s.dev.fuse.ownerKey = some
      key ∧ ed448Verify 0 key (ascii "SV24-OWNER-ROTATE") (slice p.params 0 57 ++ toLe 8 s.dev.fuse.serial) (slice p.params 64 114) =
      true ∧ ed448Verify 0 (slice p.params 0 57) (ascii "SV24-OWNER-ROTATE") (slice p.params 0 57 ++ toLe 8 s.dev.fuse.serial) (slice
      p.params 178 114) = true) ∧
    (∃ (s : State) (ch : Nat) (p : Packet) (c : Chan), Admitted secVersionAdvance ch p s c) :=
  ⟨⟨on (full .ready), 0, pkt 0x0700 0 0 (toLe 2 2400 ++ zeros 2), chan, admitted_of (by decide +kernel)⟩,
   ⟨on (full .ready), 0, pkt 0x0701 0 0 (toLe 4 18), chan, admitted_of (by decide +kernel)⟩,
   ⟨on (full .ready), 0, pkt 0x0702 0 0 (toLe 4 3000), chan, admitted_of (by decide +kernel)⟩,
   ⟨on (full .ready), 0, pkt 0x0801 0xA0010003 0 (zeros 16), chan, _, _, admitted_of (by decide +kernel), rfl, by decide +kernel, rfl⟩,
   ⟨on (full .ready), 0, pkt 0x0806 0 0 [], chan, admitted_of (by decide +kernel), by decide +kernel⟩,
   ⟨on (full .ready), 0, pkt 0x0805 0xA0010003 0 [], chan, _, admitted_of (by decide +kernel), rfl⟩,
   ⟨on { full .ready with fw := { confirmed := false } }, 0, pkt 0x0807 0 0 [], chan, admitted_of (by decide +kernel)⟩,
   ⟨on (full .ready), 0, pkt 0x0809 0 0 (zeros 64), chan, admitted_of (by decide +kernel)⟩,
   ⟨on { full .ready with fuse := { owner := [(pubA, true)] } }, 0, pkt 0x080A 0 0 (pubB ++ zeros 7 ++ sigOld ++ sigNew ++ zeros 4),
     chan, pubA, admitted_of (by decide +kernel), by decide +kernel, by decide +kernel, by decide +kernel⟩,
   ⟨on { full .ready with fw := { info := { secVersion := 64 } } }, 0, pkt 0x080B 0 0 (toLe 4 64), chan, admitted_of (by decide +kernel)⟩⟩

/-- Witnesses of LinkServiceAndStoreCommandsAct. -/
theorem witness_linkServiceAndStoreCommandsAct :
    (∃ (s : State) (ch : Nat) (p : Packet) (c : Chan), Admitted fgroupJoin ch p s c) ∧
    (∃ (s : State) (ch : Nat) (p : Packet) (c : Chan), Admitted fgroupLeave ch p s c) ∧
    (∃ (s : State) (ch : Nat) (p : Packet) (c : Chan), Admitted swatchRun ch p s c) ∧
    (∃ (s : State) (ch : Nat) (p : Packet) (c : Chan), Admitted errlogClear ch p s c) ∧
    (∃ (s : State) (ch : Nat) (p : Packet) (c : Chan), Admitted storeWrite ch p s c) ∧
    (∃ (s : State) (ch : Nat) (p : Packet) (c : Chan), Admitted storeCommit ch p s c ∧ c.staged = []) ∧
    (∃ (s : State) (ch : Nat) (p : Packet) (c : Chan), Admitted linkConfig ch p s c) ∧
    (∃ (s : State) (ch : Nat) (p : Packet) (c : Chan), Admitted diagDump ch p s c ∧ fld p.params 4 4 = 0) :=
  ⟨⟨on (full .ready), 0, pkt 0x0903 0 0 (toLe 4 1 ++ toLe 2 1331 ++ zeros 10), chan, admitted_of (by decide +kernel)⟩,
   ⟨on { full .ready with sys := { group := some { id := 1, members := 1331 } } }, 0, pkt 0x0904 0 0 [], chan,
     admitted_of (by decide +kernel)⟩,
   ⟨on (dev .ready), 0, pkt 0x0A00 0 0 (toLe 8 (2 ^ 40 - 1)), chan, admitted_of (by decide +kernel)⟩,
   ⟨on (full .ready), 0, pkt 0x0A04 0 0 [], chan, admitted_of (by decide +kernel)⟩,
   ⟨on (full .ready), 0, pkt 0x0B01 0 0 (toLe 2 0x80FF ++ toLe 2 0 ++ toLe 2 1 ++ zeros 2 ++ [7]), chan, admitted_of (by decide +kernel)⟩,
   ⟨on (full .ready), 0, pkt 0x0B02 0 0 [], chan, admitted_of (by decide +kernel), by decide +kernel⟩,
   ⟨on (full .ready), 0, pkt 0x0901 0 0 ([0, 0, 0, 1, 1, 1] ++ zeros 266), chan, admitted_of (by decide +kernel)⟩,
   ⟨on (full .ready), 0, pkt 0x0A03 0 0 (toLe 4 127 ++ zeros 12), chan, admitted_of (by decide +kernel), by decide +kernel⟩⟩

/-- Witnesses of InputAndTripsAct. -/
theorem witness_inputAndTripsAct :
    (∃ (mv : Nat) (s : State), s.dev.hub.st = .off ∧ s.dev.hub.disconnected = false ∧ s.dev.hub.tripOff = false ∧ 40000 ≤ mv ∧ mv ≤ 48000
      ∧ s.dev.hub.holdup = none) ∧
    (∃ (mv : Nat) (s : State), s.dev.hub.st = .off ∧ s.dev.hub.disconnected = false ∧ s.dev.hub.tripOff = false ∧ 40000 ≤ mv ∧ mv ≤ 48000
      ∧ s.dev.hub.holdup = none) ∧
    (∃ (mv : Nat) (s : State) (b : Bool), s.dev.hub.st = .off ∧ s.dev.hub.disconnected = false ∧ s.dev.hub.tripOff = false ∧ 40000 ≤ mv ∧
      mv ≤ 48000 ∧ s.dev.hub.holdup = some b) ∧
    (∃ (s : State), s.dev.hub.st ≠ .off) ∧
    (∃ (s : State), s.dev.hub.st = .off) ∧
    (∃ (s : State), s.dev.hub.holdup = some false) ∧
    (∃ (mv : Nat) (s : State), s.dev.hub.st ≠ .off ∧ 52000 < mv) ∧
    (∃ mv : Nat, 58000 < mv) ∧
    (∃ (mv : Nat) (s : State), s.dev.hub.disconnected = true ∧ 38000 ≤ mv ∧ mv < 52000 ∧ s.dev.hub.tripOff = false ∧ s.dev.hub.holdup =
      none) ∧
    (∃ (mv : Nat) (s : State), s.dev.hub.disconnected = true ∧ 38000 ≤ mv ∧ mv < 52000 ∧ s.dev.hub.tripOff = false ∧ s.dev.hub.holdup =
      none) ∧
    (∃ (src die : Nat) (s : State), tripDie src = some die ∧ s.dev.hub.rails = true) ∧
    (∃ (src die : Nat) (s : State), tripDie src = some die ∧ s.dev.hub.rails = true) ∧
    (∃ (reading : Nat) (s : State), s.dev.hub.st ≠ .off ∧ 1200 ≤ reading) ∧
    (∃ (s : State), s.dev.hub.warmHeld = true) ∧
    (∃ (s : State), s.dev.hub.st = .standby ∧ s.dev.hub.stage = 1) :=
  ⟨⟨40000, off id, by decide +kernel, by decide +kernel, by decide +kernel, by decide +kernel, by decide +kernel, by decide +kernel⟩,
   ⟨48000, off id, by decide +kernel, by decide +kernel, by decide +kernel, by decide +kernel, by decide +kernel, by decide +kernel⟩,
   ⟨48000, off fun h => { h with holdup := some false }, false, by decide +kernel, by decide +kernel, by decide +kernel,
     by decide +kernel, by decide +kernel, by decide +kernel⟩,
   ⟨on (full .failed), by decide +kernel⟩,
   ⟨off id, by decide +kernel⟩,
   ⟨off fun h => { h with holdup := some false }, by decide +kernel⟩,
   ⟨52001, hub .running id id, by decide +kernel, by decide +kernel⟩,
   ⟨58001, by decide +kernel⟩,
   ⟨38000, off fun h => { h with disconnected := true }, by decide +kernel, by decide +kernel, by decide +kernel, by decide +kernel,
     by decide +kernel⟩,
   ⟨51999, off fun h => { h with disconnected := true }, by decide +kernel, by decide +kernel, by decide +kernel, by decide +kernel,
     by decide +kernel⟩,
   ⟨0x340, 3, on (full .running), by decide +kernel, by decide +kernel⟩,
   ⟨0x1017, 3, on (full .ready), by decide +kernel, by decide +kernel⟩,
   ⟨1200, on (full .standby), by decide +kernel, by decide +kernel⟩,
   ⟨hub .standby (fun h => { h with warmHeld := true }) id, by decide +kernel⟩,
   ⟨hub .standby (fun h => { h with stage := 1 }) id, by decide +kernel, by decide +kernel⟩⟩

/-- Witnesses of PinsAct. -/
theorem witness_pinsAct :
    (∃ (ns : Nat), ns < 1000) ∧
    (∃ (ns : Nat), 10000 ≤ ns) ∧
    (∃ (s : State), s.dev.hub.rails = false) ∧
    (∃ (s : State), s.dev.hub.rails = true ∧ s.dev.hub.st ≠ .failed) ∧
    (∃ (s : State), s.dev.hub.st = .standby ∧ s.dev.cfg.autoStart = true) ∧
    (∃ (s : State) (t : Nat), s.dev.hub.st = .init ∧ s.dev.hub.initWait = some t ∧ s.dev.pin.flowOk = true ∧ s.dev.pin.refclk = true) ∧
    (∃ (s : State), s.dev.hub.st ≠ .off) ∧
    (∃ (ns : Nat) (s : State), s.dev.hub.st ≠ .off ∧ s.dev.hub.st ≠ .init ∧ s.dev.hub.flowHold = false ∧ 10000000 ≤ ns) ∧
    (∃ (ns : Nat) (s : State), s.dev.hub.st ≠ .off ∧ s.dev.hub.st ≠ .init ∧ ns < 10000000) ∧
    (∃ (s : State) (t : Nat), s.dev.pin.flowLowAt = some t ∧ s.dev.hub.rails = true ∧ t + 20000000 < s.dev.clk.mono) ∧
    (∃ (s : State), s.dev.hub.rails = false) ∧
    (∃ (s : State), s.dev.hub.rails = true) :=
  ⟨⟨999, by decide +kernel⟩,
   ⟨10000, by decide +kernel⟩,
   ⟨on (full .standby), by decide +kernel⟩,
   ⟨on (full .fault), by decide +kernel, by decide +kernel⟩,
   ⟨on { full .standby with cfg := { autoStart := true } }, by decide +kernel, by decide +kernel⟩,
   ⟨hub .init (fun h => { h with initWait := some 7 }) (fun p => { p with flowOk := true }), 7, by decide +kernel, by decide +kernel,
     by decide +kernel, by decide +kernel⟩,
   ⟨on (full .standby), by decide +kernel⟩,
   ⟨10000000, on (full .running), by decide +kernel, by decide +kernel, by decide +kernel, by decide +kernel⟩,
   ⟨9999999, on (full .running), by decide +kernel, by decide +kernel, by decide +kernel⟩,
   ⟨later (hub .running id fun p => { p with flowLowAt := some 9 }) 20000010, 9, by decide +kernel, by decide +kernel, by decide +kernel⟩,
   ⟨on (full .standby), by decide +kernel⟩,
   ⟨on (full .running), by decide +kernel⟩⟩

/-- Witnesses of BootEventsAct. -/
theorem witness_bootEventsAct :
    (∃ (s : State), s.dev.hub.st = .init ∧ s.dev.hub.rails = true) ∧
    (∃ (s : State), s.dev.hub.st = .init ∧ s.dev.hub.initStart + 300000000000 ≤ s.dev.clk.mono) ∧
    (∃ (s : State), s.dev.hub.st = .init) ∧
    (∃ (s : State) (t : Nat), s.dev.hub.st = .init ∧ s.dev.hub.initWait = some t ∧ t + 60000000000 ≤ s.dev.clk.mono) ∧
    (∃ (die : Nat) (s : State), s.dev.hub.rails = true ∧ die < 4 ∧ (Tab.get s.dev.hub.dieReset die).isSome = true ∧
      s.dev.hub.dieOut.contains die = false) ∧
    (∃ (die t : Nat) (s : State), Tab.get s.dev.hub.dieReset die = some t ∧ s.dev.hub.dieOut.contains die = false ∧ t + 2000000000 ≤
      s.dev.clk.mono ∧ Tab.getD s.dev.hub.dieFails die 0 = 0) ∧
    (∃ (die t n : Nat) (s : State), Tab.get s.dev.hub.dieReset die = some t ∧ s.dev.hub.dieOut.contains die = false ∧ t + 2000000000 ≤
      s.dev.clk.mono ∧ Tab.getD s.dev.hub.dieFails die 0 = n + 1) :=
  ⟨⟨hub .init (fun h => { h with rails := true }) id, by decide +kernel, by decide +kernel⟩,
   ⟨later (on (full .init)) 300000000000, by decide +kernel, by decide +kernel⟩,
   ⟨on (full .init), by decide +kernel⟩,
   ⟨later (hub .init (fun h => { h with initWait := some 5 }) id) 60000000005, 5, by decide +kernel, by decide +kernel,
     by decide +kernel⟩,
   ⟨3, hub .running (fun h => { h with dieReset := [(3, 1)] }) id, by decide +kernel, by decide +kernel, by decide +kernel,
     by decide +kernel⟩,
   ⟨3, 1, later (hub .running (fun h => { h with dieReset := [(3, 1)] }) id) 2000000001, by decide +kernel, by decide +kernel,
     by decide +kernel, by decide +kernel⟩,
   ⟨3, 1, 0, later (hub .running (fun h => { h with dieReset := [(3, 1)], dieFails := [(3, 1)] }) id) 2000000001, by decide +kernel,
     by decide +kernel, by decide +kernel, by decide +kernel⟩⟩

/-- Witnesses of PpsAndSmbusAct. -/
theorem witness_ppsAndSmbusAct :
    (∃ (s : State) (a b : Nat), s.dev.hub.st ≠ .off ∧ s.dev.clk.ppsEdges = [a, b] ∧ s.dev.clk.ppsValid = false ∧ s.dev.clk.unset = true ∧
      s.dev.clk.timeSet = none ∧ secondApart a b = true ∧ secondApart b s.dev.clk.mono = true) ∧
    (∃ (s : State) (t m : Nat), s.dev.hub.st ≠ .off ∧ s.dev.clk.ppsValid = true ∧ s.dev.clk.timeSet = some (t, m)) ∧
    (∃ (s : State) (t m l : Nat), s.dev.hub.st ≠ .off ∧ s.dev.clk.ppsEdges.getLast? = some l ∧ l + 1500000000 ≤ s.dev.clk.mono ∧
      s.dev.clk.timeSet = some (t, m)) ∧
    (∃ (s : State), s.dev.hub.st ≠ .off ∧ s.dev.clk.unset = true ∧ s.dev.clk.ppsValid = false) ∧
    (∃ (s : State), s.dev.hub.st ≠ .off ∧ s.dev.clk.unset = true ∧ s.dev.clk.ppsValid = true) ∧
    (∃ (s : State), s.dev.hub.st ≠ .off ∧ s.dev.clk.unset = false) ∧
    (∃ (s : State), s.dev.hub.st ≠ .off) ∧
    (∃ (code : Byte) (s : State), s.dev.hub.st ≠ .off ∧ code.toNat ∉ [0x01, 0x02, 0x03, 0x10, 0x11, 0x20]) ∧
    (∃ (code : Byte) (s : State), s.dev.hub.st ≠ .off ∧ code.toNat ∉ [0x01, 0x02, 0x03, 0x10, 0x11, 0x20]) ∧
    (∃ (code : Byte) (s : State), s.dev.hub.st ≠ .off ∧ code.toNat ∉ [0x01, 0x02, 0x03, 0x10, 0x11, 0x20]) ∧
    (∃ (s : State), s.dev.hub.st ≠ .off) ∧
    (∃ (s : State), s.dev.hub.st ≠ .off ∧ s.dev.sys.reqs = []) ∧
    (∃ (s : State) (r : SpareReq) (l : List SpareReq), s.dev.hub.st ≠ .off ∧ s.dev.sys.reqs = r :: l) ∧
    (∃ (s : State), s.dev.hub.st ≠ .off) :=
  ⟨⟨on { full .ready with clk := { mono := 2000000000, ppsEdges := [0, 999999000] } }, 0, 999999000, by decide +kernel,
     by decide +kernel, by decide +kernel, by decide +kernel, by decide +kernel, by decide +kernel, by decide +kernel⟩,
   ⟨on { full .ready with clk := { ppsValid := true, timeSet := some (2 ^ 33, 1) } }, 2 ^ 33, 1, by decide +kernel, by decide +kernel,
     by decide +kernel⟩,
   ⟨on { full .ready with clk := { mono := 1500000007, ppsEdges := [7], timeSet := some (2 ^ 33, 1) } }, 2 ^ 33, 1, 7, by decide +kernel,
     by decide +kernel, by decide +kernel, by decide +kernel⟩,
   ⟨on { full .ready with clk := {} }, by decide +kernel, by decide +kernel, by decide +kernel⟩,
   ⟨on { full .ready with clk := { ppsValid := true } }, by decide +kernel, by decide +kernel, by decide +kernel⟩,
   ⟨on { full .ready with clk := { unset := false } }, by decide +kernel, by decide +kernel⟩,
   ⟨on (full .standby), by decide +kernel⟩,
   ⟨0, on (full .standby), by decide +kernel, by decide +kernel⟩,
   ⟨4, on (full .standby), by decide +kernel, by decide +kernel⟩,
   ⟨255, on (full .standby), by decide +kernel, by decide +kernel⟩,
   ⟨on (full .standby), by decide +kernel⟩,
   ⟨on (full .standby), by decide +kernel, by decide +kernel⟩,
   ⟨on { full .ready with sys := { reqs := [⟨0xFFFF, 0, 31, 0, (0, 0, 0)⟩] } }, ⟨0xFFFF, 0, 31, 0, (0, 0, 0)⟩, [], by decide +kernel,
     by decide +kernel⟩,
   ⟨on (full .standby), by decide +kernel⟩⟩

/-- Witnesses of PortEventsAct. -/
theorem witness_portEventsAct :
    (∃ (s : State), s.dev.portUp = true ∧ s.dev.eth.rateSec = s.dev.sec ∧ s.dev.eth.rateCnt < 10000) ∧
    (∃ (s : State), s.dev.portUp = true ∧ s.dev.eth.rateSec = s.dev.sec ∧ 10000 ≤ s.dev.eth.rateCnt) ∧
    (∃ (s : State), s.dev.portUp = true) ∧
    (∃ (pcp : BitVec 3) (cls : Nat) (s : State), s.dev.portUp = true ∧ bit s.dev.eth.cfg.toNat 25 = true ∧ s.dev.classOf (some pcp) =
      some cls) ∧
    (∃ (pcp : BitVec 3) (cls : Nat) (s : State), s.dev.portUp = true ∧ bit s.dev.eth.cfg.toNat 25 = true ∧ s.dev.classOf (some pcp) =
      some cls) ∧
    (∃ (s : State), bit s.dev.eth.cfg.toNat 25 = false) ∧
    (∃ (s : State), s.dev.portUp = true ∧ s.dev.pin.refclk = true) ∧
    (∃ (t : Nat) (s : State), s.dev.eth.upSince = some t ∧ t + 86400000000000 ≤ s.dev.clk.mono) :=
  ⟨⟨on { full .ready with eth := { rateCnt := 9999 } }, by decide +kernel, by decide +kernel, by decide +kernel⟩,
   ⟨on { full .ready with eth := { rateCnt := 10000 } }, by decide +kernel, by decide +kernel, by decide +kernel⟩,
   ⟨on (full .ready), by decide +kernel⟩,
   ⟨6, 1, on { full .ready with eth := { } }, by decide +kernel, by decide +kernel, by decide +kernel⟩,
   ⟨3, 0, on { full .ready with eth := { } }, by decide +kernel, by decide +kernel, by decide +kernel⟩,
   ⟨on { full .ready with eth := { cfg := 0xCD001000 } }, by decide +kernel⟩,
   ⟨on (full .ready), by decide +kernel, by decide +kernel⟩,
   ⟨7, later (on { full .ready with eth := { upSince := some 7 } }) 86400000000007, by decide +kernel, by decide +kernel⟩⟩

/-- Witnesses of RoceRequestsAreServed. -/
theorem witness_roceRequestsAreServed :
    (∃ (ch : Nat) (r : RoceHdr) (c : Chan) (s : State), InOrder s ch r c ∧ c.kind = 1) ∧
    (∃ (ch : Nat) (r : RoceHdr) (c : Chan) (s : State), InOrder s ch r c ∧ c.kind ≠ 1) ∧
    (∃ (ch : Nat) (r : RoceHdr) (c : Chan) (s : State), InOrder s ch r c) ∧
    (∃ (ch : Nat) (r : RoceHdr) (c : Chan) (part : WritePart) (s : State), InOrder s ch r c ∧ (part = .last ∨ part = .only)) ∧
    (∃ (ch : Nat) (r : RoceHdr) (c : Chan) (part : WritePart) (s : State), InOrder s ch r c ∧ (part = .first ∨ part = .middle)) ∧
    (∃ (ch : Nat) (r : RoceHdr) (c : Chan) (s : State), InOrder s ch r c) ∧
    (∃ (ch : Nat) (r : RoceHdr) (c : Chan) (s : State), InOrder s ch r c) :=
  ⟨⟨16383, ⟨0, none, true, true⟩, _, on { full .ready with chans := [(16383, { chan with kind := 1 })] },
     inOrder_of (c := { chan with kind := 1 }) (by decide +kernel), by decide +kernel⟩,
   ⟨16383, ⟨0, none, true, true⟩, _, on { full .ready with chans := [(16383, { chan with kind := 3 })] },
     inOrder_of (c := { chan with kind := 3 }) (by decide +kernel), by decide +kernel⟩,
   ⟨16383, ⟨0, none, true, true⟩, _, on { full .ready with chans := [(16383, { chan with kind := 3 })] },
     inOrder_of (c := { chan with kind := 3 }) (by decide +kernel)⟩,
   ⟨16383, ⟨0, none, true, true⟩, _, .last, on { full .ready with chans := [(16383, { chan with kind := 3 })] },
     inOrder_of (c := { chan with kind := 3 }) (by decide +kernel), .inl rfl⟩,
   ⟨16383, ⟨0, none, true, true⟩, _, .middle, on { full .ready with chans := [(16383, { chan with kind := 3 })] },
     inOrder_of (c := { chan with kind := 3 }) (by decide +kernel), .inr rfl⟩,
   ⟨16383, ⟨0, none, true, true⟩, _, on { full .ready with chans := [(16383, { chan with kind := 3 })] },
     inOrder_of (c := { chan with kind := 3 }) (by decide +kernel)⟩,
   ⟨16383, ⟨0, none, true, true⟩, _, on { full .ready with chans := [(16383, { chan with kind := 3 })] },
     inOrder_of (c := { chan with kind := 3 }) (by decide +kernel)⟩⟩

/-- Witnesses of ChannelEventsAct. -/
theorem witness_channelEventsAct :
    (∃ (r : ConnReq) (i : Nat) (s : State), s.dev.portUp = true ∧ s.dev.hub.st ≠ .updatePause ∧ s.dev.connBar r = none ∧ Tab.firstFree
      s.dev.chans 0 16384 = some i) ∧
    (∃ (r : ConnReq) (why : String) (s : State), s.dev.portUp = true ∧ s.dev.hub.st ≠ .updatePause ∧ s.dev.connBar r = some why) ∧
    (∃ (ch : Nat) (c : Chan) (s : State), Tab.get s.dev.chans ch = some c ∧ c.kind = 1 ∧ c.rtuAt = none ∧ s.dev.portUp = true) ∧
    (∃ (ch : Nat) (s : State), (Tab.get s.dev.chans ch).isSome = true ∧ s.dev.portUp = true) ∧
    (∃ (ch t : Nat) (c : Chan) (s : State), Tab.get s.dev.chans ch = some c ∧ c.kind = 1 ∧ c.state = 1 ∧ c.rtuAt = some t ∧ t +
      30000000000 ≤ s.dev.clk.mono) ∧
    (∃ (ch : Nat) (c : Chan) (s : State), Tab.get s.dev.chans ch = some c ∧ c.state ≠ 6) ∧
    (∃ (ch : Nat) (c : Chan) (s : State), Tab.get s.dev.chans ch = some c ∧ c.state ≠ 6) ∧
    (∃ (ch : Nat) (c : Chan) (s : State), Tab.get s.dev.chans ch = some c ∧ c.state ≠ 6) ∧
    (∃ (ch : Nat) (c : Chan) (r : DevReq) (rest : List DevReq) (s : State), Tab.get s.dev.chans ch = some c ∧ c.reqs = r :: rest ∧
      c.rnrUntil ≤ s.dev.clk.mono ∧ s.dev.hub.st ≠ .updatePause ∧ r.tries < 7) ∧
    (∃ (ch : Nat) (c : Chan) (r : DevReq) (rest : List DevReq) (s : State), Tab.get s.dev.chans ch = some c ∧ c.reqs = r :: rest ∧
      c.rnrUntil ≤ s.dev.clk.mono ∧ s.dev.hub.st ≠ .updatePause ∧ 7 ≤ r.tries) ∧
    (∃ (ch : Nat) (c : Chan) (s : State), Tab.get s.dev.chans ch = some c ∧ c.state ≠ 6 ∧ c.ecn = true) ∧
    (∃ (ch : Nat) (c : Chan) (s : State), Tab.get s.dev.chans ch = some c ∧ c.state ≠ 6 ∧ c.ecn = true ∧ c.quiet s.dev.clk.mono 55000 =
      true) ∧
    (∃ (ch : Nat) (c : Chan) (s : State), Tab.get s.dev.chans ch = some c ∧ c.state ≠ 6 ∧ c.ecn = true ∧ c.quiet s.dev.clk.mono 300000 =
      true) :=
  ⟨⟨⟨2, 3, 4096, 7, 4, [10, 0, 0, 1], [2, 0, 0, 0, 0, 1]⟩, 1, on (full .ready), by decide +kernel, by decide +kernel, by decide +kernel,
     by decide +kernel⟩,
   ⟨⟨2, 3, 4095, 7, 4, [], []⟩, _, on (full .ready), by decide +kernel, by decide +kernel, rfl⟩,
   ⟨16383, chan, last (chan) 0, by decide +kernel, by decide +kernel, by decide +kernel, by decide +kernel⟩,
   ⟨16383, last (chan) 0, by decide +kernel, by decide +kernel⟩,
   ⟨16383, 5, { chan with state := 1, rtuAt := some 5 }, last ({ chan with state := 1, rtuAt := some 5 }) 30000000005, by decide +kernel,
     by decide +kernel, by decide +kernel, by decide +kernel, by decide +kernel⟩,
   ⟨16383, chan, last (chan) 0, by decide +kernel, by decide +kernel⟩,
   ⟨16383, chan, last (chan) 0, by decide +kernel, by decide +kernel⟩,
   ⟨16383, chan, last (chan) 0, by decide +kernel, by decide +kernel⟩,
   ⟨16383, { chan with reqs := [⟨5, 1, 6, .ack 16383 5, none⟩] }, ⟨5, 1, 6, .ack 16383 5, none⟩, [], last
     ({ chan with reqs := [⟨5, 1, 6, .ack 16383 5, none⟩] }) 0, by decide +kernel, by decide +kernel, by decide +kernel,
     by decide +kernel, by decide +kernel⟩,
   ⟨16383, { chan with reqs := [⟨5, 1, 7, .ack 16383 5, none⟩] }, ⟨5, 1, 7, .ack 16383 5, none⟩, [], last
     ({ chan with reqs := [⟨5, 1, 7, .ack 16383 5, none⟩] }) 0, by decide +kernel, by decide +kernel, by decide +kernel,
     by decide +kernel, by decide +kernel⟩,
   ⟨16383, { chan with ecn := true }, last ({ chan with ecn := true }) 0, by decide +kernel, by decide +kernel, by decide +kernel⟩,
   ⟨16383, { chan with ecn := true, lastCnpIn := some 1 }, last ({ chan with ecn := true, lastCnpIn := some 1 }) 55001,
     by decide +kernel, by decide +kernel, by decide +kernel, by decide +kernel⟩,
   ⟨16383, { chan with ecn := true, lastCnpIn := some 1 }, last ({ chan with ecn := true, lastCnpIn := some 1 }) 300001,
     by decide +kernel, by decide +kernel, by decide +kernel, by decide +kernel⟩⟩

/-- Witnesses of StreamEngineEventsAct. -/
theorem witness_streamEngineEventsAct :
    (∃ (die i : Nat) (st : Strm) (t : Tile) (c : Chunk) (s : State), s.dev.dieRuns die = true ∧ s.dev.outstanding die < 4096 ∧
      s.dev.grantee die = some i ∧ Tab.get s.dev.strms i = some st ∧ st.ready = some (t, true) ∧ t.reads[t.nextRd]? = some c) ∧
    (∃ (die i : Nat) (st : Strm) (t : Tile) (c : Chunk) (s : State), s.dev.dieRuns die = true ∧ s.dev.outstanding die < 4096 ∧
      s.dev.grantee die = some i ∧ Tab.get s.dev.strms i = some st ∧ st.ready = some (t, false) ∧ t.writes[t.nextWr]? = some c) ∧
    (∃ (die : Nat) (s : State), 4096 ≤ s.dev.outstanding die) ∧
    (∃ (i : Nat) (st : Strm) (x : SDesc) (rest : List SDesc) (s : State), Tab.get s.dev.strms i = some st ∧ (st.state = 2 ∨ st.state = 3)
      ∧ st.stop = none ∧ s.dev.dieRuns (strmDie i) = true ∧ st.running = none ∧ st.exhausted = false ∧ st.burst = x :: rest ∧ (x.fence =
      false ∨ st.tiles = [])) ∧
    (∃ (i : Nat) (st : Strm) (x : SDesc) (src dst : Layout) (s : State), Tab.get s.dev.strms i = some st ∧ (st.state = 2 ∨ st.state = 3)
      ∧ st.stop = none ∧ s.dev.dieRuns (strmDie i) = true ∧ st.running = some (x, src, dst) ∧ st.nextTile < x.rep ∧ st.srcSkein = false ∧
      st.dstSkein = false ∧ (st.tiles.filter fun t => !t.void).length < st.look) ∧
    (∃ (i id : Nat) (st : Strm) (o : MemOpOut) (s : State), Tab.get s.dev.strms i = some st ∧ (st.ops.find? fun o => o.id = id) = some o
      ∧ o.isRead = true ∧ o.stale = false ∧ st.stop = none) ∧
    (∃ (i id : Nat) (st : Strm) (o : MemOpOut) (s : State), Tab.get s.dev.strms i = some st ∧ (st.ops.find? fun o => o.id = id) = some o
      ∧ o.isRead = false) :=
  ⟨⟨3, 4095, { strm with state := 2, tiles := [{ tile with writes := [] }] }, { tile with writes := [] }, ⟨0, 64, 0x200000, 64, false,
     false⟩, strmS { strm with state := 2, tiles := [{ tile with writes := [] }] }, by decide +kernel, by decide +kernel,
     by decide +kernel, by decide +kernel, by decide +kernel, by decide +kernel⟩,
   ⟨3, 4095, { strm with state := 2, tiles := [{ tile with reads := [] }] }, { tile with reads := [] }, ⟨0, 64, 0x200000, 64, false,
     false⟩, strmS { strm with state := 2, tiles := [{ tile with reads := [] }] }, by decide +kernel, by decide +kernel,
     by decide +kernel, by decide +kernel, by decide +kernel, by decide +kernel⟩,
   ⟨3, strmS { strm with ops := List.replicate 4096 ⟨0, 0, 0, true, false, []⟩ }, by decide +kernel⟩,
   ⟨4095, { strm with state := 3, burst := [desc0], arm := some ⟨0, 1, 0, false, false⟩ }, desc0, [], strmS
     { strm with state := 3, burst := [desc0], arm := some ⟨0, 1, 0, false, false⟩ }, by decide +kernel, by decide +kernel,
     by decide +kernel, by decide +kernel, by decide +kernel, by decide +kernel, by decide +kernel, by decide +kernel⟩,
   ⟨4095, { strm with state := 2, look := 1, running := some (desc0, lay, lay) }, desc0, lay, lay, strmS
     { strm with state := 2, look := 1, running := some (desc0, lay, lay) }, by decide +kernel, by decide +kernel, by decide +kernel,
     by decide +kernel, by decide +kernel, by decide +kernel, by decide +kernel, by decide +kernel, by decide +kernel⟩,
   ⟨4095, 7, { strm with ops := [⟨7, 0, 0, true, false, []⟩] }, ⟨7, 0, 0, true, false, []⟩, strmS
     { strm with ops := [⟨7, 0, 0, true, false, []⟩] }, by decide +kernel, by decide +kernel, by decide +kernel, by decide +kernel,
     by decide +kernel⟩,
   ⟨4095, 7, { strm with ops := [⟨7, 0, 0, false, false, []⟩] }, ⟨7, 0, 0, false, false, []⟩, strmS
     { strm with ops := [⟨7, 0, 0, false, false, []⟩] }, by decide +kernel, by decide +kernel, by decide +kernel⟩⟩

/-- Witnesses of MemoryEventsAct. -/
theorem witness_memoryEventsAct :
    (∃ (buf page : Nat) (q : PageIn) (s : State), (s.dev.ms.pageins.find? fun q => q.buf = buf && q.page = page && q.st = 0) = some q ∧
      s.dev.diesRun = true) ∧
    (∃ (buf page : Nat) (m : Migration) (s : State), (s.dev.ms.migs.find? fun m => m.buf = buf && m.page = page) = some m ∧ s.dev.diesRun
      = true ∧ s.dev.dstHeld m = false) ∧
    (∃ (s : State), s.dev.diesRun = true) ∧
    (∃ (stack : Nat) (s : State), stack < 24 ∧ s.dev.diesRun = true ∧ s.dev.scrubHours (dieOfStack stack) ≠ 0) ∧
    (∃ (stack : Nat) (s : State), s.dev.scrubHours (dieOfStack stack) = 0) ∧
    (∃ (core : Nat) (s : State), core < 256 ∧ s.dev.diesRun = true) ∧
    (∃ (die slice : Nat) (s : State), die < 4 ∧ slice < 8 ∧ s.dev.diesRun = true) ∧
    (∃ (stack pc plus minus : Nat) (t : Int) (s : State), stack < 24 ∧ pc < 32 ∧ s.dev.diesRun = true ∧ bit (Tab.getD s.dev.ms.scrubCfg
      (dieOfStack stack) 0x0801).toNat 0 = true ∧ Tab.getD s.dev.ms.trims (32 * stack + pc) 0 = t ∧ -31 ≤ t ∧ t < 31 ∧ plus + 8 ≤ minus) ∧
    (∃ (stack pc plus minus : Nat) (t : Int) (s : State), stack < 24 ∧ pc < 32 ∧ s.dev.diesRun = true ∧ bit (Tab.getD s.dev.ms.scrubCfg
      (dieOfStack stack) 0x0801).toNat 0 = true ∧ Tab.getD s.dev.ms.trims (32 * stack + pc) 0 = t ∧ -31 ≤ t ∧ t < 31 ∧ plus + 8 ≤ minus) ∧
    (∃ (stack pc plus minus : Nat) (t : Int) (s : State), stack < 24 ∧ pc < 32 ∧ s.dev.diesRun = true ∧ bit (Tab.getD s.dev.ms.scrubCfg
      (dieOfStack stack) 0x0801).toNat 0 = true ∧ Tab.getD s.dev.ms.trims (32 * stack + pc) 0 = t ∧ -31 < t ∧ t ≤ 31 ∧ minus + 8 ≤ plus) ∧
    (∃ (stack pc plus minus : Nat) (t : Int) (s : State), stack < 24 ∧ pc < 32 ∧ s.dev.diesRun = true ∧ bit (Tab.getD s.dev.ms.scrubCfg
      (dieOfStack stack) 0x0801).toNat 0 = true ∧ Tab.getD s.dev.ms.trims (32 * stack + pc) 0 = t ∧ -31 < t ∧ t ≤ 31 ∧ minus + 8 ≤ plus) ∧
    (∃ plus minus : Nat, minus < plus + 8 ∧ plus < minus + 8) ∧
    (∃ plus minus : Nat, minus < plus + 8 ∧ plus < minus + 8) ∧
    (∃ (s : State), s.dev.diesRun = true ∧ s.dev.ms.trimSavedAt + 86400000000000 ≤ s.dev.clk.mono) ∧
    (∃ (port position : Nat) (s : State), (s.dev.ms.expanders.any fun e => e.port = port && e.pos = position && !e.failed) = true) :=
  ⟨⟨65535, 0, ⟨65535, 0, 3, 0, 0⟩, on { full .ready with ms := { pageins := [⟨65535, 0, 3, 0, 0⟩] } }, by decide +kernel,
     by decide +kernel⟩,
   ⟨65535, 0, ⟨65535, 0, 0x400000, .placedHbm, 0⟩, on { full .ready with ms := { migs := [⟨65535, 0, 0x400000, .placedHbm, 0⟩] } },
     by decide +kernel, by decide +kernel, by decide +kernel⟩,
   ⟨on (full .ready), by decide +kernel⟩,
   ⟨23, on (full .ready), by decide +kernel, by decide +kernel, by decide +kernel⟩,
   ⟨23, on { full .ready with ms := { scrubCfg := [(3, 0x0001)] } }, by decide +kernel⟩,
   ⟨255, on (full .ready), by decide +kernel, by decide +kernel⟩,
   ⟨3, 7, on (full .ready), by decide +kernel, by decide +kernel, by decide +kernel⟩,
   ⟨23, 31, 0, 8, 30, on { full .ready with ms := { trims := [(767, 30)] } }, by decide +kernel, by decide +kernel, by decide +kernel,
     by decide +kernel, by decide +kernel, by decide +kernel, by decide +kernel, by decide +kernel⟩,
   ⟨23, 31, 0, 8, -31, on { full .ready with ms := { trims := [(767, -31)] } }, by decide +kernel, by decide +kernel, by decide +kernel,
     by decide +kernel, by decide +kernel, by decide +kernel, by decide +kernel, by decide +kernel⟩,
   ⟨23, 31, 8, 0, -30, on { full .ready with ms := { trims := [(767, -30)] } }, by decide +kernel, by decide +kernel, by decide +kernel,
     by decide +kernel, by decide +kernel, by decide +kernel, by decide +kernel, by decide +kernel⟩,
   ⟨23, 31, 8, 0, 31, on { full .ready with ms := { trims := [(767, 31)] } }, by decide +kernel, by decide +kernel, by decide +kernel,
     by decide +kernel, by decide +kernel, by decide +kernel, by decide +kernel, by decide +kernel⟩,
   ⟨7, 0, by decide +kernel, by decide +kernel⟩,
   ⟨0, 7, by decide +kernel, by decide +kernel⟩,
   ⟨later (on { full .ready with ms := { trimSavedAt := 1 } }) 86400000000001, by decide +kernel, by decide +kernel⟩,
   ⟨3, 3, on { full .ready with ms := { expanders := [⟨3, 3, 16, 5, 0, 0, 0, 0, false⟩] } }, by decide +kernel⟩⟩

/-- Witnesses of WaitsEnd. -/
theorem witness_waitsEnd :
    (∃ (ch : Nat) (seq : Word) (p : PendCmd) (a b limit : Nat) (reach : Bool) (s : State), (s.dev.cmds.find? fun p => p.ch = ch &&
      p.hdr.seq = seq) = some p ∧ p.wait = .syncWait a b reach limit ∧ p.begun + 1000 * limit ≤ s.dev.clk.mono) ∧
    (∃ (p : PendCmd) (s : State), (s.dev.cmds.find? fun p => p.wait = .remap && s.dev.ranFor p 20000000000) = some p) ∧
    (∃ (block : Nat) (rest : List Nat) (s : State), s.dev.svc.swatchLeft = block :: rest ∧ s.dev.swatchSkips block [] = false ∧
      s.dev.svc.swatchConsole = false) ∧
    (∃ (upd block : Nat) (data : List Byte) (p : PendCmd) (s : State), s.dev.hub.st ≠ .off ∧ s.dev.cmds.find? (PendCmd.programs upd
      block) = some p ∧ p.wait = .fwCommit upd block data) ∧
    (∃ (s : State), s.dev.hub.st = .updatePause) ∧
    (∃ (s : State), s.dev.hub.st ≠ .off ∧ s.dev.fw.confirmed = false ∧ s.dev.fw.actUptime + s.dev.fw.deadline ≤
      s.dev.store.frame.uptimeS) ∧
    (∃ (s : State), s.dev.fw.confirmed = true) ∧
    (∃ (slot t : Nat) (s : State), s.dev.fw.pause = some (slot, t) ∧ s.dev.hub.st = .updatePause ∧ s.dev.clk.mono < t + 6000000000) ∧
    (∃ m : List Byte, isRec m 1 = true) ∧
    (∃ m : List Byte, isRec m 2 = true) ∧
    (∃ m : List Byte, isRec m 3 = true) ∧
    (∃ m : List Byte, isRec m 4 = true) ∧
    (∃ m : List Byte, msgType m = 0x11) :=
  ⟨⟨0, 7#32, waitFor (.syncWait 8191 6 true 60000000), 8191, 6, 60000000, true, waitS (.syncWait 8191 6 true 60000000) 60000000007,
     by decide +kernel, by decide +kernel, by decide +kernel⟩,
   ⟨waitFor .remap, waitS .remap 20000000007, by decide +kernel⟩,
   ⟨39, [], on { full .service with svc := { swatchLeft := [39] } }, by decide +kernel, by decide +kernel, by decide +kernel⟩,
   ⟨3, 1535, [], waitFor (.fwCommit 3 1535 []), waitS (.fwCommit 3 1535 []) 0, by decide +kernel, by decide +kernel, by decide +kernel⟩,
   ⟨on (full .updatePause), by decide +kernel⟩,
   ⟨on { full .ready with fw := { confirmed := false, deadline := 60, actUptime := 5 }, store := { frame := { uptimeS := 65 } } },
     by decide +kernel, by decide +kernel, by decide +kernel⟩,
   ⟨on (full .ready), by decide +kernel⟩,
   ⟨2, 9, later (on { full .updatePause with fw := { pause := some (2, 9) } }) 6000000008, by decide +kernel, by decide +kernel,
     by decide +kernel⟩,
   ⟨[0x10] ++ zeros 11 ++ [1], by decide +kernel⟩,
   ⟨[0x10] ++ zeros 11 ++ [2], by decide +kernel⟩,
   ⟨[0x10] ++ zeros 11 ++ [3], by decide +kernel⟩,
   ⟨[0x10] ++ zeros 11 ++ [4], by decide +kernel⟩,
   ⟨[0x11], by decide +kernel⟩⟩

/-- Witnesses of EngineOperationsRun. -/
theorem witness_engineOperationsRun :
    (∃ (i : Instr) (cls die eng op key : Nat) (b : List Byte) (work : Nat → Eng Unit) (s : State), engineOf i = some (cls, die, eng, op)
      ∧ engWork cls op = some work ∧ EngineFree s die cls eng ∧ Chosen s (engKeys die cls eng) op key b) ∧
    (∃ (i : Instr) (cls die eng op key : Nat) (b : List Byte) (work : Nat → Eng Unit) (s : State), engineOf i = some (cls, die, eng, op)
      ∧ engWork cls op = some work ∧ EngineFree s die cls eng ∧ Chosen s (engKeys die cls eng) op key b) ∧
    (∃ (i : Instr) (cls die eng op key : Nat) (b : List Byte) (work : Nat → Eng Unit) (s : State), engineOf i = some (cls, die, eng, op)
      ∧ engWork cls op = some work ∧ EngineFree s die cls eng ∧ Chosen s (engKeys die cls eng) op key b) ∧
    (∃ (i : Instr) (cls die eng op key : Nat) (b : List Byte) (work : Nat → Eng Unit) (s : State), engineOf i = some (cls, die, eng, op)
      ∧ engWork cls op = some work ∧ EngineFree s die cls eng ∧ Chosen s (engKeys die cls eng) op key b) ∧
    (∃ (i : Instr) (cls die eng op key : Nat) (b : List Byte) (work : Nat → Eng Unit) (s : State), engineOf i = some (cls, die, eng, op)
      ∧ engWork cls op = some work ∧ EngineFree s die cls eng ∧ Chosen s (engKeys die cls eng) op key b) ∧
    (∃ (i : Instr) (cls die eng op key : Nat) (b : List Byte) (work : Nat → Eng Unit) (s : State), engineOf i = some (cls, die, eng, op)
      ∧ engWork cls op = some work ∧ EngineFree s die cls eng ∧ Chosen s (engKeys die cls eng) op key b) ∧
    (∃ (i : Instr) (cls die eng op : Nat) (s : State), engineOf i = some (cls, die, eng, op) ∧ s.dev.engBusy die cls eng = true) ∧
    (∃ (i : Instr) (die arr op key : Nat) (b : List Byte) (work : Nat → Eng Unit) (s : State), arrayOf i = some (die, arr, op) ∧ engWork
      3 op = some work ∧ EngineFree s die 3 arr ∧ s.dev.loadParked die arr = false ∧ (op = 0x30 → ∀ x ∈ s.dev.engItems die 3 arr, x.2.st
      = 2) ∧ Chosen s (engKeys die 3 arr) op key b) ∧
    (∃ (i : Instr) (die arr op key : Nat) (b : List Byte) (work : Nat → Eng Unit) (s : State), arrayOf i = some (die, arr, op) ∧ engWork
      3 op = some work ∧ EngineFree s die 3 arr ∧ s.dev.loadParked die arr = false ∧ (op = 0x30 → ∀ x ∈ s.dev.engItems die 3 arr, x.2.st
      = 2) ∧ Chosen s (engKeys die 3 arr) op key b) ∧
    (∃ (i : Instr) (die arr op key : Nat) (b : List Byte) (work : Nat → Eng Unit) (s : State), arrayOf i = some (die, arr, op) ∧ engWork
      3 op = some work ∧ EngineFree s die 3 arr ∧ s.dev.loadParked die arr = false ∧ (op = 0x30 → ∀ x ∈ s.dev.engItems die 3 arr, x.2.st
      = 2) ∧ Chosen s (engKeys die 3 arr) op key b) ∧
    (∃ (i : Instr) (die arr op key k : Nat) (x : Item) (b : List Byte) (work : Nat → Eng Unit) (s : State), arrayOf i = some (die, arr,
      op) ∧ 0x32 ≤ op ∧ engWork 3 op = some work ∧ die < 4 ∧ arr < 2 ∧ s.dev.dieRuns die = true ∧ s.dev.mayTake die 3 arr = true ∧
      s.dev.loadParked die arr = false ∧ ((s.dev.engItems die 3 arr).filter fun x => x.2.st = 1 || x.2.st = 5) = [(k, x)] ∧ x.st = 5 ∧
      Chosen s ((engKeys die 3 arr).filter fun q => q != k) op key b) :=
  ⟨⟨.colpage 3 3, 0, 3, 3, 3, _, _, _, engS 3 0 7 3, rfl, rfl, free_of (by decide +kernel), ⟨rfl, rfl, by decide +kernel⟩⟩,
   ⟨.rawEnc 3 3, 1, 3, 3, 23, _, _, _, engS 3 1 7 23, rfl, rfl, free_of (by decide +kernel), ⟨rfl, rfl, by decide +kernel⟩⟩,
   ⟨.hllEst 3 7, 2, 3, 7, 38, _, _, _, engS 3 2 7 38, rfl, rfl, free_of (by decide +kernel), ⟨rfl, rfl, by decide +kernel⟩⟩,
   ⟨.merge 3 3, 4, 3, 3, 65, _, _, _, engS 3 4 7 65, rfl, rfl, free_of (by decide +kernel), ⟨rfl, rfl, by decide +kernel⟩⟩,
   ⟨.rowInit 3 5, 5, 3, 5, 84, _, _, _, engS 3 5 7 84, rfl, rfl, free_of (by decide +kernel), ⟨rfl, rfl, by decide +kernel⟩⟩,
   ⟨.gather 3 0, 5, 3, 0, 80, _, _, _, engS 3 5 0 80, rfl, rfl, free_of (by decide +kernel), ⟨rfl, rfl, by decide +kernel⟩⟩,
   ⟨.colpage 3 3, 0, 3, 3, 3, on { full .ready with queues := [(queueKey 3 0 7, { items := [item 3 1 []] })] }, by decide +kernel,
     by decide +kernel⟩,
   ⟨.omaLoad 3 1, 3, 1, 48, _, _, _, engS 3 3 7 48, rfl, rfl, free_of (by decide +kernel), by decide +kernel, by decide +kernel,
     ⟨rfl, rfl, by decide +kernel⟩⟩,
   ⟨.omaUpdate 3 1, 3, 1, 49, _, _, _, engS 3 3 7 49, rfl, rfl, free_of (by decide +kernel), by decide +kernel, by decide +kernel,
     ⟨rfl, rfl, by decide +kernel⟩⟩,
   ⟨.dump 3 1, 3, 1, 52, _, _, _, engS 3 3 7 52, rfl, rfl, free_of (by decide +kernel), by decide +kernel, by decide +kernel,
     ⟨rfl, rfl, by decide +kernel⟩⟩,
   ⟨.lookup 3 1, 3, 1, 0x32, _, _, item 1 5 [], _, _,
     { engS 3 3 7 0x32 with dev := { (engS 3 3 7 0x32).dev with queues := (queueKey 3 3 4, { items := [item 1 5 []] }) :: (engS 3 3 7 0x32).dev.queues } },
     rfl, by decide +kernel, rfl, by decide +kernel, by decide +kernel, by decide +kernel, by decide +kernel, by decide +kernel, rfl,
     by decide +kernel, ⟨rfl, rfl, by decide +kernel⟩⟩⟩

/-- Witnesses of WorkItemsGoOn. -/
theorem witness_workItemsGoOn :
    (∃ (die key : Nat) (cls : EngClass) (it : Item) (s : State), die < 4 ∧ s.dev.dieRuns die = true ∧ ((List.range (engines (classCode
      cls))).findSome? fun e => if s.dev.engBusy die (classCode cls) e then none else s.dev.resumable die (classCode cls) e) = some (key,
      it)) ∧
    (∃ (die queue : Nat) (cls : EngClass) (it : Item) (s : State), die < 4 ∧ queue < 8 ∧ s.dev.dieRuns die = true ∧ ((s.dev.queue
      (queueKey die (classCode cls) queue)).items.find? fun i => i.st = 1) = some it) ∧
    (∃ (die arr key : Nat) (it : Item) (s : State), die < 4 ∧ arr < 2 ∧ s.dev.dieRuns die = true ∧ (s.dev.oma die arr).shift = true ∧
      ((s.work.onOma die arr fun a => { a with shift := false }).dev.engItems die 3 arr).find? (fun x => x.2.st = 5) = some (key, it)) ∧
    (∃ (stack : Nat) (x : RowStep) (s : State), stack < 24 ∧ s.dev.dieRuns (dieOfStack stack) = true ∧ (Tab.getD s.dev.ruus stack
      {}).steps.find? (s.work.fetchSteps (Tab.getD s.dev.ruus stack {}).steps).dev.stepReady = some x) :=
  ⟨⟨3, _, .emb, _, on { full .ready with queues := [(queueKey 3 5 7, { items := [item 5 0 []] })] }, by decide +kernel,
     by decide +kernel, rfl⟩,
   ⟨3, 7, .emb, item 5 1 [], on { full .ready with queues := [(queueKey 3 5 7, { items := [item 5 1 []] })] }, by decide +kernel,
     by decide +kernel, by decide +kernel, by decide +kernel⟩,
   ⟨3, 1, _, _, on { full .ready with omas := [(7, { shift := true })], queues := [(queueKey 3 3 7, { items := [item 1 5 []] })] },
     by decide +kernel, by decide +kernel, by decide +kernel, by decide +kernel, rfl⟩,
   ⟨23, ⟨0, 0, 4095, 0, 0, []⟩, tableS [] [⟨0, 0, 4095, 0, 0, []⟩], by decide +kernel, by decide +kernel, rfl⟩⟩

/-- Witnesses of FeedServiceActs. -/
theorem witness_feedServiceActs :
    (∃ (feed die : Nat) (f : Feed) (s : State), Tab.get s.dev.feeds feed = some f ∧ s.dev.feedRuns f = true ∧ f.draining = false ∧
      (maskDies f.dieMask).head? = some die ∧ ((Tab.get s.dev.syncs (f.obj die 0)).map fun y => y.canTake 1) = some true ∧ bit (fld
      (s.work.readVa (s.dev.intakeVa f die) 32) 0x18 4) 0 = true) ∧
    (∃ (feed die lane : Nat) (f : Feed) (s : State), Tab.get s.dev.feeds feed = some f ∧ s.dev.feedRuns f = true ∧ f.draining = false ∧
      (maskDies f.dieMask).head? = some die ∧ ((Tab.get s.dev.syncs (f.obj die 0)).map fun y => y.canTake 1) = some true ∧ bit (fld
      (s.work.readVa (s.dev.intakeVa f die) 32) 0x18 4) 0 = false ∧ f.cfg.mode = 0 ∧ f.openBatch.isSome = true ∧ f.freeLane die false =
      some lane ∧ 3 ≤ f.ledgerRoom) ∧
    (∃ (feed : Nat) (f : Feed) (s : State), Tab.get s.dev.feeds feed = some f ∧ (f.faulted = true ∨ f.draining = true)) ∧
    (∃ (feed : Nat) (f : Feed) (s : State), Tab.get s.dev.feeds feed = some f ∧ (f.faulted = true ∨ f.draining = true)) ∧
    (∃ (feed t : Nat) (rest : List Nat) (f : Feed) (b : Batch) (s : State), Tab.get s.dev.feeds feed = some f ∧ s.dev.feedRuns f = true ∧
      f.flushes = t :: rest ∧ f.openBatch = some b ∧ (f.samples.any fun x => (x.no < t && !x.slow && !x.dropped) || (x.copying && some
      b.seq = x.place.map Prod.fst)) = false) ∧
    (∃ (feed die lane : Nat) (f : Feed) (x : Sample) (s : State), Tab.get s.dev.feeds feed = some f ∧ bit f.dieMask die = true ∧ lane <
      f.decodeSlots + f.slowMax ∧ s.dev.feedRuns f = true ∧ ((Tab.get s.dev.syncs (f.obj die 2)).map fun y => y.canTake 1) = some true ∧
      fld (s.work.readVa (s.dev.feedArea f + f.off (4 * die + 2) + 32 * lane) 32) 0 1 = 1 ∧ (f.samples.find? fun x => x.die = die &&
      x.lane = lane && x.row.isNone) = some x) ∧
    (∃ (feed no va seq p : Nat) (f : Feed) (x : Sample) (s : State), Tab.get s.dev.feeds feed = some f ∧ (f.samples.find? fun x => x.no =
      no && x.copying) = some x ∧ x.row = some va ∧ x.place = some (seq, p) ∧ s.dev.feedRuns f = true ∧ s.dev.rangeFail va f.rowBytes
      true false = none ∧ s.work.poisonVa va f.rowBytes = false) ∧
    (∃ (feed no va seq p : Nat) (f : Feed) (x : Sample) (s : State), Tab.get s.dev.feeds feed = some f ∧ (f.samples.find? fun x => x.no =
      no && x.copying) = some x ∧ x.row = some va ∧ x.place = some (seq, p) ∧ s.dev.feedRuns f = true ∧ s.dev.rangeFail va f.rowBytes
      true false = none ∧ s.work.poisonVa va f.rowBytes = true) ∧
    (∃ (feed : Nat) (f : Feed) (s : State), Tab.get s.dev.feeds feed = some f ∧ s.dev.feedRuns f = true ∧ 3 ≤ f.ledgerRoom) :=
  ⟨⟨1023, 0, fd feed, feedS feed [(0x18, 1)], by decide +kernel, by decide +kernel, by decide +kernel, by decide +kernel,
     by decide +kernel, by decide +kernel⟩,
   ⟨1023, 0, 0, fd { feed with batches := [batch0], cfg := { mode := 0 } }, feedS { feed with batches := [batch0], cfg := { mode := 0 } }
     [(0, 9)], by decide +kernel, by decide +kernel, by decide +kernel, by decide +kernel, by decide +kernel, by decide +kernel,
     by decide +kernel, by decide +kernel, by decide +kernel, by decide +kernel⟩,
   ⟨1023, fd { feed with faulted := true }, feedS { feed with faulted := true } [], by decide +kernel, .inl rfl⟩,
   ⟨1023, fd { feed with draining := true }, feedS { feed with draining := true } [], by decide +kernel, .inr rfl⟩,
   ⟨1023, 0, [], fd { feed with flushes := [0], batches := [batch0] }, batch0, feedS { feed with flushes := [0], batches := [batch0] }
     [], by decide +kernel, by decide +kernel, by decide +kernel, by decide +kernel, by decide +kernel⟩,
   ⟨1023, 0, 1, fd { feed with samples := [{ sample with lane := 1 }] }, { sample with lane := 1 }, feedS
     { feed with samples := [{ sample with lane := 1 }] } [((fd feed).off 2 + 32, 1)], by decide +kernel, by decide +kernel,
     by decide +kernel, by decide +kernel, by decide +kernel, by decide +kernel, by decide +kernel⟩,
   ⟨1023, 0, 0x200040, 1, 63, fd
     { feed with samples := [{ sample with row := some 0x200040, place := some (1, 63), copying := true }], batches := [batch0] },
     { sample with row := some 0x200040, place := some (1, 63), copying := true }, feedS
     { feed with samples := [{ sample with row := some 0x200040, place := some (1, 63), copying := true }], batches := [batch0] } [],
     by decide +kernel, by decide +kernel, by decide +kernel, by decide +kernel, by decide +kernel, by decide +kernel, by decide +kernel⟩,
   ⟨1023, 0, 0x200040, 1, 63, fd
     { feed with samples := [{ sample with row := some 0x200040, place := some (1, 63), copying := true }], batches := [batch0] },
     { sample with row := some 0x200040, place := some (1, 63), copying := true },
     { feedS { feed with samples := [{ sample with row := some 0x200040, place := some (1, 63), copying := true }], batches := [batch0] } [] with mem := { poison := [0x40] } },
     by decide +kernel, by decide +kernel, by decide +kernel, by decide +kernel, by decide +kernel, by decide +kernel, by decide +kernel⟩,
   ⟨1023, fd { feed with ledgerNext := 4093 }, feedS { feed with ledgerNext := 4093 } [], by decide +kernel, by decide +kernel,
     by decide +kernel⟩⟩

/-- Witnesses of BatchesAndResultsLeave. -/
theorem witness_batchesAndResultsLeave :
    (∃ (feed : Nat) (f : Feed) (b : Batch) (c : Client) (s : State), Tab.get s.dev.feeds feed = some f ∧ f.batches.find? (fun b => b.st =
      1) = some b ∧ s.dev.nextClient f = some c ∧ f.faulted = false ∧ s.dev.hub.st ≠ .updatePause ∧ s.dev.hub.st ≠ .off) ∧
    (∃ (feed client : Nat) (f : Feed) (cl : Client) (k : Chan) (y : Sync) (b : Buf) (s : State), Tab.get s.dev.feeds feed = some f ∧
      (f.clients.find? fun c => c.idx = client) = some cl ∧ Tab.get s.dev.chans cl.chan = some k ∧ Tab.get s.dev.bufs (hIdx k.rxBuf) =
      some b ∧ Tab.get s.dev.syncs (hIdx k.rxSync) = some y ∧ s.dev.syncLive k.rxSync = true ∧ y.canTake 1 = true ∧ 4160 ≤ b.size ∧
      s.dev.rangeFail (b.base + (k.ringPos + b.size / 4160 - y.val % (b.size / 4160)) % (b.size / 4160) * 4160) 80 false false = none ∧
      fld (s.work.readVa (b.base + (k.ringPos + b.size / 4160 - y.val % (b.size / 4160)) % (b.size / 4160) * 4160) 80) 0 2 = 1 ∧ fld
      (s.work.readVa (b.base + (k.ringPos + b.size / 4160 - y.val % (b.size / 4160)) % (b.size / 4160) * 4160) 80) 2 2 = 16 ∧ fld
      (s.work.readVa (b.base + (k.ringPos + b.size / 4160 - y.val % (b.size / 4160)) % (b.size / 4160) * 4160) 80) 64 4 = 0x43465653 ∧
      fld (s.work.readVa (b.base + (k.ringPos + b.size / 4160 - y.val % (b.size / 4160)) % (b.size / 4160) * 4160) 80) 68 2 = 1 ∧ 1 ≤ fld
      (s.work.readVa (b.base + (k.ringPos + b.size / 4160 - y.val % (b.size / 4160)) % (b.size / 4160) * 4160) 80) 70 2 ∧ fld
      (s.work.readVa (b.base + (k.ringPos + b.size / 4160 - y.val % (b.size / 4160)) % (b.size / 4160) * 4160) 80) 70 2 ≤ 64 ∧ zeroAt
      (s.work.readVa (b.base + (k.ringPos + b.size / 4160 - y.val % (b.size / 4160)) % (b.size / 4160) * 4160) 80) 72 8 = true) ∧
    (∃ (feed client : Nat) (f : Feed) (cl : Client) (k : Chan) (y : Sync) (b : Buf) (s : State), Tab.get s.dev.feeds feed = some f ∧
      (f.clients.find? fun c => c.idx = client) = some cl ∧ Tab.get s.dev.chans cl.chan = some k ∧ Tab.get s.dev.bufs (hIdx k.rxBuf) =
      some b ∧ Tab.get s.dev.syncs (hIdx k.rxSync) = some y ∧ s.dev.syncLive k.rxSync = true ∧ y.canTake 1 = true ∧ 4160 ≤ b.size ∧
      s.dev.rangeFail (b.base + (k.ringPos + b.size / 4160 - y.val % (b.size / 4160)) % (b.size / 4160) * 4160) 80 false false = none ∧
      fld (s.work.readVa (b.base + (k.ringPos + b.size / 4160 - y.val % (b.size / 4160)) % (b.size / 4160) * 4160) 80) 0 2 = 1 ∧ fld
      (s.work.readVa (b.base + (k.ringPos + b.size / 4160 - y.val % (b.size / 4160)) % (b.size / 4160) * 4160) 80) 2 2 = 16 ∧ fld
      (s.work.readVa (b.base + (k.ringPos + b.size / 4160 - y.val % (b.size / 4160)) % (b.size / 4160) * 4160) 80) 64 4 = 0x43465653 ∧
      fld (s.work.readVa (b.base + (k.ringPos + b.size / 4160 - y.val % (b.size / 4160)) % (b.size / 4160) * 4160) 80) 68 2 = 1 ∧ 1 ≤ fld
      (s.work.readVa (b.base + (k.ringPos + b.size / 4160 - y.val % (b.size / 4160)) % (b.size / 4160) * 4160) 80) 70 2 ∧ fld
      (s.work.readVa (b.base + (k.ringPos + b.size / 4160 - y.val % (b.size / 4160)) % (b.size / 4160) * 4160) 80) 70 2 ≤ 64 ∧ zeroAt
      (s.work.readVa (b.base + (k.ringPos + b.size / 4160 - y.val % (b.size / 4160)) % (b.size / 4160) * 4160) 80) 72 8 = true) ∧
    (∃ (feed client : Nat) (f : Feed) (cl : Client) (k : Chan) (y : Sync) (b : Buf) (s : State), Tab.get s.dev.feeds feed = some f ∧
      (f.clients.find? fun c => c.idx = client) = some cl ∧ Tab.get s.dev.chans cl.chan = some k ∧ Tab.get s.dev.bufs (hIdx k.rxBuf) =
      some b ∧ Tab.get s.dev.syncs (hIdx k.rxSync) = some y ∧ s.dev.syncLive k.rxSync = true ∧ y.canTake 1 = true ∧ 4160 ≤ b.size ∧
      s.dev.rangeFail (b.base + (k.ringPos + b.size / 4160 - y.val % (b.size / 4160)) % (b.size / 4160) * 4160) 80 false false = none ∧
      fld (s.work.readVa (b.base + (k.ringPos + b.size / 4160 - y.val % (b.size / 4160)) % (b.size / 4160) * 4160) 80) 70 2 = 0) ∧
    (∃ (graph va : Nat) (r : ResultRing) (y : Sync) (p : Nat) (s : State), (Tab.get s.dev.graphs graph).bind Graph.ring = some r ∧
      Tab.get s.dev.syncs (hIdx r.pubSync) = some y ∧ s.dev.syncLive r.pubSync = true ∧ r.seen < y.val ∧ s.dev.windowVa r (r.window
      (r.published + 1)) = va ∧ s.dev.access va true true = .ok p ∧ r.overwrite = false ∧ leNat (s.work.readVa (va + 0x18) 8) ≤
      r.winBytes - 64) :=
  ⟨⟨1023, dfeed, { batch0 with st := 1 }, client, creditS 1, by decide +kernel, by decide +kernel, by decide +kernel, by decide +kernel,
     by decide +kernel, by decide +kernel⟩,
   ⟨1023, 15, dfeed, client, _, _, buf, creditS 1, by decide +kernel, by decide +kernel, rfl, by decide +kernel, rfl, by decide +kernel,
     by decide +kernel, by decide +kernel, by decide +kernel, by decide +kernel, by decide +kernel, by decide +kernel, by decide +kernel,
     by decide +kernel, by decide +kernel, by decide +kernel⟩,
   ⟨1023, 15, dfeed, client, _, _, buf, creditS 64, by decide +kernel, by decide +kernel, rfl, by decide +kernel, rfl, by decide +kernel,
     by decide +kernel, by decide +kernel, by decide +kernel, by decide +kernel, by decide +kernel, by decide +kernel, by decide +kernel,
     by decide +kernel, by decide +kernel, by decide +kernel⟩,
   ⟨1023, 15, dfeed, client, _, _, buf, creditS 0, by decide +kernel, by decide +kernel, rfl, by decide +kernel, rfl, by decide +kernel,
     by decide +kernel, by decide +kernel, by decide +kernel, by decide +kernel⟩,
   ⟨255, 0x200000, { ring with nwin := 1 }, { gen := 1, tag := 0, val := 1 }, _, pubS, by decide +kernel, by decide +kernel,
     by decide +kernel, by decide +kernel, by decide +kernel, rfl, by decide +kernel, by decide +kernel⟩⟩

/-- Witnesses of LinkEventsAct. -/
theorem witness_linkEventsAct :
    (∃ (link : Nat) (f : Flit) (s : State), s.dev.linksRun = true ∧ link < 32 ∧ (s.dev.link link).works = true ∧ flitDecode f.bytes =
      none) ∧
    (∃ (link hdr corr : Nat) (f : Flit) (body : List Byte) (s : State), InService s link ∧ flitDecode f.bytes = some (hdr, body, corr) ∧
      bits hdr 4 4 ≤ 3) ∧
    (∃ (link hdr corr : Nat) (f : Flit) (body : List Byte) (s : State), InService s link ∧ flitDecode f.bytes = some (hdr, body, corr) ∧
      3 < bits hdr 4 4) ∧
    (∃ (link : Nat) (s : State), InService s link) ∧
    (∃ (link lane : Nat) (s : State), s.dev.linksRun = true ∧ link < 32 ∧ lane < 5 ∧ (s.dev.link link).works = true) ∧
    (∃ (link lane corrected total : Nat) (s : State), s.dev.linksRun = true ∧ link < 32 ∧ lane < 5 ∧ (s.dev.link link).works = true ∧
      total < corrected * 1000000) ∧
    (∃ (link lane corrected total : Nat) (s : State), s.dev.linksRun = true ∧ link < 32 ∧ lane < 5 ∧ (s.dev.link link).works = true ∧
      corrected * 1000000 ≤ total) ∧
    (∃ (link : Nat) (s : State), s.dev.linksRun = true ∧ link < 32 ∧ (s.dev.link link).works = true ∧ (s.dev.link link).lastFlit +
      1000000 ≤ s.dev.clk.mono ∧ s.dev.isRole (s.dev.link link).logical = true) ∧
    (∃ (link : Nat) (s : State), s.dev.clk.mono < (s.dev.link link).lastFlit + 1000000) ∧
    (∃ (k q t : Nat) (s : State), (s.dev.llink k).spare = some (q, t) ∧ t + 10000000000 ≤ s.dev.clk.mono) ∧
    (∃ (link t : Nat) (s : State), (s.dev.link link).upSince = some t ∧ link < 32 ∧ s.dev.linksRun = true ∧ t + 86400000000000 ≤
      s.dev.clk.mono) :=
  ⟨⟨31, ⟨[]⟩, linkS lnk 0, by decide +kernel, by decide +kernel, by decide +kernel, by decide +kernel⟩,
   ⟨31, flitHeader 0 0 3 0, 0, ⟨flitBytes (flitHeader 0 0 3 0) []⟩, zeros 256, linkS lnk 0, service_of (by decide +kernel),
     by decide +kernel, by decide +kernel⟩,
   ⟨31, flitHeader 0 0 4 0, 0, ⟨flitBytes (flitHeader 0 0 4 0) []⟩, zeros 256, linkS lnk 0, service_of (by decide +kernel),
     by decide +kernel, by decide +kernel⟩,
   ⟨31, linkS lnk 0, service_of (by decide +kernel)⟩,
   ⟨31, 4, linkS lnk 0, by decide +kernel, by decide +kernel, by decide +kernel, by decide +kernel⟩,
   ⟨31, 4, 1, 999999, linkS lnk 0, by decide +kernel, by decide +kernel, by decide +kernel, by decide +kernel, by decide +kernel⟩,
   ⟨31, 4, 1, 1000000, linkS lnk 0, by decide +kernel, by decide +kernel, by decide +kernel, by decide +kernel, by decide +kernel⟩,
   ⟨31, linkS lnk 1000000, by decide +kernel, by decide +kernel, by decide +kernel, by decide +kernel, by decide +kernel⟩,
   ⟨31, linkS { lnk with lastFlit := 7 } 1000006, by decide +kernel⟩,
   ⟨31, 30, 5, later (on { full .ready with llinks := [(31, { spare := some (30, 5) })] }) 10000000005, by decide +kernel,
     by decide +kernel⟩,
   ⟨31, 5, linkS { lnk with upSince := some 5 } 86400000000005, by decide +kernel, by decide +kernel, by decide +kernel,
     by decide +kernel⟩⟩

/-- Witnesses of LinkMessagesAreHandled. -/
theorem witness_linkMessagesAreHandled :
    (∃ (link : Nat) (m : List Byte) (s : State), InService s link ∧ s.dev.hub.st ≠ .updatePause ∧ msgType m = 2) ∧
    (∃ (link : Nat) (m : List Byte) (s : State), InService s link ∧ s.dev.hub.st ≠ .updatePause ∧ msgType m = 3) ∧
    (∃ (link : Nat) (m : List Byte) (s : State), InService s link ∧ s.dev.hub.st ≠ .updatePause ∧ msgType m = 4) ∧
    (∃ (link : Nat) (m : List Byte) (s : State), InService s link ∧ s.dev.hub.st ≠ .updatePause ∧ msgType m = 5) ∧
    (∃ (link : Nat) (m : List Byte) (s : State), InService s link ∧ s.dev.hub.st ≠ .updatePause ∧ msgType m = 6) ∧
    (∃ (link : Nat) (m : List Byte) (s : State), InService s link ∧ s.dev.hub.st ≠ .updatePause ∧ msgType m = 7) ∧
    (∃ (link : Nat) (m : List Byte) (s : State), InService s link ∧ s.dev.hub.st ≠ .updatePause ∧ msgType m = 8) ∧
    (∃ (link : Nat) (s : State), InService s link ∧ s.dev.hub.st = .updatePause) ∧
    (∃ (link : Nat) (s : State), (s.dev.link link).works = false) ∧
    (∃ (link : Nat) (m : List Byte) (s : State), s.dev.linksRun = true ∧ link < 32 ∧ msgType m = 1 ∧ s.dev.hub.st ≠ .updatePause ∧
      s.dev.isRole link = true ∧ (s.dev.link link).logical = link ∧ (s.dev.link link).state ≠ 0) ∧
    (∃ (link : Nat) (m : List Byte) (s : State), s.dev.linksRun = true ∧ link < 32 ∧ msgType m = 1 ∧ s.dev.hub.st ≠ .updatePause ∧
      s.dev.isRole link = false ∧ (s.dev.link link).role = 4 ∧ (s.dev.link link).works = true) :=
  ⟨⟨31, [2], linkS lnk 0, service_of (by decide +kernel), by decide +kernel, by decide +kernel⟩,
   ⟨31, [3], linkS lnk 0, service_of (by decide +kernel), by decide +kernel, by decide +kernel⟩,
   ⟨31, [4], linkS lnk 0, service_of (by decide +kernel), by decide +kernel, by decide +kernel⟩,
   ⟨31, [5], linkS lnk 0, service_of (by decide +kernel), by decide +kernel, by decide +kernel⟩,
   ⟨31, [6], linkS lnk 0, service_of (by decide +kernel), by decide +kernel, by decide +kernel⟩,
   ⟨31, [7], linkS lnk 0, service_of (by decide +kernel), by decide +kernel, by decide +kernel⟩,
   ⟨31, [8], linkS lnk 0, service_of (by decide +kernel), by decide +kernel, by decide +kernel⟩,
   ⟨31, pausedS, service_of (by decide +kernel), by decide +kernel⟩,
   ⟨31, linkS { lnk with state := 5 } 0, by decide +kernel⟩,
   ⟨31, [1], linkS { lnk with state := 6 } 0, by decide +kernel, by decide +kernel, by decide +kernel, by decide +kernel,
     by decide +kernel, by decide +kernel, by decide +kernel⟩,
   ⟨31, [1], linkS { lnk with role := 4 } 0, by decide +kernel, by decide +kernel, by decide +kernel, by decide +kernel,
     by decide +kernel, by decide +kernel, by decide +kernel⟩⟩

/-- Witnesses of GroupEventsAct. -/
theorem witness_groupEventsAct :
    (∃ (g : FGroup) (s : State), s.dev.sys.group = some g ∧ s.dev.linksRun = true ∧ s.dev.hub.st ≠ .updatePause) ∧
    (∃ (s : State), s.dev.sys.group = none) ∧
    (∃ (g : FGroup) (s : State), s.dev.sys.group = some g ∧ s.dev.linksRun = true ∧ g.reports ≠ [] ∧ g.boundary + 10000000 ≤
      s.dev.clk.now ∧ g.members ≤ g.reports.length ∧ (g.reports.foldl (fun m r => min m r.2) g.freqMin) < s.dev.pwr.step) ∧
    (∃ (g : FGroup) (s : State), s.dev.sys.group = some g ∧ s.dev.linksRun = true ∧ g.reports ≠ [] ∧ g.boundary + 10000000 ≤
      s.dev.clk.now ∧ g.members ≤ g.reports.length ∧ s.dev.pwr.step < (g.reports.foldl (fun m r => min m r.2) g.freqMin)) ∧
    (∃ (g : FGroup) (s : State), s.dev.sys.group = some g ∧ s.dev.linksRun = true ∧ g.reports ≠ [] ∧ g.boundary + 10000000 ≤
      s.dev.clk.now ∧ g.members ≤ g.reports.length ∧ (g.reports.foldl (fun m r => min m r.2) g.freqMin) = s.dev.pwr.step) ∧
    (∃ (s : State) (p : Nat) (l : Link), s.dev.linksRun = true ∧ (p, l) ∈ s.dev.links ∧ (l.state = 2 ∨ l.state = 3)) ∧
    (∃ (link : Nat) (m : List Byte) (g : FGroup) (s : State), InService s link ∧ s.dev.hub.st ≠ .updatePause ∧ msgType m = 3 ∧
      s.dev.acceptsFlood m = true ∧ (s.work.acceptFlood link m).dev.sys.group = some g ∧ g.id = msgGroup m ∧ fld (msgBody m) 0 1 <
      (s.work.acceptFlood link m).dev.pwr.step) :=
  ⟨⟨group 9, groupS 9 0, by decide +kernel, by decide +kernel, by decide +kernel⟩,
   ⟨on (full .ready), by decide +kernel⟩,
   ⟨group 9, groupS 9 10, by decide +kernel, by decide +kernel, by decide +kernel, by decide +kernel, by decide +kernel,
     by decide +kernel⟩,
   ⟨group 9, groupS 9 8, by decide +kernel, by decide +kernel, by decide +kernel, by decide +kernel, by decide +kernel,
     by decide +kernel⟩,
   ⟨group 9, groupS 9 9, by decide +kernel, by decide +kernel, by decide +kernel, by decide +kernel, by decide +kernel,
     by decide +kernel⟩,
   ⟨linkS { lnk with state := 3 } 0, 31, { lnk with state := 3 }, by decide +kernel, by decide +kernel, by decide +kernel⟩,
   ⟨31, [3, 0, 1, 0, 5, 0, 0, 0, 1, 0, 0, 0, 17], group 9, groupS 9 18, service_of (by decide +kernel), by decide +kernel,
     by decide +kernel, by decide +kernel, by decide +kernel, by decide +kernel, by decide +kernel⟩⟩

/-- Witnesses of PowerLoopsAct. -/
theorem witness_powerLoopsAct :
    (∃ (ma : Nat) (s : State), s.dev.hub.st ≠ .off ∧ s.dev.hub.rails = true ∧ 102500 < ma) ∧
    (∃ (s : State), s.dev.hub.st ≠ .off ∧ s.dev.hub.rails = false) ∧
    (∃ (s : State), s.dev.hub.rails = true ∧ ((s.dev.gauge : Nat) : Rat) < s.dev.pwr.gaugePower ∧ s.dev.pwr.lastDown = none) ∧
    (∃ (t : Nat) (s : State), s.dev.pwr.zeroSince = some t ∧ t + 100000000 ≤ s.dev.clk.mono ∧ s.dev.pwr.gaugeUnreached = false ∧
      s.dev.hub.rails = true) ∧
    (∃ (s : State), s.dev.pwr.zeroSince = none) ∧
    (∃ (sensors hbm : List Int) (s : State), s.dev.hub.rails = true ∧ sensors.length = 260 ∧ hbm.length = 24 ∧ s.dev.pwr.thermDown = none
      ∧ s.dev.pwr.targets.2 < (hottest hbm).2) ∧
    (∃ (t : Int) (s : State), s.dev.hub.st ≠ .off ∧ s.dev.pin.flowOk = true ∧ s.dev.pin.flowHighAt = none ∧ t ≤ 450) ∧
    (∃ (t : Int) (n : Nat) (s : State), s.dev.hub.st ≠ .off ∧ s.dev.pin.flowOk = true ∧ s.dev.pin.flowHighAt = none ∧ 450 + 10 * (n :
      Int) < t ∧ t ≤ 460 + 10 * (n : Int)) ∧
    (∃ (t : Int) (n : Nat) (s : State), s.dev.hub.st ≠ .off ∧ s.dev.pin.flowOk = true ∧ s.dev.pin.flowHighAt = none ∧ 450 + 10 * (n :
      Int) < t ∧ t ≤ 460 + 10 * (n : Int)) ∧
    (∃ (t : Int) (n : Nat) (s : State), s.dev.hub.st ≠ .off ∧ s.dev.pin.flowOk = true ∧ s.dev.pin.flowHighAt = none ∧ 450 + 10 * (n :
      Int) < t ∧ t ≤ 460 + 10 * (n : Int)) ∧
    (∃ (t : Int) (n : Nat) (s : State), s.dev.hub.st ≠ .off ∧ s.dev.pin.flowOk = true ∧ s.dev.pin.flowHighAt = none ∧ 450 + 10 * (n :
      Int) < t ∧ t ≤ 460 + 10 * (n : Int)) ∧
    (∃ (die t : Nat) (ds : List Nat) (s : State), s.dev.pwr.raise = some (t, ds) ∧ die < 4 ∧ die ∉ ds ∧ ds.length ≠ 3) ∧
    (∃ (die t : Nat) (ds : List Nat) (s : State), s.dev.pwr.raise = some (t, ds) ∧ die < 4 ∧ die ∉ ds ∧ ds.length = 3) ∧
    (∃ (core mv : Nat) (s : State), core < 256 ∧ s.dev.hub.rails = true ∧ 30 ≤ mv) ∧
    (∃ (core mv : Nat) (s : State), core < 256 ∧ s.dev.hub.rails = true ∧ 30 ≤ mv) ∧
    (∃ (core mv : Nat) (s : State), core < 256 ∧ s.dev.hub.rails = true ∧ 30 ≤ mv) ∧
    (∃ mv : Nat, mv < 30) ∧
    (∃ (core : Nat) (s : State), core < 256 ∧ (s.dev.core core).droop ≠ 0 ∧ (s.dev.core core).droopAt + 1000 ≤ s.dev.clk.mono) :=
  ⟨⟨102501, on (full .ready), by decide +kernel, by decide +kernel, by decide +kernel⟩,
   ⟨on (full .standby), by decide +kernel, by decide +kernel⟩,
   ⟨on { full .ready with pwr := { capSet := 1200, estTicks := [(1201000000, 0)] } }, by decide +kernel, by decide +kernel,
     by decide +kernel⟩,
   ⟨5, later (on { full .ready with pwr := { zeroSince := some 5 } }) 100000005, by decide +kernel, by decide +kernel, by decide +kernel,
     by decide +kernel⟩,
   ⟨on (full .ready), by decide +kernel⟩,
   ⟨List.replicate 260 250, List.replicate 23 250 ++ [901], on (full .ready), by decide +kernel, by decide +kernel, by decide +kernel,
     by decide +kernel, by decide +kernel⟩,
   ⟨450, hub .ready id fun p => { p with flowOk := true }, by decide +kernel, by decide +kernel, by decide +kernel, by decide +kernel⟩,
   ⟨451, 0, hub .ready id fun p => { p with flowOk := true }, by decide +kernel, by decide +kernel, by decide +kernel, by decide +kernel,
     by decide +kernel⟩,
   ⟨460, 0, hub .ready id fun p => { p with flowOk := true }, by decide +kernel, by decide +kernel, by decide +kernel, by decide +kernel,
     by decide +kernel⟩,
   ⟨461, 1, hub .ready id fun p => { p with flowOk := true }, by decide +kernel, by decide +kernel, by decide +kernel, by decide +kernel,
     by decide +kernel⟩,
   ⟨530, 7, hub .ready id fun p => { p with flowOk := true }, by decide +kernel, by decide +kernel, by decide +kernel, by decide +kernel,
     by decide +kernel⟩,
   ⟨3, 5, [0, 1], on { full .ready with pwr := { raise := some (5, [0, 1]) } }, by decide +kernel, by decide +kernel, by decide +kernel,
     by decide +kernel⟩,
   ⟨3, 18, [0, 1, 2], on { full .ready with pwr := { raise := some (18, [0, 1, 2]) } }, by decide +kernel, by decide +kernel,
     by decide +kernel, by decide +kernel⟩,
   ⟨255, 30, on (full .ready), by decide +kernel, by decide +kernel, by decide +kernel⟩,
   ⟨255, 49, on (full .ready), by decide +kernel, by decide +kernel, by decide +kernel⟩,
   ⟨255, 50, on (full .ready), by decide +kernel, by decide +kernel, by decide +kernel⟩,
   ⟨29, by decide +kernel⟩,
   ⟨255, later (on { full .ready with cores := [(255, { droop := 2, droopAt := 5 })] }) 1005, by decide +kernel, by decide +kernel,
     by decide +kernel⟩⟩

/-- Witnesses of EnergyAndTelemetryAct. -/
theorem witness_energyAndTelemetryAct :
    (∃ s : State, s.dev.hub.st ≠ .off) ∧
    (∃ s : State, s.dev.hub.st ≠ .off) ∧
    (∃ (die : Nat) (margin : Int) (s : State), die < 4 ∧ s.dev.hub.st = .ready ∧ margin < 40 ∧ s.dev.pwr.trimNext = none ∧
      s.dev.pwr.trim.getD die 0 < 12) ∧
    (∃ margin : Int, 40 ≤ margin) ∧
    (∃ (s : State), s.dev.hub.st ≠ .off) :=
  ⟨⟨on (full .standby), by decide +kernel⟩,
   ⟨on (full .standby), by decide +kernel⟩,
   ⟨3, 39, on { full .ready with pwr := { trim := [0, 0, 0, 11] } }, by decide +kernel, by decide +kernel, by decide +kernel,
     by decide +kernel, by decide +kernel⟩,
   ⟨40, by decide +kernel⟩,
   ⟨on (full .standby), by decide +kernel⟩⟩

/-- Witnesses of HubAndStoreEventsAct. -/
theorem witness_hubAndStoreEventsAct :
    (∃ (s : State), s.dev.hub.st ≠ .off ∧ s.dev.hub.lastUe = none) ∧
    (∃ (t : Nat) (s : State), s.dev.hub.st ≠ .off ∧ s.dev.hub.lastUe = some t ∧ s.dev.clk.mono < t + 86400000000000) ∧
    (∃ (seg dir n : Nat) (ts : List Nat) (s : State), s.dev.hub.st ≠ .off ∧ seg < 5 ∧ dir < 2 ∧ Tab.getD s.dev.hub.ring (2 * seg + dir)
      (0, []) = (n, ts) ∧ n < 15) ∧
    (∃ (seg dir n : Nat) (ts : List Nat) (s : State), s.dev.hub.st ≠ .off ∧ seg < 5 ∧ dir < 2 ∧ Tab.getD s.dev.hub.ring (2 * seg + dir)
      (0, []) = (n, ts) ∧ 15 ≤ n ∧ (s.dev.clk.mono :: ts.filter fun t => s.dev.clk.mono < t + 1000000000).length < 3) ∧
    (∃ (seg dir n : Nat) (ts : List Nat) (s : State), s.dev.hub.st ≠ .off ∧ seg < 5 ∧ dir < 2 ∧ Tab.getD s.dev.hub.ring (2 * seg + dir)
      (0, []) = (n, ts) ∧ 15 ≤ n ∧ 3 ≤ (s.dev.clk.mono :: ts.filter fun t => s.dev.clk.mono < t + 1000000000).length) ∧
    (∃ (seg dir n : Nat) (ts : List Nat) (s : State), s.dev.hub.st ≠ .off ∧ seg < 5 ∧ dir < 2 ∧ Tab.getD s.dev.hub.ring (2 * seg + dir)
      (0, []) = (n, ts) ∧ 15 ≤ n ∧ (s.dev.clk.mono :: ts.filter fun t => s.dev.clk.mono < t + 1000000000).length < 3) ∧
    (∃ (rail : Nat) (s : State), s.dev.hub.st ≠ .off ∧ rail ∉ s.dev.hub.regFault ∧ rail < 4) ∧
    (∃ (rail : Nat) (s : State), s.dev.hub.st ≠ .off ∧ rail ∉ s.dev.hub.regFault ∧ 4 ≤ rail ∧ rail ≤ 10) ∧
    (∃ (rail : Nat) (s : State), s.dev.hub.st ≠ .off ∧ rail ∉ s.dev.hub.regFault ∧ 4 ≤ rail ∧ rail ≤ 10) ∧
    (∃ s : State, s.dev.hub.st ≠ .off) ∧
    (∃ (s : State), s.dev.hub.st ≠ .off ∧ s.dev.clk.now % 1000000000 = 0) ∧
    (∃ s : State, s.dev.hub.st ≠ .off) ∧
    (∃ s : State, s.dev.hub.st ≠ .off ∧ s.dev.store.fa.ok = true ∧ s.dev.store.fa.tail ≠ s.dev.store.fa.head) ∧
    (∃ (s : State), s.dev.hub.st ≠ .off ∧ s.dev.store.lastSnap + 86400000000000 ≤ s.dev.clk.mono) ∧
    (∃ (s : State), s.dev.hub.st ≠ .off) :=
  ⟨⟨on (full .standby), by decide +kernel, by decide +kernel⟩,
   ⟨5, later (on { full .ready with hub := { (full .ready).hub with lastUe := some 5 } }) 86400000000004, by decide +kernel,
     by decide +kernel, by decide +kernel⟩,
   ⟨4, 1, 14, [], later (on { full .ready with hub := { (full .ready).hub with ring := [(9, (14, []))] } }) 2000000000,
     by decide +kernel, by decide +kernel, by decide +kernel, by decide +kernel, by decide +kernel⟩,
   ⟨4, 1, 15, [1500000000], later (on { full .ready with hub := { (full .ready).hub with ring := [(9, (15, [1500000000]))] } })
     2000000000, by decide +kernel, by decide +kernel, by decide +kernel, by decide +kernel, by decide +kernel, by decide +kernel⟩,
   ⟨4, 1, 15, [1000000001, 1000000001], later (on
     { full .ready with hub := { (full .ready).hub with ring := [(9, (15, [1000000001, 1000000001]))] } }) 2000000000, by decide +kernel,
     by decide +kernel, by decide +kernel, by decide +kernel, by decide +kernel, by decide +kernel⟩,
   ⟨4, 1, 15, [1000000000, 1000000000], later (on
     { full .ready with hub := { (full .ready).hub with ring := [(9, (15, [1000000000, 1000000000]))] } }) 2000000000, by decide +kernel,
     by decide +kernel, by decide +kernel, by decide +kernel, by decide +kernel, by decide +kernel⟩,
   ⟨3, on (full .standby), by decide +kernel, by decide +kernel, by decide +kernel⟩,
   ⟨4, on (full .standby), by decide +kernel, by decide +kernel, by decide +kernel, by decide +kernel⟩,
   ⟨10, on (full .standby), by decide +kernel, by decide +kernel, by decide +kernel, by decide +kernel⟩,
   ⟨on (full .standby), by decide +kernel⟩,
   ⟨on { full .standby with clk := { now := 1000000000 } }, by decide +kernel, by decide +kernel⟩,
   ⟨on (full .standby), by decide +kernel⟩,
   ⟨on { full .ready with store := { fa := { tail := 1023 } } }, by decide +kernel, by decide +kernel, by decide +kernel⟩,
   ⟨later (on (full .ready)) 86400000000000, by decide +kernel, by decide +kernel⟩,
   ⟨on (full .standby), by decide +kernel⟩⟩

/-- Witnesses of ConsoleReadingsAnswer. -/
theorem witness_consoleReadingsAnswer :
    (∃ (s : State), s.dev.consoleUp = true) ∧
    (∃ (s : State), s.dev.consoleUp = true ∧ s.dev.svc.rom = false) ∧
    (∃ (sev : Nat) (s : State), s.dev.consoleUp = true ∧ s.dev.svc.rom = false ∧ sev ≤ 3) ∧
    (∃ (sev : Nat) (s : State), s.dev.consoleUp = true ∧ s.dev.svc.rom = false ∧ 3 < sev) ∧
    (∃ (addr : Word) (count : Nat) (s : State), s.dev.consoleUp = true ∧ s.dev.svc.rom = false ∧ count ≠ 0 ∧ count ≤ 256 ∧ rangeOk
      addr.toNat count = true ∧ s.dev.regUp addr.toNat = true) ∧
    (∃ (addr : Word) (count : Nat) (s : State), s.dev.consoleUp = true ∧ s.dev.svc.rom = false ∧ count ≠ 0 ∧ count ≤ 256 ∧ rangeOk
      addr.toNat count = true ∧ s.dev.regUp addr.toNat = true) ∧
    (∃ (line : List Byte) (s : State), s.dev.consoleUp = true ∧ s.dev.svc.rom = false ∧ line ≠ [] ∧ line.length ≤ 255 ∧
      consoleWords.contains (firstWord line) = false ∧ lineText line ≠ "help") ∧
    (∃ (line : List Byte) (s : State), s.dev.consoleUp = true ∧ 255 < line.length) ∧
    (∃ (line : List Byte) (s : State), s.dev.consoleUp = true ∧ s.dev.svc.rom = true ∧ line ≠ [] ∧ line.length ≤ 255 ∧ lineText line =
      "id") ∧
    (∃ (line : List Byte) (s : State), s.dev.consoleUp = true ∧ s.dev.svc.rom = true ∧ line ≠ [] ∧ line.length ≤ 255 ∧ lineText line =
      "status") ∧
    (∃ (line : List Byte) (s : State), s.dev.consoleUp = true ∧ s.dev.svc.rom = true ∧ line ≠ [] ∧ line.length ≤ 255 ∧ lineText line =
      "ladder") ∧
    (∃ (line : List Byte) (s : State), s.dev.consoleUp = true ∧ s.dev.svc.rom = true ∧ line ≠ [] ∧ line.length ≤ 255 ∧ lineText line ∉
      ["id", "status", "ladder"]) ∧
    (∃ s : State, s.dev.svc.rom = false) :=
  ⟨⟨romS, by decide +kernel⟩,
   ⟨on (full .failed), by decide +kernel, by decide +kernel⟩,
   ⟨3, on (full .failed), by decide +kernel, by decide +kernel, by decide +kernel⟩,
   ⟨4, on (full .failed), by decide +kernel, by decide +kernel, by decide +kernel⟩,
   ⟨0x10, 1, on (full .failed), by decide +kernel, by decide +kernel, by decide +kernel, by decide +kernel, by decide +kernel,
     by decide +kernel⟩,
   ⟨0x400, 256, on (full .ready), by decide +kernel, by decide +kernel, by decide +kernel, by decide +kernel, by decide +kernel,
     by decide +kernel⟩,
   ⟨ascii "help me", on (full .failed), by decide +kernel, by decide +kernel, by decide +kernel, by decide +kernel, by decide +kernel,
     by decide +kernel⟩,
   ⟨List.replicate 256 0x61, on (full .failed), by decide +kernel, by decide +kernel⟩,
   ⟨ascii "id", romS, by decide +kernel, by decide +kernel, by decide +kernel, by decide +kernel, by decide +kernel⟩,
   ⟨ascii "status", romS, by decide +kernel, by decide +kernel, by decide +kernel, by decide +kernel, by decide +kernel⟩,
   ⟨ascii "ladder", romS, by decide +kernel, by decide +kernel, by decide +kernel, by decide +kernel, by decide +kernel⟩,
   ⟨ascii "tp", romS, by decide +kernel, by decide +kernel, by decide +kernel, by decide +kernel, by decide +kernel⟩,
   ⟨on (full .failed), by decide +kernel⟩⟩

/-- Witnesses of ConsoleCommandsAct. -/
theorem witness_consoleCommandsAct :
    (∃ (s : State), s.dev.consoleUp = true ∧ s.dev.svc.rom = false) ∧
    (∃ (rate : Nat) (s : State), s.dev.consoleUp = true ∧ s.dev.svc.rom = false ∧ rate ∈ [115200, 460800, 921600, 1500000, 3000000]) ∧
    (∃ (rate : Nat) (s : State), s.dev.consoleUp = true ∧ s.dev.svc.rom = false ∧ rate ∉ [115200, 460800, 921600, 1500000, 3000000]) ∧
    (∃ (s : State), s.dev.consoleUp = true ∧ s.dev.svc.rom = false ∧ mayEnterService s.dev.hub.st = true) ∧
    (∃ (s : State), s.dev.consoleUp = true ∧ s.dev.svc.rom = false ∧ mayEnterService s.dev.hub.st = false) ∧
    (∃ (die : Nat) (s : State), s.dev.consoleUp = true ∧ s.dev.svc.rom = false ∧ mayResetDie s.dev.hub.st = true ∧ die < 4) ∧
    (∃ (die : Nat) (s : State), s.dev.consoleUp = true ∧ s.dev.svc.rom = false ∧ mayResetDie s.dev.hub.st = true ∧ 3 < die) ∧
    (∃ s : State, s.dev.consoleUp = true ∧ s.dev.svc.rom = false ∧ s.dev.hub.st = .service ∧ s.dev.pin.serviceMode = false) ∧
    (∃ s : State, s.dev.consoleUp = true ∧ s.dev.svc.rom = false ∧ s.dev.hub.st = .service ∧ s.dev.pin.serviceMode = true) ∧
    (∃ (arg : DWord) (s : State), s.dev.consoleUp = true ∧ s.dev.svc.rom = false ∧ s.dev.hub.st = .service ∧ s.dev.pin.serviceMode = true
      ∧ arg.toNat = s.dev.fuse.serial ∧ s.dev.fuse.sealCount < 32) ∧
    (∃ s : State, s.dev.consoleUp = true ∧ s.dev.svc.rom = false ∧ s.dev.hub.st = .service ∧ s.dev.pin.serviceMode = false) ∧
    (∃ (step : Nat) (s : State), s.dev.consoleUp = true ∧ s.dev.svc.rom = false ∧ s.dev.hub.st = .service ∧ step ≤ 18) ∧
    (∃ (island step : Nat) (s : State), s.dev.consoleUp = true ∧ s.dev.svc.rom = false ∧ s.dev.hub.st = .service ∧ step ≤ 18 ∧ island <
      256) ∧
    (∃ (island step : Nat) (s : State), s.dev.consoleUp = true ∧ s.dev.svc.rom = false ∧ s.dev.hub.st = .service ∧ step ≤ 18 ∧ 256 ≤
      island ∧ island < 260) ∧
    (∃ (island step : Nat) (s : State), s.dev.consoleUp = true ∧ s.dev.svc.rom = false ∧ s.dev.hub.st = .service ∧ step ≤ 18 ∧ 256 ≤
      island ∧ island < 260) ∧
    (∃ (addr : Word) (s : State), s.dev.consoleUp = true ∧ s.dev.svc.rom = false ∧ s.dev.hub.st = .service ∧ s.dev.svc.unsealed = true ∧
      s.dev.regUp addr.toNat = true ∧ rangeOk addr.toNat 1 = true) ∧
    (∃ s : State, s.dev.consoleUp = true ∧ s.dev.svc.rom = false ∧ s.dev.hub.st = .service ∧ s.dev.svc.unsealed = false) ∧
    (∃ (mask : DWord) (s : State), s.dev.consoleUp = true ∧ s.dev.svc.rom = false ∧ s.dev.hub.st = .service ∧ mask.toNat < 2 ^ 40 ∧
      s.dev.cmds = [] ∧ s.dev.swatchConflict mask.toNat = false) ∧
    (∃ (op : BitVec 16) (s : State), s.dev.consoleUp = true ∧ s.dev.svc.rom = false ∧ specOf op.toNat = none) ∧
    (∃ (op : BitVec 16) (sp : OpSpec) (s : State), s.dev.consoleUp = true ∧ s.dev.svc.rom = false ∧ specOf op.toNat = some sp ∧ sp.set ≠
      .stat) ∧
    (∃ (op : BitVec 16) (target : Word) (ps : List Byte) (sp : OpSpec) (r : Reply) (w : W) (s : State), s.dev.consoleUp = true ∧
      s.dev.svc.rom = false ∧ specOf op.toNat = some sp ∧ sp.set = .stat ∧ (s.typed ("cmd " ++ hexW 4 op.toNat ++ " " ++ hexBytes (toLe 4
      target.toNat ++ ps))).packetReply sp target.toNat ps = (some r, w)) :=
  ⟨⟨on (full .failed), by decide +kernel, by decide +kernel⟩,
   ⟨3000000, on (full .failed), by decide +kernel, by decide +kernel, by decide +kernel⟩,
   ⟨9600, on (full .failed), by decide +kernel, by decide +kernel, by decide +kernel⟩,
   ⟨on (full .fault), by decide +kernel, by decide +kernel, by decide +kernel⟩,
   ⟨on (full .init), by decide +kernel, by decide +kernel, by decide +kernel⟩,
   ⟨3, on (full .fault), by decide +kernel, by decide +kernel, by decide +kernel, by decide +kernel⟩,
   ⟨4, on (full .fault), by decide +kernel, by decide +kernel, by decide +kernel, by decide +kernel⟩,
   ⟨svcS false false, by decide +kernel, by decide +kernel, by decide +kernel, by decide +kernel⟩,
   ⟨svcS true false, by decide +kernel, by decide +kernel, by decide +kernel, by decide +kernel⟩,
   ⟨0xFFFFFFFFFFFFFFFF, svcS true false, by decide +kernel, by decide +kernel, by decide +kernel, by decide +kernel, by decide +kernel,
     by decide +kernel⟩,
   ⟨svcS false false, by decide +kernel, by decide +kernel, by decide +kernel, by decide +kernel⟩,
   ⟨18, svcS true false, by decide +kernel, by decide +kernel, by decide +kernel, by decide +kernel⟩,
   ⟨255, 18, svcS true false, by decide +kernel, by decide +kernel, by decide +kernel, by decide +kernel, by decide +kernel⟩,
   ⟨256, 18, svcS true false, by decide +kernel, by decide +kernel, by decide +kernel, by decide +kernel, by decide +kernel,
     by decide +kernel⟩,
   ⟨259, 18, svcS true false, by decide +kernel, by decide +kernel, by decide +kernel, by decide +kernel, by decide +kernel,
     by decide +kernel⟩,
   ⟨0x4100000, svcS true true, by decide +kernel, by decide +kernel, by decide +kernel, by decide +kernel, by decide +kernel,
     by decide +kernel⟩,
   ⟨svcS true false, by decide +kernel, by decide +kernel, by decide +kernel, by decide +kernel⟩,
   ⟨0x8000000000, svcS true false, by decide +kernel, by decide +kernel, by decide +kernel, by decide +kernel, by decide +kernel,
     by decide +kernel⟩,
   ⟨0xFFFF, on (full .failed), by decide +kernel, by decide +kernel, rfl⟩,
   ⟨3, deviceStart, on (full .failed), by decide +kernel, by decide +kernel, rfl, by decide +kernel⟩,
   ⟨2, 0, [], deviceStatus, _, _, on (full .failed), by decide +kernel, by decide +kernel, rfl, by decide +kernel, rfl⟩⟩

/-- Witnesses of StepRunsTheFrontCommand. -/
theorem witness_stepRunsTheFrontCommand :
    (∃ (s : State) (c : Instr) (rest : List Instr), s.pending = c :: rest) :=
  ⟨{ on (full .ready) with pending := [.resetNRelease] }, .resetNRelease, [], by decide +kernel⟩

/-- Witnesses of AnIdleStepPassesTime. -/
theorem witness_anIdleStepPassesTime :
    (∃ (s : State), s.pending = []) ∧
    (∃ (s : State), s.pending = [] ∧ s.dev.hub.st = .off) ∧
    (∃ (s : State), s.pending = [] ∧ s.dev.hub.st ≠ .off ∧ s.dev.fw.relays = []) ∧
    (∃ (d : Dev), d.hub.rails = false) :=
  ⟨⟨on (full .ready), by decide +kernel⟩,
   ⟨off id, by decide +kernel, by decide +kernel⟩,
   ⟨on (full .ready), by decide +kernel, by decide +kernel, by decide +kernel⟩,
   ⟨(full .standby), by decide +kernel⟩⟩

/-- Witnesses of HubDevStateReportsTheState. -/
theorem witness_hubDevStateReportsTheState :
    (∃ (w : W), w.dev.hub.prev < 10 ∧ w.dev.runningTags < 256) :=
  ⟨(on { full .running with hub := { st := .running, prev := 9 } }).work, by decide +kernel, by decide +kernel⟩

/-- Witnesses of EveryStepKeepsMemoryCanonical. -/
theorem witness_everyStepKeepsMemoryCanonical :
    (∃ (s t : State), s.Inv ∧ step s = .next t) :=
  ⟨on (full .ready), _, rfl, rfl⟩

/-- Witnesses of MemoryReadsBackWhatIsWritten. -/
theorem witness_memoryReadsBackWhatIsWritten :
    (∃ (m : Mem) (ops : List MemOp), m.wf = true ∧ (∀ o ∈ ops, o.Apart)) ∧
    (∃ (m : Mem) (ops : List MemOp), m.wf = true ∧ (∀ o ∈ ops, o.Apart)) :=
  ⟨⟨{ cells := [(1, 2), (63, 255)], poison := [64] }, [.put 62 [1, 2, 0], .mark 63 2, .clean 0 64, .clear 0 2], by decide +kernel,
     by simp [MemOp.Apart]⟩,
   ⟨{}, [.move 0 64 64, .move 64 64 128], by decide +kernel, by simp [MemOp.Apart]⟩⟩

/-- Witnesses of PacketChecksDecideInOrder. -/
theorem witness_packetChecksDecideInOrder :
    (∃ (i : Instr) (sp : OpSpec) (ch : Nat) (p : Packet) (s : State) (c : Chan), packetOf i = some (sp, ch, p) ∧ Open s ch c ∧
      p.hdr.magic ≠ 0x5356) ∧
    (∃ (i : Instr) (sp : OpSpec) (ch : Nat) (p : Packet) (s : State) (c : Chan), packetOf i = some (sp, ch, p) ∧ Open s ch c ∧
      p.hdr.magic = 0x5356 ∧ crc32c (packetCrcBytes p sp.op) ≠ p.hdr.hdrCrc.toNat) ∧
    (∃ (i : Instr) (sp : OpSpec) (ch : Nat) (p : Packet) (s : State) (c : Chan) (off : Nat), packetOf i = some (sp, ch, p) ∧ Open s ch c
      ∧ Intact sp.op p ∧ headerBad p = some off) ∧
    (∃ (i : Instr) (sp : OpSpec) (ch : Nat) (p : Packet) (s : State) (c : Chan) (x : Nat), packetOf i = some (sp, ch, p) ∧ Open s ch c ∧
      Intact sp.op p ∧ headerBad p = none ∧ c.expSeq = some x ∧ x ≠ p.hdr.seq.toNat) :=
  ⟨⟨.nop 0 (pktOf { hdr 0 0 0 0 with magic := 0 }), nop, 0, pktOf { hdr 0 0 0 0 with magic := 0 }, on (full .ready), chan, rfl,
     open_of (by decide +kernel), by decide +kernel⟩,
   ⟨.nop 0 (pktOf { hdr 0 0 0 0 with hdrCrc := 0 }), nop, 0, pktOf { hdr 0 0 0 0 with hdrCrc := 0 }, on (full .ready), chan, rfl,
     open_of (by decide +kernel), by decide +kernel, by decide +kernel⟩,
   ⟨.nop 0 (verPkt), nop, 0, verPkt, on (full .ready), chan, _, rfl, open_of (by decide +kernel), intact_of (by decide +kernel), rfl⟩,
   ⟨.nop 0 (seqPkt), nop, 0, seqPkt, on (full .ready), chan, 7, rfl, open_of (by decide +kernel), intact_of (by decide +kernel),
     by decide +kernel, by decide +kernel, by decide +kernel⟩⟩

/-- Witnesses of ExpectedSeqAdvances. -/
theorem witness_expectedSeqAdvances :
    (∃ (op ch : Nat) (p : Packet) (s : State) (c : Chan), Open s ch c ∧ Intact op p ∧ headerBad p = none ∧ c.expSeq = none) ∧
    (∃ (s : State) (ch : Nat) (c : Chan) (x : Nat), Open s ch c ∧ c.expSeq = some x) ∧
    (∃ (op ch : Nat) (p : Packet) (s : State) (c : Chan), Sound op ch p s c) ∧
    (∃ (i : Instr) (sp : OpSpec) (ch : Nat) (p : Packet) (s : State) (c : Chan), packetOf i = some (sp, ch, p) ∧ Open s ch c ∧ ¬ Sound
      sp.op ch p s c) :=
  ⟨⟨0, 0, pkt 0 0 0 [], on { full .ready with chans := [(0, { chan with expSeq := none })] }, { chan with expSeq := none },
     open_of (by decide +kernel), intact_of (by decide +kernel), by decide +kernel, by decide +kernel⟩,
   ⟨on (full .ready), 0, chan, 7, open_of (by decide +kernel), by decide +kernel⟩,
   ⟨0, 0, pkt 0 0 0 [], on (full .ready), chan, sound_of (by decide +kernel)⟩,
   ⟨.nop 0 seqPkt, nop, 0, seqPkt, on (full .ready), chan, rfl, open_of (by decide +kernel), fun h => absurd h.seq (by decide +kernel)⟩⟩

/-- Witnesses of RepliesRepeatTheHeader. -/
theorem witness_repliesRepeatTheHeader :
    (∃ (r : Reply), r.hdr.reserved.length = 43) ∧
    (∃ h : Header, ackReq h = false) :=
  ⟨⟨⟨hdr 3 0 0 0, 3, 0, 0, 0, []⟩, by decide +kernel⟩,
   ⟨{ hdr 0 0 0 0 with flags := 0 }, by decide +kernel⟩⟩

/-- Witnesses of WakingFollowsR288. -/
theorem witness_wakingFollowsR288 :
    (∃ (w : W) (obj : Nat) (s : Sync), Tab.get w.dev.syncs obj = some s) :=
  ⟨(on
     { full .ready with syncs := [(8191, { gen := 1, tag := 0, val := 5, takers := [(.task 0 0, 5), (.task 0 1, 1)], reachers := [(.task 0 2, 5)] })] }).work,
     8191, { gen := 1, tag := 0, val := 5, takers := [(.task 0 0, 5), (.task 0 1, 1)], reachers := [(.task 0 2, 5)] }, by decide +kernel⟩

/-- Witnesses of SyncOperationsChangeTheValue. -/
theorem witness_syncOperationsChangeTheValue :
    (∃ (w : W) (obj : Nat) (s : Sync) (a : Nat), Tab.get w.dev.syncs obj = some s ∧ s.takers = [] ∧ s.reachers = [] ∧ a ≤ s.val) ∧
    (∃ (w : W) (obj : Nat) (s : Sync) (a : Nat), Tab.get w.dev.syncs obj = some s ∧ s.takers = [] ∧ s.reachers = [] ∧ s.val < a) ∧
    (∃ (w : W) (obj : Nat) (s : Sync) (a : Nat), Tab.get w.dev.syncs obj = some s ∧ s.takers = [] ∧ s.reachers = [] ∧ 2 ^ 64 - 1 < s.val
      + a) :=
  ⟨⟨(on { full .ready with syncs := [(8191, { gen := 1, tag := 0, val := 5 })] }).work, 8191, { gen := 1, tag := 0, val := 5 }, 5,
     by decide +kernel, by decide +kernel, by decide +kernel, by decide +kernel⟩,
   ⟨(on { full .ready with syncs := [(8191, { gen := 1, tag := 0, val := 5 })] }).work, 8191, { gen := 1, tag := 0, val := 5 }, 6,
     by decide +kernel, by decide +kernel, by decide +kernel, by decide +kernel⟩,
   ⟨(on { full .ready with syncs := [(8191, { gen := 1, tag := 0, val := 5 })] }).work, 8191, { gen := 1, tag := 0, val := 5 }, 2 ^ 64,
     by decide +kernel, by decide +kernel, by decide +kernel, by decide +kernel⟩⟩

/-- Witnesses of GenerationsAdvance. -/
theorem witness_generationsAdvance :
    (∃ (w : W) (kind i p : Nat), i < 65536 ∧ Tab.get w.dev.hgen (kind * 65536 + i) = some p ∧ 1 ≤ p ∧ p ≤ 4095) ∧
    (∃ (w : W) (kind i p : Nat), i < 65536 ∧ Tab.get w.dev.hgen (kind * 65536 + i) = some p ∧ 1 ≤ p ∧ p ≤ 4095) ∧
    (∃ (w : W) (kind i : Nat), i < 65536 ∧ Tab.get w.dev.hgen (kind * 65536 + i) = none) :=
  ⟨⟨(on { full .ready with hgen := [(5 * 65536 + 65535, 1)] }).work, 5, 65535, 1, by decide +kernel, by decide +kernel,
     by decide +kernel, by decide +kernel⟩,
   ⟨(on { full .ready with hgen := [(5 * 65536 + 65535, 4095)] }).work, 5, 65535, 4095, by decide +kernel, by decide +kernel,
     by decide +kernel, by decide +kernel⟩,
   ⟨(on (full .ready)).work, 5, 65535, by decide +kernel, by decide +kernel⟩⟩

/-- WellFormed refuses an ill-formed term of each of its checks. -/
theorem test_ill_formed :
    ([.nop 16384 (pkt 0 0 0 []),
      .nop 0 ⟨{ hdr 0 0 0 0 with reserved := [] }, []⟩,
      .rtu 16384,
      .fwBlockProgrammed 4 0 true,
      .swatchDone 40 true [],
      .pwrCapSetWrite 16384 (hdr 0 0 0 0) 0 0,
      .pwrCapSetWrite 0 { hdr 0 0 0 0 with reserved := [] } 0 0,
      .coreSrSeedWrite 0 (hdr 0 0 0 0) 256 0 0,
      .embSrSeedWrite 0 (hdr 0 0 0 0) 4 0 0,
      .qEnSet 0 (hdr 0 0 0 0) 4 .emb 0,
      .qEnClear 0 (hdr 0 0 0 0) 0 .emb 8,
      .initComplete ⟨[24], [], [], [], false, false, false⟩,
      .initComplete ⟨[], [(0, 68)], [], [], false, false, false⟩,
      .initComplete ⟨[], [], [(0, 9)], [], false, false, false⟩,
      .initComplete ⟨[], [], [], [4], false, false, false⟩,
      .connectionReq ⟨0, 0, 4096, 7, 4, [], zeros 6⟩,
      .connectionReq ⟨0, 0, 4096, 7, 5, zeros 16, zeros 6⟩,
      .rowInit 4 0,
      .tileStart 4096,
      .pageInComplete 65536 0,
      .rowUpdateStep 24,
      .recentreWindow 0 32 0 0,
      .sramScrub (.core 256) [],
      .sramScrub (.slice 0 9) [],
      .expanderLinkFail 0 4,
      .yieldTask 256,
      .stageStart 256,
      .physicalCoreFailure 0 68,
      .omaLoad 0 2,
      .workItemComplete 0 .parse 8,
      .sampleAdmit 1024,
      .post 0 4 0,
      .creditReturn 0 16,
      .flitReceive 0 ⟨zeros 271⟩,
      .linkNak 32 0,
      .hello 0 (zeros 63),
      .laneLockLoss 0 5,
      .ringCrcFailure 5 0,
      .regulatorFault 11,
      .consoleLog 0 4,
      .consoleStep 19,
      .consoleStepIsland 260 0] : List Instr).all (fun i => !i.wf) = true := by
  decide +kernel

/-- Well-formed terms at the bounds of the same checks. -/
theorem test_well_formed :
    ([.nop 16383 (pkt 0 0 0 []), .qEnSet 0 (hdr 0 0 0 0) 3 .emb 7, .rowInit 3 5, .tileStart 4095, .recentreWindow 23 31 0 0,
      .physicalCoreFailure 3 67, .omaLoad 3 1, .creditReturn 1023 15, .flitReceive 31 ⟨zeros 272⟩, .laneLockLoss 31 4,
      .regulatorFault 10, .consoleStepIsland 259 18] : List Instr).all (·.wf) = true := by
  decide +kernel

/-- CRC-32C and CRC-32 of the digits 1 to 9 (the check values of the published CRC catalogue). -/
theorem test_crc : crc32c (ascii "123456789") = 0xE3069283 ∧ crc32 (ascii "123456789") = 0xCBF43926 := by decide +kernel

/-- Adler-32 of a word, and XXH64 of the empty string (their published check values). -/
theorem test_checks : adler32 (ascii "Wikipedia") = 0x11E60398 ∧ xxh64 0 [] = 0xEF46DB3751D8E999 := by decide +kernel

/-- SHAKE256 of the empty string (FIPS 202). -/
theorem test_shake256 : shake256 8 [] = [0x46, 0xb9, 0xdd, 0x2b, 0x0b, 0xa8, 0x8d, 0x13] := by decide +kernel

/-- AES-256-GCM with key, nonce and plaintext of zeros (test case 14 of the GCM specification). -/
theorem test_gcm : gcmSeal (zeros 32) (zeros 12) [] (zeros 16) =
    [0xce, 0xa7, 0x40, 0x3d, 0x4d, 0x60, 0x6b, 0x6e, 0x07, 0x4e, 0xc5, 0xd3, 0xba, 0xf3, 0x9d, 0x18,
     0xd0, 0xd1, 0xc8, 0xa7, 0x99, 0x99, 0x6b, 0xf0, 0x26, 0x5b, 0x98, 0xb5, 0xd4, 0x8a, 0xb9, 0x19] := by decide +kernel

/-- A gzip member of zlib decodes. -/
theorem test_gunzip :
    ((gunzip false [31, 139, 8, 0, 0, 0, 0, 0, 2, 3, 203, 72, 205, 201, 201, 87, 200, 64, 39, 1, 227, 81, 61, 141, 23, 0, 0, 0]).run
      { rest := [31, 139, 8, 0, 0, 0, 0, 0, 2, 3, 203, 72, 205, 201, 201, 87, 200, 64, 39, 1, 227, 81, 61, 141, 23, 0, 0, 0]
        cap := 64 }).2.out.toList = ascii "hello hello hello hello" := by decide +kernel

/-- The Ed448 signature of the empty message (RFC 8032, section 7.4). -/
theorem test_ed448 : ed448Verify 0
    [0x5f, 0xd7, 0x44, 0x9b, 0x59, 0xb4, 0x61, 0xfd, 0x2c, 0xe7, 0x87, 0xec, 0x61, 0x6a, 0xd4, 0x6a, 0x1d, 0xa1, 0x34, 0x24,
     0x85, 0xa7, 0x0e, 0x1f, 0x8a, 0x0e, 0xa7, 0x5d, 0x80, 0xe9, 0x67, 0x78, 0xed, 0xf1, 0x24, 0x76, 0x9b, 0x46, 0xc7, 0x06,
     0x1b, 0xd6, 0x78, 0x3d, 0xf1, 0xe5, 0x0f, 0x6c, 0xd1, 0xfa, 0x1a, 0xbe, 0xaf, 0xe8, 0x25, 0x61, 0x80]
    [] []
    [0x53, 0x3a, 0x37, 0xf6, 0xbb, 0xe4, 0x57, 0x25, 0x1f, 0x02, 0x3c, 0x0d, 0x88, 0xf9, 0x76, 0xae, 0x2d, 0xfb, 0x50, 0x4a,
     0x84, 0x3e, 0x34, 0xd2, 0x07, 0x4f, 0xd8, 0x23, 0xd4, 0x1a, 0x59, 0x1f, 0x2b, 0x23, 0x3f, 0x03, 0x4f, 0x62, 0x82, 0x81,
     0xf2, 0xfd, 0x7a, 0x22, 0xdd, 0xd4, 0x7d, 0x78, 0x28, 0xc5, 0x9b, 0xd0, 0xa2, 0x1b, 0xfd, 0x39, 0x80, 0xff, 0x0d, 0x20,
     0x28, 0xd4, 0xb1, 0x8a, 0x9d, 0xf6, 0x3e, 0x00, 0x6c, 0x5d, 0x1c, 0x2d, 0x34, 0x5b, 0x92, 0x5d, 0x8d, 0xc0, 0x0b, 0x41,
     0x04, 0x85, 0x2d, 0xb9, 0x9a, 0xc5, 0xc7, 0xcd, 0xda, 0x85, 0x30, 0xa1, 0x13, 0xa0, 0xf4, 0xdb, 0xb6, 0x11, 0x49, 0xf0,
     0x5a, 0x73, 0x63, 0x26, 0x8c, 0x71, 0xd9, 0x58, 0x08, 0xff, 0x2e, 0x65, 0x26, 0x00] = true := by decide +kernel

/-- X448 (RFC 7748, section 5.2). -/
theorem test_x448 : x448
    [0x3d, 0x26, 0x2f, 0xdd, 0xf9, 0xec, 0x8e, 0x88, 0x49, 0x52, 0x66, 0xfe, 0xa1, 0x9a, 0x34, 0xd2, 0x88, 0x82, 0xac, 0xef,
     0x04, 0x51, 0x04, 0xd0, 0xd1, 0xaa, 0xe1, 0x21, 0x70, 0x0a, 0x77, 0x9c, 0x98, 0x4c, 0x24, 0xf8, 0xcd, 0xd7, 0x8f, 0xbf,
     0xf4, 0x49, 0x43, 0xeb, 0xa3, 0x68, 0xf5, 0x4b, 0x29, 0x25, 0x9a, 0x4f, 0x1c, 0x60, 0x0a, 0xd3]
    [0x06, 0xfc, 0xe6, 0x40, 0xfa, 0x34, 0x87, 0xbf, 0xda, 0x5f, 0x6c, 0xf2, 0xd5, 0x26, 0x3f, 0x8a, 0xad, 0x88, 0x33, 0x4c,
     0xbd, 0x07, 0x43, 0x7f, 0x02, 0x0f, 0x08, 0xf9, 0x81, 0x4d, 0xc0, 0x31, 0xdd, 0xbd, 0xc3, 0x8c, 0x19, 0xc6, 0xda, 0x25,
     0x83, 0xfa, 0x54, 0x29, 0xdb, 0x94, 0xad, 0xa1, 0x8a, 0xa7, 0xa7, 0xfb, 0x4e, 0xf8, 0xa0, 0x86] =
    [0xce, 0x3e, 0x4f, 0xf9, 0x5a, 0x60, 0xdc, 0x66, 0x97, 0xda, 0x1d, 0xb1, 0xd8, 0x5e, 0x6a, 0xfb, 0xdf, 0x79, 0xb5, 0x0a,
     0x24, 0x12, 0xd7, 0x54, 0x6d, 0x5f, 0x23, 0x9f, 0xe1, 0x4f, 0xba, 0xad, 0xeb, 0x44, 0x5f, 0xc6, 0x6a, 0x01, 0xb0, 0x77,
     0x9d, 0x98, 0x22, 0x39, 0x61, 0x11, 0x1e, 0x21, 0x76, 0x62, 0x82, 0xf7, 0x3d, 0xd9, 0x6b, 0x6f] := by decide +kernel

/-- The next state, where a step answers one. -/
def nextOf (o : Host.Outcome State Fault Refusal) : Option State :=
  match o with
  | .next t => some t
  | _ => none

/-- A step takes the command at the front and keeps the rest; NOP echoes its parameters (R74). -/
theorem test_nop_echoes :
    (nextOf (step { on (dev .ready) with pending := [.nop 0 (pkt 0 0 0 [7]), .resetNRelease] })).map (fun t =>
      (t.pending, t.tx.filterMap fun x => match x with
        | .reply _ _ r => some (r.status, r.payload)
        | _ => none)) = some ([.resetNRelease], [(0, [7])]) := by decide +kernel

/-- A step on an empty queue only counts a nanosecond (DESIGN CHOICE, log entry 16). -/
theorem test_idle_step :
    nextOf (step State.reset) = some { State.reset with dev := { State.reset.dev with clk := State.reset.dev.clk.pass } } := by
  decide +kernel

/-- SIGNAL_ADD adds (R284). -/
theorem test_signal_adds :
    (nextOf (exec (.signalAdd 255 0x50011FFF 37) coreS)).bind (fun t => (Tab.get t.dev.syncs 8191).map Sync.val) = some 42 := by
  decide +kernel

/-- A core whose scalar registers are all the same. -/
def storeS : State :=
  on { coreDev with cores := coreDev.cores.map fun x => (x.1, { x.2 with sregs := List.replicate 32 0x0102030405060708 }) }

/-- A store of 8 bytes is little-endian (R2). -/
theorem test_store_bytes :
    (nextOf (exec (.coreStore 255 ⟨true, 31, 0x5FFFF8, 8, none, []⟩) storeS)).map
      (fun t => (List.range 8).map fun k => t.byte (coreBase 255 + 0x5FFFF8 + k)) = some [8, 7, 6, 5, 4, 3, 2, 1] := by decide +kernel

end Sys2Proof.Tests
end

section
/-! PROOFS. Registers (R4 to R10, R81 to R83): where an address lies, what a read gives, what REG_WRITE changes; and the machine after
reset. -/

namespace Sys2Proof

/-! ### Little-endian fields (R2) -/

@[simp] theorem toLe_length (n v : Nat) : (toLe n v).length = n := by
  induction n generalizing v with
  | zero => rfl
  | succ n ih => simp [toLe, ih]

@[simp] theorem zeros_length (n : Nat) : (zeros n).length = n := List.length_replicate

/-- A number's n bytes hold the number modulo 2^(8n). -/
theorem leNat_toLe (n v : Nat) : leNat (toLe n v) = v % 256 ^ n := by
  induction n generalizing v with
  | zero => simp [toLe, leNat, Nat.mod_one]
  | succ n ih =>
    have hpow : v % 256 ^ (n + 1) = v % 256 + 256 * (v / 256 % 256 ^ n) := by rw [pow_succ', Nat.mod_mul]
    simp [toLe, leNat, ih, hpow]

/-- A field of as many bytes as were written reads the number back, whatever follows. -/
theorem fld_toLe_append (n v : Nat) (bs : List Byte) : fld (toLe n v ++ bs) 0 n = v % 256 ^ n := by
  have htake : (toLe n v ++ bs).take n = toLe n v := List.take_left' (toLe_length n v)
  simp [fld, slice, htake, leNat_toLe]

/-- A field past a first part is the field of the rest. -/
theorem fld_append_right (as bs : List Byte) (off n : Nat) : fld (as ++ bs) (as.length + off) n = fld bs off n := by
  simp [fld, slice, List.drop_length_add_append]

/-- The entry put is the one read, default or not. -/
@[simp] theorem Tab.getD_put_self {α : Type} (t : Tab α) (n : Nat) (x d : α) : Tab.getD (Tab.put t n x) n d = x := by
  simp [Tab.getD]

namespace Machine

/-! ### What acknowledgement and reply keep -/

/-- A packet taken keeps everything of the device that depends on neither its channels nor the messages that wait. -/
theorem taken_keeps {α : Type} (g : Dev → α) (hg : ∀ d c l, g { d with chans := c, eth := { d.eth with held := l } } = g d)
    (s : State) (ch : Nat) (p : Packet) (psn : Nat) : g (s.taken ch p psn).dev = g s.dev := by
  obtain ⟨c, l, h⟩ := taken_dev s ch p psn
  rw [h, hg]

/-- A reply keeps everything of the device that depends on neither its channels nor the messages that wait. -/
theorem reply_keeps {α : Type} (g : Dev → α) (hg : ∀ d c l, g { d with chans := c, eth := { d.eth with held := l } } = g d)
    (w : W) (ch : Nat) (h : Header) (op st d : Nat) (b : List Byte) : g (w.reply ch h op st d b).dev = g w.dev := by
  obtain ⟨c, l, e⟩ := reply_dev w ch h op st d b
  rw [e, hg]

section
variable (s : State) (ch : Nat) (p : Packet) (psn : Nat)

@[simp] theorem taken_pwr : (s.taken ch p psn).dev.pwr = s.dev.pwr := taken_keeps (·.pwr) (fun _ _ _ => rfl) ..
@[simp] theorem taken_ms : (s.taken ch p psn).dev.ms = s.dev.ms := taken_keeps (·.ms) (fun _ _ _ => rfl) ..
@[simp] theorem taken_fuse : (s.taken ch p psn).dev.fuse = s.dev.fuse := taken_keeps (·.fuse) (fun _ _ _ => rfl) ..
@[simp] theorem taken_ethCfg : (s.taken ch p psn).dev.eth.cfg = s.dev.eth.cfg := taken_keeps (·.eth.cfg) (fun _ _ _ => rfl) ..
@[simp] theorem taken_ruus : (s.taken ch p psn).dev.ruus = s.dev.ruus := taken_keeps (·.ruus) (fun _ _ _ => rfl) ..
@[simp] theorem taken_embSeed : (s.taken ch p psn).dev.embSeed = s.dev.embSeed := taken_keeps (·.embSeed) (fun _ _ _ => rfl) ..
@[simp] theorem taken_core (n : Nat) : (s.taken ch p psn).dev.core n = s.dev.core n := taken_keeps (·.core n) (fun _ _ _ => rfl) ..
@[simp] theorem taken_queue (k : Nat) : (s.taken ch p psn).dev.queue k = s.dev.queue k := taken_keeps (·.queue k) (fun _ _ _ => rfl) ..
@[simp] theorem taken_physOfCore (n : Nat) : (s.taken ch p psn).dev.physOfCore n = s.dev.physOfCore n :=
  taken_keeps (·.physOfCore n) (fun _ _ _ => rfl) ..
@[simp] theorem taken_slotReads : (s.taken ch p psn).dev.slotReads = s.dev.slotReads := taken_keeps (·.slotReads) (fun _ _ _ => rfl) ..
@[simp] theorem taken_ceilingRaises (v : Nat) : (s.taken ch p psn).dev.ceilingRaises v = s.dev.ceilingRaises v :=
  taken_keeps (·.ceilingRaises v) (fun _ _ _ => rfl) ..
@[simp] theorem taken_wide (a : Nat) : (s.taken ch p psn).dev.wide a = s.dev.wide a := taken_keeps (·.wide a) (fun _ _ _ => rfl) ..

end

section
variable (w : W) (ch : Nat) (h : Header) (op st d : Nat) (b : List Byte)

@[simp] theorem reply_pwr : (w.reply ch h op st d b).dev.pwr = w.dev.pwr := reply_keeps (·.pwr) (fun _ _ _ => rfl) ..
@[simp] theorem reply_ms : (w.reply ch h op st d b).dev.ms = w.dev.ms := reply_keeps (·.ms) (fun _ _ _ => rfl) ..
@[simp] theorem reply_ethCfg : (w.reply ch h op st d b).dev.eth.cfg = w.dev.eth.cfg := reply_keeps (·.eth.cfg) (fun _ _ _ => rfl) ..
@[simp] theorem reply_ruus : (w.reply ch h op st d b).dev.ruus = w.dev.ruus := reply_keeps (·.ruus) (fun _ _ _ => rfl) ..
@[simp] theorem reply_embSeed : (w.reply ch h op st d b).dev.embSeed = w.dev.embSeed := reply_keeps (·.embSeed) (fun _ _ _ => rfl) ..
@[simp] theorem reply_core (n : Nat) : (w.reply ch h op st d b).dev.core n = w.dev.core n := reply_keeps (·.core n) (fun _ _ _ => rfl) ..
@[simp] theorem reply_queue (k : Nat) : (w.reply ch h op st d b).dev.queue k = w.dev.queue k :=
  reply_keeps (·.queue k) (fun _ _ _ => rfl) ..

end

/-! ### Where an address lies (Table 2.12) -/

/-- Where the registers of an engine class begin in a die's window. -/
def engOffset (cls : Nat) : Nat := [0x608000, 0x604000, 0x400000, 0x500000, 0x600000, 0x300200].getD cls 0

theorem engBase_eq (die cls : Nat) : engBase die cls = dieBase die + engOffset cls := rfl

theorem classCode_lt (cls : EngClass) : classCode cls < 6 := by cases cls <;> decide

/-- An address in a die's window names that die. -/
theorem dieOfReg_window {die o : Nat} (hd : die < 4) (ho : o < 0x1000000) : dieOfReg (dieBase die + o) = some die := by
  have hin : 0x1000000 ≤ dieBase die + o ∧ dieBase die + o < 0x5000000 := by simp only [dieBase]; omega
  have hdiv : (dieBase die + o) / 0x1000000 - 1 = die := by simp only [dieBase]; omega
  simp [dieOfReg, hin, hdiv]

theorem window_mod (die : Nat) {o : Nat} (ho : o < 0x1000000) : (dieBase die + o) % 0x1000000 = o := by
  simp only [dieBase]; omega

/-- The registers of two classes lie apart. -/
theorem engOffset_apart : ∀ i < 6, ∀ j < 6, i ≠ j → engOffset i + 0x200 ≤ engOffset j ∨ engOffset j + 0x200 ≤ engOffset i := by decide

theorem engOffset_lt : ∀ cls < 6, engOffset cls + 0x200 ≤ 0x800000 := by decide

theorem engOfReg_def (o : Nat) : engOfReg o = (List.range 6).findSome? fun cls =>
    if engOffset cls ≤ o ∧ o < engOffset cls + 0x200 then some (cls, o - engOffset cls) else none := by
  simp [engOfReg, engBase_eq, dieBase]

/-- An offset outside the registers of every class names none. -/
theorem engOfReg_none {o : Nat} (h : ∀ cls < 6, o < engOffset cls ∨ engOffset cls + 0x200 ≤ o) : engOfReg o = none := by
  rw [engOfReg_def, List.findSome?_eq_none_iff]
  intro cls hcls
  have := h cls (List.mem_range.mp hcls)
  rw [if_neg (by omega)]

/-- An offset in the registers of a class names the class and the offset in them. -/
theorem engOfReg_engine {cls r : Nat} (hc : cls < 6) (hr : r < 0x200) : engOfReg (engOffset cls + r) = some (cls, r) := by
  rw [engOfReg_def]
  cases hfind : (List.range 6).findSome? _ with
  | none =>
    have hnone := List.findSome?_eq_none_iff.mp hfind cls (List.mem_range.mpr hc)
    rw [if_pos (by omega)] at hnone
    cases hnone
  | some e =>
    obtain ⟨k, hk, hek⟩ := List.exists_of_findSome?_eq_some hfind
    rw [Option.ite_none_right_eq_some] at hek
    obtain ⟨hin, he⟩ := hek
    by_cases hkc : k = cls
    · subst hkc; rw [← he, Nat.add_sub_cancel_left]
    · have := engOffset_apart k (List.mem_range.mp hk) cls hc hkc
      omega

/-- Cores' windows lie above the engines. -/
theorem engOfReg_core {o : Nat} (h : 0x800000 ≤ o) : engOfReg o = none :=
  engOfReg_none fun cls hc => .inr (by have := engOffset_lt cls hc; omega)

/-! ### What REG_WRITE does at an address (R82) -/

/-- A write to the PWR block. -/
theorem writeReg_pwr (w : W) {o : Nat} (ho : o < 0x100000) (v m : Nat) : w.writeReg (0x300000 + o) v m = w.writePwr o v m := by
  have hdie : dieOfReg (0x300000 + o) = none := if_neg (by simp; omega)
  have heth : 0x300000 + o ≠ 0x100004 := by omega
  have hcxl : 0x300000 + o ≠ 0x200000 := by omega
  have hblock : (0x300000 + o) / 0x100000 = 3 := by omega
  have hoff : (0x300000 + o) % 0x100000 = o := by omega
  simp [W.writeReg, hdie, heth, hcxl, hblock, hoff]

/-- A write to CXL_CFG. -/
theorem writeReg_cxlCfg (w : W) (v m : Nat) : w.writeReg 0x200000 v m =
    (0, 0, w.onMs fun x => { x with cxlCfg := BitVec.ofNat 32 (cxlCfgAfter x.cxlCfg.toNat v m) }) := by
  simp [W.writeReg, dieOfReg]

/-- A write to ETH_CFG that gives the classes numbers apart, or finds them locked (R8). -/
theorem writeReg_ethCfg (w : W) (v m : Nat)
    (h : bit w.dev.eth.cfg.toNat 23 = true ∨
      bits (ethCfgAfter w.dev.eth.cfg.toNat v m) 29 3 ≠ bits (ethCfgAfter w.dev.eth.cfg.toNat v m) 26 3) :
    w.writeReg 0x100004 v m = (0, 0, w.onEth fun e => { e with cfg := BitVec.ofNat 32 (ethCfgAfter w.dev.eth.cfg.toNat v m) }) := by
  have hok : ¬ ((!bit w.dev.eth.cfg.toNat 23 && bits (ethCfgAfter w.dev.eth.cfg.toNat v m) 29 3 =
      bits (ethCfgAfter w.dev.eth.cfg.toNat v m) 26 3) = true) := by
    rcases h with h | h <;> simp [h]
  simp only [W.writeReg, show dieOfReg 0x100004 = none from rfl, if_true, if_neg hok]

/-- A write in the window of a die but outside its engines. -/
theorem writeReg_of_engOfReg_none (w : W) {a die o : Nat} (hd : dieOfReg a = some die) (ho : a % 0x1000000 = o) (he : engOfReg o = none)
    (v m : Nat) : w.writeReg a v m = (0, 0,
      if 0x800000 ≤ o then w.writeCore (64 * die + (o - 0x800000) / 0x1000) (o % 0x1000) v m else w.writeDie die o v m) := by
  simp only [W.writeReg, hd, ho, he]

/-- A write in the window of a die to an engine class: to a queue from offset 0x100 on, to EMB_SR_SEED, else without effect. -/
theorem writeReg_of_engOfReg_some (w : W) {a die cls r : Nat} (hd : dieOfReg a = some die)
    (he : engOfReg (a % 0x1000000) = some (cls, r)) (v m : Nat) : w.writeReg a v m = (0, 0,
      if 0x100 ≤ r then w.writeQueue (queueKey die cls ((r - 0x100) / 0x20)) (r % 0x20) v m
      else if cls = 5 && r = 0xC then w.writeEmbSeed die (mergeRw (Tab.getD w.dev.embSeed die 0) v m 0xFFFFFFFF)
      else w) := by
  simp only [W.writeReg, hd, he]

/-- A write to a register of a core's window. -/
theorem writeReg_core (w : W) {core o : Nat} (hc : core < 256) (ho : o < 0x1000) (v m : Nat) :
    w.writeReg (dieBase (core / 64) + (0x800000 + 0x1000 * (core % 64) + o)) v m = (0, 0, w.writeCore core o v m) := by
  have hge : 0x800000 ≤ 0x800000 + 0x1000 * (core % 64) + o := by omega
  have hlt : 0x800000 + 0x1000 * (core % 64) + o < 0x1000000 := by omega
  have hnum : 64 * (core / 64) + (0x800000 + 0x1000 * (core % 64) + o - 0x800000) / 0x1000 = core := by omega
  have hoff : (0x800000 + 0x1000 * (core % 64) + o) % 0x1000 = o := by omega
  rw [writeReg_of_engOfReg_none w (dieOfReg_window (by omega) hlt) (window_mod _ hlt) (engOfReg_core hge), if_pos hge, hnum, hoff]

/-- A write to a register of an engine class. -/
theorem writeReg_engine (w : W) {die cls r : Nat} (hd : die < 4) (hc : cls < 6) (hr : r < 0x200) (v m : Nat) :
    w.writeReg (engBase die cls + r) v m = (0, 0,
      if 0x100 ≤ r then w.writeQueue (queueKey die cls ((r - 0x100) / 0x20)) (r % 0x20) v m
      else if cls = 5 && r = 0xC then w.writeEmbSeed die (mergeRw (Tab.getD w.dev.embSeed die 0) v m 0xFFFFFFFF)
      else w) := by
  have hlt : engOffset cls + r < 0x1000000 := by have := engOffset_lt cls hc; omega
  have hoff : (dieBase die + (engOffset cls + r)) % 0x1000000 = engOffset cls + r := window_mod die hlt
  rw [engBase_eq, Nat.add_assoc]
  exact writeReg_of_engOfReg_some w (dieOfReg_window hd hlt) (by rw [hoff, engOfReg_engine hc hr]) v m

/-- A write to EMB_SR_SEED of a die. -/
theorem writeReg_embSeed (w : W) {die : Nat} (hd : die < 4) (v m : Nat) : w.writeReg (engBase die 5 + 0xC) v m =
    (0, 0, w.writeEmbSeed die (mergeRw (Tab.getD w.dev.embSeed die 0) v m 0xFFFFFFFF)) := by
  simp [writeReg_engine w hd]

/-- A write to Q_CFG of a queue. -/
theorem writeReg_qCfg (w : W) {die queue : Nat} (cls : EngClass) (hd : die < 4) (hq : queue < 8) (v m : Nat) :
    w.writeReg (qCfgReg die cls queue) v m = (0, 0, w.writeQCfg (queueKey die (classCode cls) queue) v m) := by
  have hge : 0x100 ≤ 0x108 + 0x20 * queue := by omega
  have hnum : (0x108 + 0x20 * queue - 0x100) / 0x20 = queue := by omega
  have hreg : (0x108 + 0x20 * queue) % 0x20 = 8 := by omega
  rw [qCfgReg, Nat.add_assoc, writeReg_engine w hd (classCode_lt cls) (by omega)]
  simp only [if_pos hge, hnum, hreg, W.writeQueue]

/-! ### The effect of the writes -/

/-- A write that raises PWR_CEILING while slots are left spends one (R540, R591, R592). -/
theorem writeCeiling_raises (w : W) (v : Nat) (hv : w.dev.ceilingRaises v = true) (hleft : w.dev.fuse.ceilingLeft ≠ 0) :
    w.writeCeiling v = (if w.dev.slotReads then 0 else 0x0E, if w.dev.slotReads then 0 else ctrCeiling, w.burnCeiling v) := by
  have hup : ¬ v ≤ w.dev.fuse.ceilingW := by simp [Dev.ceilingRaises] at hv; omega
  cases hr : w.dev.slotReads <;> simp [W.writeCeiling, hup, hv, hleft, hr]

/-- A slot of PWR_CEILING spent: VALID where its read-back matches (R591, R592). -/
theorem burnCeiling_eq {w : W} {r : Bool} (hr : w.dev.slotReads = r) (v : Nat) : w.burnCeiling v = w.onDev fun d =>
    { d with freeCtr := d.freeCtr + 1, fuse := { d.fuse with ceiling := d.fuse.ceiling ++ [(v, r)] } } := by
  subst hr; rfl

/-- A write to CORE_SR_SEED of a core that is bound seeds its generators afresh (R257). -/
theorem writeCore_srSeed (w : W) (core v m : Nat) (hb : w.dev.physOfCore core < 68) : (w.writeCore core 0x10 v m).dev.core core =
    { w.dev.core core with srSeed := BitVec.ofNat 32 (mergeRw (w.dev.core core).srSeed.toNat v m 0xFFFFFFFF), gens := [] } := by
  have hb' : ¬ 68 ≤ w.dev.physOfCore core := by omega
  simp [W.writeCore, hb', Dev.core]

@[simp] theorem onQueue_queue (w : W) (key : Nat) (f : EngQ → EngQ) : (w.onQueue key f).dev.queue key = f (w.dev.queue key) :=
  Tab.getD_upd_self ..

/-- MASK and VALUE of bit 31 alone set that bit where it may be written. -/
theorem mergeRw_set31 {old : Nat} (h : old < 2 ^ 31) : mergeRw old 0x80000000 0x80000000 0xFFFFDFFF = old + 2 ^ 31 := by
  have hand : Nat.land old 0x80000000 = 0 := by
    have := Nat.and_two_pow old 31
    rw [Nat.testBit_lt_two_pow h] at this
    simpa using this
  have hsel : Nat.land 0x80000000 0xFFFFDFFF = 0x80000000 := by decide
  have hval : Nat.land 0x80000000 0x80000000 = 0x80000000 := by decide
  simp only [mergeRw, hsel, hand, hval]; omega

/-- MASK of bit 31 alone and VALUE 0 clear that bit. -/
theorem mergeRw_clear31 {low : Nat} (h : low < 2 ^ 31) : mergeRw (low + 2 ^ 31) 0 0x80000000 0x80000000 = low := by
  have hand : Nat.land (low + 2 ^ 31) 0x80000000 = 2 ^ 31 := by
    have := Nat.and_two_pow (low + 2 ^ 31) 31
    rw [Nat.add_comm, Nat.testBit_two_pow_add_eq, Nat.testBit_lt_two_pow h] at this
    simpa [Nat.add_comm] using this
  have hsel : Nat.land 0x80000000 0x80000000 = 0x80000000 := by decide
  have hval : Nat.land 0 0x80000000 = 0 := by decide
  simp only [mergeRw, hsel, hand, hval]; omega

/-- Q_EN of an idle queue with a count from 1 to 4,096 set: the first entry is next, the item count begins anew (R303). -/
theorem writeQCfg_enable {w : W} {key : Nat} {q : EngQ} (hq : w.dev.queue key = q) (hen : q.en = false) (hlo : 1 ≤ q.count)
    (hhi : q.count ≤ 4096) (hs : q.submit < 2048) (hj : q.job < 64) :
    (w.writeQCfg key 0x80000000 0x80000000).dev.queue key = { q with en := true, head := 0, seq := 0 } := by
  have hreg : q.reg 8 = q.count + 2 ^ 14 * q.submit + 2 ^ 25 * q.job := by simp [EngQ.reg, hen, b2n]
  have hmerge : mergeRw (q.reg 8) 0x80000000 0x80000000 0xFFFFDFFF = q.reg 8 + 2 ^ 31 := mergeRw_set31 (by omega)
  have hcount : bits (q.reg 8 + 2 ^ 31) 0 13 = q.count := by rw [hreg]; simp only [bits]; omega
  have hsubmit : bits (q.reg 8 + 2 ^ 31) 14 11 = q.submit := by rw [hreg]; simp only [bits]; omega
  have hjob : bits (q.reg 8 + 2 ^ 31) 25 6 = q.job := by rw [hreg]; simp only [bits]; omega
  have hbit : bit (q.reg 8 + 2 ^ 31) 31 = true := by rw [hreg]; simp only [bit, beq_iff_eq]; omega
  have hnone : ¬ (q.count = 0 ∨ 4096 < q.count) := by omega
  simp only [W.writeQCfg, hq, hen, Bool.false_eq_true, if_false, hmerge, hcount, hsubmit, hjob, hbit, if_true]
  simp [W.enableQueue, hq, hnone]

/-- Q_EN of an enabled queue cleared: nothing else of it changes (R303). -/
theorem writeQCfg_disable {w : W} {key : Nat} {q : EngQ} (hq : w.dev.queue key = q) (hen : q.en = true) (hc : q.count < 8192)
    (hs : q.submit < 2048) (hj : q.job < 64) : (w.writeQCfg key 0 0x80000000).dev.queue key = { q with en := false } := by
  have hreg : q.reg 8 = q.count + 2 ^ 14 * q.submit + 2 ^ 25 * q.job + 2 ^ 31 := by simp [EngQ.reg, hen, b2n]
  have hmerge : mergeRw (q.reg 8) 0 0x80000000 0x80000000 = q.count + 2 ^ 14 * q.submit + 2 ^ 25 * q.job := by
    rw [hreg]; exact mergeRw_clear31 (by omega)
  have hbit : bit (q.count + 2 ^ 14 * q.submit + 2 ^ 25 * q.job) 31 = false := by simp only [bit, beq_eq_false_iff_ne]; omega
  simp only [W.writeQCfg, hq, hen, if_true, hmerge, hbit, Bool.false_eq_true, if_false, onQueue_queue]

/-! ### What a read of a register gives (R81, R338) -/

/-- A read of a low word answers it and latches the high word (R338). -/
theorem readReg_wide {w : W} {a v : Nat} (h : w.dev.wide a = some v) : w.readReg a = (v % 2 ^ 32, (w.onDev fun d =>
    { d with latch := Tab.put d.latch (a + 4) (v / 2 ^ 32) }).onDev fun d => { d with freeCtr := d.freeCtr + 1 }) := by
  simp only [W.readReg, h]

/-- A register that is no half of a pair reads as it is. -/
theorem readReg_plain {w : W} {a : Nat} (hlow : w.dev.wide a = none) (hhigh : w.dev.wide (a - 4) = none) :
    (w.readReg a).1 = w.dev.reg a % 2 ^ 32 := by
  simp [W.readReg, hlow, hhigh]

theorem readRegs_one (w : W) (a : Nat) : w.readRegs a 1 = ([(w.readReg a).1], (w.readReg a).2) := rfl

/-- A low word, read alone. -/
theorem readRegs_wide {w : W} {a v x : Nat} (h : w.dev.wide a = some v) (hx : v % 2 ^ 32 = x) : (w.readRegs a 1).1 = [x] := by
  rw [readRegs_one, readReg_wide h, hx]

/-- A register that is no half of a pair, read alone. -/
theorem readRegs_plain {w : W} {a x : Nat} (hlow : w.dev.wide a = none) (hhigh : w.dev.wide (a - 4) = none)
    (hx : w.dev.reg a % 2 ^ 32 = x) : (w.readRegs a 1).1 = [x] := by
  rw [readRegs_one, readReg_plain hlow hhigh, hx]

/-- No half of a pair stands at an offset of a die outside SYNC_VAL, CORE_CYC and the engines. -/
theorem wide_window_none (d : Dev) {a die o : Nat} (hd : dieOfReg a = some die) (ho : a % 0x1000000 = o) (he : engOfReg o = none)
    (hsync : ¬ (0x280000 ≤ o ∧ o < 0x288000)) (hcyc : ¬ (0x800000 ≤ o ∧ o % 0x1000 = 0x20)) : d.wide a = none := by
  have hsync' : ¬ ((0x280000 ≤ o && o < 0x288000 && o % 16 = 0) = true) := by simp; omega
  have hcyc' : ¬ ((0x800000 ≤ o && o % 0x1000 = 0x20) = true) := by simpa using hcyc
  simp only [Dev.wide, hd, ho, if_neg hsync', if_neg hcyc', he]

/-- A register of a core's window. -/
theorem reg_core (d : Dev) {a die o : Nat} (hd : dieOfReg a = some die) (ho : a % 0x1000000 = o) (hge : 0x800000 ≤ o) :
    d.reg a = d.coreReg (64 * die + (o - 0x800000) / 0x1000) (o % 0x1000) := by
  simp only [Dev.reg, hd, ho, engOfReg_core hge, if_pos hge]

/-- A register of the SCHED and SYNC sub-block of a die. -/
theorem reg_sched (d : Dev) {a die o : Nat} (hd : dieOfReg a = some die) (ho : a % 0x1000000 = o) (he : engOfReg o = none)
    (hblock : o / 0x100000 = 2) : d.reg a = d.schedReg die (o % 0x100000) := by
  simp only [Dev.reg, hd, ho, he, if_neg (show ¬ 0x800000 ≤ o by omega), hblock]

/-- A register of the MEM sub-block of a die. -/
theorem reg_mem (d : Dev) {a die o : Nat} (hd : dieOfReg a = some die) (ho : a % 0x1000000 = o) (he : engOfReg o = none)
    (hblock : o / 0x100000 = 3) : d.reg a = d.memReg die (o % 0x100000) := by
  simp only [Dev.reg, hd, ho, he, if_neg (show ¬ 0x800000 ≤ o by omega), hblock]

/-- A register of the YL sub-block of a die. -/
theorem reg_yl (d : Dev) {a die o : Nat} (hd : dieOfReg a = some die) (ho : a % 0x1000000 = o) (he : engOfReg o = none)
    (hblock : o / 0x100000 = 7) : d.reg a = d.ylReg die (o % 0x100000) := by
  simp only [Dev.reg, hd, ho, he, if_neg (show ¬ 0x800000 ≤ o by omega), hblock]

/-! ### The machine after reset -/

theorem reset_inv : State.reset.Inv := (Mem.wf_iff _).mpr ⟨⟨.nil, by simp [State.reset]⟩, .nil⟩

/-- Settles O47: every list of the reset state is empty, and memory that lists nothing reads 0. -/
theorem resetLeavesAnEmptyMachine : Obligations.ResetLeavesAnEmptyMachine :=
  ⟨reset_inv, rfl, rfl, rfl, rfl, rfl, rfl, rfl, rfl, rfl, rfl, rfl, rfl, fun _ => rfl⟩

/-- A register in the window of a die, away from the pairs and the engines, with the offset before it. -/
theorem readRegs_window (w : W) {die o x : Nat} (hd : die < 4) (hpos : 4 ≤ o) (ho : o < 0x1000000) (he : engOfReg o = none)
    (he' : engOfReg (o - 4) = none) (hsync : ¬ (0x280000 ≤ o ∧ o < 0x288004)) (hcyc : ¬ (0x800000 ≤ o ∧ o % 0x1000 = 0x20))
    (hcyc' : ¬ (0x800000 ≤ o ∧ o % 0x1000 = 0x24)) (hx : w.dev.reg (dieBase die + o) % 2 ^ 32 = x) :
    (w.readRegs (dieBase die + o) 1).1 = [x] := by
  have hlow : w.dev.wide (dieBase die + o) = none :=
    wide_window_none _ (dieOfReg_window hd ho) (window_mod die ho) he (by omega) hcyc
  have hlt : o - 4 < 0x1000000 := by omega
  have hhigh : w.dev.wide (dieBase die + (o - 4)) = none :=
    wide_window_none _ (dieOfReg_window hd hlt) (window_mod die hlt) he' (by omega) (by omega)
  rw [← Nat.add_sub_assoc hpos] at hhigh
  exact readRegs_plain hlow hhigh hx

theorem reset_schedTick {die : Nat} (hd : die < 4) : (State.reset.work.readRegs (dieBase die + 0x200000) 1).1 = [0x3E8] := by
  refine readRegs_window _ hd (by decide) (by decide) rfl rfl (by decide) (by decide) (by decide) ?_
  rw [reg_sched _ (dieOfReg_window hd (by decide)) (window_mod die (by decide)) rfl rfl]
  rfl

theorem reset_scrubCfg {die : Nat} (hd : die < 4) : (State.reset.work.readRegs (dieBase die + 0x300000) 1).1 = [0x801] := by
  refine readRegs_window _ hd (by decide) (by decide) rfl rfl (by decide) (by decide) (by decide) ?_
  rw [reg_mem _ (dieOfReg_window hd (by decide)) (window_mod die (by decide)) rfl rfl]
  rfl

theorem reset_ylCfg {die : Nat} (hd : die < 4) : (State.reset.work.readRegs (dieBase die + 0x700800) 1).1 = [0x1] := by
  refine readRegs_window _ hd (by decide) (by decide) rfl rfl (by decide) (by decide) (by decide) ?_
  rw [reg_yl _ (dieOfReg_window hd (by decide)) (window_mod die (by decide)) rfl rfl]
  rfl

/-- At reset each logical core is bound to the physical core of its number (R17). -/
theorem reset_physOfCore (n : Nat) : State.reset.dev.physOfCore n = n % 64 := by
  have hlt : n % 64 < (List.range 64).length := by simp; omega
  show (List.range 64).getD (n % 64) 0xFF = n % 64
  rw [List.getD_eq_getElem _ _ hlt, List.getElem_range]

theorem reset_fpCtl {die core : Nat} (hd : die < 4) (hc : core < 64) :
    (State.reset.work.readRegs (dieBase die + (0x800008 + 0x1000 * core)) 1).1 = [0x40] := by
  have hlt : 0x800008 + 0x1000 * core < 0x1000000 := by omega
  have hbound : ¬ 68 ≤ State.reset.dev.physOfCore (64 * die + (0x800008 + 0x1000 * core - 0x800000) / 0x1000) := by
    rw [reset_physOfCore]; omega
  have hoff : (0x800008 + 0x1000 * core) % 0x1000 = 8 := by omega
  refine readRegs_window _ hd (by omega) hlt (engOfReg_core (by omega)) (engOfReg_core (by omega)) (by omega) (by omega) (by omega) ?_
  rw [reg_core _ (dieOfReg_window hd hlt) (window_mod die hlt) (by omega), hoff]
  simp only [Dev.coreReg, State.work_dev, if_neg hbound]
  rfl

/-- Settles O48: HUB_ERRLOG_NEXT_LO is the low word of a pair; each of the others is no half of one and reads as its field stands. -/
theorem registersHoldTheirResetValues : Obligations.RegistersHoldTheirResetValues := by
  unfold Obligations.RegistersHoldTheirResetValues
  refine ⟨?_, ?_, ?_⟩
  · simp only [List.forall_mem_cons]
    exact ⟨readRegs_plain rfl rfl rfl, readRegs_wide rfl rfl, readRegs_plain rfl rfl rfl, readRegs_plain rfl rfl rfl,
      readRegs_plain rfl rfl rfl, readRegs_plain rfl rfl rfl, readRegs_plain rfl rfl rfl, readRegs_plain rfl rfl rfl, by simp⟩
  · intro die hdie
    have hd := List.mem_range.mp hdie
    have hbase : 0x1000000 + 0x1000000 * die = dieBase die := by simp only [dieBase]; omega
    simp only [List.forall_mem_cons, hbase]
    exact ⟨reset_schedTick hd, reset_scrubCfg hd, reset_ylCfg hd, by simp⟩
  · intro die hdie core hcore
    have haddr : 0x1800000 + 0x1000000 * die + 0x1000 * core + 8 = dieBase die + (0x800008 + 0x1000 * core) := by
      simp only [dieBase]; omega
    rw [haddr]
    exact reset_fpCtl (List.mem_range.mp hdie) (List.mem_range.mp hcore)

/-! ### REG_READ and REG_WRITE as packets (R81, R82) -/

@[simp] theorem regWriteParams_addr (a : Nat) (v m : Word) : fld (regWriteParams a v m) 0 4 = a % 2 ^ 32 := by
  rw [regWriteParams, List.append_assoc, fld_toLe_append]; rfl

@[simp] theorem regWriteParams_value (a : Nat) (v m : Word) : fld (regWriteParams a v m) 4 4 = v.toNat := by
  have hskip := fld_append_right (toLe 4 a) (toLe 4 v.toNat ++ toLe 4 m.toNat) 0 4
  rw [toLe_length, fld_toLe_append] at hskip
  rw [regWriteParams, List.append_assoc, hskip]
  exact Nat.mod_eq_of_lt v.isLt

@[simp] theorem regWriteParams_mask (a : Nat) (v m : Word) : fld (regWriteParams a v m) 8 4 = m.toNat := by
  have hskip := fld_append_right (toLe 4 a ++ toLe 4 v.toNat) (toLe 4 m.toNat ++ []) 0 4
  rw [List.length_append, toLe_length, toLe_length, fld_toLe_append, List.append_nil] at hskip
  exact hskip.trans (Nat.mod_eq_of_lt m.isLt)

/-- An admitted REG_WRITE writes its register and answers. -/
theorem run_regWrite {ch : Nat} {p : Packet} {s : State} {c : Chan} (h : Admitted regWrite ch p s c) {st detail : Nat} {w : W}
    (hw : (s.taken ch p c.psn).writeReg (fld p.params 0 4) (fld p.params 4 4) (fld p.params 8 4) = (st, detail, w)) :
    run s (hostCommand regWrite ch p) = .next (s.commit (w.reply ch p.hdr 0x0C01 st detail [])) := by
  rw [run_next, hostCommand_admitted h]
  simp only [regWrite, ctxOf, Ctx.f, hw]

/-- An admitted REG_READ reads its registers and answers them. -/
theorem run_regRead {ch : Nat} {p : Packet} {s : State} {c : Chan} (h : Admitted regRead ch p s c) {vs : List Nat} {w : W}
    (hw : (s.taken ch p c.psn).readRegs (fld p.params 0 4) (fld p.params 4 2) = (vs, w)) :
    run s (hostCommand regRead ch p) = .next (s.commit (w.reply ch p.hdr 0x0C00 0 0 (vs.flatMap (toLe 4)))) := by
  rw [run_next, hostCommand_admitted h]
  simp only [regRead, ctxOf, Ctx.f, hw, W.ok]

/-- A REG_WRITE packet that a row builds writes the address, the value and the mask that the row gives. -/
theorem writeTo_admitted {ch a : Nat} {h : Header} {v m : Word} {s : State} {c : Chan}
    (hadm : Admitted regWrite ch ⟨h, regWriteParams a v m⟩ s c) (ha : a < 2 ^ 32) {st detail : Nat} {w : W}
    (hw : (s.taken ch ⟨h, regWriteParams a v m⟩ c.psn).writeReg a v.toNat m.toNat = (st, detail, w)) :
    writeTo ch h a v m s = .next (s.commit (w.reply ch h 0x0C01 st detail [])) := by
  refine run_regWrite hadm ?_
  rw [regWriteParams_addr, regWriteParams_value, regWriteParams_mask, Nat.mod_eq_of_lt ha, hw]

/-! ### The rows of registers, one by one -/

theorem exec_pwrCapSetWrite {ch : Nat} {h : Header} {v m : Word} {s : State} {c : Chan}
    (hadm : Admitted regWrite ch ⟨h, regWriteParams 0x300004 v m⟩ s c) : exec (.pwrCapSetWrite ch h v m) s =
      .next (s.commit (((s.taken ch ⟨h, regWriteParams 0x300004 v m⟩ c.psn).onPwr fun p =>
        { p with capSet := mergeRw p.capSet v.toNat m.toNat 0xFFFF }).reply ch h 0x0C01 0 0 [])) :=
  writeTo_admitted hadm (by decide) (writeReg_pwr _ (o := 4) (by decide) _ _)

theorem exec_pwrStepLimWrite {ch : Nat} {h : Header} {v m : Word} {s : State} {c : Chan}
    (hadm : Admitted regWrite ch ⟨h, regWriteParams 0x30000C v m⟩ s c) : exec (.pwrStepLimWrite ch h v m) s =
      .next (s.commit ((((s.taken ch ⟨h, regWriteParams 0x30000C v m⟩ c.psn).onPwr fun p =>
        { p with stepLim := mergeRw p.stepLim v.toNat m.toNat 31 }).settleStep).reply ch h 0x0C01 0 0 [])) :=
  writeTo_admitted hadm (by decide) (writeReg_pwr _ (o := 0xC) (by decide) _ _)

theorem exec_pwrCeilingWrite {ch : Nat} {h : Header} {v m : Word} {s : State} {c : Chan}
    (hadm : Admitted regWrite ch ⟨h, regWriteParams 0x300008 v m⟩ s c)
    (hraise : s.dev.ceilingRaises (mergeRw s.dev.fuse.ceilingW v.toNat m.toNat 0xFFFF) = true) (hleft : s.dev.fuse.ceilingLeft ≠ 0) :
    exec (.pwrCeilingWrite ch h v m) s = .next (s.commit (((s.taken ch ⟨h, regWriteParams 0x300008 v m⟩ c.psn).burnCeiling
      (mergeRw s.dev.fuse.ceilingW v.toNat m.toNat 0xFFFF)).reply ch h 0x0C01
        (if s.dev.slotReads then 0 else 0x0E) (if s.dev.slotReads then 0 else ctrCeiling) [])) := by
  refine writeTo_admitted hadm (by decide) ((writeReg_pwr _ (o := 8) (by decide) _ _).trans ?_)
  have hcase := writeCeiling_raises (s.taken ch ⟨h, regWriteParams 0x300008 v m⟩ c.psn)
    (mergeRw s.dev.fuse.ceilingW v.toNat m.toNat 0xFFFF) (by rwa [taken_ceilingRaises]) (by rwa [taken_fuse])
  rw [taken_slotReads] at hcase
  simpa only [W.writePwr, taken_fuse] using hcase

theorem exec_lockBitSet_pwr {ch : Nat} {h : Header} {v m : Word} {s : State} {c : Chan}
    (hadm : Admitted regWrite ch ⟨h, regWriteParams 0x300010 v m⟩ s c) : ∃ w, exec (.lockBitSet ch h .pwr v m) s = .next (s.commit w) ∧
      w.dev.pwr = { s.dev.pwr with tjCfg := BitVec.ofNat 32 (tjCfgAfter s.dev.pwr.tjCfg.toNat v.toNat m.toNat) } :=
  ⟨_, writeTo_admitted hadm (by decide) (writeReg_pwr _ (o := 0x10) (by decide) _ _), by simp⟩

theorem exec_lockBitSet_cxl {ch : Nat} {h : Header} {v m : Word} {s : State} {c : Chan}
    (hadm : Admitted regWrite ch ⟨h, regWriteParams 0x200000 v m⟩ s c) : ∃ w, exec (.lockBitSet ch h .cxl v m) s = .next (s.commit w) ∧
      w.dev.ms = { s.dev.ms with cxlCfg := BitVec.ofNat 32 (cxlCfgAfter s.dev.ms.cxlCfg.toNat v.toNat m.toNat) } :=
  ⟨_, writeTo_admitted hadm (by decide) (writeReg_cxlCfg ..), by simp⟩

theorem exec_ethCfgWrite {ch : Nat} {h : Header} {v m : Word} {s : State} {c : Chan}
    (hadm : Admitted regWrite ch ⟨h, regWriteParams 0x100004 v m⟩ s c)
    (hok : bit s.dev.eth.cfg.toNat 23 = true ∨ bits (ethCfgAfter s.dev.eth.cfg.toNat v.toNat m.toNat) 29 3 ≠
      bits (ethCfgAfter s.dev.eth.cfg.toNat v.toNat m.toNat) 26 3) :
    ∃ w, exec (.ethCfgWrite ch h v m) s = .next (s.commit w) ∧
      w.dev.eth.cfg = BitVec.ofNat 32 (ethCfgAfter s.dev.eth.cfg.toNat v.toNat m.toNat) :=
  ⟨_, writeTo_admitted hadm (by decide) (writeReg_ethCfg _ _ _ (by rwa [taken_ethCfg])), by simp⟩

/-- The LOCK bit of ETH_CFG is set by a write to ETH_CFG (R8). -/
theorem exec_lockBitSet_eth (ch : Nat) (h : Header) (v m : Word) (s : State) :
    exec (.lockBitSet ch h .eth v m) s = exec (.ethCfgWrite ch h v m) s := rfl

theorem exec_coreSrSeedWrite {ch core : Nat} {h : Header} {v m : Word} {s : State} {c : Chan} (hc : core < 256)
    (hb : s.dev.physOfCore core < 68)
    (hadm : Admitted regWrite ch ⟨h, regWriteParams (dieBase (core / 64) + 0x800010 + 0x1000 * (core % 64)) v m⟩ s c) :
    ∃ w, exec (.coreSrSeedWrite ch h core v m) s = .next (s.commit w) ∧ w.dev.core core = { s.dev.core core with
      srSeed := BitVec.ofNat 32 (mergeRw (s.dev.core core).srSeed.toNat v.toNat m.toNat 0xFFFFFFFF), gens := [] } := by
  have haddr : dieBase (core / 64) + 0x800010 + 0x1000 * (core % 64) =
      dieBase (core / 64) + (0x800000 + 0x1000 * (core % 64) + 0x10) := by omega
  have hlt : dieBase (core / 64) + (0x800000 + 0x1000 * (core % 64) + 0x10) < 2 ^ 32 := by simp only [dieBase]; omega
  have hexec : exec (.coreSrSeedWrite ch h core v m) s =
      writeTo ch h (dieBase (core / 64) + 0x800010 + 0x1000 * (core % 64)) v m s := if_pos hc
  rw [haddr] at hadm hexec
  refine ⟨_, hexec.trans (writeTo_admitted hadm hlt (writeReg_core _ hc (by decide) _ _)), ?_⟩
  rw [reply_core, writeCore_srSeed _ _ _ _ (by rwa [taken_physOfCore]), taken_core]

theorem exec_embSrSeedWrite {ch die : Nat} {h : Header} {v m : Word} {s : State} {c : Chan} (hd : die < 4)
    (hadm : Admitted regWrite ch ⟨h, regWriteParams (engBase die 5 + 0xC) v m⟩ s c) :
    ∃ w, exec (.embSrSeedWrite ch h die v m) s = .next (s.commit w) ∧
      Tab.getD w.dev.embSeed die 0 = mergeRw (Tab.getD s.dev.embSeed die 0) v.toNat m.toNat 0xFFFFFFFF ∧
      w.dev.ruus = s.dev.ruus.map fun (k, r) => (k, if dieOfStack k = die then { r with gen := none } else r) := by
  have hlt : engBase die 5 + 0xC < 2 ^ 32 := by simp only [engBase_eq, dieBase, show engOffset 5 = 0x300200 from rfl]; omega
  have hexec : exec (.embSrSeedWrite ch h die v m) s = writeTo ch h (engBase die 5 + 0xC) v m s := if_pos hd
  exact ⟨_, hexec.trans (writeTo_admitted hadm hlt (writeReg_embSeed _ hd _ _)), by simp [W.writeEmbSeed], by simp [W.writeEmbSeed]⟩

theorem qCfgReg_lt {die queue : Nat} (cls : EngClass) (hd : die < 4) (hq : queue < 8) : qCfgReg die cls queue < 2 ^ 32 := by
  have hoff := engOffset_lt (classCode cls) (classCode_lt cls)
  simp only [qCfgReg, engBase_eq, dieBase]; omega

theorem exec_qEnSet {ch die queue : Nat} {h : Header} {cls : EngClass} {s : State} {c : Chan} (hd : die < 4) (hq : queue < 8)
    (hadm : Admitted regWrite ch ⟨h, regWriteParams (qCfgReg die cls queue) 0x80000000#32 0x80000000#32⟩ s c)
    {q : EngQ} (hqueue : s.dev.queue (queueKey die (classCode cls) queue) = q)
    (hen : q.en = false) (hlo : 1 ≤ q.count) (hhi : q.count ≤ 4096) (hs : q.submit < 2048) (hj : q.job < 64) :
    ∃ w, exec (.qEnSet ch h die cls queue) s = .next (s.commit w) ∧
      w.dev.queue (queueKey die (classCode cls) queue) = { q with en := true, head := 0, seq := 0 } := by
  have hexec : exec (.qEnSet ch h die cls queue) s = writeTo ch h (qCfgReg die cls queue) 0x80000000#32 0x80000000#32 s :=
    if_pos (by simp [hd, hq])
  refine ⟨_, hexec.trans (writeTo_admitted hadm (qCfgReg_lt cls hd hq) (writeReg_qCfg _ cls hd hq _ _)), ?_⟩
  rw [reply_queue]
  exact writeQCfg_enable ((taken_queue ..).trans hqueue) hen hlo hhi hs hj

theorem exec_qEnClear {ch die queue : Nat} {h : Header} {cls : EngClass} {s : State} {c : Chan} (hd : die < 4) (hq : queue < 8)
    (hadm : Admitted regWrite ch ⟨h, regWriteParams (qCfgReg die cls queue) 0#32 0x80000000#32⟩ s c)
    {q : EngQ} (hqueue : s.dev.queue (queueKey die (classCode cls) queue) = q)
    (hen : q.en = true) (hc : q.count < 8192) (hs : q.submit < 2048) (hj : q.job < 64) :
    ∃ w, exec (.qEnClear ch h die cls queue) s = .next (s.commit w) ∧
      w.dev.queue (queueKey die (classCode cls) queue) = { q with en := false } := by
  have hexec : exec (.qEnClear ch h die cls queue) s = writeTo ch h (qCfgReg die cls queue) 0#32 0x80000000#32 s :=
    if_pos (by simp [hd, hq])
  refine ⟨_, hexec.trans (writeTo_admitted hadm (qCfgReg_lt cls hd hq) (writeReg_qCfg _ cls hd hq _ _)), ?_⟩
  rw [reply_queue]
  exact writeQCfg_disable ((taken_queue ..).trans hqueue) hen hc hs hj

theorem exec_lowWordLatchRead {ch v : Nat} {h : Header} {addr : Word} {s : State} {c : Chan}
    (hadm : Admitted regRead ch ⟨h, toLe 4 addr.toNat ++ toLe 2 1 ++ zeros 2⟩ s c) (hv : s.dev.wide addr.toNat = some v) :
    ∃ w : W, exec (.lowWordLatchRead ch h addr) s = .next (s.commit (w.reply ch h 0x0C00 0 0 (toLe 4 (v % 2 ^ 32)))) ∧
      Tab.get w.dev.latch (addr.toNat + 4) = some (v / 2 ^ 32) := by
  have haddr : fld (toLe 4 addr.toNat ++ toLe 2 1 ++ zeros 2) 0 4 = addr.toNat := by
    rw [List.append_assoc, fld_toLe_append]; exact Nat.mod_eq_of_lt addr.isLt
  have hcount : fld (toLe 4 addr.toNat ++ toLe 2 1 ++ zeros 2) 4 2 = 1 := by
    have hskip := fld_append_right (toLe 4 addr.toNat) (toLe 2 1 ++ zeros 2) 0 2
    rw [toLe_length] at hskip
    rw [List.append_assoc, hskip, fld_toLe_append]
    rfl
  have hread : (s.taken ch ⟨h, toLe 4 addr.toNat ++ toLe 2 1 ++ zeros 2⟩ c.psn).dev.wide addr.toNat = some v := by rwa [taken_wide]
  have hrun := run_regRead hadm (vs := [v % 2 ^ 32]) (by rw [haddr, hcount, readRegs_one, readReg_wide hread])
  rw [List.flatMap_singleton] at hrun
  exact ⟨_, hrun, by simp⟩

/-- Settles O19: each clause is the row's own lemma above. -/
theorem registerCommandsAct : Obligations.RegisterCommandsAct := by
  unfold Obligations.RegisterCommandsAct
  refine ⟨?capSet, ?ceiling, ?stepLim, ?tjCfg, ?cxlCfg, ?ethCfg, ?coreSeed, ?embSeed, ?qEnSet, ?qEnClear, ?latch, ?write, ?read⟩
  case capSet => exact fun _ _ _ _ _ _ hadm => exec_pwrCapSetWrite hadm
  case ceiling =>
    intro s ch h v m c hadm x hraise hleft
    rw [exec_pwrCeilingWrite hadm hraise hleft, burnCeiling_eq (taken_slotReads ..)]
  case stepLim => exact fun _ _ _ _ _ _ hadm => exec_pwrStepLimWrite hadm
  case tjCfg => exact fun _ _ _ _ _ _ hadm => exec_lockBitSet_pwr hadm
  case cxlCfg => exact fun _ _ _ _ _ _ hadm => exec_lockBitSet_cxl hadm
  case ethCfg => exact fun s ch h v m _ hadm hok => ⟨exec_ethCfgWrite hadm hok, exec_lockBitSet_eth ch h v m s⟩
  case coreSeed => exact fun _ _ _ _ _ _ _ hc hb hadm => exec_coreSrSeedWrite hc hb hadm
  case embSeed => exact fun _ _ _ _ _ _ _ hd hadm => exec_embSrSeedWrite hd hadm
  case qEnSet => exact fun _ _ _ _ _ _ _ hd hq hadm hen hlo hhi hs hj => exec_qEnSet hd hq hadm rfl hen hlo hhi hs hj
  case qEnClear => exact fun _ _ _ _ _ _ _ hd hq hadm hen hc hs hj => exec_qEnClear hd hq hadm rfl hen hc hs hj
  case latch => exact fun _ _ _ _ _ _ hadm hv => exec_lowWordLatchRead hadm hv
  case write => exact fun _ _ _ _ hadm => run_regWrite hadm rfl
  case read => exact fun _ _ _ _ hadm => run_regRead hadm rfl

end Machine
end Sys2Proof
end

section
/-! PROOFS. Every command commits one working copy (R39): what a step runs, what a command leaves of the queue and of what was sent, and
what the rows of Table 2.9 make of their packets. -/

namespace Sys2Proof.Machine

/-- Settles O44: the queue's front is what `step` takes. -/
theorem stepRunsTheFrontCommand : Obligations.StepRunsTheFrontCommand := by
  unfold Obligations.StepRunsTheFrontCommand
  intro s c rest h
  simp only [step, h]

/-- Every command, whatever its operands, ends in the commit of a working copy. -/
theorem exec_commits (c : Instr) (s : State) : ∃ w, exec c s = .next (s.commit w) := by
  cases c with
  | coreSrSeedWrite ch h core v m =>
    by_cases hin : core < 256
    · exact ⟨_, if_pos hin⟩
    · exact ⟨_, if_neg hin⟩
  | embSrSeedWrite ch h die v m =>
    by_cases hin : die < 4
    · exact ⟨_, if_pos hin⟩
    · exact ⟨_, if_neg hin⟩
  | qEnSet ch h die cls queue | qEnClear ch h die cls queue =>
    by_cases hin : (die < 4 && queue < 8) = true
    · exact ⟨_, if_pos hin⟩
    · exact ⟨_, if_neg hin⟩
  | _ => exact ⟨_, rfl⟩

/-- Settles O46: a commit keeps the queue and appends the working copy's messages. -/
theorem commandsAnswerAndKeepTheQueue : Obligations.CommandsAnswerAndKeepTheQueue := by
  unfold Obligations.CommandsAnswerAndKeepTheQueue
  intro c s
  obtain ⟨w, h⟩ := exec_commits c s
  exact ⟨_, h, s.commit_pending w, List.prefix_append ..⟩

/-- A row of Table 2.9 commits the outcome of its packet: as it is, with the graphs settled (R486), or after the commands whose pages have
come (R143). -/
theorem exec_packet {i : Instr} {sp : OpSpec} {ch : Nat} {p : Packet} (h : packetOf i = some (sp, ch, p)) (s : State) :
    ∃ w, exec i s = .next (s.commit w) ∧ Ends (hostCommand sp ch p s.work) w := by
  cases i with
  | bufProtect | bufFill | pageSupply => cases h; exact ⟨_, rfl, .inr (.inr rfl)⟩
  | syncSignal | syncWait | resultRingConfig | resultRelease | strmArm | strmStop | strmResume | graphLoad | graphRun | graphDrain
  | graphFrog | jobAbort | deviceDrain | deviceReset | handleDestroy | linkSpareSwap => cases h; exact ⟨_, rfl, .inr (.inl rfl)⟩
  | _ => cases h <;> exact ⟨_, rfl, .inl rfl⟩

/-- Settles O9: an admitted packet has its opcode's effect on the working copy in which it is taken. -/
theorem admittedPacketsHaveTheirEffect : Obligations.AdmittedPacketsHaveTheirEffect := by
  unfold Obligations.AdmittedPacketsHaveTheirEffect
  intro i sp ch p s c hi hadm
  rw [← hostCommand_admitted hadm]
  exact exec_packet hi s

/-- Settles O10: a rejected packet only answers. -/
theorem rejectedPacketsOnlyReply : Obligations.RejectedPacketsOnlyReply := by
  unfold Obligations.RejectedPacketsOnlyReply
  intro i sp ch p s c f hi hrej
  obtain ⟨w, hw, hends⟩ := exec_packet hi s
  rw [hostCommand_rejected hrej] at hends
  exact ⟨w, hw, hends⟩

/-! ### Checks 1 to 4 (R39, R40) -/

/-- Steps 1 to 4 of Table 2.3a once the packet has been acknowledged on a channel that takes packets; `go` begins a packet that
passes. -/
def checkPacket (ch op : Nat) (p : Packet) (c : Chan) (go : Bool → W → W) (w : W) : W :=
  if p.hdr.magic != 0x5356 then w.onEth fun e => { e with cmdDrop := satAdd 32 e.cmdDrop 1 }
  else if crc32c (packetCrcBytes p op) != p.hdr.hdrCrc.toNat then w.reply ch p.hdr op 0x0E (crc32c (packetCrcBytes p op)) []
  else match headerBad p with
    | some off => w.reply ch p.hdr op 0x04 off []
    | none =>
      if c.expSeq.getD p.hdr.seq.toNat != p.hdr.seq.toNat then
        w.reply ch p.hdr op 0x04 0x0008 (toLe 4 (c.expSeq.getD p.hdr.seq.toNat))
      else go (c.state = 2) (w.onChan ch fun k => { k with expSeq := some ((c.expSeq.getD p.hdr.seq.toNat + 1) % 2 ^ 32) })

section
variable {ch op : Nat} {p : Packet} {s : State} {c : Chan} {go : Bool → W → W} {w : W}

/-- A packet on an open channel is acknowledged and checked. -/
theorem arrive_open (h : Open s ch c) : arrive ch op p go s.work = checkPacket ch op p c go (s.acked ch c.psn) := by
  obtain ⟨hc, hk, h6, hoff, hup, ha, hq⟩ := h
  have ha' : ¬ 4096 ≤ s.dev.admitted.length := by omega
  have hq' : ¬ c.queueLimit ≤ (s.dev.admitted.filter (· = ch)).length := by omega
  simp only [arrive, State.work_dev, hc, hk, h6, hoff, hup, ha', hq', bne_self_eq_false, Bool.false_eq_true, decide_false, Bool.or_self,
    if_false]
  rfl

theorem checkPacket_magic (hm : p.hdr.magic ≠ 0x5356) :
    checkPacket ch op p c go w = w.onEth fun e => { e with cmdDrop := satAdd 32 e.cmdDrop 1 } := if_pos (bne_iff_ne.mpr hm)

theorem checkPacket_crc (hm : p.hdr.magic = 0x5356) (hcrc : crc32c (packetCrcBytes p op) ≠ p.hdr.hdrCrc.toNat) :
    checkPacket ch op p c go w = w.reply ch p.hdr op 0x0E (crc32c (packetCrcBytes p op)) [] := by
  simp [checkPacket, hm, hcrc]

theorem checkPacket_header (h : Intact op p) {off : Nat} (hb : headerBad p = some off) :
    checkPacket ch op p c go w = w.reply ch p.hdr op 0x04 off [] := by
  simp [checkPacket, h.magic, h.crc, hb]

theorem checkPacket_seq (h : Intact op p) (hb : headerBad p = none) {x : Nat} (hx : c.expSeq = some x) (hne : x ≠ p.hdr.seq.toNat) :
    checkPacket ch op p c go w = w.reply ch p.hdr op 0x04 0x0008 (toLe 4 x) := by
  simp [checkPacket, h.magic, h.crc, hb, hx, hne]

/-- A host command on an open channel: its packet is acknowledged and checked. -/
theorem hostCommand_open {sp : OpSpec} (h : Open s ch c) : hostCommand sp ch p s.work =
    checkPacket ch sp.op p c (fun auth w => beginCmd sp ⟨ch, p.hdr, sp.op, p.params⟩ auth w) (s.acked ch c.psn) := arrive_open h

end

/-- Settles O53: each check that fails decides, those before it having passed. -/
theorem packetChecksDecideInOrder : Obligations.PacketChecksDecideInOrder := by
  unfold Obligations.PacketChecksDecideInOrder
  intro i sp ch p s c hi hopen
  obtain ⟨e, he, hends⟩ := exec_packet hi s
  rw [hostCommand_open hopen] at hends
  refine ⟨fun hm => ⟨e, he, ?_⟩, fun hm hcrc => ⟨e, he, ?_⟩, fun off hin hb => ⟨e, he, ?_⟩, fun x hin hb hx hne => ⟨e, he, ?_⟩⟩
  · rwa [checkPacket_magic hm] at hends
  · rwa [checkPacket_crc hm hcrc] at hends
  · rwa [checkPacket_header hin hb] at hends
  · rwa [checkPacket_seq hin hb hx hne] at hends

/-! ### The expected SEQ (R40) -/

/-- The expected SEQ of a channel. -/
def Dev.expSeq (d : Dev) (ch : Nat) : Option Nat := (Tab.get d.chans ch).bind (·.expSeq)

/-- A message leaves every channel as it is. -/
@[simp] theorem sendOn_chans (w : W) (ch : Nat) (t : Tx) : (w.sendOn ch t).dev.chans = w.dev.chans := by
  obtain ⟨l, h⟩ := sendOn_dev w ch t
  rw [h]

/-- A change of a channel that keeps its expected SEQ keeps that of every channel. -/
theorem onChan_expSeq (w : W) (ch n : Nat) {f : Chan → Chan} (hf : ∀ c, (f c).expSeq = c.expSeq) :
    (w.onChan ch f).dev.expSeq n = w.dev.expSeq n := by
  simp only [Dev.expSeq, W.onChan_dev, Tab.get_mod]
  split
  · next h => subst h; cases Tab.get w.dev.chans n <;> simp [hf]
  · rfl

@[simp] theorem sendOn_expSeq (w : W) (ch n : Nat) (t : Tx) : (w.sendOn ch t).dev.expSeq n = w.dev.expSeq n := by
  simp [Dev.expSeq]

@[simp] theorem initiate_expSeq (w : W) (ch k n : Nat) (msg : Nat → Tx) (f : Option (Nat × Nat)) :
    (w.initiate ch k msg f).dev.expSeq n = w.dev.expSeq n := by
  simp only [W.initiate]
  split
  · split
    · rfl
    · rw [sendOn_expSeq]; exact onChan_expSeq _ _ _ fun _ => rfl
  · rfl

@[simp] theorem reply_expSeq (w : W) (ch n : Nat) (h : Header) (op st d : Nat) (b : List Byte) :
    (w.reply ch h op st d b).dev.expSeq n = w.dev.expSeq n := by
  simp only [W.reply]
  split
  · rfl
  · exact initiate_expSeq ..

@[simp] theorem acked_expSeq (s : State) (ch psn n : Nat) : (s.acked ch psn).dev.expSeq n = s.dev.expSeq n := by
  rw [State.acked, sendOn_expSeq]; exact onChan_expSeq _ _ _ fun _ => rfl

/-- A packet taken moves the expected SEQ of its channel past it. -/
theorem taken_expSeq {s : State} {ch : Nat} {c : Chan} (h : Tab.get s.dev.chans ch = some c) (p : Packet) (psn : Nat) :
    (s.taken ch p psn).dev.expSeq ch = some ((p.hdr.seq.toNat + 1) % 2 ^ 32) := by
  simp [Dev.expSeq, State.taken, State.acked, h]

/-- A packet that fails one of checks 1 to 4 leaves the expected SEQ of every channel. -/
theorem checkPacket_expSeq {ch op : Nat} {p : Packet} {s : State} {c : Chan} (hopen : Open s ch c) (hbad : ¬ Sound op ch p s c)
    (go : Bool → W → W) (w : W) (n : Nat) : (checkPacket ch op p c go w).dev.expSeq n = w.dev.expSeq n := by
  by_cases hm : p.hdr.magic = 0x5356
  · by_cases hcrc : crc32c (packetCrcBytes p op) = p.hdr.hdrCrc.toNat
    · cases hb : headerBad p with
      | some off => rw [checkPacket_header ⟨hm, hcrc⟩ hb, reply_expSeq]
      | none =>
        cases hx : c.expSeq with
        | none => exact absurd ⟨hopen, ⟨hm, hcrc⟩, hb, by simp [hx]⟩ hbad
        | some x =>
          have hne : x ≠ p.hdr.seq.toNat := fun he => hbad ⟨hopen, ⟨hm, hcrc⟩, hb, by simp [hx, he]⟩
          rw [checkPacket_seq ⟨hm, hcrc⟩ hb hx hne, reply_expSeq]
    · rw [checkPacket_crc hm hcrc, reply_expSeq]
  · rw [checkPacket_magic hm]; rfl

/-- Settles O54: checks 1 to 4 decide what a channel expects. -/
theorem expectedSeqAdvances : Obligations.ExpectedSeqAdvances := by
  unfold Obligations.ExpectedSeqAdvances
  refine ⟨?first, ?later, ?past, ?kept⟩
  case first => exact fun op ch p s c hopen hin hb hx => ⟨hopen, hin, hb, by simp [hx]⟩
  case later =>
    intro op ch p s c x hopen hx
    refine ⟨fun h => ⟨h.intact, h.header, ?_⟩, fun ⟨hin, hb, hs⟩ => ⟨hopen, hin, hb, by simp [hx, hs]⟩⟩
    have := h.seq
    rw [hx] at this
    exact this.symm
  case past => exact fun op ch p s c h => taken_expSeq h.chan.chan p c.psn
  case kept =>
    intro i sp ch p s c hi hopen hbad
    obtain ⟨e, he, hends⟩ := exec_packet hi s
    refine ⟨_, e, he, hends, ?_⟩
    rw [hostCommand_open hopen]
    refine (checkPacket_expSeq hopen hbad _ _ ch).trans ?_
    rw [acked_expSeq, Dev.expSeq, hopen.chan]
    rfl

end Sys2Proof.Machine
end

section
/-! PROOFS. What a reply repeats of the header (R37), the generations of handles (R61), and the register HUB_DEV_STATE (R58). -/

namespace Sys2Proof

/-! ### Fields of a concatenation -/

/-- Bytes past a first part are bytes of the rest. -/
theorem slice_append_skip {as bs : List Byte} {off : Nat} (h : as.length ≤ off) (n : Nat) :
    slice (as ++ bs) off n = slice bs (off - as.length) n := by
  obtain ⟨k, rfl⟩ := Nat.exists_eq_add_of_le h
  simp [slice, List.drop_length_add_append]

/-- A field past a first part is a field of the rest. -/
theorem fld_append_skip {as bs : List Byte} {off : Nat} (h : as.length ≤ off) (n : Nat) :
    fld (as ++ bs) off n = fld bs (off - as.length) n := by
  rw [fld, slice_append_skip h, fld]

/-- The first part, read whole. -/
theorem slice_append_self {as : List Byte} {n : Nat} (h : as.length = n) (bs : List Byte) : slice (as ++ bs) 0 n = as := by
  subst h; simp [slice]

/-- A field of a word of the same width reads the word back. -/
theorem fld_toLe_toNat {n : Nat} (x : BitVec (8 * n)) (bs : List Byte) : fld (toLe n x.toNat ++ bs) 0 n = x.toNat := by
  have hpow : 256 ^ n = 2 ^ (8 * n) := by rw [pow_mul]; rfl
  rw [fld_toLe_append, hpow, Nat.mod_eq_of_lt x.isLt]

theorem padTo_self {n : Nat} {bs : List Byte} (h : bs.length = n) : padTo n bs = bs := by
  subst h; simp [padTo, zeros]

@[simp] theorem padTo_length (n : Nat) (bs : List Byte) : (padTo n bs).length = n := by
  simp only [padTo, List.length_append, List.length_take, zeros_length]; omega

/-- The first bytes of a padded sequence are those of the sequence. -/
theorem take_padTo {m n : Nat} {bs : List Byte} (hm : m ≤ n) (hb : m ≤ bs.length) : (padTo n bs).take m = bs.take m := by
  rw [padTo, List.take_append_of_le_length (by rw [List.length_take]; omega), List.take_take, min_eq_left hm]

namespace Machine

/-! ### Replies (R37, Tables 2.1 and 2.2) -/

/-- The first 60 bytes of a reply on the wire. -/
def Reply.head (r : Reply) : List Byte :=
  toLe 2 r.hdr.magic.toNat ++ (toLe 1 r.hdr.version.toNat ++ (toLe 1 r.status ++ (toLe 2 r.op ++ (toLe 2 r.payload.length ++
    (toLe 4 r.hdr.seq.toNat ++ (toLe 4 r.hdr.target.toNat ++ (toLe 1 r.hdr.jobTag.toNat ++ (r.hdr.reserved.take 3 ++
      (toLe 4 r.detail ++ (toLe 1 r.devState ++ r.hdr.reserved.drop 8))))))))))

/-- A reply on the wire is its head, the CRC-32C of the head, and the payload. -/
theorem Reply.wire_eq {r : Reply} (h : r.hdr.reserved.length = 43) :
    r.wire = r.head ++ (toLe 4 (crc32c r.head) ++ r.payload) := by
  have hmid : (r.hdr.reserved.take 3 ++ (toLe 4 r.detail ++ (toLe 1 r.devState ++ r.hdr.reserved.drop 8))).length = 43 := by simp [h]
  simp only [Reply.wire, headerBytes, List.append_assoc, padTo_self h, padTo_self hmid, Reply.head]

theorem Reply.head_length {r : Reply} (h : r.hdr.reserved.length = 43) : r.head.length = 60 := by simp [Reply.head, h]

/-- Settles O55: each field is read back where the header puts it. -/
theorem repliesRepeatTheHeader : Obligations.RepliesRepeatTheHeader := by
  unfold Obligations.RepliesRepeatTheHeader
  refine ⟨fun r h => ?_, fun w ch op hdr b hack => ?_⟩
  · have hhead := Reply.head_length h
    have h3 : (r.hdr.reserved.take 3).length = 3 := by simp [h]
    have h35 : (r.hdr.reserved.drop 8).length = 35 := by simp [h]
    have hcrc : slice r.wire 0 60 = r.head := by rw [Reply.wire_eq h, slice_append_self hhead]
    rw [hcrc, Reply.wire_eq h]
    refine ⟨?length, ?magic, ?version, ?status, ?op, ?len, ?seq, ?target, ?tag, ?low, ?detail, ?state, ?high, ?crc, ?payload⟩
    case length => simp [hhead, ← Nat.add_assoc]
    case crc => simp [fld_append_skip, hhead, fld_toLe_append]
    case payload => rw [← List.append_assoc]; exact List.drop_left' (by simp [hhead])
    case magic | version | seq | target | tag => simp [Reply.head, fld_append_skip, fld_toLe_toNat]
    case low | high => simp [Reply.head, slice_append_skip, slice_append_self, h3, h35]
    case status | op | len | detail | state => simp [Reply.head, fld_append_skip, fld_toLe_append, h3]
  · simp [W.reply, hack]

/-! ### Generations (R61) -/

/-- Settles O58: the generation issued is put under its index's own key. -/
theorem generationsAdvance : Obligations.GenerationsAdvance := by
  unfold Obligations.GenerationsAdvance
  intro w kind i hi
  refine ⟨fun p hp h1 h2 => ?_, fun hnone => ?_, ?_, fun kind' j hj hne => ?_⟩
  · have hgen : (w.nextGen kind i).1 = if p = 4095 then 1 else p + 1 := by simp only [W.nextGen, hp]
    rw [hgen]
    refine ⟨rfl, ?_, ?_⟩ <;> split <;> omega
  · simp only [W.nextGen, hnone]
  · exact Tab.get_put_self ..
  · exact Tab.get_put_ne _ (fun h => hne (by omega)) _

/-! ### HUB_DEV_STATE (R58, Table 2.7) -/

theorem DevState.code_lt (s : DevState) : s.code < 16 := by cases s <;> decide

/-- Settles O49: the register is the sum of its fields at their places; no write reaches it. -/
theorem hubDevStateReportsTheState : Obligations.HubDevStateReportsTheState := by
  unfold Obligations.HubDevStateReportsTheState
  refine ⟨fun w hprev htags => ?_, fun w v m => rfl⟩
  have hcode := w.dev.hub.st.code_lt
  have hdeg : b2n w.dev.hub.degraded ≤ 1 := by cases w.dev.hub.degraded <;> decide
  have hbit : (b2n w.dev.hub.degraded == 1) = w.dev.hub.degraded := by cases w.dev.hub.degraded <;> rfl
  refine ⟨w.dev.hub.st.code + 16 * b2n w.dev.hub.degraded + 256 * w.dev.hub.prev + 65536 * w.dev.runningTags,
    readRegs_plain rfl rfl (Nat.mod_eq_of_lt ?_), ?_, ?_, ?_, ?_, ?_, ?_⟩
  · show w.dev.hub.st.code + 16 * b2n w.dev.hub.degraded + 256 * w.dev.hub.prev + 65536 * w.dev.runningTags < 2 ^ 32
    omega
  · omega
  · simp only [bits]; omega
  · exact (congrArg (· == 1) (by omega)).trans hbit
  all_goals simp only [bits]; omega

end Machine
end Sys2Proof
end

section
/-! PROOFS. The queries of Table 2.9 (R73 to R76, R80 and the rules of the other chapters): what their admission gives, that they only
answer, and what the records of five of them hold. -/

namespace Sys2Proof.Machine

/-! ### What a packet that passes Table 2.3a tells -/

/-- A handle that passes R62 is of a kind that is accepted and names the live object of its generation. -/
theorem handleBad_none {d : Dev} {kinds : List Nat} {h : Nat} (hb : d.handleBad kinds h = none) :
    hKind h ∈ kinds ∧ d.objGen (hKind h) (hIdx h) = some (hGen h) := by
  simp only [Dev.handleBad] at hb
  split at hb
  · cases hb
  next hk =>
    split at hb
    · cases hb
    · split at hb
      · cases hb
      next g hg =>
        split at hb
        · next hgen => exact ⟨by simpa using hk, hgen ▸ hg⟩
        · cases hb

/-- What steps 8 to 12 of Table 2.3a found where none of them fails. -/
structure Passes (sp : OpSpec) (c : Ctx) (w : W) : Prop where
  target : w.dev.handleBad sp.targets c.target = none
  params : sp.check c w = none
  legal : sp.set.allows w.dev.hub.st = true
  free : sp.conflict c w = none
  room : sp.res c w = none

theorem admitFail_none {sp : OpSpec} {c : Ctx} {auth : Bool} {w : W} (h : admitFail sp c auth w = none) : Passes sp c w := by
  simp only [admitFail] at h
  repeat' split at h
  any_goals cases h
  exact ⟨‹_›, ‹_›, by simpa using ‹¬(!sp.set.allows w.dev.hub.st) = true›, ‹_›, h⟩

theorem Admitted.passes {sp : OpSpec} {ch : Nat} {p : Packet} {s : State} {c : Chan} (h : Admitted sp ch p s c) :
    Passes sp (ctxOf sp ch p) (s.taken ch p c.psn) := admitFail_none h.checks

/-- TARGET of an admitted command whose opcode takes one kind names an object that lives in the kind's table. -/
theorem Passes.object {sp : OpSpec} {c : Ctx} {w : W} (h : Passes sp c w) {k : Nat} (hk : sp.targets = [k]) {α : Type} {t : Tab α}
    {gen : α → Nat} (ht : w.dev.objGen k c.idx = (Tab.get t c.idx).map gen) : ∃ x, Tab.get t c.idx = some x := by
  obtain ⟨hkind, hgen⟩ := handleBad_none h.target
  rw [hk, List.mem_singleton] at hkind
  rw [hkind, ← Ctx.idx, ht, Option.map_eq_some_iff] at hgen
  exact hgen.imp fun _ hx => hx.1

/-- An admitted command that ends as its effect leaves it. -/
theorem run_admitted {sp : OpSpec} {ch : Nat} {p : Packet} {s : State} {c : Chan} (h : Admitted sp ch p s c) :
    run s (hostCommand sp ch p) = .next (s.commit (sp.body (ctxOf sp ch p) (s.taken ch p c.psn))) := by
  rw [run_next, hostCommand_admitted h]

/-- An admitted command after which the graphs settle. -/
theorem runT_admitted {sp : OpSpec} {ch : Nat} {p : Packet} {s : State} {c : Chan} (h : Admitted sp ch p s c) :
    runT s (hostCommand sp ch p) = .next (s.after (sp.body (ctxOf sp ch p) (s.taken ch p c.psn))) := by
  rw [runT_next, hostCommand_admitted h]

/-! ### The queries -/

section
variable {c : Ctx} {w : W}

theorem strmQuery_answers (h : Passes strmQuery c w) : ∃ b, strmQuery.body c w = w.ok c b := by
  obtain ⟨x, hx⟩ := h.object rfl (gen := Strm.gen) rfl
  simp only [strmQuery, hx]
  exact ⟨_, rfl⟩

theorem graphQuery_answers (h : Passes graphQuery c w) : ∃ b, graphQuery.body c w = w.ok c b := by
  obtain ⟨x, hx⟩ := h.object rfl (gen := Graph.gen) rfl
  simp only [graphQuery, hx]
  exact ⟨_, rfl⟩

/-- The record of SYNC_READ begins with the object's value (R296). -/
theorem syncRead_answers {y : Sync} (hy : Tab.get w.dev.syncs c.idx = some y) :
    ∃ b, syncRead.body c w = w.ok c b ∧ b.take 8 = toLe 8 y.val := by
  simp only [syncRead, hy]
  refine ⟨_, rfl, ?_⟩
  simp only [List.append_assoc]
  exact List.take_left' (toLe_length ..)

theorem fwUpdateStatus_answers (h : Passes fwUpdateStatus c w) : ∃ b, fwUpdateStatus.body c w = w.ok c b := by
  obtain ⟨x, hx⟩ := h.object rfl (gen := Upd.gen) rfl
  simp only [fwUpdateStatus, Ctx.upd, hx]
  exact ⟨_, rfl⟩

/-- An admitted STORE_READ names a record that is there (R611). -/
theorem storeRead_answers (h : Passes storeRead c w) : ∃ b, storeRead.body c w = w.ok c b := by
  have hroom := h.room
  cases hrec : w.dev.readRec (c.f 0 2) (c.f 2 1) (c.f 4 4) with
  | none => simp [storeRead, hrec] at hroom
  | some r =>
    simp only [storeRead, hrec]
    exact ⟨_, rfl⟩

end

/-- An admitted command whose effect is its answer. -/
theorem run_query {sp : OpSpec} {ch : Nat} {p : Packet} {s : State} {c : Chan} (h : Admitted sp ch p s c)
    (hb : ∃ b, sp.body (ctxOf sp ch p) (s.taken ch p c.psn) = (s.taken ch p c.psn).ok (ctxOf sp ch p) b) :
    ∃ b, run s (hostCommand sp ch p) = .next (s.commit ((s.taken ch p c.psn).reply ch p.hdr sp.op 0 0 b)) := by
  obtain ⟨b, hb⟩ := hb
  exact ⟨b, (run_admitted h).trans (by rw [hb]; rfl)⟩

/-- Settles O11: a query's effect is its reply; one about an object or a record finds it, since its admission found it. -/
theorem queriesOnlyReply : Obligations.QueriesOnlyReply := by
  unfold Obligations.QueriesOnlyReply
  intro i sp ch p s c hi hop hadm
  cases i with
  | nop | deviceInfo | deviceStatus | handleQuery | handleList | placeQuery | memRetireQuery | pwrTelemetryRead | pwrEnergyRead
  | secAttest | linkStatus | fgroupStatus | swatchResult | errlogRead | storeStatus => cases hi; exact run_query hadm ⟨_, rfl⟩
  | strmQuery => cases hi; exact run_query hadm (strmQuery_answers hadm.passes)
  | graphQuery => cases hi; exact run_query hadm (graphQuery_answers hadm.passes)
  | syncRead =>
    cases hi
    obtain ⟨y, hy⟩ := hadm.passes.object rfl (gen := Sync.gen) rfl
    obtain ⟨b, hb, -⟩ := syncRead_answers hy
    exact run_query hadm ⟨b, hb⟩
  | fwUpdateStatus => cases hi; exact run_query hadm (fwUpdateStatus_answers hadm.passes)
  | storeRead => cases hi; exact run_query hadm (storeRead_answers hadm.passes)
  | _ => cases hi <;> exact absurd hop (by decide)

/-! ### What five records hold -/

@[simp] theorem taken_hub (s : State) (ch : Nat) (p : Packet) (psn : Nat) : (s.taken ch p psn).dev.hub = s.dev.hub :=
  taken_keeps (·.hub) (fun _ _ _ => rfl) ..

@[simp] theorem taken_syncs (s : State) (ch : Nat) (p : Packet) (psn : Nat) : (s.taken ch p psn).dev.syncs = s.dev.syncs :=
  taken_keeps (·.syncs) (fun _ _ _ => rfl) ..

@[simp] theorem taken_clk (s : State) (ch : Nat) (p : Packet) (psn : Nat) : (s.taken ch p psn).dev.clk = s.dev.clk :=
  taken_keeps (·.clk) (fun _ _ _ => rfl) ..

/-- DEVICE_INFO begins with the serial number (Table 2.9a). -/
theorem info_take (d : Dev) : d.info.take 8 = toLe 8 d.fuse.serial := by
  rw [Dev.info, take_padTo (by decide) (by simp)]
  simp only [List.append_assoc]
  exact List.take_left' (toLe_length ..)

/-- DEVICE_STATUS begins with the state byte, the state before and the step in force (Table 2.9b). -/
theorem status_take (d : Dev) : d.status.take 3 = toLe 1 d.stateByte ++ toLe 1 d.hub.prev ++ toLe 1 d.pwr.step := by
  rw [Dev.status, take_padTo (by decide) (by simp)]
  simp only [List.append_assoc]
  rw [← List.append_assoc, ← List.append_assoc]
  exact List.take_left' (by simp)

/-- Settles O12: each record is read off its query's reply. -/
theorem queryRecordsHold : Obligations.QueryRecordsHold := by
  unfold Obligations.QueryRecordsHold
  refine ⟨?nop, ?info, ?status, ?sync, ?energy⟩
  case nop => exact fun s ch p c h => run_admitted h
  case info =>
    intro s ch p c h
    exact ⟨_, run_admitted h, padTo_length .., by rw [info_take, taken_fuse]⟩
  case status =>
    intro s ch p c h
    refine ⟨_, run_admitted h, padTo_length .., ?_⟩
    rw [status_take, taken_pwr, taken_hub, Dev.stateByte, taken_hub]
  case sync =>
    intro s ch p c y h hy
    have hy' : Tab.get (s.taken ch p c.psn).dev.syncs (ctxOf syncRead ch p).idx = some y := by rw [taken_syncs]; exact hy
    obtain ⟨b, hb, htake⟩ := syncRead_answers hy'
    exact ⟨b, (run_admitted h).trans (by rw [hb]; rfl), htake⟩
  case energy =>
    intro s ch p c h
    refine ⟨_, run_admitted h, ?_, ?_, ?_⟩
    · simp
    · rw [taken_clk]
      simp only [List.append_assoc]
      exact List.take_left' (toLe_length ..)
    · rw [taken_pwr]
      exact List.drop_left' (by simp)

end Sys2Proof.Machine
end

section
/-! PROOFS. The console's changes (R651 to R662): a line that is typed, the gate of Table 21.1, and what each command does behind it. -/

namespace Sys2Proof.Machine

/-! ### The gate of the console -/

section
variable {s : State} {line : String} {needs : DevState → Bool} {rom : Bool} {go : W → W}

/-- A command of the console in a state of its Needs column runs on the line typed. -/
theorem console_runs (hup : s.dev.consoleUp = true) (hrom : s.dev.svc.rom = false) (hst : needs s.dev.hub.st = true) :
    s.work.console line needs rom go = go (s.typed line) := by
  simp only [W.console, State.work_dev, hup, W.onSvc_dev, W.line, W.send_dev, hrom, hst, Bool.not_true, Bool.false_and,
    Bool.false_eq_true, if_false, if_true]
  rfl

/-- A command of the console in any other state answers STATE_CONFLICT. -/
theorem console_refused (hup : s.dev.consoleUp = true) (hrom : s.dev.svc.rom = false) (hst : needs s.dev.hub.st = false) :
    s.work.console line needs rom go = (s.typed line).final 0x06 ((s.typed line).dev.conflictDetail 0) := by
  simp only [W.console, State.work_dev, hup, W.onSvc_dev, W.line, W.send_dev, hrom, hst, Bool.not_true, Bool.false_and,
    Bool.false_eq_true, if_false]
  rfl

theorem run_console (hup : s.dev.consoleUp = true) (hrom : s.dev.svc.rom = false) (hst : needs s.dev.hub.st = true) :
    run s (fun w => w.console line needs rom go) = .next (s.commit (go (s.typed line))) := by
  rw [run_next, console_runs hup hrom hst]

theorem runT_console (hup : s.dev.consoleUp = true) (hrom : s.dev.svc.rom = false) (hst : needs s.dev.hub.st = true) :
    runT s (fun w => w.console line needs rom go) = .next (s.after (go (s.typed line))) := by
  rw [runT_next, console_runs hup hrom hst]

theorem runT_console_refused (hup : s.dev.consoleUp = true) (hrom : s.dev.svc.rom = false) (hst : needs s.dev.hub.st = false) :
    runT s (fun w => w.console line needs rom go) =
      .next (s.after ((s.typed line).final 0x06 ((s.typed line).dev.conflictDetail 0))) := by
  rw [runT_next, console_refused hup hrom hst]

end

/-! ### What a line typed keeps -/

section
variable (s : State) (line : String)

@[simp] theorem typed_hub : (s.typed line).dev.hub = s.dev.hub := rfl
@[simp] theorem typed_pin : (s.typed line).dev.pin = s.dev.pin := rfl
@[simp] theorem typed_fuse : (s.typed line).dev.fuse = s.dev.fuse := rfl
@[simp] theorem typed_cmds : (s.typed line).dev.cmds = s.dev.cmds := rfl
@[simp] theorem typed_unsealed : (s.typed line).dev.svc.unsealed = s.dev.svc.unsealed := rfl
@[simp] theorem typed_regUp (a : Nat) : (s.typed line).dev.regUp a = s.dev.regUp a := rfl
@[simp] theorem typed_swatchConflict (m : Nat) : (s.typed line).dev.swatchConflict m = s.dev.swatchConflict m := rfl

end

theorem inService_service {st : DevState} (h : st = .service) : inService st = true := decide_eq_true h

/-- The command under which the console's swatches pend from a time on (R660). -/
def consoleSwatchCmd (begun : Nat) : PendCmd where
  ch := consoleCh
  hdr :=
    { magic := 0x5356, version := 1, flags := 1, paramLen := 0, seq := 0, target := 0, jobTag := 0, reserved := zeros 43, hdrCrc := 0 }
  op := 0x0A00
  begun := begun
  interim := false
  wait := .swatch

/-- Settles O43: behind the gate each command's own conditions decide. -/
theorem consoleCommandsAct : Obligations.ConsoleCommandsAct := by
  unfold Obligations.ConsoleCommandsAct
  refine ⟨?plain, ?baud, ?enter, ?noEnter, ?resetDie, ?leave, ?unsealed, ?step, ?island, ?regWr, ?swatch, ?cmd⟩
  case plain => exact fun s hup hrom => ⟨run_console hup hrom rfl, runT_console hup hrom rfl⟩
  case baud =>
    intro rate s hup hrom
    refine ⟨fun hin => (run_console hup hrom rfl).trans ?_, fun hout => (run_console hup hrom rfl).trans ?_⟩
    · have hrate : baudRates.contains rate = true := List.contains_iff_mem.mpr hin
      rw [if_pos hrate]
    · have hrate : ¬ baudRates.contains rate = true := fun h => hout (List.contains_iff_mem.mp h)
      rw [if_neg hrate]
  case enter => exact fun s hup hrom hst => runT_console hup hrom hst
  case noEnter => exact fun s hup hrom hst => ⟨_, runT_console_refused hup hrom hst⟩
  case resetDie =>
    intro die s hup hrom hst
    refine ⟨fun hd => (runT_console hup hrom hst).trans ?_, fun hd => (runT_console hup hrom hst).trans ?_⟩
    · rw [if_neg (by omega)]
    · rw [if_pos hd]
  case leave =>
    intro s hup hrom hst
    refine ⟨fun hlow => (runT_console hup hrom (inService_service hst)).trans ?_,
      fun hhigh => ⟨s.dev.conflictDetail 0, (runT_console hup hrom (inService_service hst)).trans ?_⟩⟩
    · rw [if_neg (by simp [hlow])]
    · rw [if_pos (by simp [hhigh])]
      rfl
  case unsealed =>
    intro arg s hup hrom hst
    refine ⟨fun hhigh hserial hleft => (run_console hup hrom (inService_service hst)).trans ?_,
      fun hlow => ⟨s.dev.conflictDetail 0, (run_console hup hrom (inService_service hst)).trans ?_⟩⟩
    · rw [if_neg (by simp [hhigh]), if_neg (by simp [hserial]), if_neg (by rw [typed_fuse]; omega)]
      rfl
    · rw [if_pos (by simp [hlow])]
      rfl
  case step =>
    intro step s hup hrom hst hstep
    refine (run_console hup hrom (inService_service hst)).trans ?_
    rw [if_neg (by omega)]
  case island =>
    intro island step s hup hrom hst hstep
    refine ⟨fun hcore => (run_console hup hrom (inService_service hst)).trans ?_,
      fun hge hlt => (run_console hup hrom (inService_service hst)).trans ?_⟩
    · rw [if_neg (by simp; omega), if_pos hcore]
    · rw [if_neg (by simp; omega), if_neg (by omega)]
  case regWr =>
    intro addr value mask s hup hrom hst
    refine ⟨fun hopen hreg hrange => (runT_console hup hrom (inService_service hst)).trans ?_,
      fun hsealed => ⟨s.dev.conflictDetail 0, (runT_console hup hrom (inService_service hst)).trans ?_⟩⟩
    · rw [if_neg (by simp [hopen, hreg]), if_neg (by simp [hrange])]
    · rw [if_pos (by simp [hsealed])]
      rfl
  case swatch =>
    intro mask s hup hrom hst hmask hcmds hfree
    refine ⟨consoleSwatchCmd s.dev.clk.mono, rfl, rfl, (run_console hup hrom (inService_service hst)).trans ?_⟩
    rw [if_neg (by omega), if_neg (by simp [hcmds]), if_neg (by simp [hfree])]
    simp only [W.pend, W.onDev, typed_cmds, hcmds, List.nil_append]
    rfl
  case cmd =>
    intro op target ps s hup hrom
    refine ⟨fun hnone => (runT_console hup hrom rfl).trans ?_, fun sp hsp => ⟨fun hset => (runT_console hup hrom rfl).trans ?_,
      fun hset r w' hr => (runT_console hup hrom rfl).trans ?_⟩⟩
    · rw [hnone]
    · simp only [hsp]
      rw [if_pos (bne_iff_ne.mpr hset)]
    · simp only [hsp, hr]
      rw [if_neg (by simp [hset])]

end Sys2Proof.Machine
end

section
/-! PROOFS. The events of INIT and of a die's reset (R56, R72, R572, R580, R626, R627, R673). -/

namespace Sys2Proof.Machine

section
variable {s : State}

/-- INIT reports its end (R580, R626). -/
theorem exec_initComplete (r : InitResult) (hst : s.dev.hub.st = .init) (hup : s.dev.hub.rails = true) :
    exec (.initComplete r) s = .next (s.after (s.work.endInit r)) := by
  change execInitComplete r s = _
  simp [execInitComplete, runT_next, hst, hup]

/-- INIT that has lasted 300 s fails (R627). -/
theorem exec_initTimeout (hst : s.dev.hub.st = .init) (hmono : s.dev.hub.initStart + 300000000000 ≤ s.dev.clk.mono) :
    exec .initTimeout s = .next (s.after (s.work.devFault 0)) := by
  have hlate : s.dev.hub.initStart + 5 * minuteNs ≤ s.dev.clk.mono := hmono
  change execInitTimeout s = _
  simp [execInitTimeout, runT_next, hst, hlate]

theorem exec_hubWatchdogExpiry (hst : s.dev.hub.st = .init) : exec .hubWatchdogExpiry s = .next (s.after (s.work.devFault 0)) := by
  change execHubWatchdogExpiry s = _
  simp [execHubWatchdogExpiry, runT_next, hst]

/-- INIT that waits for PWR_EN and FLOW_OK ends in FAULT after 60 s (R673). -/
theorem exec_initWait {t : Nat} (hst : s.dev.hub.st = .init) (ht : s.dev.hub.initWait = some t)
    (hmono : t + 60000000000 ≤ s.dev.clk.mono) :
    exec .initWait s = .next (s.after ((s.work.logHub 0x0036
      ((if s.dev.pin.flowOk then 0 else 1) + 2 * (if s.dev.pin.pwrEn then 0 else 1)) []).enterFault 0 s.work.nextLogSeq)) := by
  have hlate : ¬ s.dev.clk.mono < t + minuteNs := Nat.not_lt.mpr hmono
  have hflow : b2n (!s.dev.pin.flowOk) = if s.dev.pin.flowOk then 0 else 1 := by cases s.dev.pin.flowOk <;> rfl
  have hpwr : b2n (!s.dev.pin.pwrEn) = if s.dev.pin.pwrEn then 0 else 1 := by cases s.dev.pin.pwrEn <;> rfl
  change execInitWait s = _
  simp only [execInitWait, runT_next, State.work_dev, ht, hst, hlate, hflow, hpwr, bne_self_eq_false, decide_false, Bool.or_self,
    Bool.false_eq_true, if_false]

/-- A die's reset completes (R72). -/
theorem exec_dieResetComplete {die : Nat} (hup : s.dev.hub.rails = true) (hd : die < 4)
    (hreset : (Tab.get s.dev.hub.dieReset die).isSome = true) (hin : s.dev.hub.dieOut.contains die = false) :
    exec (.dieResetComplete die) s = .next (s.after (s.work.endDieReset die)) := by
  change execDieResetComplete die s = _
  simp only [execDieResetComplete, runT_next, State.work_dev, hup, hd, hreset, hin, decide_true, Bool.not_false, Bool.and_self, if_true]

/-- What the failure of a die's reset leaves, the n-th in succession (R572): the die is out; from the second on the device has failed. -/
def W.dieResetFailed (w : W) (die n : Nat) : W :=
  let w := w.onHub fun h => { h with dieOut := h.dieOut ++ [die], dieFails := Tab.put h.dieFails die n }
  if 2 ≤ n then w.declareFailed 0x02 die else w

/-- A die's reset that has lasted 2 s fails, and the commands that wait for it complete FAULTED (R572). -/
theorem exec_dieResetTimeout {die t n : Nat} (hget : Tab.get s.dev.hub.dieReset die = some t)
    (hin : s.dev.hub.dieOut.contains die = false) (hmono : t + 2000000000 ≤ s.dev.clk.mono)
    (hn : Tab.getD s.dev.hub.dieFails die 0 = n) :
    exec (.dieResetTimeout die) s = .next (s.after ((s.work.dieResetFailed die (n + 1)).free.2.completeAll
      (fun p => p.wait = .dieReset die) 0x0B ((s.work.dieResetFailed die (n + 1)).free.1 % 2 ^ 32) [])) := by
  have hlate : ¬ s.dev.clk.mono < t + 2000000000 := Nat.not_lt.mpr hmono
  change execDieResetTimeout die s = _
  simp only [execDieResetTimeout, runT_next, State.work_dev, hget, hin, hlate, hn, decide_false, Bool.or_self, Bool.false_eq_true,
    if_false, W.dieResetFailed]

end

/-- Settles O24: each clause is its event's lemma above. -/
theorem bootEventsAct : Obligations.BootEventsAct := by
  unfold Obligations.BootEventsAct
  refine ⟨?complete, ?timeout, ?watchdog, ?wait, ?dieComplete, ?dieFirst, ?dieAgain⟩
  case complete => exact fun r s hst hup => exec_initComplete r hst hup
  case timeout => exact fun s hst hmono => exec_initTimeout hst hmono
  case watchdog => exact fun s hst => exec_hubWatchdogExpiry hst
  case wait => exact fun s t hst ht hmono => exec_initWait hst ht hmono
  case dieComplete => exact fun die s hup hd hreset hin => exec_dieResetComplete hup hd hreset hin
  case dieFirst =>
    intro die t s hget hin hmono hn
    have h := exec_dieResetTimeout hget hin hmono hn
    rw [W.dieResetFailed, if_neg (by omega)] at h
    exact h
  case dieAgain =>
    intro die t n s hget hin hmono hn
    have h := exec_dieResetTimeout hget hin hmono hn
    rw [W.dieResetFailed, if_pos (by omega)] at h
    exact h

end Sys2Proof.Machine
end

section
/-! PROOFS. The commands that change the device (R42, R57, R65, R70, R72, R77 to R79): what the journal, replies, links and power control
leave of the device, and the effect of each command. -/

namespace Sys2Proof.Machine

/-! ### What the shared operations leave of the device -/

/-- A view of the device that shows nothing of its store, its free values, memory system, links, power control, PENDING commands,
channels, or messages that wait. -/
structure Steady {α : Type} (g : Dev → α) : Prop where
  store : ∀ d x, g { d with store := x } = g d
  free : ∀ d x, g { d with freeCtr := x } = g d
  ms : ∀ d x, g { d with ms := x } = g d
  links : ∀ d x, g { d with links := x } = g d
  llinks : ∀ d x, g { d with llinks := x } = g d
  sys : ∀ d x, g { d with sys := x } = g d
  pwr : ∀ d x, g { d with pwr := x } = g d
  cmds : ∀ d x, g { d with cmds := x } = g d
  chans : ∀ d x, g { d with chans := x } = g d
  held : ∀ d x, g { d with eth := { d.eth with held := x } } = g d

/-- The objects of the dies' memories (R78). -/
def Dev.objects (d : Dev) :=
  (d.bufs, d.strms, d.syncs, d.slots, d.graphs, d.feeds, d.jobs, d.queues, d.tables, d.matchsets)

theorem steady_hub : Steady Dev.hub := by constructor <;> intros <;> rfl
theorem steady_pin : Steady Dev.pin := by constructor <;> intros <;> rfl
theorem steady_objects : Steady Dev.objects := by constructor <;> intros <;> rfl

/-- The journal changes the store alone (R596). -/
theorem journal_dev (w : W) (now : Bool) (rs : List (Nat × Nat × Nat × Bool × List Byte)) :
    ∃ x, (w.journal now rs).dev = { w.dev with store := x } := by
  simp only [W.journal]
  split
  · exact ⟨_, rfl⟩
  · exact ⟨_, rfl⟩

/-- What each step of a fold leaves, the fold leaves. -/
theorem foldl_keeps {α β : Type} {g : Dev → α} {f : W → β → W} (hf : ∀ w x, g (f w x).dev = g w.dev) (l : List β) (w : W) :
    g (l.foldl f w).dev = g w.dev := by
  induction l generalizing w with
  | nil => rfl
  | cons x t ih => rw [List.foldl_cons, ih, hf]

section
variable {α : Type} {g : Dev → α} (hg : Steady g)
include hg

theorem Steady.journal (w : W) (now : Bool) (rs : List (Nat × Nat × Nat × Bool × List Byte)) :
    g (w.journal now rs).dev = g w.dev := by
  obtain ⟨x, h⟩ := journal_dev w now rs
  rw [h, hg.store]

theorem Steady.journal1 (w : W) (key inst : Nat) (b : List Byte) : g (w.journal1 key inst b).dev = g w.dev := hg.journal ..

theorem Steady.reply (w : W) (ch : Nat) (h : Header) (op st d : Nat) (b : List Byte) : g (w.reply ch h op st d b).dev = g w.dev :=
  reply_keeps g (fun d c l => (hg.held { d with chans := c } l).trans (hg.chans d c)) ..

theorem Steady.taken (s : State) (ch : Nat) (p : Packet) (psn : Nat) : g (s.taken ch p psn).dev = g s.dev :=
  taken_keeps g (fun d c l => (hg.held { d with chans := c } l).trans (hg.chans d c)) ..

theorem Steady.complete (w : W) (p : PendCmd) (st d : Nat) (b : List Byte) : g (w.complete p st d b).dev = g w.dev := by
  simp only [W.complete]
  split
  · exact hg.cmds ..
  · rw [hg.reply]; exact hg.cmds ..

theorem Steady.completeAll (w : W) (which : PendCmd → Bool) (st d : Nat) (b : List Byte) :
    g (w.completeAll which st d b).dev = g w.dev := foldl_keeps (fun w p => hg.complete w p st d b) _ w

/-! Links (chapter 16) -/

theorem Steady.onLLink (w : W) (k : Nat) (f : LLink → LLink) : g (w.onLLink k f).dev = g w.dev := hg.llinks ..

theorem Steady.onSys (w : W) (f : LinkSys → LinkSys) : g (w.onSys f).dev = g w.dev := hg.sys ..

theorem Steady.emit (w : W) (k seq type : Nat) (b : List Byte) : g (w.emit k seq type b).dev = g w.dev := by
  simp only [W.emit]
  split
  · split
    · rfl
    · exact hg.onLLink ..
  · rfl

theorem Steady.pumpLink (w : W) (k fuel : Nat) : g (pumpLink w k fuel).dev = g w.dev := by
  induction fuel generalizing w with
  | zero => rfl
  | succ n ih =>
    simp only [Machine.pumpLink]
    split
    · rfl
    · split
      · rfl
      · rw [ih, hg.emit, hg.onLLink]

theorem Steady.sendMsg (w : W) (k : Nat) (m : List Byte) : g (w.sendMsg k m).dev = g w.dev := by
  rw [W.sendMsg, W.pump, hg.pumpLink, hg.onLLink]

theorem Steady.forward (w : W) (m : List Byte) (arrival : Option Nat) : g (w.forward m arrival).dev = g w.dev :=
  foldl_keeps (fun w (x : Nat × Link) => hg.sendMsg w x.2.logical m) _ w

theorem Steady.flood (w : W) (mtype group : Nat) (b : List Byte) : g (w.flood mtype group b).dev = g w.dev := by
  simp only [W.flood, W.ownMessage]
  rw [hg.forward, hg.onSys]

/-! Power control (chapter 17) -/

theorem Steady.onPwr (w : W) (f : Pwr → Pwr) : g (w.onPwr f).dev = g w.dev := hg.pwr ..

theorem Steady.lowerStep (w : W) (n : Nat) : g (w.lowerStep n).dev = g w.dev := by
  rw [W.lowerStep, W.noteStep, hg.onPwr, hg.onPwr]

theorem Steady.raiseStep (w : W) (n : Nat) : g (w.raiseStep n).dev = g w.dev := by
  simp only [W.raiseStep]
  split
  · split
    · rfl
    · exact hg.onPwr ..
  · exact hg.onPwr ..

theorem Steady.floodStep (w : W) (n reason : Nat) : g (w.floodStep n reason).dev = g w.dev := by
  simp only [W.floodStep]
  split
  · rw [hg.flood, hg.onSys]
  · rfl

theorem Steady.settleCeil (w : W) : g w.settleCeil.dev = g w.dev := by
  rw [W.settleCeil, W.noteCeil, hg.onSys, hg.onPwr]

theorem Steady.settleStep (w : W) : g w.settleStep.dev = g w.dev := by
  simp only [W.settleStep]
  repeat' split
  all_goals simp only [hg.floodStep, hg.lowerStep, hg.raiseStep, hg.onPwr, hg.settleCeil]

theorem Steady.leaveGroup (w : W) : g w.leaveGroup.dev = g w.dev := by
  simp only [W.leaveGroup]
  split
  · rw [hg.settleStep, hg.onSys, W.floodLost, hg.flood]
  · rfl

/-! Trims and presets (R78) -/

theorem Steady.saveTrims (w : W) : g w.saveTrims.dev = g w.dev := by
  refine (hg.ms _ _).trans ?_
  exact foldl_keeps (fun w s => hg.journal1 w _ _ _) _ w

theorem Steady.savePreset (w : W) (inst : Nat) : g ((w.freeBytes 8).2.journal1 0x0021 inst (w.freeBytes 8).1).dev = g w.dev := by
  rw [hg.journal1]; exact hg.free ..

theorem Steady.savePresets (w : W) : g w.savePresets.dev = g w.dev := by
  simp only [W.savePresets]
  refine (foldl_keeps (fun w p => hg.savePreset w (1 + p)) _ _).trans ?_
  split
  · exact hg.savePreset w 0
  · rfl

theorem Steady.linksOff (w : W) : g w.linksOff.dev = g w.dev := by
  have hnet : ∀ d l k s, g { d with links := l, llinks := k, sys := s } = g d := fun d l k s =>
    (hg.sys { d with links := l, llinks := k } s).trans ((hg.llinks { d with links := l } k).trans (hg.links d l))
  exact hnet ..

end

/-- Set IDLE is READY alone (Table 2.5). -/
theorem allows_idle {st : DevState} (h : StateSet.idle.allows st = true) : st = .ready := by revert h; cases st <;> decide

/-- Set STBY is STANDBY alone (Table 2.5). -/
theorem allows_stby {st : DevState} (h : StateSet.stby.allows st = true) : st = .standby := by revert h; cases st <;> decide

/-! ### DEVICE_STANDBY (R78) -/

/-- The dies and HBM lose power (R674): of the hub, only what tells of the rails and of die resets changes. -/
theorem shed_hub (w : W) : ∃ r o, w.shed.dev.hub = { w.dev.hub with rails := false, dieReset := r, dieOut := o } := by
  cases hup : w.dev.hub.rails with
  | false =>
    have hsame : w.shed = w := by simp [W.shed, hup]
    exact ⟨w.dev.hub.dieReset, w.dev.hub.dieOut, by rw [hsame, ← hup]⟩
  | true =>
    refine ⟨[], [], ?_⟩
    simp only [W.shed, hup, Bool.not_true, Bool.false_eq_true, if_false]
    rw [steady_hub.onPwr, steady_hub.linksOff]
    rfl

@[simp] theorem shed_pin (w : W) : w.shed.dev.pin = w.dev.pin := by
  simp only [W.shed]
  split
  · rfl
  · rw [steady_pin.onPwr, steady_pin.linksOff]; rfl

@[simp] theorem shed_objects (w : W) : w.shed.dev.objects = w.dev.objects := by
  simp only [W.shed]
  split
  · rfl
  · rw [steady_objects.onPwr, steady_objects.linksOff]; rfl

/-- Every object of the dies' memories goes (R78). -/
theorem dropObjects_objects (w : W) : w.dropObjects.dev.objects = ([], [], [], [], [], [], [], [], [], []) := rfl

theorem dropObjects_hub (w : W) : w.dropObjects.dev.hub = w.dev.hub := steady_hub.completeAll ..

theorem dropObjects_pin (w : W) : w.dropObjects.dev.pin = w.dev.pin := steady_pin.completeAll ..

/-- A change to another state: HUB_DEV_PREV takes the state left (Table 2.7). -/
theorem setState_of_ne {w : W} {st : DevState} (h : w.dev.hub.st ≠ st) :
    w.setState st = w.onHub fun x => { x with st := st, prev := x.st.code } := if_neg h

/-- Without SERVICE_MODE the strap has no effect. -/
theorem strapIn_of_low {w : W} (h : w.dev.pin.serviceMode = false) : w.strapIn = w := by simp [W.strapIn, h]

/-- What DEVICE_STANDBY does before the state changes (R78 steps 1 to 5). -/
def W.unload (w : W) : W := (w.leaveGroup.dropObjects.saveTrims).savePresets.shed

theorem unload_hub (w : W) : ∃ r o, w.unload.dev.hub = { w.dev.hub with rails := false, dieReset := r, dieOut := o } := by
  obtain ⟨r, o, h⟩ := shed_hub (w.leaveGroup.dropObjects.saveTrims).savePresets
  refine ⟨r, o, h.trans ?_⟩
  rw [steady_hub.savePresets, steady_hub.saveTrims, dropObjects_hub, steady_hub.leaveGroup]

theorem unload_pin (w : W) : w.unload.dev.pin = w.dev.pin := by
  rw [W.unload, shed_pin, steady_pin.savePresets, steady_pin.saveTrims, dropObjects_pin, steady_pin.leaveGroup]

theorem unload_objects (w : W) : w.unload.dev.objects = ([], [], [], [], [], [], [], [], [], []) := by
  rw [W.unload, shed_objects, steady_objects.savePresets, steady_objects.saveTrims, dropObjects_objects]

/-- READY left for STANDBY with the rails down and the strap deasserted, once DEVICE_STANDBY has unloaded the dies. -/
def W.toStandby (w : W) (c : Ctx) : W := (((w.setState .standby).onHub fun h => { h with stage := 3 }).ok c []).strapIn

theorem deviceStandby_body (c : Ctx) (w : W) : deviceStandby.body c w = w.unload.toStandby c := rfl

/-- The device in STANDBY (R78). -/
theorem toStandby_dev {w : W} (hst : w.dev.hub.st = .ready) (hlow : w.dev.pin.serviceMode = false) (c : Ctx) :
    (w.toStandby c).dev.hub = { w.dev.hub with st := .standby, prev := 3, stage := 3 } ∧ (w.toStandby c).dev.objects = w.dev.objects := by
  have hne : w.dev.hub.st ≠ .standby := by rw [hst]; decide
  rw [W.toStandby, setState_of_ne hne, W.ok, strapIn_of_low (by rw [steady_pin.reply]; exact hlow), steady_hub.reply, steady_objects.reply]
  refine ⟨?_, rfl⟩
  simp only [W.onHub_dev, hst]
  rfl

/-- DEVICE_STANDBY once admitted. -/
theorem exec_deviceStandby {ch : Nat} {p : Packet} {s : State} {c : Chan} (h : Admitted deviceStandby ch p s c)
    (hlow : s.dev.pin.serviceMode = false) :
    ∃ w, exec (.deviceStandby ch p) s = .next (s.commit w) ∧ w.dev.hub.st = .standby ∧ w.dev.hub.prev = 3 ∧ w.dev.hub.rails = false ∧
      w.dev.objects = ([], [], [], [], [], [], [], [], [], []) := by
  have hready : (s.taken ch p c.psn).dev.hub.st = .ready := allows_idle h.passes.legal
  obtain ⟨r, o, hhub⟩ := unload_hub (s.taken ch p c.psn)
  obtain ⟨hx, hobj⟩ := toStandby_dev (w := (s.taken ch p c.psn).unload) (by rw [hhub, hready])
    (by rw [unload_pin, steady_pin.taken, hlow]) (ctxOf deviceStandby ch p)
  refine ⟨_, (run_admitted h).trans (by rw [deviceStandby_body]), ?_⟩
  rw [hx, hobj, unload_objects, hhub]
  exact ⟨rfl, rfl, rfl, rfl⟩

/-! ### DEVICE_START (R77) -/

@[simp] theorem taken_cmds (s : State) (ch : Nat) (p : Packet) (psn : Nat) : (s.taken ch p psn).dev.cmds = s.dev.cmds :=
  taken_keeps (·.cmds) (fun _ _ _ => rfl) ..

/-- The state, the state before it and the PENDING commands. -/
def Dev.life (d : Dev) : DevState × Nat × List PendCmd := (d.hub.st, d.hub.prev, d.cmds)

theorem journal_life (w : W) (now : Bool) (rs : List (Nat × Nat × Nat × Bool × List Byte)) :
    (w.journal now rs).dev.life = w.dev.life := by
  obtain ⟨x, h⟩ := journal_dev w now rs
  rw [h]; rfl

theorem onFw_life (w : W) (f : Fw → Fw) : (w.onFw f).dev.life = w.dev.life := rfl

theorem onFw_pin (w : W) (f : Fw → Fw) : (w.onFw f).dev.pin = w.dev.pin := rfl

/-- The rails rise where REFCLK is present (R684). -/
theorem tryRails_life {w : W} (h : w.dev.pin.refclk = true) : w.tryRails.dev.life = w.dev.life := by
  simp only [W.tryRails, W.railsOn, W.onHub_dev, h, if_true]
  split <;> rfl

/-- INIT begins with REFCLK present (Table 20.5 stage 4). -/
theorem beginInit_life {w : W} (hclk : w.dev.pin.refclk = true) (hst : w.dev.hub.st ≠ .init) :
    w.beginInit.dev.life = (.init, w.dev.hub.st.code, w.dev.cmds) := by
  simp only [W.beginInit, setState_of_ne hst]
  rw [tryRails_life, W.saveFw, journal_life]
  · rw [onFw_life, W.journal1, journal_life]
    rfl
  · rw [W.saveFw, steady_pin.journal, onFw_pin, steady_pin.journal1]
    exact hclk

/-- INIT begins where nothing holds it (R547, R677). -/
theorem tryAutoInit_begins {w : W} (hst : w.dev.hub.st = .standby) (hstage : w.dev.hub.stage = 3) (hauto : w.dev.hub.autoInit = true)
    (hreset : w.dev.hub.resetHold = false) (hflow : w.dev.hub.flowHold = false) : w.tryAutoInit = w.beginInit :=
  if_pos (by simp [hst, hstage, hauto, hreset, hflow])

/-- DEVICE_START PENDING, with INIT asked for. -/
def W.startAsked (w : W) (c : Ctx) : W := (w.pend c .init).onHub fun h => { h with autoInit := true, flowHold := false }

theorem deviceStart_body (c : Ctx) (w : W) : deviceStart.body c w = (w.startAsked c).tryAutoInit := rfl

/-- DEVICE_START in STANDBY goes PENDING, and INIT begins. -/
theorem deviceStart_life {w : W} (hst : w.dev.hub.st = .standby) (hstage : w.dev.hub.stage = 3) (hreset : w.dev.hub.resetHold = false)
    (hclk : w.dev.pin.refclk = true) (c : Ctx) : (deviceStart.body c w).dev.life =
      (.init, 1, w.dev.cmds ++ [⟨c.ch, c.hdr, c.op, w.dev.clk.mono, false, .init⟩]) := by
  have hasked : (w.startAsked c).dev.hub.st = .standby := hst
  have hnotInit : (w.startAsked c).dev.hub.st ≠ .init := by rw [hasked]; decide
  rw [deviceStart_body, tryAutoInit_begins hasked hstage rfl hreset rfl, beginInit_life (w := w.startAsked c) hclk hnotInit, hasked]
  rfl

/-- DEVICE_START once admitted, with nothing to hold INIT and REFCLK present. -/
theorem exec_deviceStart {ch : Nat} {p : Packet} {s : State} {c : Chan} (h : Admitted deviceStart ch p s c) (hstage : s.dev.hub.stage = 3)
    (hreset : s.dev.hub.resetHold = false) (hclk : s.dev.pin.refclk = true) :
    ∃ w, exec (.deviceStart ch p) s = .next (s.commit w) ∧ w.dev.hub.st = .init ∧ w.dev.hub.prev = 1 ∧
      w.dev.cmds = s.dev.cmds ++ [⟨ch, p.hdr, 0x0003, s.dev.clk.mono, false, .init⟩] := by
  have hlife := deviceStart_life (allows_stby h.passes.legal) (by rw [taken_hub, hstage]) (by rw [taken_hub, hreset])
    (by rw [steady_pin.taken, hclk]) (ctxOf deviceStart ch p)
  simp only [Dev.life, taken_cmds, taken_clk, Prod.mk.injEq] at hlife
  exact ⟨_, run_admitted h, hlife⟩

/-! ### DEVICE_RESET, HANDLE_DESTROY and the packets outside Table 2.9 -/

section
variable {ch : Nat} {p : Packet} {s : State} {c : Chan}

theorem exec_deviceReset_warm (h : Admitted deviceReset ch p s c) (hkind : fld p.params 0 1 = 1) :
    exec (.deviceReset ch p) s = .next (s.after ((s.taken ch p c.psn).reply ch p.hdr 0x0006 0 0 []).warmReset) :=
  (runT_admitted h).trans (by simp only [deviceReset, Ctx.f, ctxOf, hkind, if_true]; rfl)

theorem exec_deviceReset_die (h : Admitted deviceReset ch p s c) (hkind : fld p.params 0 1 = 2) :
    exec (.deviceReset ch p) s = .next (s.after (((s.taken ch p c.psn).pend (ctxOf deviceReset ch p)
      (.dieReset (fld p.params 1 1))).askDieReset (fld p.params 1 1))) :=
  (runT_admitted h).trans (by simp only [deviceReset, Ctx.f, ctxOf, hkind]; rfl)

theorem exec_handleDestroy (h : Admitted handleDestroy ch p s c) (hjob : hKind p.hdr.target.toNat ≠ 8) :
    exec (.handleDestroy ch p) s = .next (s.after (((s.taken ch p c.psn).reply ch p.hdr 0x0008 0 0 []).dropObj
      (hKind p.hdr.target.toNat) (hIdx p.hdr.target.toNat))) :=
  (runT_admitted h).trans (by simp only [handleDestroy, Ctx.target, Ctx.idx, ctxOf, hjob, if_false]; rfl)

/-- An opcode outside Table 2.9 (R39 step 5). -/
theorem exec_unknownOpcodePacket {opcode : BitVec 16} (h : Sound opcode.toNat ch p s c) (hop : opcode.toNat ∉ knownOps) :
    exec (.unknownOpcodePacket ch opcode p) s =
      .next (s.commit ((s.taken ch p c.psn).reply ch p.hdr opcode.toNat 0x03 opcode.toNat [])) := by
  change execUnknownOpcodePacket ch opcode p s = _
  have hout : ¬ knownOps.contains opcode.toNat = true := fun hin => hop (List.contains_iff_mem.mp hin)
  rw [execUnknownOpcodePacket, run_next, if_neg hout, arrive_sound h]

/-- The interim reply of a command that has run 100 µs (R42). -/
theorem exec_pendingInterimReply {seq : Word} {q : PendCmd}
    (hq : (s.dev.cmds.find? fun p => p.ch = ch && p.hdr.seq = seq && !p.interim) = some q) (hack : ackReq q.hdr = true)
    (hlate : q.begun + 100000 ≤ s.dev.clk.mono) :
    exec (.pendingInterimReply ch seq) s = .next (s.commit ((s.work.onDev fun d =>
      { d with cmds := d.cmds.map fun r => if r = q then { r with interim := true } else r }).reply ch q.hdr q.op 1 0 [])) := by
  change execPendingInterimReply ch seq s = _
  simp only [execPendingInterimReply, run_next, State.work_dev, hq, hack, hlate, decide_true, Bool.and_self, if_true]

end

/-- Settles O13: each clause is its command's lemma above. -/
theorem deviceCommandsAct : Obligations.DeviceCommandsAct := by
  unfold Obligations.DeviceCommandsAct
  refine ⟨?start, ?standby, ?drain, ?warm, ?dieReset, ?destroy, ?unknown, ?interim⟩
  case start => exact fun s ch p c h hstage hhold hclk => exec_deviceStart h hstage hhold hclk
  case standby =>
    intro s ch p c h hlow
    obtain ⟨w, hw, hst, hprev, hup, hobj⟩ := exec_deviceStandby h hlow
    simp only [Dev.objects, Prod.mk.injEq] at hobj
    exact ⟨w, hw, hst, hprev, hup, hobj⟩
  case drain => exact fun s ch p c h => runT_admitted h
  case warm => exact fun s ch p c h hkind => exec_deviceReset_warm h hkind
  case dieReset => exact fun s ch p c h hkind => exec_deviceReset_die h hkind
  case destroy => exact fun s ch p c h hjob => exec_handleDestroy h hjob
  case unknown => exact fun s ch opcode p c h hop => exec_unknownOpcodePacket h hop
  case interim => exact fun s ch seq q hq hack hlate => exec_pendingInterimReply hq hack hlate

end Sys2Proof.Machine
end

section
/-! PROOFS. The Ethernet port (R84, R85, R87, R109, R114, R691): the frames that the hub firmware answers, pauses of a class, and the
link. -/

namespace Sys2Proof.Machine

/-- A command that stores nothing leaves memory as it is. -/
theorem commit_of_wr_nil {w : W} (s : State) (h : w.wr = []) : s.commit w = { s with dev := w.dev, tx := s.tx ++ w.out.reverse } := by
  rw [State.commit, h]; rfl

section
variable {s : State} (t : Tx)

/-- Within the second that the port counts, the count stands. -/
theorem onEth_sameSec {w : W} {sec : Nat} (h : w.dev.eth.rateSec = sec) :
    (w.onEth fun e => if e.rateSec = sec then e else { e with rateSec := sec, rateCnt := 0 }) = w := by
  simp only [W.onEth, h, if_true]

/-- A frame to the device while fewer than 10,000 have been answered in the second (R85). -/
theorem answer_within {w : W} (hup : w.dev.portUp = true) (hsec : w.dev.eth.rateSec = w.dev.sec) (hcnt : w.dev.eth.rateCnt < 10000) :
    w.answer true t = (w.onEth fun e => { e with rateCnt := e.rateCnt + 1 }).send t := by
  simp [W.answer, hup, onEth_sameSec hsec, Nat.not_le.mpr hcnt]

/-- A frame to the device beyond them (R85). -/
theorem answer_beyond {w : W} (hup : w.dev.portUp = true) (hsec : w.dev.eth.rateSec = w.dev.sec) (hcnt : 10000 ≤ w.dev.eth.rateCnt) :
    w.answer true t = w.dropFrame := by
  simp [W.answer, hup, onEth_sameSec hsec, hcnt]

/-- A frame to another address is not answered. -/
theorem answer_other (w : W) : w.answer false t = w := rfl

theorem run_answer_within (hup : s.dev.portUp = true) (hsec : s.dev.eth.rateSec = s.dev.sec) (hcnt : s.dev.eth.rateCnt < 10000) :
    run s (fun w => w.answer true t) = .next
      { s with tx := s.tx ++ [t], dev := { s.dev with eth := { s.dev.eth with rateCnt := s.dev.eth.rateCnt + 1 } } } := by
  rw [run_next, answer_within t hup hsec hcnt, commit_of_wr_nil s rfl]; rfl

/-- A frame dropped changes the count of drops alone. -/
theorem commit_dropFrame (s : State) : s.commit s.work.dropFrame =
    { s with dev := { s.dev with eth := { s.dev.eth with rxDrop := satAdd 32 s.dev.eth.rxDrop 1 } } } := by
  rw [commit_of_wr_nil s rfl]; simp [W.dropFrame]

/-- A command without effect leaves the state as it is. -/
theorem commit_work (s : State) : s.commit s.work = s := by
  rw [commit_of_wr_nil s rfl]; simp

end

section
variable {s : State}

theorem exec_pfcFrame {pcp : BitVec 3} {cls : Nat} (quanta : BitVec 16) (hup : s.dev.portUp = true)
    (hen : bit s.dev.eth.cfg.toNat 25 = true) (hcls : s.dev.classOf (some pcp) = some cls) :
    exec (.pfcFrame pcp quanta) s = .next (s.commit (s.work.pauseClass cls (quanta != 0))) := by
  change execPfcFrame pcp quanta s = _
  simp [execPfcFrame, run_next, hup, hen, hcls]

/-- With ETH_PFC_EN 0 a PFC frame is ignored (R109). -/
theorem exec_pfcFrame_disabled (pcp : BitVec 3) (quanta : BitVec 16) (hen : bit s.dev.eth.cfg.toNat 25 = false) :
    exec (.pfcFrame pcp quanta) s = .next s := by
  change execPfcFrame pcp quanta s = _
  simp [execPfcFrame, run_next, hen, commit_work]

theorem exec_unsupportedFrame (hup : s.dev.portUp = true) : exec .unsupportedFrame s = .next (s.commit s.work.dropFrame) := by
  change execUnsupportedFrame s = _
  simp [execUnsupportedFrame, run_next, hup]

/-- A port that serves has reached boot stage 3 (R691). -/
theorem portUp_stage {d : Dev} (h : d.portUp = true) : 3 ≤ d.hub.stage := by
  simp only [Dev.portUp, Bool.and_eq_true, decide_eq_true_eq] at h
  exact h.1.2

theorem exec_ethLinkUp (lanes : Byte) (hup : s.dev.portUp = true) (hclk : s.dev.pin.refclk = true) :
    exec (.ethLinkUp lanes) s = .next (s.commit (s.work.onEth fun e =>
      { e with linkUp := true, pcs := true, laneLock := lanes, upSince := some s.dev.clk.mono })) := by
  have hstage : ¬ s.dev.hub.stage < 3 := Nat.not_lt.mpr (portUp_stage hup)
  change execEthLinkUp lanes s = _
  simp [execEthLinkUp, run_next, hup, hclk, hstage]

/-- The settings become the presets once the link has been up for 24 hours (R87). -/
theorem exec_ethPresetSave {t : Nat} (presets : List Byte) (hsince : s.dev.eth.upSince = some t)
    (hday : t + 86400000000000 ≤ s.dev.clk.mono) :
    exec (.ethPresetSave presets) s = .next (s.commit ((s.work.onEth fun e =>
      { e with upSince := some s.dev.clk.mono }).journal1 0x0021 0 presets)) := by
  change execEthPresetSave presets s = _
  simp [execEthPresetSave, run_next, hsince, dayNs, hday]

end

/-- Settles O26: each clause is its event's lemma above. -/
theorem portEventsAct : Obligations.PortEventsAct := by
  unfold Obligations.PortEventsAct
  refine ⟨?answered, ?tooMany, ?other, ?unsupported, ?pause, ?disabled, ?release, ?up, ?loss, ?presets⟩
  case answered =>
    intro sender s hup hsec hcnt
    exact ⟨run_answer_within _ hup hsec hcnt, run_answer_within _ hup hsec hcnt, fun _ _ => run_answer_within _ hup hsec hcnt⟩
  case tooMany =>
    intro sender s hup hsec hcnt
    change execArpRequest true sender s = _
    rw [execArpRequest, run_next, answer_beyond _ hup hsec hcnt, commit_dropFrame]
  case other =>
    intro sender s
    change execArpRequest false sender s = _
    rw [execArpRequest, run_next, answer_other, commit_work]
  case unsupported => exact fun s hup => by rw [exec_unsupportedFrame hup, commit_dropFrame]
  case pause => exact fun _ quanta _ _ hup hen hcls => exec_pfcFrame quanta hup hen hcls
  case disabled => exact fun pcp quanta _ hen => exec_pfcFrame_disabled pcp quanta hen
  case release => exact fun s => ⟨rfl, rfl⟩
  case up =>
    intro lanes s hup hclk
    rw [exec_ethLinkUp lanes hup hclk, commit_of_wr_nil s rfl]
    simp
  case loss =>
    intro s
    change execEthLinkLoss s = _
    rw [execEthLinkLoss, run_next, commit_of_wr_nil s rfl]
    simp
  case presets => exact fun presets _ _ hsince hday => exec_ethPresetSave presets hsince hday

end Sys2Proof.Machine
end

section
/-! PROOFS. The commands of channels (R102, R103, R106, R107): what acknowledgements and replies leave of a channel context, and what each
command makes of it. -/

namespace Sys2Proof

/-- The number that is found free holds nothing. -/
theorem Tab.get_firstFree {α : Type} {t : Tab α} {start n i : Nat} (h : Tab.firstFree t start n = some i) : Tab.get t i = none := by
  induction n generalizing start with
  | zero => cases h
  | succ n ih =>
    rw [Tab.firstFree] at h
    split at h
    · next hfree => cases h; exact Option.isNone_iff_eq_none.mp hfree
    · exact ih h

namespace Machine

/-! ### What traffic leaves of a channel context -/

/-- A channel context but for what its packets move: the PSNs, the expected SEQ and the requests not yet acknowledged. -/
def Chan.settings (c : Chan) : Chan := { c with psn := 0, txPsn := 0, expSeq := none, reqs := [] }

/-- The settings of a channel of the device. -/
def Dev.settings (d : Dev) (n : Nat) : Option Chan := (Tab.get d.chans n).map Chan.settings

/-- A command that changes one channel leaves the changed context there. -/
theorem get_onChan {w : W} {ch : Nat} {c : Chan} {f : Chan → Chan} (h : Tab.get w.dev.chans ch = some c) :
    Tab.get (w.onChan ch f).dev.chans ch = some (f c) := by
  rw [W.onChan_dev, Tab.get_mod_self, h, Option.map_some]

theorem onChan_settings (w : W) (ch n : Nat) {f : Chan → Chan} (hf : ∀ c, (f c).settings = c.settings) :
    (w.onChan ch f).dev.settings n = w.dev.settings n := by
  simp only [Dev.settings, W.onChan_dev, Tab.get_mod]
  split
  · next h => subst h; cases Tab.get w.dev.chans n <;> simp [hf]
  · rfl

theorem sendOn_settings (w : W) (ch n : Nat) (t : Tx) : (w.sendOn ch t).dev.settings n = w.dev.settings n := by
  rw [Dev.settings, sendOn_chans, Dev.settings]

theorem initiate_settings (w : W) (ch k n : Nat) (msg : Nat → Tx) (f : Option (Nat × Nat)) :
    (w.initiate ch k msg f).dev.settings n = w.dev.settings n := by
  simp only [W.initiate]
  split
  · split
    · rfl
    · rw [sendOn_settings]; exact onChan_settings _ _ _ fun _ => rfl
  · rfl

/-- A reply moves only the PSNs of its channel and the requests that wait for their acknowledgement. -/
theorem reply_settings (w : W) (ch n : Nat) (h : Header) (op st d : Nat) (b : List Byte) :
    (w.reply ch h op st d b).dev.settings n = w.dev.settings n := by
  simp only [W.reply]
  split
  · rfl
  · exact initiate_settings ..

/-- A packet taken moves only PSN and expected SEQ of its channel. -/
theorem taken_settings (s : State) (ch n : Nat) (p : Packet) (psn : Nat) : (s.taken ch p psn).dev.settings n = s.dev.settings n := by
  have hseq : (s.taken ch p psn).dev.settings n = (s.acked ch psn).dev.settings n := onChan_settings _ _ _ fun _ => rfl
  rw [hseq, State.acked, sendOn_settings]
  exact onChan_settings _ _ _ fun _ => rfl

/-- A request on a channel leaves the context of every other. -/
theorem initiate_get_of_ne (w : W) {ch n : Nat} (hne : n ≠ ch) (k : Nat) (msg : Nat → Tx) (f : Option (Nat × Nat)) :
    Tab.get (w.initiate ch k msg f).dev.chans n = Tab.get w.dev.chans n := by
  simp only [W.initiate]
  split
  · split
    · rfl
    · rw [sendOn_chans, W.onChan_dev, Tab.get_mod_ne _ hne]
  · rfl

/-- A reply on a channel leaves the context of every other. -/
theorem reply_get_of_ne (w : W) {ch n : Nat} (hne : n ≠ ch) (h : Header) (op st d : Nat) (b : List Byte) :
    Tab.get (w.reply ch h op st d b).dev.chans n = Tab.get w.dev.chans n := by
  simp only [W.reply]
  split
  · rfl
  · exact initiate_get_of_ne _ hne ..

/-- A channel whose settings are known lives, with them. -/
theorem get_of_settings {d : Dev} {n : Nat} {k : Chan} (h : d.settings n = some k) :
    ∃ c, Tab.get d.chans n = some c ∧ c.settings = k := Option.map_eq_some_iff.mp h

/-- A channel that lives when a packet comes lives, with the same settings, once it is taken. -/
theorem taken_get {s : State} {n : Nat} {k : Chan} (h : Tab.get s.dev.chans n = some k) (ch : Nat) (p : Packet) (psn : Nat) :
    ∃ c, Tab.get (s.taken ch p psn).dev.chans n = some c ∧ c.settings = k.settings :=
  get_of_settings (by rw [taken_settings, Dev.settings, h, Option.map_some])

/-- A context that a command changes by its settings alone lives after the command's reply, with the changed settings. -/
theorem get_reply_onChan {s : State} {n ch psn : Nat} {p : Packet} {k : Chan} (h : Tab.get s.dev.chans n = some k) {w : W}
    (hw : w.dev.chans = (s.taken ch p psn).dev.chans) {f : Chan → Chan} (hf : ∀ c, (f c).settings = (f c.settings).settings)
    (hd : Header) (op st d : Nat) (b : List Byte) :
    ∃ k', Tab.get ((w.onChan n f).reply ch hd op st d b).dev.chans n = some k' ∧ k'.settings = (f k).settings := by
  obtain ⟨t, ht, hset⟩ := taken_get h ch p psn
  refine get_of_settings ?_
  rw [reply_settings, Dev.settings, get_onChan (hw ▸ ht), Option.map_some, hf t, hset, ← hf k]

/-- The handle of a channel stands as long as its settings do. -/
theorem handleOf_of_settings {d e : Dev} {n : Nat} (h : d.settings n = e.settings n) : d.handleOf 1 n = e.handleOf 1 n := by
  have hgen := congrArg (Option.map Chan.gen) h
  simp only [Dev.settings, Option.map_map] at hgen
  exact congrArg (fun g : Option Nat => mkHandle 1 (g.getD 0) n) hgen

/-! ### The commands -/

/-- A channel closed has no context (R107). -/
theorem closeChan_get (w : W) (ch : Nat) (dreq : Bool) : Tab.get (w.closeChan ch dreq).dev.chans ch = none := by
  cases hget : Tab.get w.dev.chans ch with
  | none => simp only [W.closeChan, hget]
  | some c =>
    simp only [W.closeChan, hget]
    exact Tab.get_del_self ..

section
variable {s : State} {ch : Nat} {p : Packet} {c : Chan}

/-- The context that CHAN_OPEN makes, with its generation, the device's first PSN and ECN as the port has it (R103, Table 3.4). -/
def openedChan (c : Ctx) (gen psn : Nat) (ecn : Bool) : Chan :=
  { gen := gen, tag := c.tag, kind := c.f 0 1, state := 2, prio := c.f 1 1, ipVer := c.f 2 1, rdDepth := c.f 3 1, remoteQpn := c.f 4 4
    psn := c.f 8 4, txPsn := psn, remoteIp := slice c.ps 0x18 16, remoteMac := slice c.ps 0x28 6, rxBuf := c.f 0x0C 4
    rxSync := c.f 0x10 4, ecn := ecn }

/-- CHAN_OPEN puts its context at the free index found and answers. -/
theorem chanOpen_body {c : Ctx} {w : W} {i : Nat} (hfree : Tab.firstFree w.dev.chans 0 16384 = some i) :
    ∃ (x : W) (gen psn : Nat) (ecn : Bool) (b : List Byte), chanOpen.body c w = x.ok c b ∧
      Tab.get x.dev.chans i = some (openedChan c gen psn ecn) ∧ psn < 2 ^ 24 := by
  simp only [chanOpen, hfree]
  exact ⟨_, _, _, _, _, rfl, Tab.get_put_self .., Nat.mod_lt _ (by decide)⟩

/-- CHAN_OPEN once admitted: the reply goes on another channel than the new one. -/
theorem exec_chanOpen {i : Nat} (h : Admitted chanOpen ch p s c)
    (hfree : Tab.firstFree (s.taken ch p c.psn).dev.chans 0 16384 = some i) :
    ∃ (w : W) (gen psn : Nat) (ecn : Bool), exec (.chanOpen ch p) s = .next (s.commit w) ∧
      Tab.get w.dev.chans i = some (openedChan (ctxOf chanOpen ch p) gen psn ecn) ∧ psn < 2 ^ 24 := by
  obtain ⟨x, gen, psn, ecn, b, hbody, hx, hpsn⟩ := chanOpen_body (c := ctxOf chanOpen ch p) hfree
  have hne : i ≠ ch := by
    rintro rfl
    obtain ⟨k, hk, -⟩ := taken_get h.sound.chan.chan i p c.psn
    rw [Tab.get_firstFree hfree] at hk
    cases hk
  exact ⟨x.ok (ctxOf chanOpen ch p) b, gen, psn, ecn, (run_admitted h).trans (by rw [hbody]), (reply_get_of_ne x hne ..).trans hx, hpsn⟩

/-- A channel context with a nonce drawn at a time (R102). -/
def Chan.challenged (nonce : List Byte) (now : Nat) (k : Chan) : Chan := { k with nonce := some (nonce, now) }

theorem freeBytes_length (w : W) (n : Nat) : (w.freeBytes n).1.length = n := by simp [W.freeBytes]

theorem chanAuthChallenge_body (c : Ctx) (w : W) : chanAuthChallenge.body c w =
    ((w.freeBytes 32).2.onChan c.idx (Chan.challenged (w.freeBytes 32).1 w.dev.clk.mono)).ok c
      ((w.freeBytes 32).1 ++ toLe 8 w.dev.fuse.serial) := rfl

/-- CHAN_AUTH_CHALLENGE once admitted. -/
theorem exec_chanAuthChallenge {k : Chan} (h : Admitted chanAuthChallenge ch p s c)
    (hget : Tab.get s.dev.chans (hIdx p.hdr.target.toNat) = some k) :
    ∃ (w : W) (k' : Chan) (nonce : List Byte), exec (.chanAuthChallenge ch p) s = .next (s.commit w) ∧
      Tab.get w.dev.chans (hIdx p.hdr.target.toNat) = some k' ∧ nonce.length = 32 ∧
      k'.settings = (k.challenged nonce s.dev.clk.mono).settings := by
  have hexec := run_admitted h
  rw [chanAuthChallenge_body, taken_clk] at hexec
  obtain ⟨k', hk', hset⟩ := get_reply_onChan hget (w := ((s.taken ch p c.psn).freeBytes 32).2) rfl
    (f := Chan.challenged ((s.taken ch p c.psn).freeBytes 32).1 s.dev.clk.mono) (fun _ => rfl) p.hdr 0x0101 0 0 _
  exact ⟨_, k', _, hexec, hk', freeBytes_length .., hset⟩

/-- The message that an authentication signs stands while its packet is taken. -/
theorem taken_authMessage (nonce : List Byte) (i : Nat) :
    (s.taken ch p c.psn).dev.authMessage nonce i = s.dev.authMessage nonce i := by
  rw [Dev.authMessage, handleOf_of_settings (taken_settings s ch i p c.psn), Dev.authMessage]

/-- CHAN_AUTH_RESPONSE with the owner's signature in time makes its channel ACTIVE (R102). -/
theorem exec_chanAuthResponse {k : Chan} {nonce key : List Byte} {t : Nat} (h : Admitted chanAuthResponse ch p s c)
    (hget : Tab.get (s.taken ch p c.psn).dev.chans (hIdx p.hdr.target.toNat) = some k) (hnonce : k.nonce = some (nonce, t))
    (hfresh : s.dev.clk.mono ≤ t + 10000000000) (hkey : s.dev.fuse.ownerKey = some key)
    (hgood : ed448Verify 0 key (ascii "SV24-CHAN-AUTH") (s.dev.authMessage nonce (hIdx p.hdr.target.toNat)) (slice p.params 0 114) = true) :
    exec (.chanAuthResponse ch p) s = .next (s.commit ((((s.taken ch p c.psn).onChan (hIdx p.hdr.target.toNat) fun k =>
      { k with nonce := none }).onChan (hIdx p.hdr.target.toNat) fun k => { k with state := 2 }).reply ch p.hdr 0x0102 0 0 [])) := by
  have hlate : ¬ t + 10000000000 < s.dev.clk.mono := Nat.not_lt.mpr hfresh
  refine (run_admitted h).trans ?_
  simp only [chanAuthResponse, Ctx.idx, Ctx.target, ctxOf, hget, hnonce, Option.bind_some, Option.map_some, taken_clk, hlate, taken_fuse,
    hkey, taken_authMessage, hgood, if_false, if_true]
  rfl

/-- The context that CHAN_MODIFY leaves (R106). -/
def modifiedChan (c : Ctx) (k : Chan) : Chan :=
  let k := { k with prio := c.f 0 1, ecn := c.f 1 1 = 1, queueLimit := c.f 2 1, rateCap := c.f 4 4 }
  { k with rc := min k.rc k.maxRate, rt := min k.rt k.maxRate }

theorem chanModify_body (c : Ctx) (w : W) : chanModify.body c w = (w.onChan c.idx (modifiedChan c)).ok c [] := rfl

/-- CHAN_MODIFY once admitted. -/
theorem exec_chanModify {k : Chan} (h : Admitted chanModify ch p s c) (hget : Tab.get s.dev.chans (hIdx p.hdr.target.toNat) = some k) :
    ∃ (w : W) (k' : Chan), exec (.chanModify ch p) s = .next (s.commit w) ∧ Tab.get w.dev.chans (hIdx p.hdr.target.toNat) = some k' ∧
      k'.settings = (modifiedChan (ctxOf chanModify ch p) k).settings := by
  have hexec := run_admitted h
  rw [chanModify_body] at hexec
  obtain ⟨k', hk', hset⟩ := get_reply_onChan hget (w := s.taken ch p c.psn) rfl (f := modifiedChan (ctxOf chanModify ch p))
    (fun _ => rfl) p.hdr 0x0103 0 0 []
  exact ⟨_, k', hexec, hk', hset⟩

end

/-- Settles O14: each clause reads its command's lemma above, the settings of a context field by field. -/
theorem channelCommandsAct : Obligations.ChannelCommandsAct := by
  unfold Obligations.ChannelCommandsAct
  refine ⟨?opened, ?challenge, ?response, ?modify, ?close⟩
  case opened =>
    intro s ch i p c h hfree
    obtain ⟨w, gen, psn, ecn, hw, hk, hpsn⟩ := exec_chanOpen h hfree
    exact ⟨w, _, hw, hk, rfl, rfl, rfl, rfl, rfl, rfl, rfl, rfl, rfl, rfl, hpsn⟩
  case challenge =>
    intro s ch p c k h hget
    obtain ⟨w, k', nonce, hw, hk', hlen, hset⟩ := exec_chanAuthChallenge h hget
    exact ⟨w, k', nonce, hw, hk', (congrArg Chan.nonce hset :), hlen, (congrArg Chan.state hset :)⟩
  case response =>
    exact fun s ch p c k nonce key t h hget hnonce hfresh hkey hgood => exec_chanAuthResponse h hget hnonce hfresh hkey hgood
  case modify =>
    intro s ch p c k h hget
    obtain ⟨w, k', hw, hk', hset⟩ := exec_chanModify h hget
    have hecn : k'.ecn = decide (fld p.params 1 1 = 1) := (congrArg Chan.ecn hset :)
    have hrc : k'.rc = min k.rc _ := (congrArg Chan.rc hset :)
    have hrt : k'.rt = min k.rt _ := (congrArg Chan.rt hset :)
    exact ⟨w, k', hw, hk', (congrArg Chan.prio hset :), by rw [hecn, decide_eq_true_iff], (congrArg Chan.queueLimit hset :),
      (congrArg Chan.rateCap hset :), (congrArg Chan.state hset :), hrc ▸ min_le_left .., hrt ▸ min_le_left ..⟩
  case close =>
    intro s ch p c h
    have hexec := run_admitted h
    refine ⟨hexec, fun t ht => ?_⟩
    cases hexec.symm.trans ht
    exact closeChan_get ..

end Machine
end Sys2Proof
end

section
/-! PROOFS. RoCEv2 requests (R88, R91, R97, R104): one that comes in its order is served as its kind of channel serves it. -/

namespace Sys2Proof.Machine

theorem sendOn_hub (w : W) (ch : Nat) (t : Tx) : (w.sendOn ch t).dev.hub = w.dev.hub := by
  obtain ⟨l, h⟩ := sendOn_dev w ch t
  rw [h]

/-- A congestion notification leaves the hub as it is. -/
theorem answerCe_hub (w : W) (ch : Nat) (ce : Bool) : (w.answerCe ch ce).dev.hub = w.dev.hub := by
  cases hget : Tab.get w.dev.chans ch with
  | none => simp only [W.answerCe, hget]
  | some c =>
    simp only [W.answerCe, hget]
    split_ifs
    · rw [sendOn_hub]; rfl
    · rfl

/-- A request in order is served once its congestion mark has been answered (R90, R110). -/
theorem roce_inOrder {s : State} {ch : Nat} {r : RoceHdr} {c : Chan} (h : InOrder s ch r c) (go : Chan → W → W) :
    s.work.roce ch r go = go c (s.work.answerCe ch r.ce) := by
  obtain ⟨hport, hwhole, hcls, hchan, hsound, hruns, hpsn⟩ := h
  obtain ⟨cls, hcls⟩ := Option.isSome_iff_exists.mp hcls
  have hahead : (c.psn + 2 ^ 24 - c.psn) % 2 ^ 24 = 0 := by rw [Nat.add_sub_cancel_left, Nat.mod_self]
  simp only [W.roce, State.work_dev, hport, hwhole, hcls, hchan, hsound, hpsn, hahead, answerCe_hub, hruns, Bool.not_true, Bool.or_self,
    Bool.false_eq_true, if_false, if_true]

section
variable {s : State} {ch : Nat} {r : RoceHdr} {c : Chan} (h : InOrder s ch r c)
include h

theorem exec_sendOnly (payload : List Byte) : exec (.sendOnly ch r payload) s = .next (s.after
    (if c.kind = 1 then (s.work.answerCe ch r.ce).recvCommand ch c.psn payload
      else (s.work.answerCe ch r.ce).recvSend ch c c.psn payload)) := by
  change execSendOnly ch r payload s = _
  rw [execSendOnly, runT_next, roce_inOrder h, h.psn]

theorem exec_rdmaWrite (part : WritePart) (va : DWord) (rkey : Word) (payload : List Byte) : exec (.rdmaWrite ch r part va rkey payload) s =
    .next (s.commit ((s.work.answerCe ch r.ce).recvWrite ch c c.psn part va.toNat rkey.toNat payload)) := by
  change execRdmaWrite ch r part va rkey payload s = _
  rw [execRdmaWrite, run_next, roce_inOrder h, h.psn]

theorem exec_rdmaWriteWithImmediate (part : WritePart) (va : DWord) (rkey imm : Word) (payload : List Byte) :
    exec (.rdmaWriteWithImmediate ch r part va rkey imm payload) s = .next (s.after (if part = .first ∨ part = .middle
      then (s.work.answerCe ch r.ce).recvWrite ch c c.psn part va.toNat rkey.toNat payload
      else (s.work.answerCe ch r.ce).recvWriteImm ch c c.psn part va.toNat rkey.toNat imm.toNat payload)) := by
  change execRdmaWriteWithImmediate ch r part va rkey imm payload s = _
  rw [execRdmaWriteWithImmediate, runT_next, roce_inOrder h, h.psn]
  simp only [Bool.or_eq_true, decide_eq_true_eq]

theorem exec_rdmaReadRequest (va : DWord) (rkey len : Word) : exec (.rdmaReadRequest ch r va rkey len) s =
    .next (s.commit ((s.work.answerCe ch r.ce).recvRead ch c c.psn va.toNat rkey.toNat len.toNat)) := by
  change execRdmaReadRequest ch r va rkey len s = _
  rw [execRdmaReadRequest, run_next, roce_inOrder h, h.psn]

theorem exec_invalidRequest (op : Byte) : exec (.invalidRequest ch r op) s =
    .next (s.commit ((s.work.answerCe ch r.ce).nak ch c.psn .invalidRequest)) := by
  change execInvalidRequest ch r op s = _
  rw [execInvalidRequest, run_next, roce_inOrder h, h.psn]

end

/-- Settles O27: a request in order is served on the working copy in which its congestion mark is answered. -/
theorem roceRequestsAreServed : Obligations.RoceRequestsAreServed := by
  unfold Obligations.RoceRequestsAreServed
  refine ⟨?command, ?ring, ?write, ?writeImm, ?writePart, ?read, ?invalid⟩
  case command => exact fun ch r c payload s h hkind => (exec_sendOnly h payload).trans (by rw [if_pos hkind])
  case ring => exact fun ch r c payload s h hkind => (exec_sendOnly h payload).trans (by rw [if_neg hkind])
  case write => exact fun ch r c part va rkey payload s h => exec_rdmaWrite h part va rkey payload
  case writeImm =>
    intro ch r c part va rkey imm payload s h hpart
    have hlast : ¬ (part = .first ∨ part = .middle) := by rcases hpart with rfl | rfl <;> decide
    rw [exec_rdmaWriteWithImmediate h, if_neg hlast]
  case writePart =>
    intro ch r c part va rkey imm payload s h hpart
    rw [exec_rdmaWriteWithImmediate h, if_pos hpart]
  case read => exact fun ch r c va rkey len s h => exec_rdmaReadRequest h va rkey len
  case invalid => exact fun ch r c op s h => exec_invalidRequest h op

end Sys2Proof.Machine
end

section
/-! PROOFS. Connections, acknowledgements, retries and the rates of a channel (R90, R93, R94, R99 to R101, R111). -/

namespace Sys2Proof.Machine

section
variable {s : State} {ch : Nat} {c : Chan}

/-! ### Connections (R99 to R101) -/

/-- The context of a channel that a connection request opens, with its generation and the device's first PSN (R99, R100). -/
def connChan (r : ConnReq) (d : Dev) (gen psn : Nat) : Chan :=
  { gen := gen, tag := 0, kind := 1, state := 1, prio := 1, ipVer := r.ipVer, remoteQpn := r.remoteQpn.toNat, psn := r.remotePsn.toNat
    txPsn := psn, remoteIp := r.remoteIp, remoteMac := r.sourceMac, ecn := bit d.eth.cfg.toNat 24 }

/-- A connection request served with a channel at an index (R99): the channel in state IDLE under its next generation and a free first
PSN, and the REP that names it. -/
def W.connected (w : W) (r : ConnReq) (i : Nat) : W :=
  let gen := (w.nextGen 1 i).1
  let psn := (w.nextGen 1 i).2.free.1 % 2 ^ 24
  ((w.nextGen 1 i).2.free.2.onDev fun d => { d with chans := Tab.put d.chans i (connChan r w.dev gen psn) }).send
    (.rep (mkHandle 1 gen i))

/-- A connection request opens its channel at the lowest free index. -/
theorem exec_connectionReq {r : ConnReq} {i : Nat} (hup : s.dev.portUp = true) (hruns : s.dev.hub.st ≠ .updatePause)
    (hbar : s.dev.connBar r = none) (hfree : Tab.firstFree s.dev.chans 0 16384 = some i) :
    exec (.connectionReq r) s = .next (s.commit (s.work.connected r i)) := by
  change execConnectionReq r s = _
  simp only [execConnectionReq, run_next, State.work_dev, hup, hruns, hbar, hfree, Bool.not_true, decide_false, Bool.or_self,
    Bool.false_eq_true, if_false]
  rfl

theorem connected_chan (w : W) (r : ConnReq) (i : Nat) : Tab.get (w.connected r i).dev.chans i =
    some (connChan r w.dev (w.nextGen 1 i).1 ((w.nextGen 1 i).2.free.1 % 2 ^ 24)) := Tab.get_put_self ..

theorem connected_out (s : State) (r : ConnReq) (i : Nat) :
    (s.work.connected r i).out = [.rep (mkHandle 1 (s.work.nextGen 1 i).1 i)] := rfl

theorem exec_connectionReq_barred {r : ConnReq} {why : String} (hup : s.dev.portUp = true) (hruns : s.dev.hub.st ≠ .updatePause)
    (hbar : s.dev.connBar r = some why) : exec (.connectionReq r) s = .next { s with tx := s.tx ++ [.rej why] } := by
  change execConnectionReq r s = _
  simp only [execConnectionReq, run_next, State.work_dev, hup, hruns, hbar, Bool.not_true, decide_false, Bool.or_self,
    Bool.false_eq_true, if_false]
  rw [commit_of_wr_nil s rfl]; rfl

theorem exec_rtu (hget : Tab.get s.dev.chans ch = some c) (hkind : c.kind = 1) (hrtu : c.rtuAt = none) (hup : s.dev.portUp = true) :
    ∃ w, exec (.rtu ch) s = .next (s.commit w) ∧ Tab.get w.dev.chans ch = some { c with rtuAt := some s.dev.clk.mono } := by
  refine ⟨_, rfl, (get_onChan hget).trans ?_⟩
  simp [hkind, hrtu, hup]

theorem exec_dreq (hget : (Tab.get s.dev.chans ch).isSome = true) (hup : s.dev.portUp = true) :
    exec (.dreq ch) s = .next (s.commit ((s.work.send (.drep ch)).closeChan ch false)) := by
  change execDreq ch s = _
  simp [execDreq, run_next, hget, hup]

theorem exec_commandChannelIdleTimeout {t : Nat} (hget : Tab.get s.dev.chans ch = some c) (hkind : c.kind = 1) (hidle : c.state = 1)
    (hrtu : c.rtuAt = some t) (hlate : t + 30000000000 ≤ s.dev.clk.mono) :
    exec (.commandChannelIdleTimeout ch) s = .next (s.commit (s.work.closeChan ch true)) := by
  change execCommandChannelIdleTimeout ch s = _
  simp [execCommandChannelIdleTimeout, run_next, hget, hkind, hidle, hrtu, hlate]

/-! ### Acknowledgements and retries (R90, R93, R94) -/

section
variable (hget : Tab.get s.dev.chans ch = some c) (hsound : c.state ≠ 6)
include hget hsound

theorem exec_acknowledge (psn : BitVec 24) (payload : List Byte) :
    exec (.acknowledge ch psn payload) s = .next (s.after (s.work.acked ch psn.toNat)) := by
  change execAcknowledge ch psn payload s = _
  simp only [execAcknowledge, runT_next, State.work_dev, hget, hsound, if_false]

theorem exec_nakReceived (code : NakCode) : exec (.nakReceived ch code) s = .next (s.commit (s.work.faultChan ch)) := by
  change execNakReceived ch code s = _
  simp only [execNakReceived, run_next, State.work_dev, hget, hsound, if_false]

theorem exec_rnrNakReceived (psn : BitVec 24) (timer : BitVec 5) : exec (.rnrNakReceived ch psn timer) s = .next (s.after
    (((s.work.acked ch ((psn.toNat + 2 ^ 24 - 1) % 2 ^ 24)).onChan ch fun c =>
      { c with rnrUntil := (s.work.acked ch ((psn.toNat + 2 ^ 24 - 1) % 2 ^ 24)).dev.clk.mono + rnrDelay timer.toNat }).resend ch)) := by
  change execRnrNakReceived ch psn timer s = _
  simp only [execRnrNakReceived, runT_next, State.work_dev, hget, hsound, if_false]

end

/-- The timer of the oldest request runs out: it and those behind it go again, or the channel is FAULTED after 7 retries (R90). -/
theorem exec_localAckTimeout {r : DevReq} {rest : List DevReq} (hget : Tab.get s.dev.chans ch = some c) (hreqs : c.reqs = r :: rest)
    (hdelay : c.rnrUntil ≤ s.dev.clk.mono) (hruns : s.dev.hub.st ≠ .updatePause) :
    exec (.localAckTimeout ch) s = .next (s.commit (if 7 ≤ r.tries then s.work.faultChan ch else
      (s.work.onChan ch fun c => { c with reqs := { r with tries := r.tries + 1 } :: rest }).resend ch)) := by
  have hdue : ¬ s.dev.clk.mono < c.rnrUntil := Nat.not_lt.mpr hdelay
  change execLocalAckTimeout ch s = _
  simp only [execLocalAckTimeout, run_next, State.work_dev, hget, hreqs, hdue, hruns, decide_false, Bool.or_self, Bool.false_eq_true,
    if_false]

/-! ### Rates (R111) -/

/-- A channel context after a congestion notification. -/
def Chan.slowed (now : Nat) (c : Chan) : Chan :=
  { c with rt := c.rc, rc := max (c.rc * (1 - c.alpha / 2)) 100, alpha := (1 - 1 / 256) * c.alpha + 1 / 256, stage := 0,
           lastCnpIn := some now }

section
variable (hget : Tab.get s.dev.chans ch = some c) (hsound : c.state ≠ 6) (hecn : c.ecn = true)
include hget hsound hecn

theorem exec_congestionNotification :
    exec (.congestionNotification ch) s = .next (s.commit (s.work.onChan ch (Chan.slowed s.dev.clk.mono))) := by
  change execCongestionNotification ch s = _
  simp only [execCongestionNotification, run_next, State.work_dev, hget, hsound, hecn, Bool.not_true, Bool.false_eq_true, if_false]
  rfl

theorem exec_ecnAlphaTimer (hquiet : c.quiet s.dev.clk.mono 55000 = true) : ∃ w, exec (.ecnAlphaTimer ch) s = .next (s.commit w) ∧
    Tab.get w.dev.chans ch = some { c with alpha := (1 - 1 / 256) * c.alpha } := by
  refine ⟨_, rfl, (get_onChan hget).trans ?_⟩
  simp [hsound, hecn, hquiet]

theorem exec_ecnRateTimer (hquiet : c.quiet s.dev.clk.mono 300000 = true) {rt : Rat}
    (hrt : rt = if c.stage < 5 then c.rt else min (c.rt + 40) c.maxRate) : ∃ w, exec (.ecnRateTimer ch) s = .next (s.commit w) ∧
      Tab.get w.dev.chans ch = some { c with stage := c.stage + 1, rt := rt, rc := min ((rt + c.rc) / 2) c.maxRate } := by
  refine ⟨_, rfl, (get_onChan hget).trans ?_⟩
  by_cases hstage : c.stage < 5
  · have hfast : ¬ 5 < c.stage + 1 := by omega
    simp [hsound, hecn, hquiet, hrt, hstage, hfast, Chan.maxRate]
  · have hadd : 5 < c.stage + 1 := by omega
    simp [hsound, hecn, hquiet, hrt, hstage, hadd, Chan.maxRate]

end
end

/-- Settles O28: each clause is its event's lemma above. -/
theorem channelEventsAct : Obligations.ChannelEventsAct := by
  unfold Obligations.ChannelEventsAct
  refine ⟨?connect, ?reject, ?rtu, ?dreq, ?idle, ?ack, ?nak, ?rnr, ?again, ?exhausted, ?congestion, ?alpha, ?rate⟩
  case connect =>
    intro r i s hup hruns hbar hfree
    exact ⟨_, _, exec_connectionReq hup hruns hbar hfree, connected_chan .., rfl, rfl, rfl, rfl, rfl, rfl, connected_out ..⟩
  case reject => exact fun r why s hup hruns hbar => exec_connectionReq_barred hup hruns hbar
  case rtu => exact fun ch c s hget hkind hrtu hup => exec_rtu hget hkind hrtu hup
  case dreq => exact fun ch s hget hup => exec_dreq hget hup
  case idle => exact fun ch t c s hget hkind hidle hrtu hlate => exec_commandChannelIdleTimeout hget hkind hidle hrtu hlate
  case ack => exact fun ch psn payload c s hget hsound => exec_acknowledge hget hsound psn payload
  case nak => exact fun ch code c s hget hsound => exec_nakReceived hget hsound code
  case rnr => exact fun ch psn timer c s hget hsound => exec_rnrNakReceived hget hsound psn timer
  case again =>
    intro ch c r rest s hget hreqs hdelay hruns htries
    rw [exec_localAckTimeout hget hreqs hdelay hruns, if_neg (by omega)]
  case exhausted =>
    intro ch c r rest s hget hreqs hdelay hruns htries
    rw [exec_localAckTimeout hget hreqs hdelay hruns, if_pos htries]
  case congestion => exact fun ch c s hget hsound hecn => ⟨_, exec_congestionNotification hget hsound hecn, get_onChan hget⟩
  case alpha => exact fun ch c s hget hsound hecn hquiet => exec_ecnAlphaTimer hget hsound hecn hquiet
  case rate => exact fun ch c s hget hsound hecn hquiet => exec_ecnRateTimer hget hsound hecn hquiet rfl

end Sys2Proof.Machine
end

section
/-! PROOFS. Memory (R120, R564): every step keeps its canonical form, and a sequence of writes is read back byte by byte and line by
line. -/

namespace Sys2Proof.Machine

/-! ### Canonical form -/

/-- A commit applies the working copy's writes, and each keeps the canonical form. -/
theorem commit_inv {s : State} (h : s.Inv) (w : W) : (s.commit w).Inv := Mem.applyAll_wf h _

/-- The passing of time commits a working copy or changes nothing. -/
theorem idle_inv {s : State} (h : s.Inv) : (idle s).Inv := by
  unfold idle
  split
  · exact commit_inv h _
  · exact h

/-- Settles O50: a step is the passing of time or the commit of a command's writes. -/
theorem everyStepKeepsMemoryCanonical : Obligations.EveryStepKeepsMemoryCanonical := by
  unfold Obligations.EveryStepKeepsMemoryCanonical
  intro s t hinv hstep
  cases hq : s.pending with
  | nil =>
    simp only [step, hq, Host.Outcome.next.injEq] at hstep
    exact hstep ▸ idle_inv hinv
  | cons c rest =>
    obtain ⟨w, hw⟩ := exec_commits c { s with pending := rest }
    rw [stepRunsTheFrontCommand s c rest hq, hw, Host.Outcome.next.injEq] at hstep
    have hrest : State.Inv { s with pending := rest } := hinv
    exact hstep ▸ commit_inv hrest w

/-! ### What a byte reads after one write -/

/-- Cells kept by their address read as before, the others as 0. -/
theorem readCells_filter {m : List Host.Cell} (h : CellsWf m) (p : Nat → Bool) (a : Nat) :
    readCells (m.filter fun c => p c.1) a = if p a then readCells m a else 0 := by
  induction m with
  | nil => simp [readCells]
  | cons c t ih =>
    obtain ⟨k, v⟩ := c
    have ih := ih h.tail
    have habsent : ∀ {x}, x ≤ k → readCells t x = 0 := fun hx => readCells_of_lt fun y hy => lt_of_le_of_lt hx (h.lt hy)
    rcases lt_trichotomy a k with hlt | rfl | hgt
    · have hne : a ≠ k := by omega
      rw [habsent hlt.le, ite_self] at ih
      cases hk : p k <;> simp [readCells, hk, hne, hlt, ih]
    · rw [habsent le_rfl, ite_self] at ih
      cases hk : p a <;> simp [readCells, hk, ih]
    · have hne : a ≠ k := by omega
      have hle : ¬ a < k := by omega
      cases hk : p k <;> simp [readCells, hk, hne, hle, ih]

/-- Cells stored at their offset from `src`, but from `dst`, read there where they are listed; the rest reads as before. -/
theorem readCells_foldWrite {cs m : List Host.Cell} (hcs : CellsWf cs) (hm : CellsWf m) {src : Nat} (dst a : Nat)
    (hsrc : ∀ c ∈ cs, src ≤ c.1) :
    readCells (cs.foldl (fun acc c => writeCell acc (c.1 - src + dst) c.2) m) a =
      if dst ≤ a ∧ readCells cs (a - dst + src) ≠ 0 then readCells cs (a - dst + src) else readCells m a := by
  induction cs generalizing m with
  | nil => simp [readCells]
  | cons c t ih =>
    obtain ⟨k, v⟩ := c
    have hv : v ≠ 0 := hcs.2 (k, v) (List.mem_cons_self ..)
    have hk : src ≤ k := hsrc (k, v) (List.mem_cons_self ..)
    have habsent : ∀ {x}, x ≤ k → readCells t x = 0 := fun hx => readCells_of_lt fun y hy => lt_of_le_of_lt hx (hcs.lt hy)
    rw [List.foldl_cons, ih hcs.tail (writeCell_wf hm ..) fun c hc => hsrc c (List.mem_cons_of_mem _ hc), readCells_writeCell hm]
    by_cases hda : dst ≤ a
    · by_cases hak : a - dst + src = k
      · have haddr : a = k - src + dst := by omega
        rw [hak, habsent le_rfl, if_pos haddr]
        have hread : readCells ((k, v) :: t) k = v := if_pos rfl
        rw [hread, if_neg fun hne => hne.2 rfl, if_pos ⟨hda, hv⟩]
      · have haddr : a ≠ k - src + dst := by omega
        have hread : readCells ((k, v) :: t) (a - dst + src) = readCells t (a - dst + src) := by
          simp only [readCells, if_neg hak, ite_eq_right_iff]
          exact fun hlt => (habsent hlt.le).symm
        rw [hread, if_neg haddr]
    · have haddr : a ≠ k - src + dst := by omega
      simp [hda, haddr]

/-- A range cleared reads 0; the rest reads as before. -/
theorem readCells_clearCells {m : List Host.Cell} (h : CellsWf m) (p n a : Nat) :
    readCells (clearCells m p n) a = if p ≤ a ∧ a < p + n then 0 else readCells m a := by
  have hread := readCells_filter h (fun x => x < p || p + n ≤ x) a
  by_cases hin : p ≤ a ∧ a < p + n
  · have hout : (a < p || p + n ≤ a) = false := by simp; omega
    rw [if_pos hin, clearCells, hread, hout]; rfl
  · have hout : (a < p || p + n ≤ a) = true := by simp; omega
    rw [if_neg hin, clearCells, hread, hout]; rfl

theorem clearCells_wf {m : List Host.Cell} (h : CellsWf m) (p n : Nat) : CellsWf (clearCells m p n) := filter_wf h _

theorem copyCells_wf {m : List Host.Cell} (h : CellsWf m) (src dst n : Nat) : CellsWf (copyCells m src dst n) :=
  foldWrite_wf (clearCells_wf h ..) _ _

/-- A range copied reads as its source did; the rest reads as before. -/
theorem readCells_copyCells {m : List Host.Cell} (h : CellsWf m) (src dst n a : Nat) :
    readCells (copyCells m src dst n) a = if dst ≤ a ∧ a < dst + n then readCells m (a - dst + src) else readCells m a := by
  have hsrc : ∀ c ∈ m.filter (fun c => src ≤ c.1 && c.1 < src + n), src ≤ c.1 := fun c hc => by
    simp only [List.mem_filter, Bool.and_eq_true, decide_eq_true_eq] at hc; exact hc.2.1
  rw [copyCells, readCells_foldWrite (filter_wf h _) (clearCells_wf h ..) dst a hsrc, readCells_clearCells h,
    readCells_filter h (fun x => src ≤ x && x < src + n)]
  by_cases hin : dst ≤ a ∧ a < dst + n
  · have hrange : (src ≤ a - dst + src && a - dst + src < src + n) = true := by simp; omega
    rw [hrange]
    simp only [hin, if_true, and_self, true_and, ne_eq, ite_not]
    split <;> simp_all
  · have hrange : dst ≤ a → (src ≤ a - dst + src && a - dst + src < src + n) = false := fun _ => by simp; omega
    rw [if_neg hin, if_neg hin, if_neg fun hne => hne.2 (by rw [hrange hne.1]; rfl)]

/-- The latest write decides over whatever the earlier ones leave. -/
theorem readOver_cons (base : Nat → Byte) (o : MemOp) (ops : List MemOp) (a : Nat) :
    readOver base (o :: ops) a = readOver (readOver base ops) [o] a := by
  cases o <;> rfl

/-- After one write each byte reads as the write says. -/
theorem Mem.apply_read {m : Mem} (h : m.wf = true) {o : MemOp} (hapart : o.Apart) (a : Nat) :
    readCells (m.apply o).cells a = readOver (readCells m.cells) [o] a := by
  obtain ⟨hcells, -⟩ := (Mem.wf_iff m).mp h
  cases o with
  | put p bs => exact readCells_writeBytes hcells p bs a
  | clear p n => exact readCells_clearCells hcells p n a
  | move src dst n =>
    obtain ⟨-, -, hranges⟩ := hapart
    simp only [Mem.apply, readOver]
    rw [readCells_clearCells (copyCells_wf hcells ..), readCells_copyCells hcells]
    by_cases hsame : src = dst
    · subst hsame
      rw [if_pos rfl, if_neg (by omega)]
      split <;> rfl
    · rw [if_neg hsame]
      by_cases hin : dst ≤ a ∧ a < dst + n
      · rw [if_neg (by omega), if_pos hin, if_pos hin]
      · rw [if_neg hin, if_neg hin]
  | mark p n => rfl
  | clean p n => rfl

/-! ### What a line's mark says after one write -/

theorem mem_addLine_iff {l : List Nat} {n x : Nat} : x ∈ addLine l n ↔ x = n ∨ x ∈ l := by
  induction l with
  | nil => simp [addLine]
  | cons y t ih =>
    simp only [addLine]
    split
    · next hn => subst hn; simp
    · split
      · exact List.mem_cons
      · simp only [List.mem_cons, ih]; tauto

/-- Lines added to a list are in it beside those that were. -/
theorem mem_foldLines {l ns : List Nat} {f : Nat → Nat} {x : Nat} :
    x ∈ ns.foldl (fun acc k => addLine acc (f k)) l ↔ (∃ k ∈ ns, x = f k) ∨ x ∈ l := by
  induction ns generalizing l with
  | nil => simp
  | cons n t ih => simp only [List.foldl_cons, ih, mem_addLine_iff, List.exists_mem_cons_iff, or_left_comm, or_assoc]

/-- The lines of a range are those that it touches. -/
theorem mem_linesOf {a n l : Nat} (hl : l % 64 = 0) : l ∈ linesOf a n ↔ touchesLine a n l = true := by
  unfold linesOf touchesLine lineOf
  split
  · next hn => simp [hn]
  · next hn =>
    simp only [List.mem_map, List.mem_range, Bool.and_eq_true, decide_eq_true_eq]
    constructor
    · rintro ⟨k, hk, rfl⟩; omega
    · exact fun ⟨⟨_, hlt⟩, hle⟩ => ⟨l / 64 - a / 64, by omega, by omega⟩

/-- A range moved takes its marks to its new place. -/
theorem mem_movedPoison {ps : List Nat} {src dst n l : Nat} :
    l ∈ (ps.filter fun l => src ≤ l && l < src + n).foldl (fun acc l => addLine acc (l - src + dst))
        (ps.filter fun l => !(src ≤ l && l < src + n) && !(dst ≤ l && l < dst + n)) ↔
      if dst ≤ l ∧ l < dst + n then l - dst + src ∈ ps else ¬ (src ≤ l ∧ l < src + n) ∧ l ∈ ps := by
  simp only [mem_foldLines, List.mem_filter, Bool.and_eq_true, Bool.not_eq_true', decide_eq_true_eq, Bool.and_eq_false_iff,
    decide_eq_false_iff_not]
  split
  · next hin =>
    constructor
    · rintro (⟨k, ⟨hk, hrange⟩, rfl⟩ | ⟨_, _, hout⟩)
      · rwa [show k - src + dst - dst + src = k by omega]
      · omega
    · exact fun hmem => .inl ⟨_, ⟨hmem, by omega⟩, by omega⟩
  · next hout =>
    constructor
    · rintro (⟨k, ⟨hk, hrange⟩, rfl⟩ | ⟨hmem, hrange, _⟩)
      · omega
      · exact ⟨by omega, hmem⟩
    · exact fun ⟨hrange, hmem⟩ => .inr ⟨hmem, by omega, by omega⟩

theorem poisonOver_cons (base : Nat → Bool) (o : MemOp) (ops : List MemOp) (l : Nat) :
    poisonOver base (o :: ops) l = poisonOver (poisonOver base ops) [o] l := by
  cases o <;> rfl

/-- What one write makes of a line's mark depends on the marks of lines alone. -/
theorem poisonOver_congr {f g : Nat → Bool} (h : ∀ l, l % 64 = 0 → f l = g l) {o : MemOp} (hapart : o.Apart) {l : Nat} (hl : l % 64 = 0) :
    poisonOver f [o] l = poisonOver g [o] l := by
  cases o with
  | move src dst n =>
    obtain ⟨hsrc, hdst, -⟩ := hapart
    simp only [poisonOver, h l hl]
    split
    · exact h _ (by omega)
    · rfl
  | _ => simp only [poisonOver, h l hl]

/-- Marks kept but for whole lines of a range. -/
theorem contains_filter_wholeLine (ps : List Nat) (p n l : Nat) :
    (ps.filter fun l => !wholeLine p n l).contains l = if wholeLine p n l then false else ps.contains l := by
  rw [Bool.eq_iff_iff]
  cases hw : wholeLine p n l <;> simp [hw]

/-- After one write each line's mark is as the write says. -/
theorem Mem.apply_poison (m : Mem) (o : MemOp) {l : Nat} (hl : l % 64 = 0) :
    (m.apply o).poison.contains l = poisonOver (fun k => m.poison.contains k) [o] l := by
  cases o with
  | put p bs => exact contains_filter_wholeLine ..
  | clear p n => exact contains_filter_wholeLine ..
  | move src dst n =>
    rw [Bool.eq_iff_iff]
    refine List.contains_iff_mem.trans (mem_movedPoison.trans ?_)
    simp only [poisonOver]
    split
    · exact List.contains_iff_mem.symm
    · split <;> simp_all
  | mark p n =>
    have hmem : l ∈ (linesOf p n).foldl addLine m.poison ↔ touchesLine p n l = true ∨ l ∈ m.poison := by
      have hfold := mem_foldLines (l := m.poison) (ns := linesOf p n) (f := id) (x := l)
      simpa [← mem_linesOf hl] using hfold
    rw [Bool.eq_iff_iff]
    refine List.contains_iff_mem.trans (hmem.trans ?_)
    simp only [poisonOver]
    split <;> simp_all
  | clean p n => exact contains_filter_wholeLine ..

/-- The writes given latest first: the latest acts on what the earlier ones leave. -/
theorem Mem.applyAll_reverse_cons (m : Mem) (o : MemOp) (ops : List MemOp) :
    m.applyAll (o :: ops).reverse = (m.applyAll ops.reverse).apply o := by
  simp [Mem.applyAll, List.foldl_append]

/-- Settles O51, by induction on the writes, the latest first. -/
theorem memoryReadsBackWhatIsWritten : Obligations.MemoryReadsBackWhatIsWritten := by
  unfold Obligations.MemoryReadsBackWhatIsWritten
  intro m ops hwf hapart
  induction ops with
  | nil => exact ⟨fun _ => rfl, fun _ _ => rfl⟩
  | cons o t ih =>
    obtain ⟨hread, hpoison⟩ := ih fun x hx => hapart x (List.mem_cons_of_mem _ hx)
    have ho : o.Apart := hapart o (List.mem_cons_self ..)
    rw [Mem.applyAll_reverse_cons]
    constructor
    · intro a
      rw [readOver_cons, Mem.apply_read (Mem.applyAll_wf hwf _) ho, funext hread]
    · intro l hl
      rw [poisonOver_cons, Mem.apply_poison _ _ hl, poisonOver_congr hpoison ho hl]

end Sys2Proof.Machine
end

section
/-! PROOFS. The commands of memory and placement (R132, R134, R139, R140, R147, R149): what their packets leave of the buffers and of the
memory system, and the effect of each command. -/

namespace Sys2Proof.Machine

@[simp] theorem taken_bufs (s : State) (ch : Nat) (p : Packet) (psn : Nat) : (s.taken ch p psn).dev.bufs = s.dev.bufs :=
  taken_keeps (·.bufs) (fun _ _ _ => rfl) ..

@[simp] theorem reply_bufs (w : W) (ch : Nat) (h : Header) (op st d : Nat) (b : List Byte) :
    (w.reply ch h op st d b).dev.bufs = w.dev.bufs := reply_keeps (·.bufs) (fun _ _ _ => rfl) ..

@[simp] theorem reply_cmds (w : W) (ch : Nat) (h : Header) (op st d : Nat) (b : List Byte) :
    (w.reply ch h op st d b).dev.cmds = w.dev.cmds := reply_keeps (·.cmds) (fun _ _ _ => rfl) ..

/-- Frames of a core's frame table are no concern of a view that shows no core. -/
theorem setFrames_keeps {α : Type} (g : Dev → α) (hg : ∀ d x, g { d with cores := x } = g d) (w : W) (b : Buf) (prot : Nat) :
    g (w.setFrames b prot).dev = g w.dev := by
  simp only [W.setFrames]
  split
  · refine foldl_keeps (fun w _ => ?_) _ w
    refine foldl_keeps (fun w _ => ?_) _ w
    exact hg w.dev _
  · rfl

@[simp] theorem setFrames_bufs (w : W) (b : Buf) (prot : Nat) : (w.setFrames b prot).dev.bufs = w.dev.bufs :=
  setFrames_keeps (·.bufs) (fun _ _ => rfl) w b prot

@[simp] theorem setFrames_cmds (w : W) (b : Buf) (prot : Nat) : (w.setFrames b prot).dev.cmds = w.dev.cmds :=
  setFrames_keeps (·.cmds) (fun _ _ => rfl) w b prot

/-- Where no command waits, none goes on. -/
theorem resumePages_of_nil {w : W} (h : w.dev.cmds = []) : w.resumePages = w := by rw [W.resumePages, h]; rfl

/-- An admitted command after which those that waited for pages go on (R143). -/
theorem runT_resume_admitted {sp : OpSpec} {ch : Nat} {p : Packet} {s : State} {c : Chan} (h : Admitted sp ch p s c) :
    runT s (fun w => (hostCommand sp ch p w).resumePages) =
      .next (s.after (sp.body (ctxOf sp ch p) (s.taken ch p c.psn)).resumePages) := by
  rw [runT_next, hostCommand_admitted h]

/-! ### BUF_ALLOC (R132, R133) -/

/-- The size of buffer i. -/
def Dev.sizeOf (d : Dev) (i : Nat) : Option Nat := (Tab.get d.bufs i).map Buf.size

/-- Placing a buffer's pages leaves its size. -/
theorem placePages_size {w x : W} {i sram n : Nat} (h : placePages w i sram n = .ok x) : x.dev.sizeOf i = w.dev.sizeOf i := by
  induction n generalizing w with
  | zero => cases h; rfl
  | succ n ih =>
    rw [placePages] at h
    split at h
    · cases h; rfl
    next b hb =>
      split at h
      · cases h
      · rw [ih h]
        simp [Dev.sizeOf, hb]

/-- A BUF_ALLOC that fails no check of R133 puts a buffer of its size at the lowest free index. -/
theorem tryAlloc_ok {w x : W} {c : Ctx} {i : Nat} (h : w.tryAlloc c = .ok (i, x)) :
    Tab.firstFree w.dev.bufs 0 65536 = some i ∧ x.dev.sizeOf i = some (c.f 0 8) := by
  simp only [W.tryAlloc] at h
  split at h
  · cases h
  next j hfree =>
    split at h
    · cases h
    next base hbase =>
      split at h
      · cases h
      split at h
      · cases h
      next off hoff =>
        split at h
        · cases h
        next y hplaced =>
          have hsize := placePages_size hplaced
          have hnew : y.dev.sizeOf j = some (c.f 0 8) := hsize.trans (by simp [Dev.sizeOf, bufOf])
          split at h
          · cases h
            exact ⟨hfree, by rw [← hnew]; simp [Dev.sizeOf]⟩
          · cases h
            exact ⟨hfree, hnew⟩

/-- An admitted BUF_ALLOC makes its buffer: step 12 of Table 2.3a has found room. -/
theorem bufAlloc_body {c : Ctx} {w : W} (h : Passes bufAlloc c w) : ∃ i x, w.tryAlloc c = .ok (i, x) ∧
    bufAlloc.body c w =
      x.ok c (toLe 4 (x.dev.handleOf 3 i) ++ zeros 4 ++ toLe 8 (((Tab.get x.dev.bufs i).map Buf.base).getD 0)) := by
  have hroom := h.room
  simp only [bufAlloc] at hroom ⊢
  cases hx : w.tryAlloc c with
  | error f => rw [hx] at hroom; cases hroom
  | ok r => exact ⟨r.1, r.2, rfl, rfl⟩

section
variable {s : State} {ch : Nat} {p : Packet} {c : Chan}

theorem exec_bufAlloc (h : Admitted bufAlloc ch p s c) : ∃ (i : Nat) (w : W),
    exec (.bufAlloc ch p) s = .next (s.commit (w.reply ch p.hdr 0x0200 0 0
      (toLe 4 (w.dev.handleOf 3 i) ++ zeros 4 ++ toLe 8 (((Tab.get w.dev.bufs i).map Buf.base).getD 0)))) ∧
    Tab.firstFree s.dev.bufs 0 65536 = some i ∧ ∃ b, Tab.get w.dev.bufs i = some b ∧ b.size = fld p.params 0 8 := by
  obtain ⟨i, w, halloc, hbody⟩ := bufAlloc_body h.passes
  obtain ⟨hfree, hsize⟩ := tryAlloc_ok halloc
  rw [taken_bufs] at hfree
  exact ⟨i, w, (run_admitted h).trans (by rw [hbody]; rfl), hfree, Option.map_eq_some_iff.mp hsize⟩

/-! ### BUF_PROTECT (R134) -/

/-- A buffer with the bits of a BUF_PROTECT that need not pin it: where PIN is cleared, its pages in HBM are placed. -/
def protectedBuf (prot : Nat) (b : Buf) : Buf :=
  { b with
    read := bit prot 0, write := bit prot 1, pin := bit prot 2
    pages := if b.pin && !bit prot 2 && b.backing ≤ 1 then b.pages.map fun p => { p with st := .placedHbm, count := 0, hold := 0 }
      else b.pages }

theorem bufProtect_body {x : Ctx} {w : W} {b : Buf} (hget : Tab.get w.dev.bufs x.idx = some b)
    (hpin : bit (x.f 0 1) 2 = true → b.pin = true) : bufProtect.body x w =
      ((w.onBuf x.idx (protectedBuf (x.f 0 1))).setFrames b (x.f 0 1 % 4)).ok x [] := by
  have hnot : (bit (x.f 0 1) 2 && !b.pin) = false := by
    cases hbit : bit (x.f 0 1) 2
    · rfl
    · simp [hpin hbit]
  simp only [bufProtect, hget, hnot, Bool.false_eq_true, if_false]
  rfl

theorem exec_bufProtect {b : Buf} (h : Admitted bufProtect ch p s c) (hget : Tab.get s.dev.bufs (hIdx p.hdr.target.toNat) = some b)
    (hpin : bit (fld p.params 0 1) 2 = true → b.pin = true) (hcmds : s.dev.cmds = []) :
    ∃ w : W, exec (.bufProtect ch p) s = .next (s.commit w.tidy) ∧
      Tab.get w.dev.bufs (hIdx p.hdr.target.toNat) = some (protectedBuf (fld p.params 0 1) b) := by
  have hbody := bufProtect_body (x := ctxOf bufProtect ch p) (w := s.taken ch p c.psn) (by rw [taken_bufs]; exact hget) hpin
  refine ⟨_, runT_resume_admitted h, ?_⟩
  rw [hbody, resumePages_of_nil (by simp [W.ok, hcmds])]
  simp [W.ok, Ctx.idx, Ctx.target, Ctx.f, ctxOf, hget]

/-! ### PLACE_CONFIG and TIER_SCAN (R139, R140, R149) -/

/-- The journal leaves the memory system. -/
@[simp] theorem journal1_ms (w : W) (key inst : Nat) (b : List Byte) : (w.journal1 key inst b).dev.ms = w.dev.ms := by
  obtain ⟨x, hx⟩ := journal_dev w (immediateKey key) [(key, w.dev.fw.info.writes key, inst, false, b)]
  rw [W.journal1, hx]

/-- TIER_SCAN leaves of the memory system but the expanders found and their bytes. -/
theorem tierScan_body_ms (x : Ctx) (w : W) : (tierScan.body x w).dev.ms =
    { w.dev.ms with expanders := w.dev.foundExpanders, tierBytes := (w.dev.foundExpanders.map Expander.capacity).sum } := by
  simp only [tierScan]
  split
  · rw [W.ok, reply_ms]
    exact foldl_keeps (fun w _ => journal1_ms (w.freeBytes 16).2 _ _ _) _ _
  · rw [reply_ms]
    exact foldl_keeps (fun w _ => journal1_ms (w.freeBytes 16).2 _ _ _) _ _

theorem taken_foundExpanders (psn : Nat) : (s.taken ch p psn).dev.foundExpanders = s.dev.foundExpanders :=
  taken_keeps (·.foundExpanders) (fun _ _ _ => rfl) ..

theorem exec_tierScan (h : Admitted tierScan ch p s c) : ∃ w, exec (.tierScan ch p) s = .next (s.commit w) ∧
    w.dev.ms = { s.dev.ms with
      expanders := s.dev.foundExpanders, tierBytes := (s.dev.foundExpanders.map Expander.capacity).sum } :=
  ⟨_, run_admitted h, by rw [tierScan_body_ms, taken_foundExpanders, taken_ms]⟩

end

/-- Settles O15: each clause is its command's lemma above; PAGE_SUPPLY finds its buffer. -/
theorem memoryCommandsAct : Obligations.MemoryCommandsAct := by
  unfold Obligations.MemoryCommandsAct
  refine ⟨?alloc, ?protect, ?config, ?scan, ?supply⟩
  case alloc => exact fun s ch p c h => exec_bufAlloc h
  case protect =>
    intro s ch p c b h hget hpin hcmds
    obtain ⟨w, hw, hb⟩ := exec_bufProtect h hget hpin hcmds
    exact ⟨w, _, hw, hb, rfl, rfl, rfl, rfl, rfl⟩
  case config => exact fun s ch p c h => run_admitted h
  case scan =>
    intro s ch p c h
    obtain ⟨w, hw, hms⟩ := exec_tierScan h
    exact ⟨w, hw, by rw [hms], by rw [hms]⟩
  case supply =>
    intro s ch p c b h hget
    refine (runT_resume_admitted h).trans ?_
    simp only [pageSupply, Ctx.idx, Ctx.target, ctxOf, taken_bufs, hget]
    rfl

end Sys2Proof.Machine
end

section
/-! PROOFS. Paging, placement and the memories' own events (R121, R125, R126, R142 to R144, R149, R150, R152, R562). -/

namespace Sys2Proof.Machine

section
variable {s : State}

/-! ### Pages and epochs (R143, R144, R149, R150, R152) -/

/-- A page-in ends as `endPageIn` says, and the commands that waited go on. -/
theorem exec_pageInComplete (buf page : Nat) :
    exec (.pageInComplete buf page) s = .next (s.after (s.work.endPageIn buf page).resumePages) := rfl

/-- A migration ends as `endMigration` says, and the commands that waited go on. -/
theorem exec_migrationComplete (buf page : Nat) :
    exec (.migrationComplete buf page) s = .next (s.after (s.work.endMigration buf page).resumePages) := rfl

theorem exec_placementEpoch (hruns : s.dev.diesRun = true) :
    exec .placementEpoch s = .next (s.after (([0, 1, 2, 3].foldl W.epochOf s.work).onMs fun m =>
      { m with pageinBytes := [], place := m.placeNext.getD m.place, placeNext := none })) := by
  change execPlacementEpoch s = _
  simp only [execPlacementEpoch, runT_next, State.work_dev, hruns, Bool.not_true, Bool.false_eq_true, if_false]

/-! ### Scrubs (R121, R562) -/

theorem exec_patrolScrub {stack : Nat} (ecc : List EccReport) (hstack : stack < 24) (hruns : s.dev.diesRun = true)
    (hon : s.dev.scrubHours (dieOfStack stack) ≠ 0) :
    exec (.patrolScrub stack ecc) s = .next (s.after (s.work.eccLines (ecc.filter fun e => e.line / 2 ^ 36 = stack))) := by
  change execPatrolScrub stack ecc s = _
  simp only [execPatrolScrub, runT_next, State.work_dev, hruns, hstack, bne_iff_ne.mpr hon, decide_true, Bool.and_self, if_true]

/-- A scrub period of 0 stops the scrub (Table 4.8). -/
theorem exec_patrolScrub_stopped {stack : Nat} (ecc : List EccReport) (hoff : s.dev.scrubHours (dieOfStack stack) = 0) :
    exec (.patrolScrub stack ecc) s = .next (s.after s.work) := by
  change execPatrolScrub stack ecc s = _
  simp only [execPatrolScrub, runT_next, State.work_dev, hoff, bne_self_eq_false, Bool.and_false, Bool.false_eq_true, if_false]

theorem exec_sramScrub_core {core : Nat} (ecc : List EccReport) (hcore : core < 256) (hruns : s.dev.diesRun = true) :
    exec (.sramScrub (.core core) ecc) s = .next (s.after (s.work.eccLines (ecc.filter fun e =>
      coreBase core ≤ e.line && e.line < coreBase core + coreBytes))) := by
  change execSramScrub (.core core) ecc s = _
  simp only [execSramScrub, runT_next, State.work_dev, hruns, hcore, decide_true, Bool.true_and, Bool.not_true, Bool.false_eq_true,
    if_false]

theorem exec_sramScrub_slice {die slice : Nat} (ecc : List EccReport) (hdie : die < 4) (hslice : slice < 8)
    (hruns : s.dev.diesRun = true) :
    exec (.sramScrub (.slice die slice) ecc) s = .next (s.after (s.work.eccLines (ecc.filter fun e =>
      joinBase die + slice * 2 ^ 24 ≤ e.line && e.line < joinBase die + (slice + 1) * 2 ^ 24))) := by
  change execSramScrub (.slice die slice) ecc s = _
  simp only [execSramScrub, runT_next, State.work_dev, hruns, hdie, hslice, decide_true, Bool.true_and, Bool.not_true, Bool.false_eq_true,
    if_false]

/-! ### Trims (R125, R126) -/

/-- The trim that R125 gives a pseudo-channel whose window has counted corrections on its two sides. -/
def trimStep (plus minus : Nat) (t : Int) : Int :=
  if plus + 8 ≤ minus then min 32 (t + 1) else if minus + 8 ≤ plus then max (-32) (t - 1) else t

theorem trimStep_up {plus minus : Nat} {t : Int} (ht : t < 31) (h : plus + 8 ≤ minus) : trimStep plus minus t = t + 1 := by
  rw [trimStep, if_pos h]; omega

theorem trimStep_down {plus minus : Nat} {t : Int} (ht : -31 < t) (h : minus + 8 ≤ plus) : trimStep plus minus t = t - 1 := by
  rw [trimStep, if_neg (by omega), if_pos h]; omega

theorem trimStep_stays {plus minus : Nat} (t : Int) (hplus : minus < plus + 8) (hminus : plus < minus + 8) :
    trimStep plus minus t = t := by
  rw [trimStep, if_neg (by omega), if_neg (by omega)]

/-- A trim that moves and reaches no limit is put; nothing is logged. -/
theorem exec_recentreWindow_moves {stack pc plus minus : Nat} {t : Int} (hstack : stack < 24) (hpc : pc < 32)
    (hruns : s.dev.diesRun = true) (hon : bit (Tab.getD s.dev.ms.scrubCfg (dieOfStack stack) 0x0801).toNat 0 = true)
    (ht : trimStep plus minus (Tab.getD s.dev.ms.trims (32 * stack + pc) 0) = t) (hmoves : t ≠ Tab.getD s.dev.ms.trims (32 * stack + pc) 0)
    (hhigh : t ≠ 32) (hlow : t ≠ -32) :
    exec (.recentreWindow stack pc plus minus) s = .next { s with dev := { s.dev with ms :=
      { s.dev.ms with trims := Tab.put s.dev.ms.trims (32 * stack + pc) t } } } := by
  change execRecentreWindow stack pc plus minus s = _
  have hserves : (24 ≤ stack || 32 ≤ pc || !s.dev.diesRun || !bit (Tab.getD s.dev.ms.scrubCfg (dieOfStack stack) 0x0801).toNat 0) = false := by
    simp only [hruns, hon, Nat.not_le.mpr hstack, Nat.not_le.mpr hpc, decide_false, Bool.not_true, Bool.or_self]
  rw [trimStep] at ht
  simp only [execRecentreWindow, run_next, State.work_dev, hserves, ht, hmoves, hhigh, hlow, decide_false, Bool.or_self,
    Bool.false_eq_true, if_false]
  rw [commit_of_wr_nil s rfl]
  simp

/-- A trim whose sides are close stays, whether or not its window is served. -/
theorem exec_recentreWindow_stays (stack pc : Nat) {plus minus : Nat} (hplus : minus < plus + 8) (hminus : plus < minus + 8) :
    exec (.recentreWindow stack pc plus minus) s = .next s := by
  change execRecentreWindow stack pc plus minus s = _
  have ht := trimStep_stays (Tab.getD s.dev.ms.trims (32 * stack + pc) 0) hplus hminus
  rw [trimStep] at ht
  simp only [execRecentreWindow, run_next, State.work_dev, ht, if_true, ite_self, commit_work]

theorem exec_hbmTrimSave (hruns : s.dev.diesRun = true) (hday : s.dev.ms.trimSavedAt + 86400000000000 ≤ s.dev.clk.mono) :
    exec .hbmTrimSave s = .next (s.commit s.work.saveTrims) := by
  change execHbmTrimSave s = _
  simp only [execHbmTrimSave, run_next, State.work_dev, hruns, dayNs, hday, decide_true, Bool.and_self, if_true]

/-! ### Expanders (R142) -/

theorem exec_expanderLinkFail {port position : Nat}
    (hlive : (s.dev.ms.expanders.any fun e => e.port = port && e.pos = position && !e.failed) = true) :
    exec (.expanderLinkFail port position) s = .next (s.commit
      ((((s.dev.pagesOfExpander port position).foldl (fun w e => w.op (.mark e.1 e.2)) s.work).onMs fun m =>
        { m with expanders := m.expanders.map fun e => if e.port = port && e.pos = position then { e with failed := true } else e }).logRec
          0x0015 4 0xFF 0 (port * 4 + position) 0 [])) := by
  change execExpanderLinkFail port position s = _
  simp only [execExpanderLinkFail, run_next, State.work_dev, hlive, Bool.not_true, Bool.false_eq_true, if_false]

end

/-- Settles O30: each clause is its event's lemma above. -/
theorem memoryEventsAct : Obligations.MemoryEventsAct := by
  unfold Obligations.MemoryEventsAct
  refine ⟨?pageIn, ?migration, ?epoch, ?patrol, ?stopped, ?core, ?slice, ?up, ?down, ?stays, ?save, ?expander⟩
  case pageIn => exact fun buf page q s hq hruns => exec_pageInComplete buf page
  case migration => exact fun buf page m s hm hruns hfree => exec_migrationComplete buf page
  case epoch => exact fun s hruns => exec_placementEpoch hruns
  case patrol => exact fun stack ecc s hstack hruns hon => exec_patrolScrub ecc hstack hruns hon
  case stopped => exact fun stack ecc s hoff => exec_patrolScrub_stopped ecc hoff
  case core => exact fun core ecc s hcore hruns => exec_sramScrub_core ecc hcore hruns
  case slice => exact fun die slice ecc s hdie hslice hruns => exec_sramScrub_slice ecc hdie hslice hruns
  case up =>
    intro stack pc plus minus t s hstack hpc hruns hon ht hlow hhigh hside
    subst ht
    exact exec_recentreWindow_moves hstack hpc hruns hon (trimStep_up hhigh hside) (by omega) (by omega) (by omega)
  case down =>
    intro stack pc plus minus t s hstack hpc hruns hon ht hlow hhigh hside
    subst ht
    exact exec_recentreWindow_moves hstack hpc hruns hon (trimStep_down hlow hside) (by omega) (by omega) (by omega)
  case stays => exact fun stack pc plus minus s hplus hminus => exec_recentreWindow_stays stack pc hplus hminus
  case save => exact fun s hruns hday => exec_hbmTrimSave hruns hday
  case expander => exact fun port position s hlive => exec_expanderLinkFail hlive

end Sys2Proof.Machine
end

section
/-! PROOFS. The commands of streams, jobs and graphs (R196, R221 to R223, R227, R475, R484, R487, R488): what their packets leave of the
tables, and the effect of each command. -/

namespace Sys2Proof.Machine

@[simp] theorem taken_strms (s : State) (ch : Nat) (p : Packet) (psn : Nat) : (s.taken ch p psn).dev.strms = s.dev.strms :=
  taken_keeps (·.strms) (fun _ _ _ => rfl) ..

@[simp] theorem taken_graphs (s : State) (ch : Nat) (p : Packet) (psn : Nat) : (s.taken ch p psn).dev.graphs = s.dev.graphs :=
  taken_keeps (·.graphs) (fun _ _ _ => rfl) ..

@[simp] theorem reply_strms (w : W) (ch : Nat) (h : Header) (op st d : Nat) (b : List Byte) :
    (w.reply ch h op st d b).dev.strms = w.dev.strms := reply_keeps (·.strms) (fun _ _ _ => rfl) ..

@[simp] theorem reply_jobs (w : W) (ch : Nat) (h : Header) (op st d : Nat) (b : List Byte) :
    (w.reply ch h op st d b).dev.jobs = w.dev.jobs := reply_keeps (·.jobs) (fun _ _ _ => rfl) ..

/-! ### Streams (R196, R221 to R223) -/

/-- STRM_CREATE puts its stream at the free index found, under the index's next generation. -/
theorem strmCreate_body {x : Ctx} {w : W} {i : Nat} (hfree : Tab.firstFree w.dev.strms (1024 * x.f 0 1) 1024 = some i) :
    ∃ g, Tab.get (strmCreate.body x w).dev.strms i = some (strmOf x g) := by
  refine ⟨(w.nextGen 2 i).1, ?_⟩
  simp only [strmCreate, hfree, W.ok, reply_strms]
  exact Tab.get_put_self ..

/-- STRM_ARM answers the generation and the state of the stream that it has armed. -/
theorem strmArm_body {x : Ctx} {w : W} {y : Strm} (hget : Tab.get (w.armStrm x.idx (armOf x)).dev.strms x.idx = some y) :
    strmArm.body x w = (w.armStrm x.idx (armOf x)).ok x (toLe 4 y.sgen ++ toLe 1 y.state ++ zeros 3) := by
  simp only [strmArm, hget]

/-! ### Jobs (R475) -/

/-- JOB_CREATE puts its job at its tag, under the tag's next generation. -/
theorem jobCreate_body (x : Ctx) (w : W) : ∃ g, Tab.get (jobCreate.body x w).dev.jobs x.tag = some { gen := g } := by
  refine ⟨(w.nextGen 8 x.tag).1, ?_⟩
  simp only [jobCreate, W.ok, reply_jobs]
  exact Tab.get_put_self ..

/-- A JOB_TAG that passes step 6 of Table 2.3a is at most 63. -/
theorem admitFail_tag_le {sp : OpSpec} {x : Ctx} {auth : Bool} {w : W} (h : admitFail sp x auth w = none) : x.tag ≤ 63 := by
  simp only [admitFail] at h
  split at h
  · cases h
  · split at h
    · cases h
    next hbig => exact Nat.not_lt.mp hbig

/-- An admitted JOB_CREATE names a tag other than 0, which its parameter check refuses (R475). -/
theorem Passes.jobTag_pos {x : Ctx} {w : W} (h : Passes jobCreate x w) : 1 ≤ x.tag := by
  refine Nat.one_le_iff_ne_zero.mpr fun hzero => ?_
  have hparams := h.params
  simp [jobCreate, hzero] at hparams

/-! ### Graphs (R484) -/

/-- The queues of a graph are no concern of a view that shows no queue. -/
theorem startQueues_keeps {α : Type} (v : Dev → α) (hv : ∀ d x, v { d with queues := x } = v d) (w : W) (g : Graph) :
    v (w.startQueues g).dev = v w.dev := by
  have hqueue : ∀ (w : W) (key : Nat) (f : EngQ → EngQ), v (w.onQueue key f).dev = v w.dev := fun w _ _ => hv w.dev _
  exact foldl_keeps (fun w _ => (hqueue ..).trans (hqueue w ..)) g.queues w

@[simp] theorem startQueues_clk (w : W) (g : Graph) : (w.startQueues g).dev.clk = w.dev.clk :=
  startQueues_keeps (·.clk) (fun _ _ => rfl) w g

@[simp] theorem startQueues_hub (w : W) (g : Graph) : (w.startQueues g).dev.hub = w.dev.hub :=
  startQueues_keeps (·.hub) (fun _ _ => rfl) w g

/-- A graph ACTIVE since a time, before its first stage (R484). -/
def Graph.begun (now : Nat) (g : Graph) : Graph := { g with state := 2, runTime := now, ending := false, startNext := none }

/-- GRAPH_RUN of a graph without feeds that keeps its sync objects: its queues start, it is ACTIVE, a READY device is RUNNING, and the
stage named starts. -/
theorem graphRun_body {x : Ctx} {w : W} {g : Graph} (hget : Tab.get w.dev.graphs x.idx = some g) (hkeep : bit (x.f 2 1) 0 = true)
    (hfeeds : g.feeds = []) :
    let y := (w.startQueues g).onGraph x.idx (Graph.begun w.dev.clk.now)
    graphRun.body x w = ((if w.dev.hub.st = .ready then y.setState .running else y).startStage x.idx (x.f 0 2)).ok x [] := by
  simp only [graphRun, hget, hkeep, hfeeds, if_true, List.foldl_nil, W.onGraph_dev, startQueues_hub, startQueues_clk]
  rfl

/-- Settles O16: STRM_STOP, GRAPH_DRAIN, GRAPH_FROG and JOB_ABORT have the effect that their rows name; the others are their lemmas
above. -/
theorem streamAndGraphCommandsAct : Obligations.StreamAndGraphCommandsAct := by
  unfold Obligations.StreamAndGraphCommandsAct
  refine ⟨?create, ?arm, ?stop, ?job, ?run, ?drain, ?frog, ?abort⟩
  case create =>
    intro s ch i p c h hfree
    obtain ⟨g, hg⟩ := strmCreate_body (x := ctxOf strmCreate ch p) (w := s.taken ch p c.psn) (by rw [taken_strms]; exact hfree)
    exact ⟨_, g, run_admitted h, hg⟩
  case arm =>
    intro s ch p c y h hget
    exact (runT_admitted h).trans (by rw [strmArm_body (x := ctxOf strmArm ch p) hget]; rfl)
  case stop => exact fun s ch p c h => runT_admitted h
  case job =>
    intro s ch p c h
    obtain ⟨g, hg⟩ := jobCreate_body (ctxOf jobCreate ch p) (s.taken ch p c.psn)
    exact ⟨_, g, run_admitted h, hg, h.passes.jobTag_pos, admitFail_tag_le h.checks⟩
  case run =>
    intro s ch p c g h hget hkeep hfeeds
    have hbody := graphRun_body (x := ctxOf graphRun ch p) (w := s.taken ch p c.psn) (by rw [taken_graphs]; exact hget) hkeep hfeeds
    rw [taken_hub, taken_clk] at hbody
    exact (runT_admitted h).trans (by rw [hbody]; rfl)
  case drain => exact fun s ch p c h => runT_admitted h
  case frog => exact fun s ch p c h => runT_admitted h
  case abort => exact fun s ch p c h => runT_admitted h

end Sys2Proof.Machine
end

section
/-! PROOFS. The stream engines (R202, R203, R207, R208, R212): grants, the starts of descriptors and tiles, completions. -/

namespace Sys2Proof.Machine

variable {w : W} {i : Nat} {st : Strm}

/-! ### The events' rows -/

theorem exec_streamEngineGrant (die : Nat) (s : State) : exec (.streamEngineGrant die) s = .next (s.after (s.work.grant die)) := rfl

theorem exec_descriptorStart (i : Nat) (s : State) :
    exec (.descriptorStart i) s = .next (s.after ((s.work.descriptorStart i).advance i)) := rfl

theorem exec_tileStart (i : Nat) (s : State) : exec (.tileStart i) s = .next (s.after (s.work.tileStart i)) := rfl

theorem exec_memoryOperationComplete (i id : Nat) (ecc : List EccReport) (refused : Bool) (s : State) :
    exec (.memoryOperationComplete i id ecc refused) s = .next (s.after (s.work.opComplete i id ecc refused)) := rfl

/-! ### Grants (R212) -/

section
variable {die : Nat} {t : Tile} {c : Chunk} (hruns : w.dev.dieRuns die = true) (hroom : w.dev.outstanding die < 4096)
  (hwins : w.dev.grantee die = some i) (hget : Tab.get w.dev.strms i = some st)
include hruns hroom hwins hget

/-- The stream that wins the arbitration issues the read that it has ready. -/
theorem grant_read (hready : st.ready = some (t, true)) (hchunk : t.reads[t.nextRd]? = some c) : w.grant die = w.issueRead i t c := by
  simp only [W.grant, hruns, Nat.not_le.mpr hroom, hwins, hget, hready, hchunk, Bool.not_true, decide_false, Bool.or_self,
    Bool.false_eq_true, if_false]

/-- The stream that wins the arbitration issues the write that it has ready. -/
theorem grant_write (hready : st.ready = some (t, false)) (hchunk : t.writes[t.nextWr]? = some c) :
    w.grant die = w.issueWrite i st t c := by
  simp only [W.grant, hruns, Nat.not_le.mpr hroom, hwins, hget, hready, hchunk, Bool.not_true, decide_false, Bool.or_self,
    Bool.false_eq_true, if_false]

end

/-- A die with 4,096 operations outstanding grants none (R209). -/
theorem grant_of_full {die : Nat} (hfull : 4096 ≤ w.dev.outstanding die) : w.grant die = w := by
  simp only [W.grant, hfull, decide_true, Bool.or_true, if_true]

/-! ### Starts (R202, R203, R207) -/

section
variable (hget : Tab.get w.dev.strms i = some st) (hon : st.state = 2 ∨ st.state = 3) (hstop : st.stop = none)
  (hruns : w.dev.dieRuns (strmDie i) = true)
include hget hon hstop hruns

/-- A stream that runs no descriptor starts the next of its burst, one with FENCE only where no tile is open. -/
theorem descriptorStart_of_idle {x : SDesc} {rest : List SDesc} (hidle : st.running = none) (hmore : st.exhausted = false)
    (hburst : st.burst = x :: rest) (hfence : x.fence = false ∨ st.tiles = []) : w.descriptorStart i = w.startDesc i x := by
  have hopen : (x.fence && !st.tiles.isEmpty) = false := by
    obtain hf | ht := hfence
    · rw [hf, Bool.false_and]
    · rw [ht, List.isEmpty_nil, Bool.not_true, Bool.and_false]
  have hstate : (decide (st.state = 2) || decide (st.state = 3)) = true := by simpa using hon
  simp only [W.descriptorStart, hget, hidle, hstate, hstop, hruns, hmore, hburst, hopen, Option.isNone_none, Bool.not_false,
    Bool.and_self, List.isEmpty_cons, Option.bind_some, List.head?_cons, Bool.false_eq_true, if_true, if_false]

/-- A stream that is plain at both ends takes nothing, and starts a tile while fewer than LOOKAHEAD are open. -/
theorem tileStart_of_plain {x : SDesc} {src dst : Layout} (hrun : st.running = some (x, src, dst)) (hmore : st.nextTile < x.rep)
    (hsrc : st.srcSkein = false) (hdst : st.dstSkein = false) (hlook : (st.tiles.filter fun t => !t.void).length < st.look) :
    w.tileStart i = (w.openTile i x src dst).advance i := by
  have hstate : (decide (st.state = 2) || decide (st.state = 3)) = true := by simpa using hon
  simp only [W.tileStart, hget, hrun, hstate, hstop, hruns, hmore, hsrc, hdst, Nat.not_le.mpr hlook, Option.isNone_none, decide_true,
    decide_false, Bool.and_self, Bool.not_true, Bool.not_false, Bool.false_and, Bool.and_false, Bool.false_eq_true, if_false]

end

/-! ### Completions (R208) -/

section
variable {id : Nat} {o : MemOpOut} (ecc : List EccReport) (hget : Tab.get w.dev.strms i = some st)
  (hop : (st.ops.find? fun o => o.id = id) = some o)
include hget hop

/-- A read that completes frees its slot and gives its data to its tile, poisoned where a line could not be corrected. -/
theorem opComplete_read (hread : o.isRead = true) (hfresh : o.stale = false) (hstop : st.stop = none) :
    w.opComplete i id ecc false = ((((w.eccLines ecc).onStrm i fun x =>
      { x with ops := x.ops.filter fun p => p.id != id }).onStrm i fun x => { x with tiles := x.tiles.map fun t =>
        if t.g = o.g && !t.void then
          { t with got := t.got ++ o.data.map fun d =>
            (d.1, d.2.2.1, d.2.2.2 || (ecc.any fun e => !e.corrected && lineOf e.line = lineOf d.2.1)) }
        else t }).advance i) := by
  simp only [W.opComplete, hget, hop, hread, hfresh, hstop]
  rfl

/-- A write that completes frees its slot; one that the peer refuses faults the stream (R510). -/
theorem opComplete_write (refused : Bool) (hwrite : o.isRead = false) :
    w.opComplete i id ecc refused =
      (let y := (w.eccLines ecc).onStrm i fun x => { x with ops := x.ops.filter fun p => p.id != id }
      (if refused then y.loseStrm i else y).advance i) := by
  simp only [W.opComplete, hget, hop, hwrite, Bool.false_and, Bool.not_false, Bool.and_true, Bool.false_eq_true, if_false]

end

/-- Settles O29: each clause is its event's lemma above. -/
theorem streamEngineEventsAct : Obligations.StreamEngineEventsAct := by
  unfold Obligations.StreamEngineEventsAct
  refine ⟨?read, ?write, ?full, ?descriptor, ?tile, ?readDone, ?writeDone⟩
  case read =>
    intro die i st t c s hruns hroom hwins hget hready hchunk
    rw [exec_streamEngineGrant, grant_read (w := s.work) hruns hroom hwins hget hready hchunk]
  case write =>
    intro die i st t c s hruns hroom hwins hget hready hchunk
    rw [exec_streamEngineGrant, grant_write (w := s.work) hruns hroom hwins hget hready hchunk]
  case full =>
    intro die s hfull
    rw [exec_streamEngineGrant, grant_of_full (w := s.work) hfull]
  case descriptor =>
    intro i st x rest s hget hon hstop hruns hidle hmore hburst hfence
    rw [exec_descriptorStart, descriptorStart_of_idle (w := s.work) hget hon hstop hruns hidle hmore hburst hfence]
  case tile =>
    intro i st x src dst s hget hon hstop hruns hrun hmore hsrc hdst hlook
    rw [exec_tileStart, tileStart_of_plain (w := s.work) hget hon hstop hruns hrun hmore hsrc hdst hlook]
  case readDone =>
    intro i id ecc st o s hget hop hread hfresh hstop
    rw [exec_memoryOperationComplete, opComplete_read (w := s.work) ecc hget hop hread hfresh hstop]
  case writeDone =>
    intro i id ecc st o s hget hop hwrite
    constructor
    · rw [exec_memoryOperationComplete, opComplete_write (w := s.work) ecc hget hop false hwrite]; rfl
    · rw [exec_memoryOperationComplete, opComplete_write (w := s.work) ecc hget hop true hwrite]; rfl

end Sys2Proof.Machine
end

section
/-! PROOFS. What the instructions of a core share (R236 to R243): where an access to the core store passes the frame table, what a read and
a store leave, and the instructions of a core that issue or fault. -/

namespace Sys2Proof.Machine

/-! ### Conditions and sequences of accesses -/

@[simp] theorem need_true (e : Nat × Nat) : need true e = .ok () := rfl

@[simp] theorem need_false (e : Nat × Nat) : need false e = .error e := rfl

@[simp] theorem ok_bind {ε α β : Type} (a : α) (f : α → Except ε β) : (Except.ok a >>= f) = f a := rfl

@[simp] theorem error_bind {ε α β : Type} (e : ε) (f : α → Except ε β) : ((Except.error e : Except ε α) >>= f) = .error e := rfl

/-- Steps that all pass, pass together. -/
theorem forM_ok {ε α : Type} {l : List α} {f : α → Except ε Unit} (h : ∀ x ∈ l, f x = .ok ()) : l.forM f = .ok () := by
  induction l with
  | nil => rfl
  | cons x t ih =>
    change (f x >>= fun _ => t.forM f) = _
    rw [h x (List.mem_cons_self ..)]
    exact ih fun y hy => h y (List.mem_cons_of_mem _ hy)

/-- Steps that all have a known result have them together. -/
theorem mapM_ok {ε α β : Type} {l : List α} {f : α → Except ε β} {g : α → β} (h : ∀ x ∈ l, f x = .ok (g x)) :
    l.mapM f = .ok (l.map g) := by
  induction l with
  | nil => rfl
  | cons x t ih =>
    rw [List.mapM_cons, h x (List.mem_cons_self ..), ih fun y hy => h y (List.mem_cons_of_mem _ hy)]
    rfl

/-- A computation passes, with a result of which something holds. -/
def Yields {ε α : Type} (x : Except ε α) (P : α → Prop) : Prop := ∃ a, x = .ok a ∧ P a

section
variable {ε α β : Type} {P : α → Prop} {Q : β → Prop}

theorem Yields.pure {a : α} (h : P a) : Yields (Pure.pure a : Except ε α) P := ⟨a, rfl, h⟩

theorem Yields.bind {x : Except ε α} {f : α → Except ε β} (hx : Yields x P) (hf : ∀ a, P a → Yields (f a) Q) : Yields (x >>= f) Q := by
  obtain ⟨a, rfl, ha⟩ := hx
  exact hf a ha

theorem Yields.mono {x : Except ε α} {P' : α → Prop} (hx : Yields x P) (h : ∀ a, P a → P' a) : Yields x P' := by
  obtain ⟨a, ha, hP⟩ := hx
  exact ⟨a, ha, h a hP⟩

/-- Steps that each pass, pass one after another, each with its result. -/
theorem Yields.mapM {l : List β} {f : β → Except ε α} (h : ∀ x ∈ l, Yields (f x) P) : Yields (l.mapM f) (·.length = l.length) := by
  induction l with
  | nil => exact .pure rfl
  | cons x t ih =>
    rw [List.mapM_cons]
    exact (h x (List.mem_cons_self ..)).bind fun _ _ =>
      (ih fun y hy => h y (List.mem_cons_of_mem _ hy)).bind fun _ hlen => .pure (by simpa using hlen)

/-- What every step of a loop keeps holds of its result. -/
theorem Yields.foldlM {l : List β} {f : α → β → Except ε α} (h : ∀ a, P a → ∀ x ∈ l, Yields (f a x) P) {a : α} (ha : P a) :
    Yields (l.foldlM f a) P := by
  induction l generalizing a with
  | nil => exact .pure ha
  | cons x t ih =>
    rw [List.foldlM_cons]
    exact (h a ha x (List.mem_cons_self ..)).bind fun b hb => ih (fun a ha y hy => h a ha y (List.mem_cons_of_mem _ hy)) hb

end

theorem yields_need {ok : Bool} (h : ok = true) (e : Nat × Nat) : Yields (need ok e) fun _ => True := ⟨(), by rw [h]; rfl, trivial⟩

/-! ### The frame table (R240, R241) -/

section
variable {d d' : Dev} {core off n right : Nat}

/-- An access passes where its range lies in the store and each of its frames gives the right. -/
theorem coreBad_none_iff : d.coreBad core off n right = none ↔ n = 0 ∨ off < coreBytes ∧
    ∀ f, off / 0x10000 ≤ f → f ≤ (off + n - 1) / 0x10000 → f < 96 ∧ bit (Tab.getD (d.core core).frames f 0) right = true := by
  unfold Dev.coreBad
  split
  · next hn => simp [hn]
  · next hn =>
    split
    · next hout => simp only [reduceCtorEq, false_iff]; omega
    · next hin =>
      simp only [Option.map_eq_none_iff, List.find?_eq_none, List.mem_map, List.mem_range, Bool.or_eq_true, decide_eq_true_eq,
        Bool.not_eq_true', not_or, not_le, Bool.not_eq_false, hn, false_or, not_le.mp hin, true_and]
      constructor
      · intro h f hlo hhi
        exact h f ⟨f - off / 0x10000, by omega, by omega⟩
      · rintro h f ⟨k, hk, rfl⟩
        exact h _ (by omega) (by omega)

/-- A shorter access passes where a longer one does. -/
theorem coreBad_none_mono {m : Nat} (h : d.coreBad core off n right = none) (hm : m ≤ n) : d.coreBad core off m right = none := by
  rw [coreBad_none_iff] at h ⊢
  rcases h with hn | ⟨hin, hframes⟩
  · exact .inl (by omega)
  · exact .inr ⟨hin, fun f hlo hhi => hframes f hlo (hhi.trans (Nat.div_le_div_right (by omega)))⟩

/-- In a store of which every frame gives R and W, each range within it passes. -/
theorem coreBad_of_open (h : d.StoreOpen core) (hright : right < 2) (hin : off + n ≤ coreBytes) : d.coreBad core off n right = none := by
  rw [coreBad_none_iff]
  simp only [coreBytes] at hin ⊢
  by_cases hn : n = 0
  · exact .inl hn
  · refine .inr ⟨by omega, fun f _ hhi => ⟨by omega, ?_⟩⟩
    obtain ⟨hread, hwrite⟩ := h f (by omega)
    interval_cases right
    · exact hread
    · exact hwrite

/-- The frames alone decide an access. -/
theorem coreBad_congr (h : (d'.core core).frames = (d.core core).frames) (off n right : Nat) :
    d'.coreBad core off n right = d.coreBad core off n right := by
  simp only [Dev.coreBad, h]

theorem storeOpen_congr (h : d.StoreOpen core) (hframes : (d'.core core).frames = (d.core core).frames) : d'.StoreOpen core := by
  unfold Dev.StoreOpen at h ⊢
  rwa [hframes]

end

/-! ### The core that a change is of -/

section
variable (w : W) (core : Nat) (f : Core → Core)

theorem onCore_core : (w.onCore core f).dev.core core = f (w.dev.core core) := by simp [Dev.core]

theorem onCore_core_of_ne {n : Nat} (h : n ≠ core) : (w.onCore core f).dev.core n = w.dev.core n := by simp [Dev.core, Tab.getD_upd, h]

/-- What a change of a core keeps of it, every core keeps. -/
theorem onCore_keeps {α : Type} {v : Core → α} (hv : ∀ c, v (f c) = v c) (n : Nat) : v ((w.onCore core f).dev.core n) = v (w.dev.core n) := by
  by_cases h : n = core
  · rw [h, onCore_core, hv]
  · rw [onCore_core_of_ne w core f h]

end

/-! ### Registers -/

section
variable (c : Core) (r p : Nat) (bs : List Byte)

@[simp] theorem setV_vreg : (c.setV r bs p).vreg r = bs := by simp [Core.setV, Core.vreg]

theorem setV_vreg_of_ne {k : Nat} (h : k ≠ r) : (c.setV r bs p).vreg k = c.vreg k := by
  simp [Core.setV, Core.vreg, Tab.getD, Tab.get_put_ne _ h]

@[simp] theorem setV_sregs : (c.setV r bs p).sregs = c.sregs := rfl
@[simp] theorem setV_acc : (c.setV r bs p).acc = c.acc := rfl
@[simp] theorem flag_vreg (fl k : Nat) : (c.flag fl).vreg k = c.vreg k := rfl

end

/-! ### Reads and stores -/

section
variable {w : W} {core off n : Nat}

theorem coreAcc_ok {right : Nat} (h : w.dev.coreBad core off n right = none) : w.coreAcc core off n right = .ok () := by
  simp [W.coreAcc, h]

theorem coreAcc_error {right a : Nat} (h : w.dev.coreBad core off n right = some a) : w.coreAcc core off n right = .error (0x02, a) := by
  simp [W.coreAcc, h]

theorem coreRd_ok (h : w.dev.coreBad core off n 0 = none) : w.coreRd core off n = .ok (w.rdN (coreBase core + off) n) := by
  rw [W.coreRd, coreAcc_ok h]; rfl

theorem coreRd_error {a : Nat} (h : w.dev.coreBad core off n 0 = some a) : w.coreRd core off n = .error (0x02, a) := by
  rw [W.coreRd, coreAcc_error h]; rfl

/-- A read within an open store passes. -/
theorem coreRd_of_open (h : w.dev.StoreOpen core) (hin : off + n ≤ coreBytes) :
    Yields (w.coreRd core off n) (· = w.rdN (coreBase core + off) n) := ⟨_, coreRd_ok (coreBad_of_open h (by decide) hin), rfl⟩

@[simp] theorem rdN_length (w : W) (a n : Nat) : (w.rdN a n).length = n := by simp [W.rdN]

/-- The working copy that a store to the core store leaves: bytes, and marks where the data was poisoned (R566). -/
def W.stored (w : W) (core off : Nat) (bs : List Byte) (poison : Bool) : W :=
  if poison then (w.put (coreBase core + off) bs).op (.mark (coreBase core + off) bs.length) else w.put (coreBase core + off) bs

variable {bs : List Byte} {p : Bool}

theorem coreWr_ok (h : w.dev.coreBad core off bs.length 1 = none) : w.coreWr core off bs p = .ok (w.stored core off bs p) := by
  rw [W.coreWr, coreAcc_ok h]; rfl

/-- A store within an open store passes. -/
theorem coreWr_of_open (h : w.dev.StoreOpen core) (hin : off + bs.length ≤ coreBytes) :
    Yields (w.coreWr core off bs p) (· = w.stored core off bs p) := ⟨_, coreWr_ok (coreBad_of_open h (by decide) hin), rfl⟩

theorem coreWr_error {a : Nat} (h : w.dev.coreBad core off bs.length 1 = some a) : w.coreWr core off bs p = .error (0x02, a) := by
  rw [W.coreWr, coreAcc_error h]; rfl

variable (w) (a : Nat) (bs)

@[simp] theorem put_dev : (w.put a bs).dev = w.dev := by unfold W.put; split <;> rfl
@[simp] theorem put_out : (w.put a bs).out = w.out := by unfold W.put; split <;> rfl

theorem put_wr (h : bs ≠ []) : (w.put a bs).wr = .put a bs :: w.wr := by
  unfold W.put
  rw [if_neg (by simpa using h)]; rfl

/-- A byte outside the range of a store reads as before. -/
theorem put_rd {b : Nat} (h : b < a ∨ a + bs.length ≤ b) : (w.put a bs).rd b = w.rd b := by
  unfold W.put
  split
  · rfl
  · simp only [W.rd, W.op, readOver, if_neg (show ¬ (a ≤ b ∧ b < a + bs.length) by omega)]

variable (core off p)

@[simp] theorem stored_dev : (w.stored core off bs p).dev = w.dev := by unfold W.stored; split <;> simp
@[simp] theorem stored_out : (w.stored core off bs p).out = w.out := by unfold W.stored; split <;> simp

/-- A byte outside the range of a store to the core store reads as before. -/
theorem stored_rd {b : Nat} (h : b < coreBase core + off ∨ coreBase core + off + bs.length ≤ b) :
    (w.stored core off bs p).rd b = w.rd b := by
  unfold W.stored
  split
  · exact put_rd w bs _ h
  · exact put_rd w bs _ h

end

/-! ### Bytes, fields and elements -/

/-- Consecutive pieces of a table of bytes are the table. -/
theorem flatMap_range_map {α : Type} (f : Nat → α) (k m : Nat) :
    ((List.range m).flatMap fun l => (List.range k).map fun j => f (k * l + j)) = (List.range (k * m)).map f := by
  induction m with
  | zero => simp
  | succ m ih => simp [List.range_succ, ih, Nat.mul_succ, List.range_add, Function.comp_def]

/-- Consecutive reads are one read. -/
theorem flatMap_rdN (w : W) (a k m : Nat) : ((List.range m).flatMap fun l => w.rdN (a + k * l) k) = w.rdN a (k * m) := by
  simp only [W.rdN, Nat.add_assoc]
  exact flatMap_range_map (fun j => w.rd (a + j)) k m

/-- A part of what was read is the read of that part. -/
theorem slice_rdN (w : W) (a : Nat) {off m n : Nat} (h : off + m ≤ n) : slice (w.rdN a n) off m = w.rdN (a + off) m := by
  refine List.ext_getElem (by simp [slice]; omega) fun j h1 h2 => ?_
  simp [slice, W.rdN, Nat.add_assoc]

theorem takeElems_length (b n : Nat) (bs : List Byte) : (takeElems b n bs).length = n := by
  induction n generalizing bs with
  | zero => rfl
  | succ n ih => simp [takeElems, ih]

/-- Element k of a sequence is its field at k times the width. -/
theorem takeElems_getD (b : Nat) {n k : Nat} (hk : k < n) (bs : List Byte) (x : Nat) :
    (takeElems b n bs).getD k x = fld bs (b * k) b := by
  induction n generalizing k bs with
  | zero => omega
  | succ n ih =>
    cases k with
    | zero => simp [takeElems, fld, slice]
    | succ k =>
      rw [takeElems, List.getD_cons_succ, ih (by omega)]
      simp only [fld, slice, List.drop_drop]
      rw [Nat.mul_succ, Nat.add_comm]

/-- A field of n bytes lies below 256^n. -/
theorem fld_lt (bs : List Byte) (off n : Nat) : fld bs off n < 256 ^ n := by
  have hle : ∀ l : List Byte, leNat l < 256 ^ l.length := by
    intro l
    induction l with
    | nil => simp [leNat]
    | cons b t ih =>
      have hb : b.toNat < 256 := b.isLt
      rw [leNat, List.length_cons, pow_succ]
      omega
  exact (hle _).trans_le (Nat.pow_le_pow_right (by decide) (by simp [slice]))

@[simp] theorem bit_zero (k : Nat) : bit 0 k = false := by simp [bit]

theorem bit_allLanes {l : Nat} (h : l < 256) : bit allLanes l = true := by
  have hbit := Nat.testBit_two_pow_sub_one 256 l
  simp only [Nat.testBit_eq_decide_div_mod_eq, h, decide_true, decide_eq_true_eq] at hbit
  simp [bit, allLanes, hbit]

/-- The sizes that R240 and R246 give an access or an element, as the instructions check them. -/
theorem accessSize_ok {n : Nat} (h : n = 1 ∨ n = 2 ∨ n = 4 ∨ n = 8) :
    (decide (n = 1) || decide (n = 2) || decide (n = 4) || decide (n = 8)) = true := by simpa [or_assoc] using h

/-- Registers that exist, each below 32, and a mask register below 8 where one is named. -/
theorem regsOk_iff {rs : List Nat} {mask : Option Nat} : regsOk rs mask = true ↔ (∀ r ∈ rs, r < 32) ∧ ∀ m ∈ mask, m < 8 := by
  cases mask <;> simp [regsOk]

end Sys2Proof.Machine
end

section
/-! PROOFS. The loads and stores of a core (R240, R243, R246, R564, R566): what each leaves, which core faults they and the rounding modes
raise, and what a scalar store leaves of the whole state. -/

namespace Sys2Proof.Machine

section
variable {s : State} {core : Nat} {w x : W}

/-! ### Scalar loads and stores -/

section
variable {i : CoreMem}

theorem exec_coreLoad_ok (h : Issues s core i.ecc) (hrun : coreLoad core i (s.fetched i.ecc) = .ok w) :
    exec (.coreLoad core i) s = .next (s.issued core (if i.scalar then 0 else 1) w) := coreIns_ok h hrun

theorem exec_coreLoad_fault {k a : Nat} (h : Issues s core i.ecc) (hrun : coreLoad core i (s.fetched i.ecc) = .error (k, a)) :
    exec (.coreLoad core i) s = .next (s.after ((s.fetched i.ecc).coreFault core k a)) := coreIns_fault h hrun

theorem exec_coreStore_ok (h : Issues s core i.ecc) (hrun : coreStore core i (s.fetched i.ecc) = .ok w) :
    exec (.coreStore core i) s = .next (s.issued core (if i.scalar then 0 else 1) w) := coreIns_ok h hrun

theorem exec_coreStore_fault {k a : Nat} (h : Issues s core i.ecc) (hrun : coreStore core i (s.fetched i.ecc) = .error (k, a)) :
    exec (.coreStore core i) s = .next (s.after ((s.fetched i.ecc).coreFault core k a)) := coreIns_fault h hrun

/-- A scalar access whose register exists and whose size is one of R240's reads on. -/
theorem coreLoad_scalar (hscalar : i.scalar = true) (hreg : i.reg < 32)
    (hsize : i.bytes = 1 ∨ i.bytes = 2 ∨ i.bytes = 4 ∨ i.bytes = 8) :
    coreLoad core i x = (do
      let bs ← x.coreRd core i.off i.bytes
      need (!x.corePoison core i.off i.bytes) (0x05, i.off)
      return x.setSreg core i.reg (leNat bs)) := by
  simp only [coreLoad, hscalar, if_true, W.loadScalar, hreg, accessSize_ok hsize, decide_true, Bool.and_self, need_true, ok_bind]

theorem coreStore_scalar (hscalar : i.scalar = true) (hreg : i.reg < 32)
    (hsize : i.bytes = 1 ∨ i.bytes = 2 ∨ i.bytes = 4 ∨ i.bytes = 8) :
    coreStore core i x = x.coreWr core i.off (toLe i.bytes ((x.dev.core core).sreg i.reg)) false := by
  simp only [coreStore, hscalar, if_true, hreg, accessSize_ok hsize, decide_true, Bool.and_self, need_true, ok_bind]

theorem coreLoad_scalar_illegal (hscalar : i.scalar = true) (hreg : 32 ≤ i.reg) : coreLoad core i x = .error (0x01, 0) := by
  have hno : decide (i.reg < 32) = false := by simpa using hreg
  simp only [coreLoad, hscalar, if_true, W.loadScalar, hno, Bool.false_and, need_false, error_bind, faultIllegal]

/-- A vector access off its boundary of 4 bytes raises ALIGN. -/
theorem coreLoad_vector_align (hvector : i.scalar = false) (hregs : regsOk [i.reg] i.mask = true) (hoff : i.off % 4 ≠ 0) :
    coreLoad core i x = .error (0x03, i.off) := by
  simp only [coreLoad, hvector, Bool.false_eq_true, if_false, W.loadVector, hregs, hoff, decide_false, need_true, need_false, ok_bind,
    error_bind]

theorem coreStore_vector_align (hvector : i.scalar = false) (hregs : regsOk [i.reg] i.mask = true) (hoff : i.off % 4 ≠ 0) :
    coreStore core i x = .error (0x03, i.off) := by
  simp only [coreStore, hvector, Bool.false_eq_true, if_false, hregs, hoff, decide_false, need_true, need_false, ok_bind, error_bind]

/-! ### Vector loads and stores of all lanes -/

/-- Pieces for all 256 lanes take the place of the whole register. -/
theorem setLanes_all (bs : List Byte) (g : Nat → List Byte) :
    setLanes bs ((List.range 256).map fun l => (l, g l)) = (List.range 256).flatMap g := by
  have hfind : ∀ l < 256, ((List.range 256).map fun l => (l, g l)).find? (fun e => e.1 = l) = some (l, g l) := by
    intro l hl
    rw [List.find?_map, show (List.range 256).find? ((fun e : Nat × List Byte => decide (e.1 = l)) ∘ fun l => (l, g l)) = some l from
      List.find?_range_eq_some.mpr ⟨by simp, by simpa using hl, fun j hj => by simp; omega⟩]
    rfl
  unfold setLanes
  refine List.flatMap_congr fun l hl => ?_
  rw [hfind l (List.mem_range.mp hl)]; rfl

theorem maskedLanes_all (off : Nat) : maskedLanes allLanes off = (List.range 256).map fun l => (l, off + 4 * l) := by
  unfold maskedLanes
  rw [List.filter_eq_self.mpr fun l hl => bit_allLanes (List.mem_range.mp hl)]

/-- A load of all lanes sets its register to the bytes of its range, with some poison bits. -/
theorem coreLoad_vector_all (hvector : i.scalar = false) (hreg : i.reg < 32) (hmask : i.mask = none) (hoff : i.off % 4 = 0)
    (hacc : x.dev.coreBad core i.off 1024 0 = none) :
    ∃ p : Core → Nat, coreLoad core i x = .ok (x.onCore core fun c => c.setV i.reg (x.rdN (coreBase core + i.off) 1024) (p c)) := by
  have hregs : regsOk [i.reg] none = true := regsOk_iff.mpr ⟨by simpa using hreg, by simp⟩
  have hbytes : (List.range 256).flatMap (fun l => x.rdN (coreBase core + (i.off + 4 * l)) 4) = x.rdN (coreBase core + i.off) 1024 := by
    simpa [Nat.add_assoc] using flatMap_rdN x (coreBase core + i.off) 4 256
  simp only [coreLoad, hvector, Bool.false_eq_true, if_false, W.loadVector, hmask, hregs, hoff, decide_true, need_true, ok_bind,
    Core.lanes, if_true, coreAcc_ok hacc, maskedLanes_all, List.map_map, Function.comp_def, setLanes_all, hbytes]
  exact ⟨_, rfl⟩

/-- A store of all lanes without poison stores its register. -/
theorem coreStore_vector_all (hvector : i.scalar = false) (hreg : i.reg < 32) (hmask : i.mask = none) (hoff : i.off % 4 = 0)
    (hpoison : (x.dev.core core).vpois i.reg = 0) : coreStore core i x = x.coreWr core i.off ((x.dev.core core).vreg i.reg) false := by
  have hregs : regsOk [i.reg] none = true := regsOk_iff.mpr ⟨by simpa using hreg, by simp⟩
  simp only [coreStore, hvector, Bool.false_eq_true, if_false, hmask, hregs, hoff, decide_true, need_true, ok_bind, Core.lanes, hpoison,
    Bool.and_self, if_true]

end

/-! ### Indexed loads and stores (R246) -/

section
variable {i : IndexedMem}

theorem exec_indexedLoadStore_ok (h : Issues s core i.ecc) (hrun : indexedMem core i (s.fetched i.ecc) = .ok w) :
    exec (.indexedLoadStore core i) s = .next (s.issued core 1 w) := coreIns_ok h hrun

/-- The checks of an element of an indexed access: its offset unpoisoned and on its boundary, its range within the rights. -/
def ElemPasses (x : W) (core : Nat) (i : IndexedMem) (e : Nat × Nat × Nat) : Prop :=
  bit ((x.dev.core core).vpois i.idx) e.2.1 = false ∧ e.2.2 % 4 = 0 ∧
    x.dev.coreBad core e.2.2 (if i.wide then 8 else 4) (b2n i.store) = none

/-- An indexed access whose elements pass goes on to its effect. -/
theorem indexedMem_checked (hregs : regsOk [i.reg, i.idx] i.mask = true)
    (hpass : ∀ e ∈ indexedElems (x.dev.core core) i, ElemPasses x core i e) :
    (i.store = true → indexedMem core i x = x.storeElems core (x.dev.core core) i (indexedElems (x.dev.core core) i)) ∧
    (i.store = false → ∃ (bs : Core → List Byte) (p : Core → Nat), indexedMem core i x = .ok (x.onCore core fun c => c.setV i.reg (bs c) (p c))) := by
  have hchecks : (indexedElems (x.dev.core core) i).forM (fun (e : Nat × Nat × Nat) => do
      need (!bit ((x.dev.core core).vpois i.idx) e.2.1) (0x05, e.2.2)
      need (e.2.2 % 4 = 0) (0x03, e.2.2)
      x.coreAcc core e.2.2 (if i.wide then 8 else 4) (b2n i.store)) = .ok () := by
    refine forM_ok fun e he => ?_
    obtain ⟨hpoison, halign, hacc⟩ := hpass e he
    simp only [hpoison, halign, Bool.not_false, decide_true, need_true, ok_bind, coreAcc_ok hacc]
  constructor
  · intro hstore
    simp only [indexedMem, hregs, need_true, ok_bind, hchecks]
    rw [if_pos hstore]
  · intro hload
    simp only [indexedMem, hregs, need_true, ok_bind, hchecks]
    rw [if_neg (by simp [hload])]
    exact ⟨_, _, rfl⟩

/-- Elements that may be stored are stored: no store changes the rights of the next. -/
theorem storeElems_ok (c : Core) {es : List (Nat × Nat × Nat)}
    (hacc : ∀ e ∈ es, x.dev.coreBad core e.2.2 (if i.wide then 8 else 4) 1 = none) : ∃ w, x.storeElems core c i es = .ok w := by
  induction es generalizing x with
  | nil => exact ⟨x, rfl⟩
  | cons e t ih =>
    obtain ⟨n, l, a⟩ := e
    have hlen : (slice (c.vreg i.reg) (4 * l) (if i.wide then 8 else 4)).length ≤ if i.wide then 8 else 4 := by
      simp [slice]
    have hwr := coreWr_ok (p := (elemLanes i.wide l).any fun l => bit (c.vpois i.reg) l)
      (coreBad_none_mono (hacc _ (List.mem_cons_self ..)) hlen)
    simp only [W.storeElems, hwr, ok_bind]
    exact ih fun e he => by rw [stored_dev]; exact hacc e (List.mem_cons_of_mem _ he)

end
end

/-- Settles O2: each clause is the lemma above about its access. -/
theorem coreLoadsAndStoresComplete : Obligations.CoreLoadsAndStoresComplete := by
  unfold Obligations.CoreLoadsAndStoresComplete
  refine ⟨?loadScalar, ?loadVector, ?storeScalar, ?storeVector, ?indexedStore, ?indexedLoad⟩
  case loadScalar =>
    intro s core i hissues hscalar hreg hsize hacc hpoison
    have hrun := exec_coreLoad_ok hissues (show coreLoad core i _ = .ok ((s.fetched i.ecc).setSreg core i.reg _) by
      rw [coreLoad_scalar hscalar hreg hsize, coreRd_ok hacc, hpoison]; rfl)
    rwa [if_pos hscalar] at hrun
  case loadVector =>
    intro s core i hissues hvector hreg hmask hoff hacc
    obtain ⟨p, hload⟩ := coreLoad_vector_all hvector hreg hmask hoff hacc
    have hrun := exec_coreLoad_ok hissues hload
    rw [if_neg (by simp [hvector])] at hrun
    refine ⟨_, hrun, rfl, rfl, ?_, ?_, fun r hr => ?_⟩
    · rw [onCore_core, setV_vreg]
    · rw [onCore_core, setV_sregs]
    · rw [onCore_core, setV_vreg_of_ne _ _ _ _ hr]
  case storeScalar =>
    intro s core i hissues hscalar hreg hsize hacc
    have hrun := exec_coreStore_ok hissues ((coreStore_scalar hscalar hreg hsize).trans (coreWr_ok (by rwa [toLe_length])))
    rwa [if_pos hscalar] at hrun
  case storeVector =>
    intro s core i hissues hvector hreg hmask hoff hpoison hlen hacc
    have hrun := exec_coreStore_ok hissues ((coreStore_vector_all hvector hreg hmask hoff hpoison).trans (coreWr_ok (by rwa [hlen])))
    rwa [if_neg (by simp [hvector])] at hrun
  case indexedStore =>
    intro s core i hissues hstore hregs hpass
    obtain ⟨w, hw⟩ := storeElems_ok (i := i) ((s.fetched i.ecc).dev.core core) fun e he => (hpass e he).2.2
    obtain ⟨hrun, -⟩ := indexedMem_checked hregs (by simpa only [ElemPasses, hstore, b2n, if_true] using hpass)
    exact ⟨w, hw, exec_indexedLoadStore_ok hissues ((hrun hstore).trans hw)⟩
  case indexedLoad =>
    intro s core i hissues hload hregs hpass
    obtain ⟨-, hrun⟩ := indexedMem_checked hregs (by simpa only [ElemPasses, hload, b2n, Bool.false_eq_true, if_false] using hpass)
    obtain ⟨bs, p, hw⟩ := hrun hload
    refine ⟨_, exec_indexedLoadStore_ok hissues hw, rfl, rfl, ?_, fun r hr => ?_⟩
    · rw [onCore_core, setV_sregs]
    · rw [onCore_core, setV_vreg_of_ne _ _ _ _ hr]

/-! ### Core faults (Table 7.2) -/

/-- Rounding mode codes 5 and 6 are reserved (Table 7.5). -/
theorem mode_reserved (c : Core) {code : BitVec 3} (h : code.toNat = 5 ∨ code.toNat = 6) : c.mode code = .error (0x01, 0) := by
  rcases h with h | h <;> simp [Core.mode, h, modeOf, faultIllegal]

theorem exec_vectorArithmetic_fault {s : State} {core : Nat} {i : VecArith} {k a : Nat} (h : Issues s core [])
    (hrun : vecArith core i s.work = .error (k, a)) : exec (.vectorArithmetic core i) s = .next (s.after (s.work.coreFault core k a)) :=
  coreIns_fault h hrun

/-- Settles O8: each clause is the fault that the access's lemma above gives. -/
theorem coreFaultsAreRaised : Obligations.CoreFaultsAreRaised := by
  unfold Obligations.CoreFaultsAreRaised
  refine ⟨?register, ?load, ?store, ?boundary, ?poison, ?mode⟩
  case register =>
    intro s core i hissues hscalar hreg
    exact exec_coreLoad_fault hissues (coreLoad_scalar_illegal hscalar hreg)
  case load =>
    intro s core i a hissues hscalar hreg hsize hacc
    exact exec_coreLoad_fault hissues (by rw [coreLoad_scalar hscalar hreg hsize, coreRd_error hacc, error_bind])
  case store =>
    intro s core i a hissues hscalar hreg hsize hacc
    exact exec_coreStore_fault hissues ((coreStore_scalar hscalar hreg hsize).trans (coreWr_error (by rwa [toLe_length])))
  case boundary =>
    intro s core i hissues hvector hregs hoff
    exact ⟨exec_coreLoad_fault hissues (coreLoad_vector_align hvector hregs hoff),
      exec_coreStore_fault hissues (coreStore_vector_align hvector hregs hoff)⟩
  case poison =>
    intro s core i hissues hscalar hreg hsize hacc hpoison
    exact exec_coreLoad_fault hissues (by
      rw [coreLoad_scalar hscalar hreg hsize, coreRd_ok hacc, hpoison, ok_bind, Bool.not_true, need_false, error_bind])
  case mode =>
    intro s core i hissues hmode
    exact exec_vectorArithmetic_fault hissues (by simp only [vecArith, mode_reserved _ hmode, error_bind])

/-! ### What a scalar store leaves of the state (R240, R564) -/

/-- A graph whose stage is under way stays as it is after an event. -/
theorem tidyGraph_quiet {w : W} (h : w.dev.Quiet) (i : Nat) : w.tidyGraph i = w := by
  unfold W.tidyGraph
  cases hget : Tab.get w.dev.graphs i with
  | none => rfl
  | some g =>
    by_cases hruns : g.state = 2 ∨ g.state = 5
    · obtain ⟨hending, hnext⟩ := h i g hget hruns
      have hstate : (g.state != 2 && g.state != 5) = false := by rcases hruns with h | h <;> simp [h]
      rcases hnext with hnext | hnext
      · simp [hstate, hending, hget, Option.isSome_iff_ne_none.mp hnext]
      · cases hst : g.stages[g.stage]? with
        | none => simp [hstate, hending, hget, hst]
        | some st =>
          cases hy : Tab.get w.dev.syncs st.endSync with
          | none => simp [hstate, hending, hget, hst, hy]
          | some y => simp [hstate, hending, hget, hst, hy, Nat.not_le.mpr (hnext st hst y hy)]
    · have hstate : (g.state != 2 && g.state != 5) = true := by simpa using hruns
      simp only [hstate, if_true]

theorem tidy_quiet {w : W} (h : w.dev.Quiet) : w.tidy = w := by
  unfold W.tidy
  induction w.dev.graphs.map Prod.fst with
  | nil => rfl
  | cons i t ih => rw [List.foldl_cons, tidyGraph_quiet h, ih]

/-- The end of an instruction keeps what the program offset and the counts of the units do not touch. -/
theorem retire_keeps {α : Type} {v : Core → α} (hv : ∀ (c : Core) p x y, v { c with pc := p, vecCyc := x, matCyc := y } = v c) (w : W)
    (core u n : Nat) : v (((w.onCore core (·.issued u)).retire core).dev.core n) = v (w.dev.core n) := by
  have hissued : ∀ c : Core, v (c.issued u) = v c := by
    intro c
    unfold Core.issued
    split
    · exact hv c c.pc _ c.matCyc
    · split
      · exact hv c c.pc c.vecCyc _
      · rfl
  rw [W.retire, onCore_keeps (hv := fun c => hv c _ c.vecCyc c.matCyc)]
  exact onCore_keeps w core _ hissued n

/-- A store of less than a line leaves every poison mark (R564). -/
theorem apply_put_poison (m : Mem) (a : Nat) {bs : List Byte} (h : bs.length < 64) : (m.apply (.put a bs)).poison = m.poison := by
  refine List.filter_eq_self.mpr fun l _ => ?_
  simp only [wholeLine, Bool.not_eq_true', Bool.and_eq_false_iff, decide_eq_false_iff_not]
  omega

/-- Settles O52: the instruction commits one write of fewer than 64 bytes, and nothing follows of the graphs. -/
theorem scalarStoresChangeOnlyTheirBytes : Obligations.ScalarStoresChangeOnlyTheirBytes := by
  unfold Obligations.ScalarStoresChangeOnlyTheirBytes
  intro s core i hinv hquiet hissues hecc hscalar hreg hsize hacc
  have hfetched : s.fetched i.ecc = s.work := by rw [hecc]; rfl
  obtain ⟨-, -, hstores, -⟩ := coreLoadsAndStoresComplete
  have hexec := hstores s core i hissues hscalar hreg hsize (by rw [hfetched]; exact hacc)
  rw [hfetched] at hexec
  generalize hbs : toLe i.bytes ((s.work.dev.core core).sreg i.reg) = bs at hexec
  have hlen : bs.length = i.bytes := by rw [← hbs, toLe_length]
  have hne : bs ≠ [] := by rw [← List.length_pos_iff]; omega
  generalize hw : ((s.work.put (coreBase core + i.off) bs).onCore core (·.issued 0)).retire core = w
  have hgraphs : w.dev.graphs = s.dev.graphs ∧ w.dev.syncs = s.dev.syncs := by
    rw [← hw]
    change (s.work.put _ bs).dev.graphs = _ ∧ (s.work.put _ bs).dev.syncs = _
    rw [put_dev]
    exact ⟨rfl, rfl⟩
  have hwr : w.wr = [.put (coreBase core + i.off) bs] := by rw [← hw]; exact put_wr s.work bs _ hne
  have hout : w.out = [] := by rw [← hw]; exact put_out s.work bs _
  have hcommit : s.issued core 0 (s.work.put (coreBase core + i.off) bs) = s.commit w := by
    rw [State.issued, hw, State.after, tidy_quiet]
    rw [Dev.Quiet, hgraphs.1, hgraphs.2]
    exact hquiet
  rw [hcommit] at hexec
  have hmem : (s.commit w).mem = s.mem.apply (.put (coreBase core + i.off) bs) := by rw [State.commit_mem, hwr]; rfl
  have hbyte : ∀ a, (s.commit w).byte a =
      if coreBase core + i.off ≤ a ∧ a < coreBase core + i.off + i.bytes then bs.getD (a - (coreBase core + i.off)) 0 else s.byte a := by
    intro a
    rw [State.byte, hmem, Mem.apply_read hinv (o := .put (coreBase core + i.off) bs) trivial, readOver, hlen]
    rfl
  have hregs : ∀ {α : Type} {v : Core → α}, (∀ (c : Core) p x y, v { c with pc := p, vecCyc := x, matCyc := y } = v c) →
      ∀ n, v ((s.commit w).dev.core n) = v (s.dev.core n) := by
    intro α v hv n
    rw [State.commit_dev, ← hw, retire_keeps hv, put_dev]
    rfl
  refine ⟨s.commit w, hexec, commit_inv hinv w, ?_, rfl, ?_, fun k hk => ?_, fun a ha => ?_,
    fun n => ⟨hregs (fun _ _ _ _ => rfl) n, hregs (fun _ _ _ _ => rfl) n, hregs (fun _ _ _ _ => rfl) n, hregs (fun _ _ _ _ => rfl) n⟩⟩
  · rw [State.commit_tx, hout, List.reverse_nil, List.append_nil]
  · rw [hmem, apply_put_poison _ _ (by omega)]
  · rw [hbyte, if_pos (by omega), Nat.add_sub_cancel_left, ← hbs]; rfl
  · rw [hbyte, if_neg ha]

end Sys2Proof.Machine
end

section
/-! PROOFS. The lane-wise instructions of the vector unit (R245 to R248, R343, R390 to R392, R403): each issues with its own element
function where its registers exist and its mode is no reserved code. -/

namespace Sys2Proof.Machine

section
variable {s : State} {core : Nat}

/-! ### Lane-wise arithmetic and compares into a mask (R246, R247) -/

section
variable {i : VecArith} {r : RMode} {n : Nat} {f : LaneFn}

theorem exec_vectorArithmetic_ok {w : W} (h : Issues s core []) (hrun : vecArith core i s.work = .ok w) :
    exec (.vectorArithmetic core i) s = .next (s.issued core 1 w) := coreIns_ok h hrun

/-- An operation that leaves the mask registers alone works lane by lane. -/
theorem vecArith_lanewise (hmode : (s.dev.core core).mode i.mode = .ok r)
    (hfn : vecFn i.op i.ty i.rel r i.sat (s.dev.core core).satC (s.dev.core core).ftz = some (n, f))
    (hlanes : i.op = .cmp ∨ i.op = .sel → i.toMask = false) (hregs : regsOk (i.dst :: vecSources i) i.mask = true) :
    vecArith core i s.work = .ok (s.work.onCore core fun c => c.lanewise n i.dst (vecSources i) i.mask f) := by
  have hcmp : (decide (i.op = .cmp) && i.toMask) = false := by
    by_cases h : i.op = .cmp
    · simp [hlanes (.inl h)]
    · simp [h]
  have hsel : (decide (i.op = .sel) && i.toMask) = false := by
    by_cases h : i.op = .sel
    · simp [hlanes (.inr h)]
    · simp [h]
  simp only [vecArith, State.work_dev, hmode, ok_bind, hfn, hcmp, hsel, Bool.false_eq_true, if_false, hregs, need_true]
  rfl

/-- A compare into a mask register reads no poisoned lane. -/
theorem vecArith_cmpMask (hmode : (s.dev.core core).mode i.mode = .ok r)
    (hfn : vecFn i.op i.ty i.rel r i.sat (s.dev.core core).satC (s.dev.core core).ftz = some (n, f))
    (hop : i.op = .cmp) (hmask : i.toMask = true) (hregs : regsOk (vecSources i) i.mask = true) (hdst : i.dst < 8) (hwidth : 4 ≤ n)
    (hpoison : Nat.land ((vecSources i).foldl (fun p r => Nat.lor p ((s.dev.core core).vpois r)) 0) ((s.dev.core core).lanes i.mask) = 0) :
    vecArith core i s.work = .ok (s.work.onCore core fun c => c.cmpMask i n f) := by
  have hcmp : (decide (i.op = .cmp) && i.toMask) = true := by simp [hop, hmask]
  simp only [vecArith, State.work_dev, hmode, ok_bind, hfn, hcmp, if_true, hregs, hdst, hwidth, decide_true, Bool.and_self, need_true,
    hpoison]
  rfl

end

/-! ### Moves between lanes and scalar registers (R246) -/

section
variable {n dst src : Nat}

theorem exec_permute_ok {i : VecPerm} {w : W} (h : Issues s core []) (hrun : vecPerm core i s.work = .ok w) :
    exec (.permute core i) s = .next (s.issued core 1 w) := coreIns_ok h hrun

theorem vecPerm_broadcast {mask : Option Nat} (hsize : n = 1 ∨ n = 2 ∨ n = 4 ∨ n = 8) (hregs : regsOk [dst] mask = true)
    (hsrc : src < 32) : vecPerm core (.broadcast n dst src mask) s.work = .ok (s.work.onCore core fun c =>
      c.lanewise n dst [] mask fun g _ => (c.sreg src % 2 ^ (8 * n), 0, g)) := by
  simp only [vecPerm, accessSize_ok hsize, hregs, hsrc, decide_true, Bool.and_self, need_true, ok_bind]
  rfl

theorem vecPerm_toScalar {elem : Nat} (hsize : n = 1 ∨ n = 2 ∨ n = 4 ∨ n = 8) (hsrc : src < 32) (hdst : dst < 32)
    (helem : elem < 1024 / n) (hpoison : (s.dev.core core).vpois src = 0) :
    vecPerm core (.toScalar n dst src elem) s.work = .ok (s.work.onCore core fun c =>
      { c with sregs := setReg c.sregs dst (fld (c.vreg src) (n * elem) n) }) := by
  have hregs : regsOk [src] none = true := regsOk_iff.mpr ⟨by simpa using hsrc, by simp⟩
  have hclean : ((elemLanes (n = 8) (laneOf n elem)).all fun l => !bit ((s.dev.core core).vpois src) l) = true := by simp [hpoison]
  simp only [vecPerm, accessSize_ok hsize, hregs, hdst, helem, decide_true, Bool.and_self, need_true, ok_bind, State.work_dev, hclean]
  rfl

end

/-! ### Reductions (R248) -/

/-- The lanes that a reduction combines: those that its mask selects. -/
def reductionLanes (c : Core) (i : VecRed) : List (Option Nat) :=
  (elemsOf 4 (c.vreg i.src)).zipIdx.map fun (x, k) => if bit (c.lanes i.mask) k then some x else none

theorem exec_reduction_ok {i : VecRed} {w : W} (h : Issues s core []) (hrun : vecRed core i s.work = .ok w) :
    exec (.reduction core i) s = .next (s.issued core 1 w) := coreIns_ok h hrun

/-- A reduction fills every lane of its destination with the result of its tree. -/
theorem vecRed_ok {i : VecRed} {r : RMode} {f : Nat → Nat → Nat → Nat × Nat × Nat} (hmode : (s.dev.core core).mode i.mode = .ok r)
    (hregs : regsOk [i.dst, i.src] i.mask = true) (hfn : redFn i.op i.ty r i.sat (s.dev.core core).satC (s.dev.core core).ftz = some f) :
    ∃ (g : Core → Tab Nat) (p fl : Nat), vecRed core i s.work = .ok (s.work.onCore core fun c =>
      ({ c with gens := g c }.setV i.dst ((List.range 256).flatMap fun _ => toLe 4
        (((treeGo f 8 (reductionLanes (s.dev.core core) i) ((s.dev.core core).gen 0) 0).1.head?.bind id).getD 0)) p).flag fl) := by
  simp only [vecRed, State.work_dev, hmode, hregs, need_true, ok_bind, hfn]
  exact ⟨_, _, _, rfl⟩

/-! ### BUCKET, DIST_FIN and the normalisations (R343, R390 to R392, R403) -/

theorem exec_bucket {i : BucketIns} (h : Issues s core []) (hregs : regsOk [i.dst, i.h, i.b] i.mask = true) :
    exec (.bucket core i) s = .next (s.issued core 1 (s.work.onCore core fun c => c.lanewise 8 i.dst [i.h, i.b] i.mask bucketLane)) := by
  change execBucket core i s = _
  exact coreIns_ok h (by simp only [hregs, need_true, ok_bind]; rfl)

theorem exec_distFin {i : DistIns} {r : RMode} (h : Issues s core []) (hmode : (s.dev.core core).mode i.mode = .ok r)
    (hregs : regsOk [i.dst, i.dot, i.cc, i.qq] i.mask = true) :
    exec (.distFin core i) s = .next (s.issued core 1 (s.work.onCore core fun c =>
      c.lanewise 4 i.dst (if i.l2 then [i.dot, i.cc, i.qq] else [i.dot]) i.mask (distLane i.l2 r c.satC c.ftz))) := by
  change execDistFin core i s = _
  have hwork : (s.fetched []).dev = s.dev := rfl
  exact coreIns_ok h (by simp only [hwork, hmode, hregs, need_true, ok_bind]; rfl)

/-- A normalisation instruction: its operands' input and its function by format, parameters and operand. -/
def Normalises (ins : Instr) (core : Nat) (i : NormIns) (input : Bool → Nat → FV) (fn : Core → FFmt → Bool → Bool → Nat → NormFn) : Prop :=
  ∀ s, exec ins s = runT s fun w => w.coreIns core 1 [] fun w => normIns core i input (fn (w.dev.core core)) w

theorem normalises_zscore (core : Nat) (i : NormIns) : Normalises (.zscore core i) core i fpInput fun c f satC ftz _ =>
    zscoreFn f satC ftz (normParam c i.p1) (normParam c i.p2) := fun _ => rfl

theorem normalises_minmax (core : Nat) (i : NormIns) : Normalises (.minmax core i) core i fpInput fun c f satC ftz _ =>
    minmaxFn f satC ftz (normParam c i.p1) (normParam c i.p2) := fun _ => rfl

theorem normalises_clip (core : Nat) (i : NormIns) : Normalises (.clip core i) core i fpInput fun c f satC ftz _ =>
    clipFn f satC ftz (normParam c i.p1) (normParam c i.p2) := fun _ => rfl

theorem normalises_slog (core : Nat) (i : NormIns) : Normalises (.slog core i) core i fpInput fun _ f satC ftz x =>
    slogFn f satC ftz x := fun _ => rfl

theorem normalises_quantile (core : Nat) (i : NormIns) : Normalises (.quantile core i) core i (fun _ (x : Nat) => FV.num false x)
    fun c f satC ftz _ => quantileFn f satC ftz (c.sreg i.p1) := fun _ => rfl

/-- A normalisation to FP32 works lane by lane with its function; NAN_OUT stands for a NaN (R391). -/
theorem exec_normalisation {ins : Instr} {i : NormIns} {r : RMode} {input : Bool → Nat → FV}
    {fn : Core → FFmt → Bool → Bool → Nat → NormFn} (hins : Normalises ins core i input fn) (h : Issues s core [])
    (hmode : (s.dev.core core).mode i.mode = .ok r) (hbf : i.bf = false) (hregs : regsOk [i.dst, i.src] i.mask = true)
    (hp1 : i.p1 < 32) (hp2 : i.p2 < 32) (hnan : i.nanOut < 32) (hpart : i.part < 2) {fn' : Core → Nat → NormFn}
    (hfn : ∀ c x, fn c fp32 c.satC c.ftz x = fn' c x) :
    exec ins s = .next (s.issued core 1 (s.work.onCore core fun c => c.lanewise 4 i.dst [i.src] i.mask fun g xs =>
      let (y, fl, g) := fn' c (xs.getD 0 0) r g (input c.ftz (xs.getD 0 0))
      if y.isNan then ((toFloat fp32 .rne c.satC c.ftz (fp32.decode (c.sreg i.nanOut % 2 ^ 32))).1,
        Nat.land fl (flNX + flUF + flOF + flDZ), g)
      else (fp32.encode y, fl, g))) := by
  rw [hins s]
  refine coreIns_ok h ?_
  have hwork : (s.fetched []).dev = s.dev := rfl
  simp only [normIns, hwork, hmode, ok_bind, hregs, hp1, hp2, hnan, hpart, decide_true, Bool.and_self, need_true, hbf, Bool.false_eq_true,
    if_false, hfn]
  rfl

end

/-- Settles O3: each clause is the lemma above about its instruction. -/
theorem laneInstructionsComplete : Obligations.LaneInstructionsComplete := by
  unfold Obligations.LaneInstructionsComplete
  refine ⟨?lanewise, ?cmpMask, ?broadcast, ?toScalar, ?reduction, ?bucket, ?distFin, ?norms⟩
  case lanewise =>
    intro s core n i r f hissues hmode hfn hlanes hregs
    exact exec_vectorArithmetic_ok hissues (vecArith_lanewise hmode hfn hlanes hregs)
  case cmpMask =>
    intro s core n i r f hissues hmode hfn hop hmask hregs hdst hwidth hpoison
    exact exec_vectorArithmetic_ok hissues (vecArith_cmpMask hmode hfn hop hmask hregs hdst hwidth hpoison)
  case broadcast =>
    intro s core n dst src mask hissues hsize hregs hsrc
    exact exec_permute_ok hissues (vecPerm_broadcast hsize hregs hsrc)
  case toScalar =>
    intro s core n dst src elem hissues hsize hsrc hdst helem hpoison
    exact exec_permute_ok hissues (vecPerm_toScalar hsize hsrc hdst helem hpoison)
  case reduction =>
    intro s core i r f hissues hmode hregs hfn
    obtain ⟨g, p, fl, hrun⟩ := vecRed_ok hmode hregs hfn
    refine ⟨_, exec_reduction_ok hissues hrun, rfl, rfl, ?_⟩
    rw [onCore_core, flag_vreg, setV_vreg]
    rfl
  case bucket =>
    intro s core i hissues hregs
    exact exec_bucket hissues hregs
  case distFin =>
    intro s core i r hissues hmode hregs
    exact exec_distFin hissues hmode hregs
  case norms =>
    intro s core i r hissues hmode hbf hregs hp1 hp2 hnan hpart ins fn input hins
    have hrun : ∀ {f : Core → FFmt → Bool → Bool → Nat → NormFn}, Normalises ins core i input f →
        (∀ c x, f c fp32 c.satC c.ftz x = fn c x) → _ := fun hnorm hfn =>
      exec_normalisation hnorm hissues hmode hbf hregs hp1 hp2 hnan hpart hfn
    rcases hins with ⟨hins, hinput, hfn⟩ | ⟨hins, hinput, hfn⟩ | ⟨hins, hinput, hfn⟩ | ⟨hins, hinput, hfn⟩ | ⟨hins, hinput, hfn⟩
    · exact hrun (by rw [hins, hinput]; exact normalises_zscore core i) fun _ _ => by rw [hfn]
    · exact hrun (by rw [hins, hinput]; exact normalises_minmax core i) fun _ _ => by rw [hfn]
    · exact hrun (by rw [hins, hinput]; exact normalises_clip core i) fun _ _ => by rw [hfn]
    · exact hrun (by rw [hins, hinput]; exact normalises_slog core i) fun _ _ => by rw [hfn]
    · exact hrun (by rw [hins, hinput]; exact normalises_quantile core i) fun _ _ => by rw [hfn]

end Sys2Proof.Machine
end

section
/-! PROOFS. Conversions, the matrix unit and tile moves (R246, R249 to R255, R262): what each leaves of its core and of memory, and the
instruction that names FP64. -/

namespace Sys2Proof.Machine

section
variable {s : State} {core : Nat} {x : W}

/-! ### Conversions (R246, R262) -/

theorem exec_conversion_ok {i : VecConv} {w : W} (h : Issues s core i.ecc) (hrun : vecConv core i (s.fetched i.ecc) = .ok w) :
    exec (.conversion core i) s = .next (s.issued core 1 w) := coreIns_ok h hrun

theorem exec_mxBlockConversion_ok {i : MxConv} {w : W} (h : Issues s core []) (hrun : mxConv core i s.work = .ok w) :
    exec (.mxBlockConversion core i) s = .next (s.issued core 1 w) := coreIns_ok h hrun

/-- A conversion between registers changes its destination register, its poison, the generators and the flags. -/
theorem vecConv_registers {i : VecConv} {r : RMode} (hsrc : elemClass i.srcTy = .byte) (hdst : elemClass i.dstTy = .byte)
    (hmode : (x.dev.core core).mode i.mode = .ok r) (hreg : i.src < 32) (hreg' : i.dst < 32)
    (hfits : (convFirst i i.srcTy + convCount i) * elemBytes i.srcTy ≤ 1024)
    (hfits' : (convFirst i i.dstTy + convCount i) * elemBytes i.dstTy ≤ 1024) :
    ∃ (gens : Tab Nat) (fl : Nat) (bs : List Byte) (p : Core → Nat), vecConv core i x =
      .ok ((x.onCore core fun c => { c with gens := gens }.flag fl).onCore core fun c => c.setV i.dst bs (p c)) := by
  have hnotMx : ¬ ElemClass.byte = ElemClass.mx := by decide
  simp only [vecConv, hmode, ok_bind, convOk, hsrc, hdst, hreg, hreg', decide_true, Bool.and_self, Bool.or_self, need_true, hfits, hfits',
    Bool.or_true, W.convSource, if_true, hnotMx, if_false]
  exact ⟨_, _, _, _, rfl⟩

theorem mxElems_length (ty : Nat) (r : RMode) (e : Int) (xs : List (Nat × FV)) (gen : Nat → Nat) (gens : Tab Nat) (fl : Nat) :
    (mxElems ty r e xs gen gens fl).1.length = xs.length := by
  induction xs generalizing gens fl with
  | nil => rfl
  | cons y t ih => simp [mxElems, ih]

/-- A block has no more than 32 elements. -/
theorem toMx_length_le (ty : Nat) (r : RMode) {xs : List (Nat × FV)} (h : xs.length ≤ 32) (gen : Nat → Nat) (gens : Tab Nat) :
    (toMx ty r xs gen gens).2.1.length ≤ 32 := by
  unfold toMx
  dsimp only
  split
  · simp
  · split
    · simp
    · rwa [mxElems_length]

/-- The elements of a block take at most four bytes for each of their bits. -/
theorem packBits_length_le (n : Nat) {vs : List Nat} (h : vs.length ≤ 32) : (packBits n vs).length ≤ n * 4 := by
  have hbits : n * vs.length ≤ n * 32 := Nat.mul_le_mul_left n h
  simp only [packBits, toLe_length, ceilDiv]
  omega

/-- The 32 elements that a conversion to an MX block takes, with their lanes. -/
def mxLanes (c : Core) (i : MxConv) : List (Nat × FV) :=
  (((elemsOf (elemBytes i.srcTy) (c.vreg i.src)).drop i.first).take 32).zipIdx.map fun (v, e) =>
    (laneOf (elemBytes i.srcTy) (i.first + e), datumOf i.srcTy c.ftz v)

/-- A conversion to an MX block stores the scale and the elements, and sets generators and flags. -/
theorem mxConv_ok {i : MxConv} {r : RMode} (hmode : (x.dev.core core).mode i.mode = .ok r) (hsrc : elemClass i.srcTy = .byte)
    (hdst : elemClass i.dstTy = .mx) (hreg : i.src < 32) (hfits : (i.first + 32) * elemBytes i.srcTy ≤ 1024)
    (hscale : x.dev.coreBad core i.scaleOff 1 1 = none) (hdata : x.dev.coreBad core i.dataOff (elemBits i.dstTy * 4) 1 = none) :
    ∃ (gens : Tab Nat) (fl : Nat) (scale bs : List Byte) (p : Bool), mxConv core i x =
      .ok (((x.onCore core fun c => { c with gens := gens }.flag fl).stored core i.scaleOff scale p).stored core i.dataOff bs p) := by
  have hlanes : (mxLanes (x.dev.core core) i).length ≤ 32 := by simp [mxLanes]
  have hlen := toMx_length_le i.dstTy r hlanes (x.dev.core core).gen (x.dev.core core).gens
  rcases hblock : toMx i.dstTy r (mxLanes (x.dev.core core) i) (x.dev.core core).gen (x.dev.core core).gens with ⟨scale, vs, gens, fl⟩
  rw [hblock] at hlen
  have hframes : ∀ off n, (x.onCore core fun c => { c with gens := gens }.flag fl).dev.coreBad core off n 1 = x.dev.coreBad core off n 1 :=
    fun off n => coreBad_congr (by rw [onCore_core]; rfl) off n 1
  unfold mxLanes at hblock
  simp only [mxConv, hmode, ok_bind, hsrc, hdst, hreg, hfits, decide_true, Bool.and_self, need_true, hblock]
  rw [coreWr_ok (by rwa [hframes, toLe_length]), ok_bind,
    coreWr_ok (by rw [stored_dev, hframes]; exact coreBad_none_mono hdata (packBits_length_le _ hlen))]
  exact ⟨_, _, _, _, _, rfl⟩

/-! ### Matrix instructions (R249 to R254) -/

/-- No row of Table 7.4 holds FP64. -/
theorem matClass_fp64 (int4 : Bool) : matClass 0x19 int4 = none := by cases int4 <;> rfl

theorem matOk_fp64 {i : MatMul} (h : i.tyA = 0x19 ∨ i.tyB = 0x19) : matOk i = false := by
  rw [Bool.eq_false_iff]
  intro hok
  simp only [matOk, Bool.and_eq_true, decide_eq_true_eq] at hok
  obtain ⟨⟨⟨⟨⟨⟨-, hsome⟩, hsame⟩, -⟩, -⟩, -⟩, -⟩ := hok
  rcases h with h | h
  · rw [h, matClass_fp64] at hsome
    cases hsome
  · rw [hsame, h, matClass_fp64] at hsome
    cases hsome

theorem exec_matrixMultiply_ok {i : MatMul} {w : W} (h : Issues s core i.ecc) (hrun : matMul core i (s.fetched i.ecc) = .ok w) :
    exec (.matrixMultiply core i) s = .next (s.issued core 2 w) := coreIns_ok h hrun

/-- Rows that may be read are read. -/
theorem matRows_ok {off stride n len : Nat} (h : ∀ r, r < n → x.dev.coreBad core (off + r * stride) len 0 = none) :
    x.matRows core off stride n len = .ok ((List.range n).map fun r => x.rdN (coreBase core + (off + r * stride)) len) :=
  mapM_ok fun r hr => coreRd_ok (h r (List.mem_range.mp hr))

/-- A matrix instruction sets its tile, its poison and the flags. -/
theorem matMul_ok {i : MatMul} (hok : matOk i = true) (hoffA : i.offA % 64 = 0) (hoffB : i.offB % 64 = 0)
    (hA : ∀ r, r < i.m → x.dev.coreBad core (i.offA + r * i.strideA) (matRowBytes i.tyA i.int4A i.group i.pad i.k) 0 = none)
    (hB : ∀ r, r < i.n → x.dev.coreBad core (i.offB + r * i.strideB) (matRowBytes i.tyB i.int4B i.group i.pad i.k) 0 = none) :
    ∃ (cells : List Nat) (p : Core → Bool) (fl : Nat),
      matMul core i x = .ok (x.onCore core fun c => (c.setTile i.tile cells (p c)).flag fl) := by
  simp only [matMul, hok, hoffA, hoffB, decide_true, need_true, ok_bind, matRows_ok hA, matRows_ok hB]
  exact ⟨_, _, _, rfl⟩

theorem setTile_tile (c : Core) (t : Nat) (xs : List Nat) (p : Bool) : (c.setTile t xs p).tile t = xs :=
  Tab.getD_put_self ..

theorem setTile_tile_of_ne (c : Core) {t k : Nat} (h : k ≠ t) (xs : List Nat) (p : Bool) : (c.setTile t xs p).tile k = c.tile k := by
  unfold Core.tile Tab.getD
  rw [Core.setTile, Tab.get_put_ne _ h]

@[simp] theorem flag_tile (c : Core) (fl k : Nat) : (c.flag fl).tile k = c.tile k := rfl

/-! ### Tile moves (R255) -/

section
variable {i : TileMove}

theorem exec_tileMove_ok {w : W} (h : Issues s core []) (hrun : tileMove core i s.work = .ok w) :
    exec (.tileMove core i) s = .next (s.issued core 2 w) := coreIns_ok h hrun

/-- Element e of a tile lies in the register of its eight columns. -/
theorem tileMove_load (htile : i.tile < 4) (hreg : i.reg + 8 ≤ 32) (hload : i.load = true) :
    ∃ p, tileMove core i x = .ok (x.onCore core fun c => c.setTile i.tile ((List.range 2048).map fun e =>
      (elemsOf 4 ((x.dev.core core).vreg (i.reg + e % 64 / 8))).getD (e / 64 * 8 + e % 8) 0) p) := by
  have hrow : ∀ e, ((List.range 8).map fun r => elemsOf 4 ((x.dev.core core).vreg (i.reg + r))).getD (e % 64 / 8) [] =
      elemsOf 4 ((x.dev.core core).vreg (i.reg + e % 64 / 8)) := by
    intro e
    have hlt : e % 64 / 8 < 8 := by omega
    simp [List.getD_eq_getElem?_getD, hlt]
  simp only [tileMove, htile, hreg, decide_true, Bool.and_self, need_true, ok_bind, hload, if_true, hrow]
  exact ⟨_, rfl⟩

/-- Registers set one after another hold what each was set to. -/
theorem foldl_setV_vreg (c : Core) (reg : Nat) (bs : Nat → List Byte) (p k : Nat) (rs : List Nat) :
    (rs.foldl (fun c r => c.setV (reg + r) (bs r) p) c).vreg (reg + k) = if k ∈ rs then bs k else c.vreg (reg + k) := by
  induction rs generalizing c with
  | nil => simp
  | cons r t ih =>
    rw [List.foldl_cons, ih]
    by_cases hk : k = r
    · subst hk; simp
    · rw [setV_vreg_of_ne _ _ _ _ (by omega)]
      simp [hk]

theorem foldl_setV_acc (c : Core) (reg : Nat) (bs : Nat → List Byte) (p : Nat) (rs : List Nat) :
    (rs.foldl (fun c r => c.setV (reg + r) (bs r) p) c).acc = c.acc := by
  induction rs generalizing c with
  | nil => rfl
  | cons r t ih => rw [List.foldl_cons, ih, setV_acc]

/-- The bytes of register r of the eight that take a tile. -/
def tileColumns (tile : List Nat) (r : Nat) : List Byte :=
  (List.range 256).flatMap fun l => toLe 4 (tile.getD (l / 8 * 64 + 8 * r + l % 8) 0)

theorem tileMove_store (htile : i.tile < 4) (hreg : i.reg + 8 ≤ 32) (hstore : i.load = false) :
    ∃ p, tileMove core i x = .ok (x.onCore core fun c =>
      (List.range 8).foldl (fun c r => c.setV (i.reg + r) (tileColumns ((x.dev.core core).tile i.tile) r) p) c) := by
  simp only [tileMove, htile, hreg, decide_true, Bool.and_self, need_true, ok_bind, hstore, Bool.false_eq_true, if_false]
  exact ⟨_, rfl⟩

end
end

/-- Settles O59: no row of Table 7.4 holds FP64, so the operands fail the first check. -/
theorem matrixFp64IsIllegal : Obligations.MatrixFp64IsIllegal := by
  unfold Obligations.MatrixFp64IsIllegal
  intro s core i hissues hfp64
  change execMatrixMultiply core i s = _
  exact coreIns_fault hissues (by simp only [matMul, matOk_fp64 hfp64, need_false, error_bind, faultIllegal])

end Sys2Proof.Machine
end

section
/-! PROOFS. Tree scoring, one-hot rows and pooling (R265 to R267, R393, R425): in an open core store each completes, and changes what its
rule names. -/

namespace Sys2Proof.Machine

section
variable {s : State} {core : Nat} {x : W}

/-! ### Tree scoring (R265 to R267) -/

/-- A walk through a tree reads nodes and features alone, which lie in the store. -/
theorem treeWalk_yields {e : Ens} {row : Nat} (hopen : x.dev.StoreOpen core) (hnodes : e.nodeBase + 16 * e.nodes ≤ coreBytes)
    (hrow : row + 4 * 65536 ≤ coreBytes) (fuel k : Nat) (p : Bool) : Yields (treeWalk x core e row fuel k p) fun _ => True := by
  induction fuel generalizing k p with
  | zero => exact .pure trivial
  | succ fuel ih =>
    rw [treeWalk]
    split
    · exact .pure trivial
    · next hk =>
      refine (coreRd_of_open hopen (by omega)).bind fun nd _ => ?_
      dsimp only
      split
      · exact .pure trivial
      · split
        · exact .pure trivial
        · have hfeature : fld nd 0 2 < 256 ^ 2 := fld_lt nd 0 2
          exact (coreRd_of_open hopen (by omega)).bind fun _ _ => ih ..

/-- A lane's score adds the leaves of its walks, or fails. -/
theorem treeLane_yields {e : Ens} {row : Nat} (hopen : x.dev.StoreOpen core) (hnodes : e.nodeBase + 16 * e.nodes ≤ coreBytes)
    (hrow : row + 4 * 65536 ≤ coreBytes) (r : RMode) (satC ftz : Bool) (roots : List Nat) (g : Nat) :
    Yields (treeLane x core e row r satC ftz roots g) fun _ => True := by
  refine Yields.bind (P := fun _ => True) (.foldlM (fun a _ k _ => ?_) trivial) fun _ _ => .pure trivial
  refine (treeWalk_yields hopen hnodes hrow _ _ _).bind fun leaf _ => ?_
  dsimp only
  split <;> exact .pure trivial

/-- The header's ranges, as the instruction checks them (Table 7.8). -/
theorem ensFits_checks {h : List Byte} (hfits : EnsFits h) :
    (decide (1 ≤ fld h 0 4) && decide (fld h 0 4 ≤ 65536) && decide (1 ≤ fld h 4 4) && decide (fld h 4 4 ≤ 2 ^ 20) &&
      decide (1 ≤ fld h 12 2) && decide (fld h 12 2 ≤ 4096) && decide (1 ≤ fld h 14 1) && decide (fld h 14 1 ≤ 64) && zeroAt h 15 1 &&
      zeroAt h 24 40) = true := by
  obtain ⟨⟨ht, ht'⟩, ⟨hn, hn'⟩, ⟨hf, hf'⟩, ⟨hd, hd'⟩, hz, hz', -⟩ := hfits
  simp only [ht, ht', hn, hn', hf, hf', hd, hd', hz, hz', decide_true, Bool.and_self]

theorem exec_treeScoring_ok {i : TreeScore} {w : W} (h : Issues s core i.ecc) (hrun : treeScore core i (s.fetched i.ecc) = .ok w) :
    exec (.treeScoring core i) s = .next (s.issued core 1 w) := coreIns_ok h hrun

/-- A tree scoring sets its destination register, its poison, the generators and the flags. -/
def Scored (core dst : Nat) (x w : W) : Prop := ∃ (gens : Core → Tab Nat) (bs : Core → List Byte) (p : Core → Nat) (fl : Nat),
  w = x.onCore core fun c => ({ c with gens := gens c }.setV dst (bs c) (p c)).flag fl

theorem treeScore_yields {i : TreeScore} {r : RMode} (hmode : (x.dev.core core).mode i.mode = .ok r) (hregs : regsOk [i.dst] i.mask = true)
    (hopen : x.dev.StoreOpen core) (hens : i.ens % 64 = 0) (hfeat : i.feat % 4 = 0) (hstride : i.stride % 4 = 0)
    (hin : i.ens + 64 ≤ coreBytes) (hfits : EnsFits (x.rdN (coreBase core + i.ens) 64))
    (hrows : i.feat + 255 * i.stride + 4 * 65536 ≤ coreBytes) : Yields (treeScore core i x) (Scored core i.dst x) := by
  obtain ⟨-, -, -, -, -, -, hrootsAlign, hnodesAlign, hroots, hnodes⟩ := id hfits
  simp only [treeScore, hmode, ok_bind, hregs, need_true, hens, hfeat, hstride, decide_true, Bool.and_self]
  refine (coreRd_of_open hopen hin).bind fun h hh => ?_
  rw [← hh] at hfits hrootsAlign hnodesAlign hroots hnodes
  simp only [ensFits_checks hfits, hrootsAlign, hnodesAlign, decide_true, need_true, ok_bind]
  refine (coreRd_of_open hopen hroots).bind fun rb _ => ?_
  refine (Yields.mapM (P := fun _ => True) fun l hl => ?_).bind fun rs _ => .pure ⟨_, _, _, _, rfl⟩
  split
  · have hlane : l * i.stride ≤ 255 * i.stride := Nat.mul_le_mul_right _ (by have := List.mem_range.mp hl; omega)
    exact treeLane_yields hopen hnodes (by omega) ..
  · exact .pure trivial

/-! ### One-hot and multi-hot rows (R393) -/

section
variable {i : HotIns}

theorem exec_onehot_ok {w : W} (h : Issues s core i.ecc) (hrun : onehot core i (s.fetched i.ecc) = .ok w) :
    exec (.onehot core i) s = .next (s.issued core 1 w) := coreIns_ok h hrun

theorem exec_multihot_ok {w : W} (h : Issues s core i.ecc) (hrun : multihot core i (s.fetched i.ecc) = .ok w) :
    exec (.multihot core i) s = .next (s.issued core 1 w) := coreIns_ok h hrun

theorem hotBytes_le (ty : Nat) : (hotBytes ty).getD 1 ≤ 4 := by
  unfold hotBytes
  split <;> decide

/-- Bytes of a fixed width for each entry. -/
theorem length_flatMap_toLe {α : Type} (l : List α) (b : Nat) (f : α → Nat) : (l.flatMap fun y => toLe b (f y)).length = l.length * b := by
  simp [List.length_flatMap]

theorem hotRow_length (ty depth : Nat) (count : Bool) (ks : List Nat) : (hotRow ty depth count ks).length = depth * (hotBytes ty).getD 1 := by
  simp only [hotRow, length_flatMap_toLe, List.length_range]

/-- A row takes at most four bytes for each place. -/
theorem hotRow_length_le (ty depth : Nat) (count : Bool) (ks : List Nat) : (hotRow ty depth count ks).length ≤ 4 * depth := by
  rw [hotRow_length, Nat.mul_comm 4]
  exact Nat.mul_le_mul_left _ (hotBytes_le ty)

/-- Two working copies that differ in memory alone. -/
def SameBut (x w : W) : Prop := w.dev = x.dev ∧ w.out = x.out

/-- Rows within an open store are written. -/
theorem writeRows_yields {w : W} {r : Nat} {rows : List (List (Option Nat) × Bool)} (hopen : w.dev.StoreOpen core)
    (hin : i.out + (r + rows.length) * (4 * i.depth) ≤ coreBytes) : Yields (w.writeRows core i r rows) (SameBut w) := by
  induction rows generalizing w r with
  | nil => exact .pure ⟨rfl, rfl⟩
  | cons row t ih =>
    obtain ⟨ks, p⟩ := row
    rw [W.writeRows]
    generalize hbs : hotRow i.ty i.depth i.count (ks.filterMap id) = bs
    have hlen : bs.length ≤ 4 * i.depth := by rw [← hbs]; exact hotRow_length_le ..
    have hplace : r * bs.length ≤ r * (4 * i.depth) := Nat.mul_le_mul_left _ hlen
    have hsplit : (r + (t.length + 1)) * (4 * i.depth) = r * (4 * i.depth) + 4 * i.depth + t.length * (4 * i.depth) := by ring
    rw [List.length_cons] at hin
    refine (coreWr_of_open hopen (by omega)).bind fun w' hw' => ?_
    obtain ⟨y, hy, hdev, hout⟩ := ih (w := w') (r := r + 1) (by rw [hw', stored_dev]; exact hopen)
      (by rwa [show r + 1 + t.length = r + (t.length + 1) by omega])
    exact ⟨y, hy, by rw [hdev, hw', stored_dev], by rw [hout, hw', stored_out]⟩

/-- Two working copies of which the second keeps the messages and a core's vector registers. -/
def KeepsVectors (core : Nat) (x w : W) : Prop := w.out = x.out ∧ (w.dev.core core).vregs = (x.dev.core core).vregs

/-- The rows written, the ignored indices are counted in a scalar register. -/
theorem hotRows_yields {rows : List (List (Option Nat) × Bool)} (hopen : x.dev.StoreOpen core)
    (hin : i.out + rows.length * (4 * i.depth) ≤ coreBytes) : Yields (x.hotRows core i rows) (KeepsVectors core x) := by
  refine (writeRows_yields hopen (by rwa [Nat.zero_add])).bind fun w hw => ?_
  obtain ⟨hdev, hout⟩ := hw
  exact .pure ⟨hout, by rw [W.setSreg, onCore_core, hdev]⟩

theorem onehot_yields (hok : hotOk i = true) (hregs : regsOk [i.src] i.valid = true) (hn : i.n ≤ 256) (hopen : x.dev.StoreOpen core)
    (hin : i.out + i.n * (4 * i.depth) ≤ coreBytes) : Yields (onehot core i x) (KeepsVectors core x) := by
  simp only [onehot, hok, hregs, hn, decide_true, Bool.and_self, need_true, ok_bind]
  exact hotRows_yields (i := { i with count := false }) hopen (by simpa using hin)

/-- The lists of a MULTIHOT are read: their values, and the validity of each where a bitmap is given. -/
theorem hotList_yields {r : Nat} (hopen : x.dev.StoreOpen core) (hoffs : i.offs + 4 * r + 8 ≤ coreBytes)
    (hvals : i.vals + 4 * (fld (x.rdN (coreBase core + (i.offs + 4 * r)) 8) 0 4 + fld (x.rdN (coreBase core + (i.offs + 4 * r)) 8) 4 4) ≤ coreBytes)
    (hbitmap : ∀ b ∈ i.bitmap, b + fld (x.rdN (coreBase core + (i.offs + 4 * r)) 8) 4 4 ≤ coreBytes) :
    Yields (x.hotList core i r) fun _ => True := by
  refine (coreRd_of_open hopen hoffs).bind fun os hos => ?_
  rw [← hos] at hvals hbitmap
  dsimp only
  refine (coreRd_of_open hopen (by omega)).bind fun vs _ => ?_
  refine (Yields.mapM (P := fun _ => True) fun k hk => ?_).bind fun _ _ => .pure trivial
  have hk := List.mem_range.mp hk
  split
  · exact .pure trivial
  · next b hb =>
    have hb := hbitmap b hb
    exact (coreRd_of_open hopen (by omega)).bind fun _ _ => .pure trivial

theorem multihot_yields (hok : hotOk i = true) (hopen : x.dev.StoreOpen core) (hoffs : i.offs + 4 * i.n + 4 ≤ coreBytes)
    (hin : i.out + i.n * (4 * i.depth) ≤ coreBytes)
    (hlists : ∀ r, r < i.n →
      i.vals + 4 * (fld (x.rdN (coreBase core + (i.offs + 4 * r)) 8) 0 4 + fld (x.rdN (coreBase core + (i.offs + 4 * r)) 8) 4 4) ≤ coreBytes ∧
      ∀ b ∈ i.bitmap, b + fld (x.rdN (coreBase core + (i.offs + 4 * r)) 8) 4 4 ≤ coreBytes) :
    Yields (multihot core i x) (KeepsVectors core x) := by
  simp only [multihot, hok, need_true, ok_bind]
  refine (Yields.mapM (P := fun _ => True) fun r hr => ?_).bind fun rows hrows => hotRows_yields hopen ?_
  · have hr := List.mem_range.mp hr
    obtain ⟨hvals, hbitmap⟩ := hlists r hr
    exact hotList_yields hopen (by omega) hvals hbitmap
  · rwa [hrows, List.length_range]

end

/-! ### Pooling (R425) -/

section
variable {i : PoolIns}

theorem exec_embPool_ok {w : W} (h : Issues s core i.ecc) (hrun : embPool core i (s.fetched i.ecc) = .ok w) :
    exec (.embPool core i) s = .next (s.issued core 1 w) := coreIns_ok h hrun

/-- What the bags written so far leave: the core, the messages, and every byte outside the range of the results. -/
structure Pooled (core : Nat) (i : PoolIns) (x w : W) : Prop where
  sameCore : w.dev.core core = x.dev.core core
  sameOut : w.out = x.out
  reads : ∀ a, a < coreBase core + i.out ∨ coreBase core + (i.out + i.nbags * i.outStride + 4 * i.dim) ≤ a → w.rd a = x.rd a

/-- The rows that the positions name: those of the INV map, or the positions themselves. -/
def poolRows (x : W) (core : Nat) (i : PoolIns) : List Nat :=
  (i.inv.map fun b => takeElems 4 i.nrows (x.rdN (coreBase core + b) (4 * i.nrows))).getD []

/-- A range in which every byte reads as before is read as before. -/
theorem rdN_congr {x w : W} {a n : Nat} (h : ∀ b, a ≤ b → b < a + n → w.rd b = x.rd b) : w.rdN a n = x.rdN a n :=
  List.map_congr_left fun k hk => by have := List.mem_range.mp hk; exact h _ (by omega) (by omega)

/-- A position of the INV map reads as before the bags: it lies outside the range of the results. -/
theorem inv_position {w : W} {os pos : List Nat} {b k : Nat} (hfits : PoolFits i os pos) (hw : Pooled core i x w) (hinv : i.inv = some b)
    (hk : k < i.nrows) : leNat (w.rdN (coreBase core + (b + 4 * k)) 4) = (poolRows x core i).getD k k := by
  obtain ⟨-, hapart⟩ := hfits.inv b hinv
  have hsame : w.rdN (coreBase core + (b + 4 * k)) 4 = x.rdN (coreBase core + (b + 4 * k)) 4 :=
    rdN_congr fun a hlo hhi => hw.reads a (by omega)
  rw [hsame, poolRows, hinv, Option.map_some, Option.getD_some, takeElems_getD 4 hk, fld, slice_rdN x _ (by omega), Nat.add_assoc]

section
variable {w : W} {os : List Nat}

theorem Pooled.storeOpen (hw : Pooled core i x w) (hopen : x.dev.StoreOpen core) : w.dev.StoreOpen core :=
  storeOpen_congr hopen (by rw [hw.sameCore])

/-- An operand that may be absent: read where it is given, and its default taken otherwise, before the rest goes on. -/
theorem yields_optional {α β γ : Type} {o : Option Nat} {d : β} {read : Nat → Except (Nat × Nat) γ} {g : Nat → γ → β}
    {f : β → Except (Nat × Nat) α} {Q : α → Prop} (R : β → Prop) (hnone : o = none → R d)
    (hsome : ∀ b ∈ o, Yields (read b) fun y => R (g b y)) (hf : ∀ r, R r → Yields (f r) Q) :
    Yields (match o with
      | none => pure d >>= f
      | some b => read b >>= fun y => pure (g b y) >>= f) Q := by
  cases o with
  | none => exact hf _ (hnone rfl)
  | some b => exact (hsome b rfl).bind fun y hy => hf _ hy

/-- A position that counts names its row. -/
theorem bagPos_yields (hopen : x.dev.StoreOpen core) (hfits : PoolFits i os (poolRows x core i)) (hw : Pooled core i x w) {k : Nat}
    (hk : k < i.nrows) : Yields (w.bagPos core i k) fun (r : Option (Nat × Option Nat) × Bool) =>
      ∀ row wt, r.1 = some (row, wt) → row ≠ 0xFFFFFFFF ∧ row = (poolRows x core i).getD k k := by
  have hopen' := hw.storeOpen hopen
  unfold W.bagPos
  dsimp only
  refine yields_optional (fun _ => True) (fun _ => trivial) ?valid fun on _ =>
    yields_optional (fun (r : Nat × Bool) => r.1 = (poolRows x core i).getD k k) ?positions ?inv fun r hr => ?weight
  case valid =>
    intro b hb
    have hin := hfits.valid b hb
    have hbyte : k / 8 ≤ i.nrows / 8 := Nat.div_le_div_right hk.le
    exact (coreRd_of_open hopen' (by omega)).mono fun _ _ => trivial
  case positions => exact fun hnone => by simp [poolRows, hnone]
  case inv =>
    intro b hb
    obtain ⟨hin, -⟩ := hfits.inv b hb
    exact (coreRd_of_open hopen' (by omega)).mono fun bs hbs => by rw [hbs]; exact inv_position hfits hw hb hk
  case weight =>
    split
    · exact .pure (by simp)
    · next hcounts =>
      have hrow : r.1 ≠ 0xFFFFFFFF := fun heq => hcounts (by simp [heq])
      split
      · refine .pure fun row wt heq => ?_
        cases heq
        exact ⟨hrow, hr⟩
      · next b hb =>
        have hb := hfits.weights b hb
        refine (coreRd_of_open hopen' (by omega)).bind fun _ _ => .pure fun row wt heq => ?_
        cases heq
        exact ⟨hrow, hr⟩

/-- A row takes no more elements than its accumulator has. -/
theorem poolStep_length_le (mode : PoolMode) (satC ftz : Bool) (wt : Option FV) (acc : List (Option FV)) (row : List FV) :
    (poolStep mode satC ftz wt acc row).1.length ≤ acc.length := by
  simp only [poolStep, List.length_map, List.length_zip]
  omega

/-- The width of a bag's elements. -/
theorem poolWidth_le (bf : Bool) : (if bf then bf16 else fp32).width / 8 ≤ 4 := by cases bf <;> decide

/-- A bag within the rows gives a result row of at most four bytes an element. -/
theorem poolBag_yields (hopen : x.dev.StoreOpen core) (hfits : PoolFits i os (poolRows x core i)) (hw : Pooled core i x w) {a b : Nat}
    (hb : b ≤ i.nrows) : Yields (w.poolBag core i a b) fun (r : List Byte × Nat × Bool × Bool) => r.1.length ≤ 4 * i.dim := by
  unfold W.poolBag
  refine Yields.bind (P := fun (t : List (Option FV) × Nat × Bool × Nat) => t.1.length ≤ i.dim)
    (.foldlM (fun t ht k hk => ?_) (by simp)) fun t ht => .pure ?_
  · have hk := List.mem_range.mp hk
    refine (bagPos_yields hopen hfits hw (k := a + k) (by omega)).bind fun r hr => ?_
    dsimp only
    split
    · exact .pure ht
    · next row wt hpos =>
      obtain ⟨hrow, hrow'⟩ := hr row wt hpos
      have hplace := (hfits.rows (a + k) (by omega)).resolve_left (by rwa [← hrow'])
      rw [← hrow'] at hplace
      have hbytes : (if i.bfIn then 2 else 4) * i.dim ≤ 4 * i.dim := Nat.mul_le_mul_right _ (by split <;> decide)
      refine Yields.bind (P := fun _ => True) ?_ fun _ _ => .pure ((poolStep_length_le ..).trans ht)
      exact (coreRd_of_open (hw.storeOpen hopen) (by omega)).bind fun _ _ => .pure trivial
  · simp only [length_flatMap_toLe, List.length_map, List.length_zipIdx]
    rw [Nat.mul_comm 4]
    exact Nat.mul_le_mul ht (poolWidth_le _)

/-- Bags one after another: each reads what the ones before left of rows and positions. -/
theorem poolBags_yields (hopen : x.dev.StoreOpen core) (hfits : PoolFits i os (poolRows x core i)) (hw : Pooled core i x w)
    {bags : List (Nat × Nat × Nat)} (hbags : ∀ e ∈ bags, e.1 < i.nbags ∧ e.2.2 ≤ i.nrows) (fl empty : Nat) :
    Yields (w.poolBags core i bags fl empty) fun (r : W × Nat × Nat) => Pooled core i x r.1 := by
  induction bags generalizing w fl empty with
  | nil => exact .pure hw
  | cons e t ih =>
    obtain ⟨k, a, b⟩ := e
    obtain ⟨hk, hb⟩ := hbags _ (List.mem_cons_self ..)
    rw [W.poolBags]
    refine (poolBag_yields hopen hfits hw hb).bind fun r hlen => ?_
    have hplace : k * i.outStride ≤ i.nbags * i.outStride := Nat.mul_le_mul_right _ hk.le
    have hout := hfits.out
    have hdrawn : Pooled core i x (w.onDev fun d => { d with freeCtr := d.freeCtr + i.dim }) := ⟨hw.sameCore, hw.sameOut, hw.reads⟩
    refine (coreWr_of_open (hdrawn.storeOpen hopen) ?fits).bind fun w' hw' => ih ⟨?sameCore, ?sameOut, fun c hc => ?reads⟩
      (fun e he => hbags e (List.mem_cons_of_mem _ he)) _ _
    case fits => omega
    case sameCore => rw [hw', stored_dev]; exact hdrawn.sameCore
    case sameOut => rw [hw', stored_out]; exact hdrawn.sameOut
    case reads => rw [hw', stored_rd _ _ _ _ _ (by omega)]; exact hdrawn.reads c hc

theorem embPool_yields (hopen : x.dev.StoreOpen core)
    (hfits : PoolFits i (takeElems 4 (i.nbags + 1) (x.rdN (coreBase core + i.bags) (4 * (i.nbags + 1)))) (poolRows x core i)) :
    Yields (embPool core i x) (KeepsVectors core x) := by
  refine (coreRd_of_open hopen hfits.bags).bind fun bs hbs => ?_
  rw [← hbs] at hfits
  dsimp only
  have horder : (((List.range i.nbags).map fun k => (k, (takeElems 4 (i.nbags + 1) bs).getD k 0,
      (takeElems 4 (i.nbags + 1) bs).getD (k + 1) 0)).all (fun (_, a, b) => a ≤ b) &&
      (takeElems 4 (i.nbags + 1) bs).all (· ≤ i.nrows)) = true := by
    simp only [Bool.and_eq_true, List.all_eq_true, List.mem_map, List.mem_range, decide_eq_true_eq]
    refine ⟨?_, hfits.inRows⟩
    rintro _ ⟨k, hk, rfl⟩
    exact hfits.order k hk
  refine (yields_need horder _).bind fun _ _ => ?_
  refine (poolBags_yields hopen hfits ⟨rfl, rfl, fun _ _ => rfl⟩ ?_ 0 0).bind fun r hr => .pure ⟨hr.sameOut, ?_⟩
  · intro e he
    obtain ⟨k, hk, rfl⟩ := List.mem_map.mp he
    have hk := List.mem_range.mp hk
    refine ⟨hk, hfits.inRows _ ?_⟩
    dsimp only
    rw [List.getD_eq_getElem _ _ (by rw [takeElems_length]; omega)]
    exact List.getElem_mem _
  · rw [W.setSreg, onCore_core, onCore_core]
    change (r.1.dev.core core).vregs = _
    rw [hr.sameCore]

end
end
end

/-- Settles O4: each clause is the lemma above about its instruction. -/
theorem conversionMatrixAndPoolingComplete : Obligations.ConversionMatrixAndPoolingComplete := by
  unfold Obligations.ConversionMatrixAndPoolingComplete
  refine ⟨?registers, ?conversion, ?block, ?matrix, ?tileLoad, ?tileStore, ?trees, ?onehot, ?multihot, ?pool⟩
  case registers =>
    intro s core i r hissues hsrc hdst hmode hreg hreg' hfits hfits'
    obtain ⟨gens, fl, bs, p, hrun⟩ := vecConv_registers hsrc hdst hmode hreg hreg' hfits hfits'
    refine ⟨_, exec_conversion_ok hissues hrun, rfl, rfl, ?_, fun k hk => ?_⟩
    · rw [onCore_core, onCore_core]; rfl
    · rw [onCore_core, onCore_core, setV_vreg_of_ne _ _ _ _ hk]; rfl
  case conversion => exact fun s core i w hissues hrun => exec_conversion_ok hissues hrun
  case block =>
    intro s core i r hissues hmode hsrc hdst hreg hfits _ hscale hdata
    obtain ⟨gens, fl, scale, bs, p, hrun⟩ := mxConv_ok (x := s.work) hmode hsrc hdst hreg hfits hscale hdata
    refine ⟨_, exec_mxBlockConversion_ok hissues hrun, by rw [stored_out, stored_out]; rfl, ?_, ?_⟩
    · rw [stored_dev, stored_dev, onCore_core]; rfl
    · rw [stored_dev, stored_dev, onCore_core]; rfl
  case matrix =>
    intro s core i hissues hok hoffA hoffB hA hB
    obtain ⟨cells, p, fl, hrun⟩ := matMul_ok hok hoffA hoffB hA hB
    refine ⟨_, exec_matrixMultiply_ok hissues hrun, rfl, rfl, by rw [onCore_core]; rfl, fun k hk => ?_⟩
    rw [onCore_core, flag_tile, setTile_tile_of_ne _ hk]
  case tileLoad =>
    intro s core i hissues htile hreg hload
    obtain ⟨p, hrun⟩ := tileMove_load (x := s.work) htile hreg hload
    refine ⟨_, exec_tileMove_ok hissues hrun, rfl, by rw [onCore_core]; rfl, ?_⟩
    rw [onCore_core]
    exact setTile_tile ..
  case tileStore =>
    intro s core i hissues htile hreg hstore
    obtain ⟨p, hrun⟩ := tileMove_store (x := s.work) htile hreg hstore
    refine ⟨_, exec_tileMove_ok hissues hrun, rfl, ?_, fun r hr => ?_⟩
    · rw [onCore_core, foldl_setV_acc]; rfl
    · rw [onCore_core, foldl_setV_vreg, if_pos (List.mem_range.mpr hr)]; rfl
  case trees =>
    intro s core i r hissues hmode hregs hopen hens hfeat hstride hin hfits hrows
    obtain ⟨w, hrun, gens, bs, p, fl, rfl⟩ := treeScore_yields hmode hregs hopen hens hfeat hstride hin hfits hrows
    refine ⟨_, exec_treeScoring_ok hissues hrun, rfl, rfl, ?_, fun k hk => ?_⟩
    · rw [onCore_core]; rfl
    · rw [onCore_core, flag_vreg, setV_vreg_of_ne _ _ _ _ hk]; rfl
  case onehot =>
    intro s core i hissues hok hregs hn hopen hin
    obtain ⟨w, hrun, hkeeps⟩ := onehot_yields hok hregs hn hopen hin
    exact ⟨w, exec_onehot_ok hissues hrun, hkeeps⟩
  case multihot =>
    intro s core i hissues hok hopen hoffs hin hlists
    obtain ⟨w, hrun, hkeeps⟩ := multihot_yields hok hopen hoffs hin hlists
    exact ⟨w, exec_multihot_ok hissues hrun, hkeeps⟩
  case pool =>
    intro s core i hissues hopen hfits
    obtain ⟨w, hrun, hkeeps⟩ := embPool_yields hopen hfits
    exact ⟨w, exec_embPool_ok hissues hrun, hkeeps⟩

end Sys2Proof.Machine
end

section
/-! PROOFS. The scheduler's events (R269, R281, R284, R286, R485, R569): dispatch, the delay list, ring messages, stage starts and the loss of
cores. -/

namespace Sys2Proof.Machine

section
variable {s : State}

/-! ### Dispatch (R281) -/

theorem exec_taskDispatch {core lv k : Nat} {sl : Slot} (hcore : core < 256) (hruns : s.dev.dieRuns (dieOfCore core) = true)
    (hon : (s.dev.core core).offline = false) (hidle : (s.dev.core core).run = none) (hnext : s.dev.nextReady core = some (lv, k))
    (hslot : Tab.get s.dev.slots (slotKey (dieOfCore core) k) = some sl) :
    exec (.taskDispatch core) s = .next (s.after (((s.work.onDev fun d =>
      { d with ready := Tab.mod d.ready (readyKey core lv) (List.drop 1) }).onSlot (slotKey (dieOfCore core) k) fun x =>
        { x with st := .run }).onCore core fun c => { c with run := some k, sregs := sl.sregs, pc := sl.pc })) := by
  change execTaskDispatch core s = _
  simp only [execTaskDispatch, runT_next, State.work_dev, hcore, hruns, hon, hidle, hnext, hslot, Option.isNone_none, decide_true,
    Bool.not_false, Bool.and_self, Bool.not_true, Bool.false_eq_true, if_false]

/-! ### The delay list (R284) -/

section
variable {die : Nat} {e : DelayEnt}

/-- A task whose slot is not FREE joins the tail of the ready list of its core and level. -/
theorem joinReady_of_slot {w : W} {slot : Nat} {sl : Slot} (hslot : Tab.get w.dev.slots (slotKey die slot) = some sl) :
    w.joinReady die slot = (w.onSlot (slotKey die slot) fun x => { x with st := .ready, obj := none }).onDev fun d =>
      { d with ready := Tab.upd d.ready (readyKey sl.rec'.core sl.rec'.prio) [] (· ++ [slot]) } := by
  simp only [W.joinReady, hslot]

theorem exec_delayExpiry {sl : Slot} (hdue : s.dev.dueDelay die = some e) (hdelay : e.isWait = false)
    (hslot : Tab.get s.dev.slots (slotKey die e.slot) = some sl) :
    exec (.delayExpiry die) s = .next (s.after (((s.work.leaveDelay die e.slot).onSlot (slotKey die e.slot) fun x =>
      { x with st := .ready, obj := none }).onDev fun d =>
        { d with ready := Tab.upd d.ready (readyKey sl.rec'.core sl.rec'.prio) [] (· ++ [e.slot]) })) := by
  change execDelayExpiry die s = _
  have hslot' : Tab.get (s.work.leaveDelay die e.slot).dev.slots (slotKey die e.slot) = some sl := hslot
  simp only [execDelayExpiry, runT_next, State.work_dev, hdue, hdelay, Bool.false_eq_true, if_false, joinReady_of_slot hslot']

theorem exec_taskWaitExpiry (hdue : s.dev.dueDelay die = some e) (hwait : e.isWait = true) :
    exec (.taskWaitExpiry die) s = .next (s.after (((s.work.unwait (.task die e.slot)).wakeTask die e.slot 1).onDie die fun d =>
      { d with schedTo := satAdd 32 d.schedTo 1 })) := by
  change execTaskWaitExpiry die s = _
  simp only [execTaskWaitExpiry, runT_next, State.work_dev, hdue, hwait, if_true]

end

/-! ### Ring messages and stage starts (R286, R485) -/

theorem exec_syncMessage {die : Nat} {m : SyncMsg} {rest : List SyncMsg} (hruns : s.dev.dieRuns die = true)
    (hqueue : (s.dev.die die).syncQ = m :: rest) (hlive : (Tab.get s.dev.syncs m.obj).isSome = true) :
    exec (.syncMessage die) s = .next (s.after ((s.work.onDie die fun d => { d with syncQ := rest }).syncOp m.obj m.op)) := by
  change execSyncMessage die s = _
  simp only [execSyncMessage, runT_next, State.work_dev, hruns, hqueue, W.onDie_dev, hlive, Bool.not_true, Bool.false_eq_true, if_false,
    if_true]

theorem exec_stageStart {i n : Nat} {g : Graph} (hget : Tab.get s.dev.graphs i = some g) (hstate : g.state = 2)
    (hnext : g.startNext = some n) (hruns : s.dev.diesRun = true) :
    exec (.stageStart i) s = .next (s.after (s.work.startStage i n)) := by
  change execStageStart i s = _
  simp only [execStageStart, runT_next, State.work_dev, hget, Option.bind_some, hstate, hnext, hruns, if_true]

/-! ### The loss of a core (R269, R569) -/

theorem exec_coreHang {core : Nat} (hcore : core < 256) (hup : s.dev.dieUp (core / 64) = true)
    (hruns : (s.dev.core core).run.isSome = true) (hphys : s.dev.physOfCore core < 68) :
    exec (.coreHang core) s = .next (s.after (s.work.retireCore (core / 64) (s.dev.physOfCore core) 4 0)) := by
  change execCoreHang core s = _
  simp only [execCoreHang, runT_next, State.work_dev, hcore, hup, hruns, hphys, decide_true, Bool.and_self, if_true]

theorem exec_physicalCoreFailure {die phys : Nat} (hdie : die < 4) (hphys : phys < 68) (hup : s.dev.dieUp die = true)
    (hserves : bit (s.dev.die die).coreRetired phys = false) :
    exec (.physicalCoreFailure die phys) s = .next (s.after (s.work.retireCore die phys 4 0)) := by
  change execPhysicalCoreFailure die phys s = _
  simp only [execPhysicalCoreFailure, runT_next, State.work_dev, hdie, hphys, hup, hserves, decide_true, Bool.not_false, Bool.and_self,
    if_true]

end

/-- Settles O7: each clause is its event's lemma above. -/
theorem schedulerEventsComplete : Obligations.SchedulerEventsComplete := by
  unfold Obligations.SchedulerEventsComplete
  refine ⟨?dispatch, ?delay, ?wait, ?message, ?stage, ?hang, ?failure⟩
  case dispatch => exact fun s core lv k sl hcore hruns hon hidle hnext hslot => exec_taskDispatch hcore hruns hon hidle hnext hslot
  case delay => exact fun s die e sl hdue hdelay hslot => exec_delayExpiry hdue hdelay hslot
  case wait => exact fun s die e hdue hwait => exec_taskWaitExpiry hdue hwait
  case message => exact fun s die m rest hruns hqueue hlive => exec_syncMessage hruns hqueue hlive
  case stage => exact fun s i n g hget hstate hnext hruns => exec_stageStart hget hstate hnext hruns
  case hang => exact fun s core hcore hup hruns hphys => exec_coreHang hcore hup hruns hphys
  case failure => exact fun s die phys hdie hphys hup hserves => exec_physicalCoreFailure hdie hphys hup hserves

end Sys2Proof.Machine
end

section
/-! PROOFS. Sync objects (R287, R288): what an operation makes of its object, and which waiters its die then wakes. -/

namespace Sys2Proof.Machine

variable {w : W} {obj : Nat} {s : Sync}

/-! ### What the waking of a waiter leaves of the sync objects -/

theorem steady_syncs : Steady Dev.syncs := by constructor <;> intros <;> rfl

@[simp] theorem joinReady_syncs (w : W) (die slot : Nat) : (w.joinReady die slot).dev.syncs = w.dev.syncs := by
  simp only [W.joinReady]
  split <;> rfl

/-- A waiter released is a task, a stream or a command: no sync object changes. -/
@[simp] theorem release_syncs (w : W) (wt : Waiter) (v : Nat) : (w.release wt v).dev.syncs = w.dev.syncs := by
  cases wt with
  | task d k => exact joinReady_syncs ..
  | stream i which => rfl
  | cmd ch seq =>
    simp only [W.release]
    split
    · exact steady_syncs.complete ..
    · rfl

@[simp] theorem noteTake_syncs (w : W) (obj a : Nat) : (w.noteTake obj a).dev.syncs = w.dev.syncs := by
  simp only [W.noteTake]
  split
  · refine foldl_keeps (g := Dev.syncs) (fun _ _ => ?_) _ w
    rfl
  · rfl

/-! ### TAKE waiters (R288) -/

/-- A value less the amounts of the first j waiters of a queue. -/
def leftOf (v : Nat) (ts : List (Waiter × Nat)) (j : Nat) : Nat := v - ((ts.take j).map Prod.snd).sum

@[simp] theorem leftOf_zero (v : Nat) (ts : List (Waiter × Nat)) : leftOf v ts 0 = v := rfl

@[simp] theorem leftOf_cons_succ (v : Nat) (t : Waiter × Nat) (ts : List (Waiter × Nat)) (j : Nat) :
    leftOf v (t :: ts) (j + 1) = leftOf (v - t.2) ts j := by
  simp [leftOf, Nat.sub_sub]

/-- The first k waiters of a queue are the ones that a value satisfies: each of them in its turn, and not the one behind them. -/
structure Serves (v : Nat) (ts : List (Waiter × Nat)) (k : Nat) : Prop where
  le : k ≤ ts.length
  satisfied : ∀ j t, j < k → ts[j]? = some t → t.2 ≤ leftOf v ts j
  holds : ∀ t, ts[k]? = some t → leftOf v ts k < t.2

theorem Serves.cons {v a k : Nat} {wt : Waiter} {ts : List (Waiter × Nat)} (ha : a ≤ v) (h : Serves (v - a) ts k) :
    Serves v ((wt, a) :: ts) (k + 1) where
  le := Nat.succ_le_succ h.le
  satisfied
    | 0, t, _, ht => by cases ht; exact ha
    | j + 1, t, hj, ht => leftOf_cons_succ v (wt, a) ts j ▸ h.satisfied j t (Nat.lt_of_succ_lt_succ hj) ht
  holds t ht := leftOf_cons_succ v (wt, a) ts k ▸ h.holds t ht

/-- Serving a queue wakes its first waiters, each with the value after its take, and leaves the others and the value left. -/
theorem serveTakers_eq (v : Nat) (ts : List (Waiter × Nat)) : ∃ k, Serves v ts k ∧
    serveTakers v ts = ((ts.take k).zipIdx.map fun t => (t.1.1, t.1.2, leftOf v ts (t.2 + 1)), ts.drop k, leftOf v ts k) := by
  induction ts generalizing v with
  | nil => exact ⟨0, ⟨le_rfl, nofun, nofun⟩, rfl⟩
  | cons t ts ih =>
    obtain ⟨wt, a⟩ := t
    by_cases ha : a ≤ v
    · obtain ⟨k, hk, hserve⟩ := ih (v - a)
      refine ⟨k + 1, hk.cons ha, ?_⟩
      simp [serveTakers, ha, hserve, List.zipIdx_succ]
    · refine ⟨0, ⟨Nat.zero_le _, nofun, fun t ht => ?_⟩, ?_⟩
      · cases ht
        exact Nat.not_le.mp ha
      · simp [serveTakers, ha]

/-! ### The waking after an operation (R288) -/

/-- An object once its die has woken every waiter that its value satisfies. -/
def Sync.settled (s : Sync) : Sync :=
  { s with
    val := (serveTakers s.val s.takers).2.2, takers := (serveTakers s.val s.takers).2.1
    reachers := s.reachers.filter fun r => !(r.2 ≤ s.val) }

theorem get_settle (hget : Tab.get w.dev.syncs obj = some s) : Tab.get (w.settle obj).dev.syncs obj = some s.settled := by
  simp only [W.settle, hget]
  rw [foldl_keeps (g := Dev.syncs) (fun w r => by simp), foldl_keeps (g := Dev.syncs) (fun w r => by simp)]
  simp [hget, Sync.settled]

/-- R288 of every working copy, whatever its table: the die wakes the REACH waiters that the object's value satisfies, then the first
TAKE waiters, and the value and the queue that these leave are written to the object. -/
theorem settle_wakes (hget : Tab.get w.dev.syncs obj = some s) : ∃ k, Serves s.val s.takers k ∧
    w.settle obj =
      ((s.takers.take k).zipIdx).foldl (fun w t => (w.noteTake obj t.1.2).release t.1.1 (s.left (t.2 + 1)))
        ((s.reachers.filter fun r => r.2 ≤ s.val).foldl (fun w r => w.release r.1 s.val)
          (w.onSync obj fun x => { x with
            val := s.left k, takers := s.takers.drop k, reachers := x.reachers.filter fun r => !(r.2 ≤ x.val) })) ∧
    Tab.get (w.settle obj).dev.syncs obj = some { s with
      val := s.left k, takers := s.takers.drop k, reachers := s.reachers.filter fun r => !(r.2 ≤ s.val) } := by
  obtain ⟨k, hk, hserve⟩ := serveTakers_eq s.val s.takers
  refine ⟨k, hk, ?_, ?_⟩
  · simp only [W.settle, hget, hserve, List.foldl_map]
    rfl
  · rw [get_settle hget, Sync.settled, hserve]
    rfl

/-- Two entries under the number 0, of which `Tab.get` finds the first: a table in ascending order, as `Tab.put` keeps it, has none. -/
def namedTwice : W := { dev := { syncs := [(0, { gen := 1, tag := 0, val := 0 }), (0, { gen := 1, tag := 0, val := 7 })] }, base := {} }

/-- Refutes O56: the statement ranges over every table, and computes each entry of the number from that entry's own value, where the
die writes the value left of the object found. Where a table names an object twice the two differ in the second entry: 7 stays by the
statement, and 0 is written. What R288 says is `settle_wakes`. -/
theorem not_wakingFollowsR288 : ¬ Obligations.WakingFollowsR288 := by
  unfold Obligations.WakingFollowsR288
  intro h
  obtain ⟨k, hk, -, -, hsettle, -⟩ := h namedTwice 0 { gen := 1, tag := 0, val := 0 } rfl
  obtain rfl : k = 0 := Nat.le_zero.mp hk
  have hvals := congrArg (fun w => w.dev.syncs.map fun e => e.2.val) hsettle
  exact absurd hvals (by decide)

/-! ### The operations (R287) -/

/-- What an operation makes of its object before its die wakes waiters. -/
def Sync.operated (s : Sync) : SyncOp → Sync
  | .add a => { s with val := min (s.val + a) (2 ^ 64 - 1), sat := s.sat || 2 ^ 64 ≤ s.val + a }
  | .set v => { s with val := v }
  | .take wt a => { s with takers := s.takers ++ [(wt, a)] }
  | .reach wt v => { s with reachers := s.reachers ++ [(wt, v)] }

/-- An operation on a live object changes it, and its die then wakes the waiters that the new value satisfies. -/
theorem get_syncOp (hget : Tab.get w.dev.syncs obj = some s) (op : SyncOp) :
    Tab.get (w.syncOp obj op).dev.syncs obj = some (s.operated op).settled := by
  have hmod (x : W) (f : Sync → Sync) (hx : x.dev.syncs = w.dev.syncs) :
      Tab.get ((x.onSync obj f).settle obj).dev.syncs obj = some (f s).settled :=
    get_settle (by rw [W.onSync_dev, Tab.get_mod_self, hx, hget, Option.map_some])
  cases op <;> simp only [W.syncOp, hget] <;> exact hmod _ _ rfl

/-- Settles O57: each operation's object, settled with at most the one waiter that the operation has added. -/
theorem syncOperationsChangeTheValue : Obligations.SyncOperationsChangeTheValue := by
  unfold Obligations.SyncOperationsChangeTheValue
  intro w obj s hget htake hreach
  refine ⟨fun a => ⟨_, get_syncOp hget _, ?add⟩, fun v => ⟨_, get_syncOp hget _, ?set⟩,
    fun wt a => ⟨_, get_syncOp hget _, fun ha => ?taken, fun ha => ?waits⟩,
    fun wt v => ⟨_, get_syncOp hget _, ?value, fun hv => ?reached, fun hv => ?registered⟩⟩
  case add => simp [Sync.operated, Sync.settled, serveTakers, htake, hreach, Nat.lt_iff_add_one_le]
  case set | value => simp [Sync.operated, Sync.settled, serveTakers, htake]
  case taken => simp [Sync.operated, Sync.settled, serveTakers, htake, ha]
  case waits => simp [Sync.operated, Sync.settled, serveTakers, htake, Nat.not_le.mpr ha]
  case reached | registered => simp [Sync.operated, Sync.settled, hreach, hv]

end Sys2Proof.Machine
end

section
/-! PROOFS. The operations of the running task (R276 to R279, R284, R286): waits, signals, DELAY, YIELD and END. -/

namespace Sys2Proof.Machine

variable {w : W} {core obj limit k : Nat} {sl : Slot}

/-! ### What the end of an operation and the leaving of a core keep -/

@[simp] theorem retire_stageOver (w : W) (core : Nat) (sl : Slot) : (w.retire core).dev.stageOver sl = w.dev.stageOver sl := rfl
@[simp] theorem retire_dieUp (w : W) (core die : Nat) : (w.retire core).dev.dieUp die = w.dev.dieUp die := rfl
@[simp] theorem retire_syncLive (w : W) (core h : Nat) : (w.retire core).dev.syncLive h = w.dev.syncLive h := rfl
@[simp] theorem retire_tickNo (w : W) (core : Nat) : (w.retire core).dev.tickNo = w.dev.tickNo := rfl

@[simp] theorem leaveCore_syncLive (w : W) (core k : Nat) (st : SlotState) (h : Nat) :
    (w.leaveCore core k st).dev.syncLive h = w.dev.syncLive h := rfl

@[simp] theorem leaveCore_tickNo (w : W) (core k : Nat) (st : SlotState) : (w.leaveCore core k st).dev.tickNo = w.dev.tickNo := rfl

@[simp] theorem joinDelay_syncLive (w : W) (die : Nat) (e : DelayEnt) (h : Nat) :
    (w.joinDelay die e).dev.syncLive h = w.dev.syncLive h := rfl

/-! ### Waits and signals (R277, R279) -/

section
variable (hrun : w.dev.running core = some (k, sl)) (hup : w.dev.dieUp (syncDie (hIdx obj)) = true)
include hrun hup

section
variable (hstage : w.dev.stageOver sl = false)
include hstage

/-- A wait that is satisfied at once leaves the task in RUN, with 0 in scalar register 0. -/
theorem taskBlock_satisfied (direct : W → W) (op : Waiter → SyncOp) :
    w.taskBlock core obj limit true direct op = (direct (w.retire core)).setSreg core 0 0 := by
  simp [W.taskBlock, hrun, hup, hstage]

/-- A wait without a limit that is not satisfied puts its task into WAIT, and registers on the object. -/
theorem taskBlock_waits (hlive : w.dev.syncLive obj = true) (direct : W → W) (op : Waiter → SyncOp) :
    w.taskBlock core obj 0 false direct op =
      ((w.retire core).leaveCore core k .wait).taskWait (dieOfCore core) k (hIdx obj) (op (.task (dieOfCore core) k)) := by
  simp [W.taskBlock, hrun, hup, hstage, hlive]

/-- One with a limit joins the delay list besides (R284). -/
theorem taskBlock_waits_limited (hlive : w.dev.syncLive obj = true) (hlimit : 0 < limit) (direct : W → W) (op : Waiter → SyncOp) :
    w.taskBlock core obj limit false direct op =
      (((w.retire core).leaveCore core k .wait).joinDelay (dieOfCore core) ⟨w.dev.tickNo + limit, k, true⟩).taskWait (dieOfCore core) k
        (hIdx obj) (op (.task (dieOfCore core) k)) := by
  simp [W.taskBlock, hrun, hup, hstage, hlive, Nat.ne_of_gt hlimit]

end

/-- A signal acts on its live object, and the task runs on. -/
theorem taskSignal_live (hlive : w.dev.syncLive obj = true) (op : SyncOp) :
    w.taskSignal core obj op = (w.retire core).issueSync (dieOfCore core) (hIdx obj) op (.task (dieOfCore core) k) := by
  simp [W.taskSignal, hrun, hup, hlive]

end

/-- A WAIT_TAKE of an amount that an operand may hold is a wait of its task. -/
theorem exec_waitTake {amount : Nat} (limit : Nat) (s : State) (hpos : 0 < amount) (hlt : amount < 2 ^ 32) :
    exec (.waitTake core obj amount limit) s =
      .next (s.after (s.work.taskBlock core obj limit (s.dev.localSync core obj fun y => y.canTake amount)
        (fun w => w.takeNow (hIdx obj) amount) fun wt => .take wt amount)) := by
  change execWaitTake core obj amount limit s = _
  have hamount : (decide (amount = 0) || decide (2 ^ 32 ≤ amount)) = false := by simp; omega
  simp only [execWaitTake, runT_next, hamount, Bool.false_eq_true, if_false, State.work_dev]

theorem exec_waitReach (core obj value limit : Nat) (s : State) :
    exec (.waitReach core obj value limit) s =
      .next (s.after (s.work.taskBlock core obj limit (s.dev.localSync core obj fun y => value ≤ y.val) id fun wt => .reach wt value)) :=
  rfl

theorem exec_signalAdd (core obj amount : Nat) (s : State) :
    exec (.signalAdd core obj amount) s = .next (s.after (s.work.taskSignal core obj (.add amount))) := rfl

theorem exec_signalSet (core obj value : Nat) (s : State) :
    exec (.signalSet core obj value) s = .next (s.after (s.work.taskSignal core obj (.set (value % 2 ^ 64)))) := rfl

/-! ### DELAY, YIELD and END (R276, R277, R284) -/

section
variable {s : State} (hrun : s.dev.running core = some (k, sl)) (hstage : s.dev.stageOver sl = false)
include hrun hstage

theorem exec_delay {ticks : Nat} (hpos : 0 < ticks) (hlt : ticks < 2 ^ 24) :
    exec (.delay core ticks) s = .next (s.after (((s.work.retire core).leaveCore core k .delay).joinDelay (dieOfCore core)
      ⟨s.dev.tickNo + ticks, k, false⟩)) := by
  change execDelay core ticks s = _
  have hticks : (decide (ticks = 0) || decide (2 ^ 24 ≤ ticks)) = false := by simp; omega
  simp only [execDelay, runT_next, State.work_dev, hrun, hticks, retire_stageOver, hstage, retire_tickNo,
    Bool.false_eq_true, if_false]

theorem exec_yieldTask :
    exec (.yieldTask core) s = .next (s.after (((s.work.retire core).leaveCore core k .ready).joinReady (dieOfCore core) k)) := by
  change execYieldTask core s = _
  simp only [execYieldTask, runT_next, State.work_dev, hrun, retire_stageOver, hstage, Bool.false_eq_true, if_false]

theorem exec_endTask_last (hlast : sl.rec'.rep = sl.run + 1) :
    exec (.endTask core) s = .next (s.after (s.work.leaveCore core k .done)) := by
  change execEndTask core s = _
  simp [execEndTask, runT_next, hrun, hstage, hlast]

theorem exec_endTask_next (hmore : sl.rec'.rep ≠ sl.run + 1) :
    exec (.endTask core) s =
      .next (s.after ((s.work.leaveCore core k .done).beginRun (slotKey (dieOfCore core) k) (sl.run + 1))) := by
  change execEndTask core s = _
  simp [execEndTask, runT_next, hrun, hstage, Ne.symm hmore]

end

/-- Settles O1: each clause is its operation's row, where a wait or a signal goes the way that its premises name. -/
theorem taskOperationsComplete : Obligations.TaskOperationsComplete := by
  unfold Obligations.TaskOperationsComplete
  refine ⟨?take, ?takeWaits, ?reach, ?reachWaits, ?add, ?set, ?delay, ?yield, ?last, ?next⟩
  case take =>
    intro s core obj amount limit k sl hrun hstage hup hpos hlt hnow
    rw [exec_waitTake limit s hpos hlt, hnow, taskBlock_satisfied (w := s.work) hrun hup hstage]
    rfl
  case takeWaits =>
    intro s core obj amount k sl hrun hstage hup hpos hlt hnot hlive
    rw [exec_waitTake 0 s hpos hlt, hnot, taskBlock_waits (w := s.work) hrun hup hstage hlive]
  case reach =>
    intro s core obj value limit k sl hrun hstage hup hnow
    rw [exec_waitReach, hnow, taskBlock_satisfied (w := s.work) hrun hup hstage]
    rfl
  case reachWaits =>
    intro s core obj value limit k sl hrun hstage hup hnot hlive hlimit
    rw [exec_waitReach, hnot, taskBlock_waits_limited (w := s.work) hrun hup hstage hlive hlimit]
    rfl
  case add =>
    intro s core obj amount k sl hrun hup hlive
    rw [exec_signalAdd, taskSignal_live (w := s.work) hrun hup hlive]
  case set =>
    intro s core obj value k sl hrun hup hlive
    rw [exec_signalSet, taskSignal_live (w := s.work) hrun hup hlive]
  case delay => exact fun s core ticks k sl hrun hstage hpos hlt => exec_delay hrun hstage hpos hlt
  case yield => exact fun s core k sl hrun hstage => exec_yieldTask hrun hstage
  case last => exact fun s core k sl hrun hstage hlast => exec_endTask_last hrun hstage hlast
  case next => exact fun s core k sl hrun hstage hmore => exec_endTask_next hrun hstage hmore

end Sys2Proof.Machine
end

section
/-! PROOFS. The commands of sync objects and of the tick (R283, R293 to R295), once admitted. -/

namespace Sys2Proof.Machine

variable {x : Ctx} {w : W} {y : Sync}

@[simp] theorem reply_syncs (w : W) (ch : Nat) (h : Header) (op st d : Nat) (b : List Byte) :
    (w.reply ch h op st d b).dev.syncs = w.dev.syncs := steady_syncs.reply ..

/-! ### SYNC_CREATE (R293) -/

/-- A run of n + 1 objects is a run of n and one put behind it. -/
theorem makeSyncs_succ (w : W) (idx n init tag : Nat) : ∃ g, (w.makeSyncs idx (n + 1) init tag).2.dev.syncs =
    Tab.put (w.makeSyncs idx n init tag).2.dev.syncs (idx + n) { gen := g, tag := tag, val := init } := by
  simp only [W.makeSyncs, List.range_succ, List.foldl_append]
  exact ⟨_, rfl⟩

/-- Each object of the run is there with its tag and its initial value. -/
theorem get_makeSyncs (w : W) (idx init tag : Nat) {j n : Nat} (hj : j < n) :
    ∃ g, Tab.get (w.makeSyncs idx n init tag).2.dev.syncs (idx + j) = some { gen := g, tag := tag, val := init } := by
  induction n with
  | zero => exact absurd hj (Nat.not_lt_zero j)
  | succ n ih =>
    obtain ⟨g, hput⟩ := makeSyncs_succ w idx n init tag
    rw [hput]
    obtain hlt | rfl := Nat.lt_succ_iff_lt_or_eq.mp hj
    · rw [Tab.get_put_ne _ (by omega)]
      exact ih hlt
    · exact ⟨g, Tab.get_put_self ..⟩

theorem syncCreate_body {k j : Nat} (hrun : w.dev.syncRun (x.f 0 1) (x.f 2 2) (x.f 1 1) = some k) (hj : j < x.f 1 1) :
    ∃ g, Tab.get (syncCreate.body x w).dev.syncs (2048 * x.f 0 1 + k + j) = some { gen := g, tag := x.tag, val := x.f 8 8 } := by
  simp only [syncCreate, hrun, W.ok, reply_syncs]
  exact get_makeSyncs w _ _ _ hj

theorem taken_syncRun (s : State) (ch : Nat) (p : Packet) (psn die loc n : Nat) :
    (s.taken ch p psn).dev.syncRun die loc n = s.dev.syncRun die loc n := taken_keeps (·.syncRun die loc n) (fun _ _ _ => rfl) ..

/-! ### SYNC_WAIT (R295) -/

section
variable (hget : Tab.get w.dev.syncs x.idx = some y)
include hget

section
variable (hlimit : x.f 4 4 = 0)
include hlimit

section
variable (htake : x.f 0 1 = 0)
include htake

theorem syncWait_takes (hcan : y.canTake (x.f 8 8) = true) :
    syncWait.body x w = (w.takeNow x.idx (x.f 8 8)).ok x (toLe 8 (y.val - x.f 8 8)) := by
  simp [syncWait, hget, hlimit, htake, hcan]

theorem syncWait_take_times_out (hcan : y.canTake (x.f 8 8) = false) : syncWait.body x w = w.failWith x ⟨0x0C, 0, []⟩ := by
  simp [syncWait, hget, hlimit, htake, hcan]

end

theorem syncWait_reaches (hreach : x.f 0 1 = 1) (hval : x.f 8 8 ≤ y.val) : syncWait.body x w = w.ok x (toLe 8 y.val) := by
  simp [syncWait, hget, hlimit, hreach, hval]

end

/-- A SYNC_WAIT with a limit goes PENDING, and its wait registers on the object. -/
theorem syncWait_pends (hlimit : 0 < x.f 4 4) : syncWait.body x w =
    (w.pend x (.syncWait x.idx (x.f 8 8) (x.f 0 1 = 1) (x.f 4 4))).syncOp x.idx
      (if x.f 0 1 = 1 then .reach (.cmd x.ch x.hdr.seq.toNat) (x.f 8 8) else .take (.cmd x.ch x.hdr.seq.toNat) (x.f 8 8)) := by
  simp only [syncWait, hget, Nat.ne_of_gt hlimit, if_false]

end

/-- Settles O18: SYNC_SIGNAL and SCHED_CONFIG have the effect that their rows name; the others are their lemmas above. -/
theorem syncCommandsAct : Obligations.SyncCommandsAct := by
  unfold Obligations.SyncCommandsAct
  refine ⟨?create, ?signal, ?takes, ?takeOut, ?reaches, ?pends, ?config⟩
  case create =>
    intro s ch k p c h hrun
    exact ⟨_, run_admitted h, fun j hj =>
      syncCreate_body (x := ctxOf syncCreate ch p) (w := s.taken ch p c.psn) (by rw [taken_syncRun]; exact hrun) hj⟩
  case signal => exact fun s ch p c h => runT_admitted h
  case takes =>
    intro s ch p c y h hget hlimit htake hcan
    refine (runT_admitted h).trans ?_
    rw [syncWait_takes (x := ctxOf syncWait ch p) (by rw [taken_syncs]; exact hget) hlimit htake hcan]
    rfl
  case takeOut =>
    intro s ch p c y h hget hlimit htake hcan
    refine (runT_admitted h).trans ?_
    rw [syncWait_take_times_out (x := ctxOf syncWait ch p) (by rw [taken_syncs]; exact hget) hlimit htake hcan]
    rfl
  case reaches =>
    intro s ch p c y h hget hlimit hreach hval
    refine (runT_admitted h).trans ?_
    rw [syncWait_reaches (x := ctxOf syncWait ch p) (by rw [taken_syncs]; exact hget) hlimit hreach hval]
    rfl
  case pends =>
    intro s ch p c y h hget hlimit
    refine (runT_admitted h).trans ?_
    rw [syncWait_pends (x := ctxOf syncWait ch p) (by rw [taken_syncs]; exact hget) hlimit]
    rfl
  case config =>
    intro s ch p c h
    refine (run_admitted h).trans ?_
    rw [← taken_clk s ch p c.psn]
    rfl

end Sys2Proof.Machine
end

section
/-! PROOFS. What ends a command that waits (R295, R503, R524, R632, R636 to R643, R645, R661): the events of limits, swatches, blocks,
reloads and relays. -/

namespace Sys2Proof.Machine

variable {s : State} {p : PendCmd}

/-! ### Limits (R295, R503, R524) -/

theorem exec_syncWaitLimitExpiry {ch a b limit : Nat} {seq : Word} {reach : Bool}
    (hfind : (s.dev.cmds.find? fun p => p.ch = ch && p.hdr.seq = seq) = some p) (hwait : p.wait = .syncWait a b reach limit)
    (hdue : p.begun + 1000 * limit ≤ s.dev.clk.mono) :
    exec (.syncWaitLimitExpiry ch seq) s =
      .next (s.after ((s.work.unwait (.cmd ch seq.toNat)).complete p 0x0C ((s.dev.clk.mono - p.begun) / 1000) [])) := by
  change execSyncWaitLimitExpiry ch seq s = _
  simp only [execSyncWaitLimitExpiry, runT_next, State.work_dev, hfind, hwait, hdue, if_true]

theorem exec_linkConfigTimeout (s : State) : exec .linkConfigTimeout s = .next (s.commit (s.work.completeLinks fun p =>
    p.wait = .linkConfig && s.dev.ranFor p 10000000000)) := rfl

theorem exec_remapAssumeTimeout (hfind : (s.dev.cmds.find? fun p => p.wait = .remap && s.dev.ranFor p 20000000000) = some p) :
    exec .remapAssumeTimeout s = .next (s.commit (s.work.complete p 0x0C ((s.dev.clk.mono - p.begun) / 1000) [])) := by
  change execRemapAssumeTimeout s = _
  simp only [execRemapAssumeTimeout, run_next, State.work_dev, hfind]

/-! ### Swatches (R661) -/

/-- The swatch in hand passes: its result is recorded, and the next begins. -/
theorem exec_swatchDone_passed {block : Nat} {rest : List Nat} (hleft : s.dev.svc.swatchLeft = block :: rest)
    (hskips : s.dev.swatchSkips block [] = false) (hconsole : s.dev.svc.swatchConsole = false) :
    exec (.swatchDone block true []) s = .next (s.after ((s.work.onSvc fun v =>
      { v with
        swatchLeft := rest, swatchFrom := s.dev.clk.mono
        swatch := Tab.put v.swatch block (0, 0, 0, ((s.dev.clk.mono - s.dev.svc.swatchFrom) / 1000000) % 2 ^ 32) }).endSwatches)) := by
  change execSwatchDone block true [] s = _
  simp [execSwatchDone, runT_next, hleft, hskips, hconsole]

/-! ### Firmware (R632, R640 to R643, R645) -/

theorem exec_fwBlockProgrammed {upd block : Nat} {data : List Byte} (hup : s.dev.hub.st ≠ .off)
    (hfind : s.dev.cmds.find? (PendCmd.programs upd block) = some p) (hwait : p.wait = .fwCommit upd block data) :
    exec (.fwBlockProgrammed upd block true) s = .next (s.commit ((s.work.holdBlock upd block data).complete p 0 0 [])) := by
  change execFwBlockProgrammed upd block true s = _
  simp [execFwBlockProgrammed, run_next, hfind, hwait, Dev.hubUp, hup]

theorem exec_updatePauseTimeout (hst : s.dev.hub.st = .updatePause) :
    exec .updatePauseTimeout s = .next (s.after (s.work.fallBackTxn 4).warmReset) := by
  change execUpdatePauseTimeout s = _
  simp only [execUpdatePauseTimeout, runT_next, State.work_dev, hst, if_true]

theorem exec_confirmDeadline_passed (hup : s.dev.hub.st ≠ .off) (hunconfirmed : s.dev.fw.confirmed = false)
    (hdue : s.dev.fw.actUptime + s.dev.fw.deadline ≤ s.dev.store.frame.uptimeS) :
    exec .confirmDeadline s = .next (s.after (s.work.fallBackTxn 1).warmReset) := by
  change execConfirmDeadline s = _
  simp [execConfirmDeadline, runT_next, Dev.hubUp, hup, hunconfirmed, hdue]

theorem exec_confirmDeadline_confirmed (hconfirmed : s.dev.fw.confirmed = true) : exec .confirmDeadline s = .next (s.after s.work) := by
  change execConfirmDeadline s = _
  simp [execConfirmDeadline, runT_next, hconfirmed]

theorem exec_updateReloadComplete {slot t : Nat} (hpause : s.dev.fw.pause = some (slot, t)) (hst : s.dev.hub.st = .updatePause)
    (hintime : s.dev.clk.mono < t + 6000000000) :
    exec .updateReloadComplete s =
      .next (s.after (((s.work.runImage slot).completeAll PendCmd.activates 0 0 []).releaseHeld.endHold.settleFault.strapIn)) := by
  change execUpdateReloadComplete s = _
  simp [execUpdateReloadComplete, runT_next, hpause, hst, Nat.not_le.mpr hintime]

/-! ### Relays (R636, R638) -/

/-- A relay record of the kind that its row names is taken, as one message. -/
theorem run_relayRec {m : List Byte} {kind : Nat} (link : Nat) (s : State) (h : isRec m kind = true) :
    run s (fun w => w.onMessage link m fun w => if isRec m kind then w.takeRec link m else w) =
      .next (s.commit (s.work.onMessage link m fun w => w.takeRec link m)) := by
  simp only [run_next, h, if_true]

theorem exec_relayData {m : List Byte} (link : Nat) (s : State) (h : msgType m = 0x11) :
    exec (.relayData link m) s = .next (s.commit (s.work.onMessage link m fun w => w.takeData link m)) := by
  change execRelayData link m s = _
  simp only [execRelayData, run_next, h, if_true]

/-- Settles O31: each clause is its event's lemma above; the rows of relay records run one effect, each for its own kind. -/
theorem waitsEnd : Obligations.WaitsEnd := by
  unfold Obligations.WaitsEnd
  refine ⟨?limit, ?links, ?remap, ?swatch, ?block, ?pause, ?deadline, ?confirmed, ?reload, fun link m s =>
    ⟨run_relayRec link s, run_relayRec link s, run_relayRec link s, run_relayRec link s, exec_relayData link s⟩⟩
  case limit => exact fun ch seq p a b limit reach s hfind hwait hdue => exec_syncWaitLimitExpiry hfind hwait hdue
  case links => exact exec_linkConfigTimeout
  case remap => exact fun p s hfind => exec_remapAssumeTimeout hfind
  case swatch => exact fun block rest s hleft hskips hconsole => exec_swatchDone_passed hleft hskips hconsole
  case block => exact fun upd block data p s hup hfind hwait => exec_fwBlockProgrammed hup hfind hwait
  case pause => exact fun s hst => exec_updatePauseTimeout hst
  case deadline => exact fun s hup hunconfirmed hdue => exec_confirmDeadline_passed hup hunconfirmed hdue
  case confirmed => exact fun s hconfirmed => exec_confirmDeadline_confirmed hconfirmed
  case reload => exact fun slot t s hpause hst hintime => exec_updateReloadComplete hpause hst hintime

end Sys2Proof.Machine
end

section
/-! PROOFS. The engines' work: every operation of Table 9.2 takes the head entry that names it (R302, R304, R307, R377, R382), and what
follows of an item, of a shift and of a row step (R305 to R307, R310, R381, R429, R433). -/

namespace Sys2Proof.Machine

variable {s : State} {die cls eng arr op key : Nat}

/-! ### Taking an item (R302, R304) -/

/-- Where the chosen queue's head names the operation, its item is taken and worked on. -/
theorem takeOp_chosen {keys : List Nat} {b : List Byte} (h : Chosen s keys op key b) (eng : Nat) (work : Nat → Eng Unit) :
    s.after (s.work.takeOp keys eng op work) = s.worked keys key eng b work := by
  obtain ⟨hqueue, hhead, hop⟩ := h
  unfold State.heads at hqueue hhead
  simp only [W.takeOp, State.worked, State.heads, State.work_dev, hqueue, hhead, hop, if_true]

/-! ### Engines of classes PARSE, CMP, JOIN, SORT and EMB (R304, R307) -/

theorem engineOp_free (h : EngineFree s die cls eng) (op : Nat) (work : Nat → Eng Unit) :
    s.work.engineOp die cls eng op work = s.work.takeOp (engKeys die cls eng) eng op work := by
  obtain ⟨hdie, hserved, hruns, hidle, hmay⟩ := h
  simp only [W.engineOp, State.work_dev, hdie, hserved, hruns, hidle, hmay, decide_true, Bool.not_false, Bool.and_self, if_true]

theorem engineOp_busy (h : s.dev.engBusy die cls eng = true) (op : Nat) (work : Nat → Eng Unit) :
    s.work.engineOp die cls eng op work = s.work := by
  simp only [W.engineOp, State.work_dev, h, Bool.not_true, Bool.and_false, Bool.false_and, Bool.false_eq_true, if_false]

/-- A row that is an engine operation runs it, with the work that its class and opcode name. -/
theorem exec_engineOf {i : Instr} (h : engineOf i = some (cls, die, eng, op)) :
    ∃ work, engWork cls op = some work ∧ ∀ s, exec i s = runT s fun w => w.engineOp die cls eng op work := by
  cases i with
  | delim | jsonl | colpage | gzipDec | gzipEnc | zlibDec | zlibEnc | zstdDec | zstdEnc | rawDec | rawEnc | clear | build | probe | agg
  | scan | partition | hllEst | sortRun | merge | gather | embUpdate | snapshot | restore | rowInit =>
    cases h; exact ⟨_, rfl, fun _ => rfl⟩
  | _ => cases h

/-! ### Arrays of class OMA (R377, R382) -/

/-- An array that runs no item and has none waiting takes from every queue of its own; a LOAD only when every item has completed. -/
theorem omaOp_idle (h : EngineFree s die 3 arr) (hload : s.dev.loadParked die arr = false) {alone : Bool}
    (halone : alone = true → ∀ x ∈ s.dev.engItems die 3 arr, x.2.st = 2) (op : Nat) (side : Bool) (work : Nat → Eng Unit) :
    s.work.omaOp die arr op side alone work = s.work.takeOp (engKeys die 3 arr) arr op work := by
  obtain ⟨hdie, harr, hruns, hidle, hmay⟩ := h
  replace harr : arr < 2 := harr
  have hbusy : (s.dev.engItems die 3 arr).filter (fun x => x.2.st = 1 || x.2.st = 5) = [] := by
    simp only [Dev.engBusy, List.any_eq_false] at hidle
    rw [List.filter_eq_nil_iff]
    intro x hx
    obtain ⟨⟨hrunning, -⟩, hwaiting⟩ : (x.2.st ≠ 1 ∧ x.2.st ≠ 4) ∧ x.2.st ≠ 5 := by simpa using hidle x hx
    simp [hrunning, hwaiting]
  have hdone : (!alone || (s.dev.engItems die 3 arr).all fun x => x.2.st = 2) = true := by
    cases alone
    · rfl
    · simpa using halone rfl
  simp [W.omaOp, hdie, harr, hruns, hmay, hload, hbusy, hdone]

/-- Beside an UPDATE that waits on a shift, LOOKUP, RANGE and DUMP take from the array's other queues (R382). -/
theorem omaOp_beside_waiting {k : Nat} {x : Item} (hdie : die < 4) (harr : arr < 2) (hruns : s.dev.dieRuns die = true)
    (hmay : s.dev.mayTake die 3 arr = true) (hload : s.dev.loadParked die arr = false)
    (hbusy : ((s.dev.engItems die 3 arr).filter fun x => x.2.st = 1 || x.2.st = 5) = [(k, x)]) (hwaits : x.st = 5)
    (op : Nat) (work : Nat → Eng Unit) :
    s.work.omaOp die arr op true false work = s.work.takeOp ((engKeys die 3 arr).filter fun q => q != k) arr op work := by
  have hwaiting : ([(k, x)].filter fun y => y.2.st = 5).map Prod.fst = [k] := by simp [hwaits]
  have hothers : ((engKeys die 3 arr).filter fun q => !([k].contains q)) = (engKeys die 3 arr).filter fun q => q != k :=
    List.filter_congr fun q _ => by simp only [List.contains_cons, List.contains_nil, Bool.or_false, bne]
  simp only [W.omaOp, State.work_dev, hdie, harr, hruns, hmay, hload, hbusy, hwaiting, hothers, List.length_singleton, decide_true,
    Bool.and_self, Bool.not_false, Bool.true_or, Bool.or_true, if_true]

/-- A row that is an operation of an array runs it: LOAD alone, LOOKUP, RANGE and DUMP also beside an UPDATE that waits. -/
theorem exec_arrayOf {i : Instr} (h : arrayOf i = some (die, arr, op)) :
    ∃ work, engWork 3 op = some work ∧
      ∀ s, exec i s = runT s fun w => w.omaOp die arr op (decide (0x32 ≤ op)) (decide (op = 0x30)) work := by
  cases i with
  | omaLoad | omaUpdate | lookup | range | dump => cases h; exact ⟨_, rfl, fun _ => rfl⟩
  | _ => cases h

/-! ### What follows of items (R305 to R307, R310, R381) -/

theorem exec_parkedItemResume {cls : EngClass} {it : Item} (hdie : die < 4) (hruns : s.dev.dieRuns die = true)
    (hfind : ((List.range (engines (classCode cls))).findSome? fun e =>
      if s.dev.engBusy die (classCode cls) e then none else s.dev.resumable die (classCode cls) e) = some (key, it)) :
    exec (.parkedItemResume die cls) s = .next (s.after (s.work.resumeItem key it)) := by
  change execParkedItemResume die cls s = _
  have hserves : (decide (die < 4) && s.work.dev.dieRuns die) = true := by simp [hdie, hruns]
  simp only [execParkedItemResume, runT_next, hserves, if_true]
  split
  next h => cases hfind.symm.trans h; rfl
  next h => cases hfind.symm.trans h

theorem exec_workItemComplete {queue : Nat} {cls : EngClass} {it : Item} (hdie : die < 4) (hqueue : queue < 8)
    (hruns : s.dev.dieRuns die = true)
    (hfind : ((s.dev.queue (queueKey die (classCode cls) queue)).items.find? fun i => i.st = 1) = some it) :
    exec (.workItemComplete die cls queue) s =
      .next (s.after (s.work.completeItem (queueKey die (classCode cls) queue) it)) := by
  change execWorkItemComplete die cls queue s = _
  simp only [execWorkItemComplete, runT_next, State.work_dev, hdie, hqueue, hruns, hfind, decide_true, Bool.and_self, if_true]

theorem exec_omaShiftEnd {it : Item} (hdie : die < 4) (harr : arr < 2) (hruns : s.dev.dieRuns die = true)
    (hshift : (s.dev.oma die arr).shift = true)
    (hfind : ((s.work.onOma die arr fun a => { a with shift := false }).dev.engItems die 3 arr).find? (fun x => x.2.st = 5) =
      some (key, it)) :
    exec (.omaShiftEnd die arr) s = .next (s.after
      ((s.work.onOma die arr fun a => { a with shift := false }).runItem key it (omaUpdateWork key))) := by
  change execOmaShiftEnd die arr s = _
  simp only [execOmaShiftEnd, runT_next, State.work_dev, hdie, harr, hruns, hshift, hfind, decide_true, Bool.and_self, if_true]

/-! ### Row steps (R429, R433) -/

theorem exec_rowUpdateStep {stack : Nat} {x : RowStep} (hstack : stack < 24) (hruns : s.dev.dieRuns (dieOfStack stack) = true)
    (hfind : (Tab.getD s.dev.ruus stack {}).steps.find?
      (s.work.fetchSteps (Tab.getD s.dev.ruus stack {}).steps).dev.stepReady = some x) :
    exec (.rowUpdateStep stack) s = .next (s.after
      ((s.work.fetchSteps (Tab.getD s.dev.ruus stack {}).steps).rowStep stack x)) := by
  change execRowUpdateStep stack s = _
  simp only [execRowUpdateStep, runT_next, State.work_dev, hstack, hruns, hfind, decide_true, Bool.and_self, if_true]

/-! ### The statements of chapters 9 to 13 -/

/-- Settles O32: a row runs its class's operation, which takes from the queues that its engine or array may take from. -/
theorem engineOperationsRun : Obligations.EngineOperationsRun := by
  unfold Obligations.EngineOperationsRun
  refine ⟨?free, ?busy, ?array, ?beside⟩
  case free =>
    intro i cls die eng op key b work s hi hwork hfree hchosen
    obtain ⟨work', hwork', hexec⟩ := exec_engineOf hi
    cases hwork.symm.trans hwork'
    rw [hexec, runT_next, engineOp_free hfree, takeOp_chosen hchosen]
  case busy =>
    intro i cls die eng op s hi hbusy
    obtain ⟨work, -, hexec⟩ := exec_engineOf hi
    rw [hexec, runT_next, engineOp_busy hbusy]
  case array =>
    intro i die arr op key b work s hi hwork hfree hload hcompleted hchosen
    obtain ⟨work', hwork', hexec⟩ := exec_arrayOf hi
    cases hwork.symm.trans hwork'
    rw [hexec, runT_next, omaOp_idle hfree hload fun hop => hcompleted (of_decide_eq_true hop), takeOp_chosen hchosen]
  case beside =>
    intro i die arr op key k x b work s hi hop hwork hdie harr hruns hmay hload hbusy hwaits hchosen
    obtain ⟨work', hwork', hexec⟩ := exec_arrayOf hi
    cases hwork.symm.trans hwork'
    rw [hexec, runT_next, decide_eq_true hop, decide_eq_false (by omega : op ≠ 0x30),
      omaOp_beside_waiting hdie harr hruns hmay hload hbusy hwaits, takeOp_chosen hchosen]

/-- Settles O33: each clause is its event's lemma above. -/
theorem workItemsGoOn : Obligations.WorkItemsGoOn := by
  unfold Obligations.WorkItemsGoOn
  refine ⟨?resume, ?complete, ?shift, ?row⟩
  case resume => exact fun die key cls it s hdie hruns hfind => exec_parkedItemResume hdie hruns hfind
  case complete => exact fun die queue cls it s hdie hqueue hruns hfind => exec_workItemComplete hdie hqueue hruns hfind
  case shift => exact fun die arr key it s hdie harr hruns hshift hfind => exec_omaShiftEnd hdie harr hruns hshift hfind
  case row => exact fun stack x s hstack hruns hfind => exec_rowUpdateStep hstack hruns hfind

end Sys2Proof.Machine
end

section
/-! PROOFS. The hash instructions and CROSS (R341, R342): the bytes that each value gives, the register that the results fill, and the
instructions of a core that issue with them. -/

namespace Sys2Proof.Machine

section
variable {s : State} {core : Nat} {x w : W}

/-! ### What an instruction that sets one vector register leaves -/

/-- A working copy in which a core's vector register is set, with its poison, and nothing else. -/
def SetsVreg (core dst : Nat) (bs : List Byte) (x w : W) : Prop := ∃ p : Core → Nat, w = x.onCore core fun c => c.setV dst bs (p c)

section
variable {dst : Nat} {bs : List Byte} (h : SetsVreg core dst bs x w)
include h

theorem SetsVreg.wr : w.wr = x.wr := by
  obtain ⟨p, rfl⟩ := h
  rfl

theorem SetsVreg.out : w.out = x.out := by
  obtain ⟨p, rfl⟩ := h
  rfl

theorem SetsVreg.vreg : (w.dev.core core).vreg dst = bs := by
  obtain ⟨p, rfl⟩ := h
  rw [onCore_core, setV_vreg]

theorem SetsVreg.vreg_of_ne {k : Nat} (hk : k ≠ dst) : (w.dev.core core).vreg k = (x.dev.core core).vreg k := by
  obtain ⟨p, rfl⟩ := h
  rw [onCore_core, setV_vreg_of_ne _ _ _ _ hk]

theorem SetsVreg.sregs : (w.dev.core core).sregs = (x.dev.core core).sregs := by
  obtain ⟨p, rfl⟩ := h
  rw [onCore_core, setV_sregs]

end

/-! ### The bytes of a value (R167, R340) -/

/-- Each of the 128 strings of a source that lies in an open store is read: its two offsets, then its bytes where these lie in the area. -/
theorem coreStr_yields {st : StrSrc} {k : Nat} (hopen : x.dev.StoreOpen core) (hfits : StrFits st) (hk : k < 128) :
    Yields (x.coreStr core st k) fun _ => True := by
  obtain ⟨hoffs, harea⟩ := hfits
  refine (coreRd_of_open hopen (by omega)).bind fun os _ => ?_
  dsimp only
  split
  · exact .pure trivial
  · next hrange =>
    simp only [Bool.or_eq_true, decide_eq_true_eq, not_or, not_le, not_lt] at hrange
    exact (coreRd_of_open hopen (by omega)).bind fun _ _ => .pure trivial

section
variable {i : HashIns} {k : Nat}

/-- A value of a register is there; a string is where its source lies in an open store. -/
theorem hashInput_yields (hstr : ∀ st ∈ i.str, x.dev.StoreOpen core ∧ StrFits st) (hk : k < 128) :
    Yields (x.hashInput core i k) fun _ => True := by
  unfold W.hashInput
  dsimp only
  split
  · next st hst =>
    obtain ⟨hopen, hfits⟩ := hstr st hst
    exact coreStr_yields hopen hfits hk
  · split
    · exact .pure trivial
    · exact .pure trivial

/-- The values of a register of 8-byte values are its pieces of 8 bytes. -/
theorem hashInput_wide (hstr : i.str = none) (hwide : i.wide = true) (k : Nat) : x.hashInput core i k =
    .ok (slice ((x.dev.core core).vreg i.src) (8 * k) 8, bits ((x.dev.core core).vpois i.src) (2 * k) 2 != 0) := by
  simp only [W.hashInput, hstr, hwide, if_true]

/-- A hash's 128 values lie in the 256 lanes of its mask. -/
theorem hashLane_lt (hpart : i.part < 2) (hk : k < 128) : hashLane i k < 256 := by
  unfold hashLane
  split
  · omega
  · split <;> omega

/-! ### The hash instructions (R341) -/

/-- The element of the destination at which a hash's results of rb bytes begin. -/
def hashBase (rb : Nat) (i : HashIns) : Nat := if rb = 8 then 0 else 128 * i.dstPart

/-- Result k of a hash of the values `g`, whether it is poisoned and whether the mask takes its lane in: where it does not, the
destination's own element stays. -/
def hashResult (c : Core) (rb : Nat) (f : Nat → List Byte → Nat) (i : HashIns) (g : Nat → List Byte × Bool) (k : Nat) : Nat × Bool × Bool :=
  if bit (c.lanes i.mask) (hashLane i k) then (f (c.sreg i.seed) (g k).1, (g k).2, true)
  else ((elemsOf rb (c.vreg i.dst)).getD (hashBase rb i + k) 0, false, false)

/-- A destination whose elements from the first place of the results on are 128 results, its other elements as they were. -/
def hashFilled (c : Core) (rb : Nat) (i : HashIns) (rs : List Nat) : List Byte :=
  ((elemsOf rb (c.vreg i.dst)).take (hashBase rb i) ++ rs ++ (elemsOf rb (c.vreg i.dst)).drop (hashBase rb i + 128)).flatMap (toLe rb)

theorem hashResult_unmasked (c : Core) (rb : Nat) (f : Nat → List Byte → Nat) (g : Nat → List Byte × Bool) (hmask : i.mask = none)
    (hpart : i.part < 2) (hk : k < 128) : (hashResult c rb f i g k).1 = f (c.sreg i.seed) (g k).1 := by
  have hon : bit (c.lanes i.mask) (hashLane i k) = true := by rw [hmask]; exact bit_allLanes (hashLane_lt hpart hk)
  rw [hashResult, if_pos hon]

/-- Results of 8 bytes fill the whole of a register of 1,024. -/
theorem hashFilled_eight {c : Core} (rs : List Nat) (hlen : (c.vreg i.dst).length = 1024) : hashFilled c 8 i rs = rs.flatMap (toLe 8) := by
  have hdrop : (elemsOf 8 (c.vreg i.dst)).drop 128 = [] :=
    List.drop_eq_nil_of_le (by rw [elemsOf, takeElems_length, hlen])
  simp only [hashFilled, hashBase, if_true, List.take_zero, List.nil_append, Nat.zero_add, hdrop, List.append_nil]

/-- A hash instruction whose registers exist and whose values are read sets its destination to the results. -/
theorem hashIns_yields (rb : Nat) (f : Nat → List Byte → Nat) {g : Nat → List Byte × Bool} (hregs : regsOk [i.dst] i.mask = true)
    (hsrc : i.src < 32) (hseed : i.seed < 32) (hpart : i.part < 2) (hdstPart : i.dstPart < 2)
    (hin : ∀ k < 128, x.hashInput core i k = .ok (g k)) :
    Yields (hashIns core rb f i x) (SetsVreg core i.dst (hashFilled (x.dev.core core) rb i
      ((List.range 128).map fun k => (hashResult (x.dev.core core) rb f i g k).1)) x) := by
  simp only [hashIns, hregs, hsrc, hseed, hpart, hdstPart, decide_true, Bool.or_true, Bool.and_self, need_true, ok_bind]
  rw [mapM_ok (g := hashResult (x.dev.core core) rb f i g) fun k hk => ?values, ok_bind]
  case values =>
    rw [hashResult, hin k (List.mem_range.mp hk)]
    split
    · rfl
    · rfl
  rw [List.map_map]
  exact .pure ⟨_, rfl⟩

/-- An instruction that hashes by a function, with results of rb bytes. -/
def HashesBy (ins : Instr) (core rb : Nat) (f : Nat → List Byte → Nat) (i : HashIns) : Prop :=
  ∀ s, exec ins s = runT s fun w => w.coreIns core 1 i.ecc (hashIns core rb f i)

theorem hashesBy_svh64 (core : Nat) (i : HashIns) : HashesBy (.svh64 core i) core 8 svh64 i := fun _ => rfl

theorem hashesBy_xxh64 (core : Nat) (i : HashIns) : HashesBy (.xxh64 core i) core 8 xxh64 i := fun _ => rfl

theorem hashesBy_crc32c (core : Nat) (i : HashIns) : HashesBy (.crc32c core i) core 4 (fun _ bs => crc32c bs) i := fun _ => rfl

section
variable {ins : Instr} {rb : Nat} {f : Nat → List Byte → Nat} (hins : HashesBy ins core rb f i) (h : Issues s core i.ecc)
include hins h

/-- Unmasked values of 8 bytes in a register: each result is the hash of its value's bytes. -/
theorem exec_hash_wide (hstr : i.str = none) (hwide : i.wide = true) (hmask : i.mask = none) (hdst : i.dst < 32) (hsrc : i.src < 32)
    (hseed : i.seed < 32) (hpart : i.part < 2) (hdstPart : i.dstPart < 2) :
    ∃ w, exec ins s = .next (s.issued core 1 w) ∧ SetsVreg core i.dst (hashFilled ((s.fetched i.ecc).dev.core core) rb i
      ((List.range 128).map fun k => f (((s.fetched i.ecc).dev.core core).sreg i.seed)
        (slice (((s.fetched i.ecc).dev.core core).vreg i.src) (8 * k) 8))) (s.fetched i.ecc) w := by
  have hregs : regsOk [i.dst] i.mask = true := regsOk_iff.mpr ⟨by simpa using hdst, by simp [hmask]⟩
  obtain ⟨w, hrun, hw⟩ := hashIns_yields rb f hregs hsrc hseed hpart hdstPart fun k _ =>
    hashInput_wide (x := s.fetched i.ecc) (core := core) hstr hwide k
  rw [List.map_congr_left fun k hk => hashResult_unmasked _ rb f _ hmask hpart (List.mem_range.mp hk)] at hw
  exact ⟨w, (hins s).trans (coreIns_ok h hrun), hw⟩

/-- On every form a hash changes its destination register alone. -/
theorem exec_hash_setsVreg (hregs : regsOk [i.dst] i.mask = true) (hsrc : i.src < 32) (hseed : i.seed < 32) (hpart : i.part < 2)
    (hdstPart : i.dstPart < 2) (hstr : ∀ st ∈ i.str, (s.fetched i.ecc).dev.StoreOpen core ∧ StrFits st) :
    ∃ w bs, exec ins s = .next (s.issued core 1 w) ∧ SetsVreg core i.dst bs (s.fetched i.ecc) w := by
  choose! g hg using fun k (hk : k < 128) => hashInput_yields (i := i) hstr hk
  obtain ⟨w, hrun, hw⟩ := hashIns_yields rb f hregs hsrc hseed hpart hdstPart fun k hk => (hg k hk).1
  exact ⟨w, _, (hins s).trans (coreIns_ok h hrun), hw⟩

end

end

/-! ### CROSS (R342) -/

section
variable {i : CrossIns} {p : CrossPart} {k : Nat}

/-- The encoding of component p of cross k from a register: a 1 and the 8 bytes of its value, or zeros where it is absent. -/
def crossEncoding (c : Core) (p : CrossPart) (k : Nat) : List Byte :=
  if (p.valid.map fun m => bit (c.mreg m) k).getD true then
    toLe 1 1 ++ toLe 8 (crossValue p.ty (fld (c.vreg p.reg) (elemBytes p.ty * (128 * p.part + k)) (elemBytes p.ty)))
  else zeros 9

/-- A component is encoded; one from a register as above. -/
theorem crossPart_yields (hstr : ∀ st ∈ p.str, x.dev.StoreOpen core ∧ StrFits st) (hk : k < 128) :
    Yields (x.crossPart core p k) fun e => p.str = none → e.1 = crossEncoding (x.dev.core core) p k := by
  unfold W.crossPart crossEncoding
  dsimp only
  cases (p.valid.map fun m => bit ((x.dev.core core).mreg m) k).getD true with
  | false => exact .pure fun _ => rfl
  | true =>
    simp only [Bool.not_true, Bool.false_eq_true, if_false, if_true]
    split
    · next st hst =>
      obtain ⟨hopen, hfits⟩ := hstr st hst
      exact (coreStr_yields hopen hfits hk).bind fun _ _ => .pure fun hnone => absurd (hst.symm.trans hnone) (by simp)
    · exact .pure fun _ => rfl

/-- A cross whose registers exist and whose components are encoded sets its destination to the hashes of their encodings. -/
theorem crossIns_yields {g : Nat → CrossPart → List Byte × Bool} (hmin : 2 ≤ i.parts.length) (hmax : i.parts.length ≤ 8)
    (hdst : i.dst < 32) (hseed : i.seed < 32) (hparts : ∀ p ∈ i.parts, crossType p = true ∧ ∀ m ∈ p.valid, m < 8)
    (hin : ∀ k < 128, ∀ p ∈ i.parts, x.crossPart core p k = .ok (g k p)) :
    Yields (crossIns core i x) (SetsVreg core i.dst ((List.range 128).flatMap fun k => toLe 8
      (svh64 ((x.dev.core core).sreg i.seed) (i.parts.flatMap fun p => (g k p).1))) x) := by
  have hall : (i.parts.all fun p => crossType p && (p.valid.map fun m => decide (m < 8)).getD true) = true := by
    refine List.all_eq_true.mpr fun p hp => ?_
    obtain ⟨htype, hvalid⟩ := hparts p hp
    rw [htype, Bool.true_and]
    cases hm : p.valid with
    | none => rfl
    | some m => exact decide_eq_true (hvalid m hm)
  simp only [crossIns, hmin, hmax, hdst, hseed, hall, decide_true, Bool.and_self, need_true, ok_bind]
  rw [mapM_ok (g := fun k => (svh64 ((x.dev.core core).sreg i.seed) (i.parts.flatMap fun p => (g k p).1), i.parts.any fun p => (g k p).2))
    fun k hk => ?crosses, ok_bind, List.flatMap_map]
  case crosses =>
    rw [mapM_ok (hin k (List.mem_range.mp hk)), ok_bind, List.flatMap_map, List.any_map]
    rfl
  exact .pure ⟨_, rfl⟩

/-- A cross of components that can be read changes its destination register alone; where all are in registers, to the hashes of their
encodings. -/
theorem exec_cross (h : Issues s core i.ecc) (hmin : 2 ≤ i.parts.length) (hmax : i.parts.length ≤ 8) (hdst : i.dst < 32)
    (hseed : i.seed < 32) (hparts : ∀ p ∈ i.parts, crossType p = true ∧ ∀ m ∈ p.valid, m < 8)
    (hstr : ∀ p ∈ i.parts, ∀ st ∈ p.str, (s.fetched i.ecc).dev.StoreOpen core ∧ StrFits st) :
    ∃ w bs, exec (.cross core i) s = .next (s.issued core 1 w) ∧ SetsVreg core i.dst bs (s.fetched i.ecc) w ∧
      ((∀ p ∈ i.parts, p.str = none) → bs = (List.range 128).flatMap fun k => toLe 8
        (svh64 (((s.fetched i.ecc).dev.core core).sreg i.seed)
          (i.parts.flatMap fun p => crossEncoding ((s.fetched i.ecc).dev.core core) p k))) := by
  choose! g hg using fun k (hk : k < 128) p (hp : p ∈ i.parts) => crossPart_yields (hstr p hp) hk
  obtain ⟨w, hrun, hw⟩ := crossIns_yields hmin hmax hdst hseed hparts fun k hk p hp => (hg k hk p hp).1
  refine ⟨w, _, coreIns_ok h hrun, hw, fun hnone => List.flatMap_congr fun k hk => ?_⟩
  rw [List.flatMap_congr fun p hp => (hg k (List.mem_range.mp hk) p hp).2 (hnone p hp)]

end

end

/-- Settles O5: each clause reads its instruction's lemma above, the result or the frame of the register that it sets. -/
theorem hashInstructionsComplete : Obligations.HashInstructionsComplete := by
  unfold Obligations.HashInstructionsComplete
  refine ⟨?eight, ?crc, ?frame, ?crossFrame, ?cross⟩
  case eight =>
    intro s core rb f i ins hissues hins hstr hwide hmask hdst hsrc hseed hpart hdstPart hlen
    obtain ⟨hby, rfl⟩ : HashesBy ins core 8 f i ∧ rb = 8 := by
      rcases hins with ⟨rfl, hrb, rfl⟩ | ⟨rfl, hrb, rfl⟩
      · exact ⟨hashesBy_svh64 core i, hrb⟩
      · exact ⟨hashesBy_xxh64 core i, hrb⟩
    obtain ⟨w, hexec, hw⟩ := exec_hash_wide hby hissues hstr hwide hmask hdst hsrc hseed hpart hdstPart
    rw [hashFilled_eight _ hlen, List.flatMap_map] at hw
    exact ⟨w, hexec, hw.wr, hw.out, hw.vreg⟩
  case crc =>
    intro s core i hissues hstr hwide hmask hdst hsrc hseed hpart hdstPart
    obtain ⟨w, hexec, hw⟩ := exec_hash_wide (hashesBy_crc32c core i) hissues hstr hwide hmask hdst hsrc hseed hpart hdstPart
    exact ⟨w, hexec, hw.wr, hw.out, hw.vreg⟩
  case frame =>
    intro s core i ins hissues hins hregs hsrc hseed hpart hdstPart hstr
    obtain ⟨rb, f, hby⟩ : ∃ rb f, HashesBy ins core rb f i := by
      rcases hins with rfl | rfl | rfl
      · exact ⟨_, _, hashesBy_svh64 core i⟩
      · exact ⟨_, _, hashesBy_xxh64 core i⟩
      · exact ⟨_, _, hashesBy_crc32c core i⟩
    obtain ⟨w, bs, hexec, hw⟩ := exec_hash_setsVreg hby hissues hregs hsrc hseed hpart hdstPart hstr
    exact ⟨w, hexec, hw.wr, hw.out, hw.sregs, fun _ => hw.vreg_of_ne⟩
  case crossFrame =>
    intro s core i hissues hmin hmax hdst hseed hparts
    have htypes : ∀ p ∈ i.parts, crossType p = true ∧ ∀ m ∈ p.valid, m < 8 := fun p hp =>
      let ⟨htype, hvalid, _⟩ := hparts p hp
      ⟨htype, hvalid⟩
    have hstrings : ∀ p ∈ i.parts, ∀ st ∈ p.str, (s.fetched i.ecc).dev.StoreOpen core ∧ StrFits st := fun p hp =>
      let ⟨_, _, hstr⟩ := hparts p hp
      hstr
    obtain ⟨w, bs, hexec, hw, -⟩ := exec_cross hissues hmin hmax hdst hseed htypes hstrings
    exact ⟨w, hexec, hw.wr, hw.out, fun _ => hw.vreg_of_ne⟩
  case cross =>
    intro s core i hissues hmin hmax hdst hseed hparts
    have hnone : ∀ p ∈ i.parts, p.str = none := fun p hp => (hparts p hp).1
    obtain ⟨w, bs, hexec, hw, hbs⟩ := exec_cross hissues hmin hmax hdst hseed (fun p hp => (hparts p hp).2)
      fun p hp st hst => by simp [hnone p hp] at hst
    exact ⟨w, hexec, hw.wr, hw.out, hw.vreg.trans (hbs hnone)⟩

end Sys2Proof.Machine
end

section
/-! PROOFS. The sort and selection instructions of the vector unit (R397 to R402): the bytes of a list in a register, what a list with
its counts leaves of the working copy, and each instruction where its checks pass. -/

namespace Sys2Proof.Machine

/-! ### Lists and their bytes (R397, R399) -/

/-- An entry takes two lanes. -/
theorem entryBytes_length (l : List Entry) : (entryBytes l).length = 8 * l.length := by
  simp [entryBytes, List.length_flatMap, Nat.mul_comm]

/-- The first K entries and the sentinels that follow them are K in all. -/
theorem topkFill_length (k fill : Nat) (l : List Entry) : (topkFill k fill l).length = k := by
  simp only [topkFill, List.length_append, List.length_take, List.length_replicate]
  omega

theorem topkFill_nil (k fill : Nat) : topkFill k fill [] = List.replicate k ⟨fill % 2 ^ 32, 0xFFFFFFFF, 0, false⟩ := by
  simp [topkFill]

/-! ### What a list with its counts leaves -/

/-- A working copy in which a list stands in the first K places of the destination, COUNT and TIE_EXCLUDED in the pair of scalar
registers; of the rest, memory and the messages are as they were. -/
structure SetsList (core : Nat) (i : TopkIns) (l : List Entry) (n tie : Nat) (x w : W) : Prop where
  wr : w.wr = x.wr
  out : w.out = x.out
  vreg : ((w.dev.core core).vreg i.dst).take (8 * i.k) = entryBytes l
  sregs : (w.dev.core core).sregs = setReg (setReg (x.dev.core core).sregs i.counts n) (i.counts + 1) tie

section
variable {s : State} {core kind : Nat} {i : TopkIns}

/-- A change of a core depends on what it makes of that core alone. -/
theorem onCore_congr {x : W} {f g : Core → Core} (h : f (x.dev.core core) = g (x.dev.core core)) : x.onCore core f = x.onCore core g :=
  congrArg (fun c => { x with dev := { x.dev with cores := Tab.put x.dev.cores core c } }) h

/-- A core with a list put is the core before with its destination set, to the list's K entries and free bytes behind them. -/
theorem putList_core (x : W) (l : List Entry) (reads : List Nat) : ∃ p, (x.putList core i l reads).dev.core core =
    (x.dev.core core).setV i.dst (entryBytes (l.take i.k) ++ (x.freeBytes (8 * (128 - i.k))).1) p :=
  ⟨_, onCore_core ..⟩

theorem putCounts_core (x : W) (n tie : Nat) : (x.putCounts core i n tie).dev.core core =
    { x.dev.core core with sregs := setReg (setReg (x.dev.core core).sregs i.counts n) (i.counts + 1) tie } := by
  simp only [W.putCounts, W.setSreg, onCore_core]

theorem putList_putCounts_setsList (x : W) {l : List Entry} (hlen : l.length = i.k) (reads : List Nat) (n tie : Nat) :
    SetsList core i l n tie x ((x.putList core i l reads).putCounts core i n tie) := by
  obtain ⟨p, hcore⟩ := putList_core (core := core) (i := i) x l reads
  refine ⟨rfl, rfl, ?vreg, ?sregs⟩
  case vreg =>
    have hreg : (((x.putList core i l reads).putCounts core i n tie).dev.core core).vreg i.dst =
        entryBytes l ++ (x.freeBytes (8 * (128 - i.k))).1 := by
      rw [putCounts_core, hcore, List.take_of_length_le hlen.le]
      exact setV_vreg (p := p) ..
    rw [hreg]
    exact List.take_left' (by rw [entryBytes_length, hlen])
  case sregs => rw [putCounts_core, hcore, setV_sregs]

/-! ### The instructions (Table 12.1) -/

/-- VSORT fills its destination with the entries in order. -/
theorem exec_vsort (h : Issues s core []) (hok : topkOk i [i.dst, i.a] = true) (hkind : topkKind i.ty = some kind) :
    exec (.vsort core i) s = .next (s.issued core 1 (s.work.onCore core fun c => c.setV i.dst
      (entryBytes (sortEntries kind 4 i.maxDir (entriesOf c kind i.a i.valid))) (if c.vpois i.a != 0 then allLanes else 0))) := by
  change execVsort core i s = _
  refine coreIns_ok h ?_
  simp only [vsort, hok, need_true, ok_bind, hkind]
  exact congrArg Except.ok (onCore_congr rfl)

/-- TOPK_INIT sets an empty list, K sentinels, with counts 0. -/
theorem exec_topkInit (h : Issues s core []) (hok : topkOk i [i.dst] = true) (hkind : topkKind i.ty = some kind) :
    ∃ w, exec (.topkInit core i) s = .next (s.issued core 1 w) ∧
      SetsList core i (topkFill i.k ((s.dev.core core).sreg i.fill) []) 0 0 s.work w := by
  refine ⟨_, ?_, putList_putCounts_setsList s.work (topkFill_length ..) [] 0 0⟩
  change execTopkInit core i s = _
  exact coreIns_ok h (by simp only [topkInit, hok, hkind, Option.isSome_some, Bool.and_self, need_true, ok_bind]; rfl)

/-- The valid entries of a list and of candidates with no bound, in order (R400). -/
def stepUnion (c : Core) (kind : Nat) (i : TopkIns) : List Entry :=
  sortEntries kind 4 i.maxDir (((entriesOf c kind i.a none).take i.k ++ entriesOf c kind i.b i.valid).filter (·.valid))

/-- The valid entries of two lists in order, each index once (R399, R407, log entry 51). -/
def graftUnion (c : Core) (kind : Nat) (i : TopkIns) : List Entry :=
  dropDups [] (sortEntries kind 4 i.maxDir
    (((entriesOf c kind i.a none).take i.k ++ (entriesOf c kind i.b none).take i.k).filter (·.valid)))

/-- An instruction selects from a list: its first K entries with the number of them, ties excluded only where the K places are full. -/
def Selects (ins : Instr) (core : Nat) (i : TopkIns) (u : List Entry) (s : State) : Prop :=
  ∃ w tie, exec ins s = .next (s.issued core 1 w) ∧
    SetsList core i (topkFill i.k ((s.dev.core core).sreg i.fill) u) (min u.length i.k) tie s.work w ∧ (u.length < i.k → tie = 0)

/-- An instruction whose effect is the list of u, its count and 0 ties where u is short, selects from u. -/
theorem selects_of_run {ins : Instr} {f : Ins} {u : List Entry} (hins : ∀ s, exec ins s = runT s fun w => w.coreIns core 1 [] f)
    (h : Issues s core []) (hrun : ∃ t, f s.work = .ok ((s.work.putList core i (topkFill i.k ((s.dev.core core).sreg i.fill) u)
      [i.a, i.b]).putCounts core i (min u.length i.k) (if min u.length i.k < i.k then 0 else t))) : Selects ins core i u s :=
  have ⟨_, hrun⟩ := hrun
  ⟨_, _, (hins s).trans (coreIns_ok h hrun), putList_putCounts_setsList s.work (topkFill_length ..) _ _ _,
    fun hshort => if_pos (by omega)⟩

/-- TOPK_STEP selects from the list and the candidates (R400, R401); without a bound it skips none (R402). -/
theorem topkStep_selects (h : Issues s core []) (hok : topkOk i [i.dst, i.a, i.b] = true) (hkind : topkKind i.ty = some kind)
    (hbound : i.bound = none) : Selects (.topkStep core i) core i (stepUnion (s.dev.core core) kind i) s := by
  refine selects_of_run (fun _ => rfl) h ?_
  simp only [topkStep, hok, need_true, ok_bind, hkind, hbound, List.filter_true]
  exact ⟨_, rfl⟩

/-- VGRAFT selects from the two lists, each index once. -/
theorem vgraft_selects (h : Issues s core []) (hok : topkOk i [i.dst, i.a, i.b] = true) (hkind : topkKind i.ty = some kind) :
    Selects (.vgraft core i) core i (graftUnion (s.dev.core core) kind i) s := by
  refine selects_of_run (fun _ => rfl) h ?_
  simp only [vgraft, hok, need_true, ok_bind, hkind]
  exact ⟨_, rfl⟩

end

/-- Settles O6: each clause is the lemma above about its instruction. -/
theorem selectionInstructionsComplete : Obligations.SelectionInstructionsComplete := by
  unfold Obligations.SelectionInstructionsComplete
  refine ⟨?sort, ?init, ?step, ?graft⟩
  case sort => exact fun s core kind i hissues hok hkind => exec_vsort hissues hok hkind
  case init =>
    intro s core kind i hissues hok hkind
    obtain ⟨w, hexec, hw⟩ := exec_topkInit hissues hok hkind
    rw [topkFill_nil] at hw
    exact ⟨w, hexec, hw.wr, hw.out, hw.vreg, hw.sregs⟩
  case step =>
    intro s core kind i hissues hok hkind hbound
    obtain ⟨w, tie, hexec, hw, htie⟩ := topkStep_selects hissues hok hkind hbound
    exact ⟨w, tie, hexec, hw.wr, hw.out, hw.vreg, hw.sregs, htie⟩
  case graft =>
    intro s core kind i hissues hok hkind
    obtain ⟨w, tie, hexec, hw, htie⟩ := vgraft_selects hissues hok hkind
    exact ⟨w, tie, hexec, hw.wr, hw.out, hw.vreg, hw.sregs, htie⟩

end Sys2Proof.Machine
end

section
/-! PROOFS. The commands of feeds and of result windows (R440 to R445, R460, R465, R471 to R473), once admitted. -/

namespace Sys2Proof.Machine

@[simp] theorem taken_feeds (s : State) (ch : Nat) (p : Packet) (psn : Nat) : (s.taken ch p psn).dev.feeds = s.dev.feeds :=
  taken_keeps (·.feeds) (fun _ _ _ => rfl) ..

@[simp] theorem reply_feeds (w : W) (ch : Nat) (h : Header) (op st d : Nat) (b : List Byte) :
    (w.reply ch h op st d b).dev.feeds = w.dev.feeds := reply_keeps (·.feeds) (fun _ _ _ => rfl) ..

@[simp] theorem taken_windowVa (s : State) (ch : Nat) (p : Packet) (psn : Nat) (r : ResultRing) (k : Nat) :
    (s.taken ch p psn).dev.windowVa r k = s.dev.windowVa r k := taken_keeps (·.windowVa r k) (fun _ _ _ => rfl) ..

/-- Bytes stored change memory alone. -/
theorem storeVa_dev (w : W) (rs : List (Nat × Nat)) (bs : List Byte) : (storeVa w rs bs).dev = w.dev := by
  induction rs generalizing w bs with
  | nil => rfl
  | cons r t ih =>
    simp only [storeVa, ih]
    split
    · exact put_dev ..
    · rfl

@[simp] theorem writeVa_dev (w : W) (va : Nat) (bs : List Byte) : (w.writeVa va bs).dev = w.dev := storeVa_dev ..

/-- A command that touches no memory waits for no page. -/
@[simp] theorem withPages_nil (w : W) (x : Ctx) (go : W → W) : w.withPages x [] go = go w := rfl

/-- A command whose pages are there goes on from the working copy that it has found: only what it does there counts. -/
theorem withPages_congr {w : W} {go go' : W → W} (h : go w = go' w) (x : Ctx) (rs : List (Nat × Nat)) :
    w.withPages x rs go = w.withPages x rs go' := by
  simp only [W.withPages, h]

section
variable {x : Ctx} {w : W}

/-! ### Feeds (R440 to R445, R460, R465) -/

/-- FEED_OPEN puts its feed at the free index found, under the index's next generation, with the bases of its sync objects. -/
theorem feedOpen_body {i : Nat} (hfree : Tab.firstFree w.dev.feeds 0 1024 = some i) :
    ∃ g base, Tab.get (feedOpen.body x w).dev.feeds i = some { feedOf x g with base := base } := by
  simp only [feedOpen, hfree, W.ok, reply_feeds]
  exact ⟨_, _, Tab.get_put_self ..⟩

/-- The client that FEED_ATTACH adds under a number (R460). -/
def clientOf (x : Ctx) (k : Nat) : Client :=
  { idx := k, chan := hIdx (x.f 0 4), cslots := x.f 4 4, va := x.f 8 8, rkey := x.f 16 4, stride := x.f 20 4, credits := x.f 4 4 }

theorem feedAttach_body {k : Nat} {f : Feed} (hget : Tab.get w.dev.feeds x.idx = some f)
    (hfree : (List.range 16).find? (fun k => f.clients.all fun y => y.idx != k) = some k) :
    feedAttach.body x w =
      (w.onFeed x.idx fun f => { f with clients := f.clients ++ [clientOf x k] }).ok x (toLe 1 k ++ zeros 7) := by
  simp only [feedAttach, hget, Option.bind_some, hfree]
  rfl

/-- FEED_LEDGER_READ without a release copies its records once their pages are there, and answers the status. -/
theorem feedLedgerRead_body {f : Feed} {b : Buf} (hget : Tab.get w.dev.feeds x.idx = some f)
    (hbuf : Tab.get w.dev.bufs (hIdx (x.f 20 4)) = some b) (hkeep : x.f 24 1 = 0) :
    let n := f.copied (x.f 0 8) (x.f 16 4)
    feedLedgerRead.body x w = w.withPages x [(b.base + x.f 8 8, 32 * n)] fun w =>
      (w.writeVa (b.base + x.f 8 8) (w.ledgerBytes f (x.f 0 8) n)).ok x (f.status n) := by
  simp only [feedLedgerRead, hget, hbuf, hkeep, zero_ne_one, if_false]
  exact withPages_congr (by simp only [writeVa_dev, hget]) ..

/-! ### Result windows (R471 to R473) -/

section
variable {g : Graph} (hget : Tab.get w.dev.graphs x.idx = some g)
include hget

/-- FETCH_RESULT without a WRITE counts the read and answers the window's bytes, once its pages are there. -/
theorem fetchResult_body {r : ResultRing} (hring : g.ring = some r) (hinline : x.f 8 4 = 0) :
    let va := w.dev.windowVa r (r.window (x.f 0 8))
    fetchResult.body x w = w.withPages x [(va, r.winBytes)] fun w =>
      (w.countRead va).ok x ((w.countRead va).readVa va (64 + leNat ((w.countRead va).readVa (va + 24) 8))) := by
  simp only [fetchResult, hget, Option.bind_some, hring, hinline, if_true]

theorem resultRelease_body_noRing (hring : g.ring = none) : resultRelease.body x w = w.ok x [] := by
  simp only [resultRelease, hget, Option.bind_some, hring]

/-- A RESULT_RELEASE up to the result released last recycles no window. -/
theorem resultRelease_body_again {r : ResultRing} (hring : g.ring = some r) (hlast : x.f 0 8 = r.released) :
    resultRelease.body x w = (w.onRing x.idx fun r => { r with released := max r.released (x.f 0 8) }).ok x [] := by
  simp only [resultRelease, hget, Option.bind_some, hring, hlast, Nat.sub_self, List.range_zero, List.map_nil, withPages_nil,
    List.foldl_nil]

end
end

/-- Settles O17: each clause is its command's lemma above, on the working copy in which its packet is taken. -/
theorem feedCommandsAct : Obligations.FeedCommandsAct := by
  unfold Obligations.FeedCommandsAct
  refine ⟨?opens, ?config, ?attach, ?ledger, ?fetch, ?noRing, ?again⟩
  case opens =>
    intro s ch i p c h hfree
    obtain ⟨g, base, hfeed⟩ := feedOpen_body (x := ctxOf feedOpen ch p) (w := s.taken ch p c.psn) (by rw [taken_feeds]; exact hfree)
    exact ⟨_, _, run_admitted h, hfeed, rfl, rfl, rfl, rfl, rfl⟩
  case config => exact fun s ch p c h => run_admitted h
  case attach =>
    intro s ch k p c f h hget hfree
    refine (run_admitted h).trans ?_
    rw [feedAttach_body (x := ctxOf feedAttach ch p) (by rw [taken_feeds]; exact hget) hfree]
    rfl
  case ledger =>
    intro s ch p c f b h hget hbuf hkeep
    refine (run_admitted h).trans ?_
    have hfeed : Tab.get (s.taken ch p c.psn).dev.feeds (hIdx p.hdr.target.toNat) = some f := by rw [taken_feeds]; exact hget
    rw [feedLedgerRead_body (x := ctxOf feedLedgerRead ch p) hfeed (by rw [taken_bufs]; exact hbuf) hkeep]
    refine congrArg (fun w => Host.Outcome.next (s.commit w)) (withPages_congr ?_ ..)
    simp only [writeVa_dev, hfeed]
    rfl
  case fetch =>
    intro s ch p c g r h hget hring hinline
    refine (run_admitted h).trans ?_
    rw [fetchResult_body (x := ctxOf fetchResult ch p) (by rw [taken_graphs]; exact hget) hring hinline, taken_windowVa]
    rfl
  case noRing =>
    intro s ch p c g h hget hring
    refine (runT_admitted h).trans ?_
    rw [resultRelease_body_noRing (x := ctxOf resultRelease ch p) (by rw [taken_graphs]; exact hget) hring]
    rfl
  case again =>
    intro s ch p c g r h hget hring hlast
    refine (runT_admitted h).trans ?_
    rw [resultRelease_body_again (x := ctxOf resultRelease ch p) (by rw [taken_graphs]; exact hget) hring hlast]
    rfl

end Sys2Proof.Machine
end

section
/-! PROOFS. The feed service (R447 to R449, R453 to R459): admission, FLUSH markers, posts, row copies and evaluations of a feed. -/

namespace Sys2Proof.Machine

/-- A feed under the settings written to it (R445). -/
def Feed.configured (f : Feed) : Feed := { f with cfg := f.cfgNext.getD f.cfg, cfgNext := none }

/-- The ledger's room does not depend on the settings. -/
theorem ledgerRoom_settings (f : Feed) (cfg : FeedCfg) (next : Option FeedCfg) :
    Feed.ledgerRoom { f with cfg := cfg, cfgNext := next } = f.ledgerRoom := rfl

/-- A change of a feed is read back. -/
theorem get_onFeed (w : W) (i : Nat) (g : Feed → Feed) : Tab.get (w.onFeed i g).dev.feeds i = (Tab.get w.dev.feeds i).map g :=
  Tab.get_mod_self ..

section
variable {feed : Nat} {f : Feed}

/-! ### Admission (R447, R453) -/

/-- A sample of an intake record, in a lane task of a die (R447). -/
def sampleOf (f : Feed) (r : List Byte) (die lane start : Nat) : Sample :=
  { id := fld r 0 8, ord := fld r 8 8, arg := fld r 0x10 8, die := die, start := start, lane := lane, no := f.sampleNo }

/-- Under ARRIVAL, with a batch open, no other opens. -/
theorem openUpTo_of_open {w : W} (hget : Tab.get w.dev.feeds feed = some f) (hmode : f.cfg.mode = 0) (hopen : f.openBatch.isSome = true)
    (upto fuel : Nat) : openUpTo w feed upto fuel = w := by
  cases fuel with
  | zero => rfl
  | succ n => simp [openUpTo, hget, hmode, Option.isNone_eq_false_iff.mpr hopen]

section
variable {w : W} {die : Nat} (hget : Tab.get w.dev.feeds feed = some f)
  (hfull : ((Tab.get w.dev.syncs (f.obj die 0)).map fun y => y.canTake 1) = some true)
include hget hfull

/-- A FLUSH marker next in order is taken and noted. -/
theorem admitFrom_flush (hflush : bit (fld (w.readVa (w.dev.intakeVa f die) 32) 0x18 4) 0 = true) :
    w.admitFrom feed die = some ((w.takeIntake feed die).onFeed feed fun f => { f with flushes := f.flushes ++ [f.sampleNo] }) := by
  simp only [W.admitFrom, hget, hfull, Option.getD_some, Bool.not_true, Bool.false_eq_true, if_false, hflush, if_true]

/-- A sample next in order is taken under ARRIVAL where a batch is open, a lane is free and the ledger has room. -/
theorem admitFrom_sample {lane : Nat} (hsample : bit (fld (w.readVa (w.dev.intakeVa f die) 32) 0x18 4) 0 = false)
    (hmode : f.cfg.mode = 0) (hopen : f.openBatch.isSome = true) (hlane : f.freeLane die false = some lane) (hroom : 3 ≤ f.ledgerRoom) :
    let x := sampleOf f (w.readVa (w.dev.intakeVa f die) 32) die lane w.dev.clk.now
    w.admitFrom feed die = some (((w.takeIntake feed die).onFeed feed fun f =>
      { f with samples := f.samples ++ [x], sampleNo := f.sampleNo + 1 }).dispatchStep feed x) := by
  simp only [W.admitFrom, hget, hfull, Option.getD_some, hsample, hmode, openUpTo_of_open hget hmode hopen, hlane, zero_ne_one,
    decide_false, Bool.false_and, Bool.or_false, Nat.not_lt.mpr hroom, Bool.not_true, Bool.false_eq_true, if_false]
  rfl

end

variable {s : State} (hget : Tab.get s.dev.feeds feed = some f)
include hget

/-- A record that the lowest die of a feed admits is the one admitted. -/
theorem exec_sampleAdmit {die : Nat} {w : W} (hruns : s.dev.feedRuns f = true) (hdrain : f.draining = false)
    (hdie : (maskDies f.dieMask).head? = some die) (hadmit : s.work.admitFrom feed die = some w) :
    exec (.sampleAdmit feed) s = .next (s.after (w.settleFeed feed)) := by
  obtain ⟨rest, hdies⟩ := List.head?_eq_some_iff.mp hdie
  change execSampleAdmit feed s = _
  simp only [execSampleAdmit, runT_next, State.work_dev, hget, hruns, hdrain, hdies, List.findSome?_cons, hadmit, Bool.not_true,
    Bool.or_self, Bool.false_eq_true, if_false]

/-- A feed that is FAULTED or draining admits nothing (R463, R467). -/
theorem exec_sampleAdmit_closed (hclosed : f.faulted = true ∨ f.draining = true) :
    exec (.sampleAdmit feed) s = .next (s.after s.work) := by
  have hno : (!s.dev.feedRuns f || f.draining) = true := by
    obtain hfault | hdrain := hclosed
    · simp [Dev.feedRuns, hfault]
    · simp [hdrain]
  change execSampleAdmit feed s = _
  simp only [execSampleAdmit, runT_next, State.work_dev, hget, hno, if_true]

/-! ### What goes on in a feed that runs -/

section
variable (hruns : s.dev.feedRuns f = true)
include hruns

/-- The oldest FLUSH marker resolves, once nothing before it is in decode, and closes the open batch (R453). -/
theorem exec_flushResolve {t : Nat} {rest : List Nat} {b : Batch} (hflushes : f.flushes = t :: rest) (hopen : f.openBatch = some b)
    (hdone : (f.samples.any fun x =>
      (x.no < t && !x.slow && !x.dropped) || (x.copying && some b.seq = x.place.map Prod.fst)) = false) :
    exec (.flushResolve feed) s = .next (s.after ((((s.work.onFeed feed fun f => { f with flushes := rest }).recordMissing feed
      b).closeBatch feed b.seq 0x11).settleFeed feed)) := by
  change execFlushResolve feed s = _
  simp only [execFlushResolve, runT_next, State.work_dev, hget, hflushes, hopen, Option.map_some, hdone, hruns, Bool.not_true,
    Bool.or_self, Bool.false_eq_true, if_false]

/-- A post that is there is counted, cleared and handled (R448). -/
theorem exec_post {die lane : Nat} {x : Sample} (hdie : bit f.dieMask die = true) (hlane : lane < f.decodeSlots + f.slowMax)
    (hposted : ((Tab.get s.dev.syncs (f.obj die 2)).map fun y => y.canTake 1) = some true)
    (hvalid : fld (s.work.readVa (s.dev.feedArea f + f.off (4 * die + 2) + 32 * lane) 32) 0 1 = 1)
    (hfind : (f.samples.find? fun x => x.die = die && x.lane = lane && x.row.isNone) = some x) :
    let va := s.dev.feedArea f + f.off (4 * die + 2) + 32 * lane
    exec (.post feed die lane) s = .next (s.after (((((s.work.takeNow (f.obj die 2) 1).writeVa va [0]).handlePost feed f x
      (s.work.readVa va 32)).settleFeed feed))) := by
  intro va
  change execPost feed die lane s = _
  simp only [execPost, runT_next, State.work_dev, hget, hdie, Nat.not_le.mpr hlane, hruns, hposted, Option.getD_some, hvalid, hfind,
    bne_self_eq_false, decide_false, Bool.not_true, Bool.or_self, Bool.false_eq_true, if_false]
  rfl

/-! ### Row copies (R449, R464) -/

section
variable {no va seq p : Nat} {x : Sample} (hfind : (f.samples.find? fun x => x.no = no && x.copying) = some x) (hrow : x.row = some va)
  (hplace : x.place = some (seq, p)) (hpages : s.dev.rangeFail va f.rowBytes true false = none)
include hfind hrow hplace hpages

theorem exec_rowCopyComplete (hclean : s.work.poisonVa va f.rowBytes = false) :
    exec (.rowCopyComplete feed no) s = .next (s.after (((((s.work.writeVa
      (s.dev.batchVa f seq + 64 + f.maskBytes + f.idBytes + p * f.rowBytes) (s.work.readVa va f.rowBytes)).ledger feed 1 0 p x.die seq
        x.id).onBatch feed seq fun b => { b with taken := Tab.put b.taken p (some (x.id, x.die)) }).dropSample feed no).settleFeed
          feed)) := by
  change execRowCopyComplete feed no s = _
  simp only [execRowCopyComplete, runT_next, State.work_dev, hget, Option.bind_some, hfind, Option.map_some, hrow, hplace, hruns, hpages,
    hclean, Bool.not_true, Bool.false_eq_true, if_false]

theorem exec_rowCopyComplete_poisoned (hpoison : s.work.poisonVa va f.rowBytes = true) :
    exec (.rowCopyComplete feed no) s = .next (s.after ((s.work.corrupt feed x).settleFeed feed)) := by
  change execRowCopyComplete feed no s = _
  simp only [execRowCopyComplete, runT_next, State.work_dev, hget, Option.bind_some, hfind, Option.map_some, hrow, hplace, hruns, hpages,
    hpoison, Bool.not_true, Bool.false_eq_true, if_false, if_true]

end

/-! ### Evaluations (R454 to R458) -/

/-- The settings written apply, and every sample in decode is judged. -/
theorem exec_feedEvaluation (hroom : 3 ≤ f.ledgerRoom) : exec (.feedEvaluation feed) s = .next (s.after
    (((f.samples.filter fun x => x.row.isNone && !x.dropped).foldl (fun w x => w.evalSample feed f.configured x)
      (s.work.onFeed feed Feed.configured)).settleFeed feed)) := by
  change execFeedEvaluation feed s = _
  simp only [execFeedEvaluation, runT_next, State.work_dev, hget, hruns, get_onFeed, Option.map_some, ledgerRoom_settings,
    Nat.not_lt.mpr hroom, Bool.not_true, Bool.false_eq_true, if_false]
  rfl

end
end

/-- Settles O34: each clause is its event's lemma above; a record admitted is what the lowest die's next record gives. -/
theorem feedServiceActs : Obligations.FeedServiceActs := by
  unfold Obligations.FeedServiceActs
  refine ⟨?flush, ?sample, ?closed, ?resolve, ?post, ?row, ?poisoned, ?evaluation⟩
  case flush =>
    intro feed die f s hget hruns hdrain hdie hfull hflush
    exact exec_sampleAdmit hget hruns hdrain hdie (admitFrom_flush hget hfull hflush)
  case sample =>
    intro feed die lane f s hget hruns hdrain hdie hfull hsample hmode hopen hlane hroom
    exact exec_sampleAdmit hget hruns hdrain hdie (admitFrom_sample hget hfull hsample hmode hopen hlane hroom)
  case closed => exact fun feed f s hget hclosed => exec_sampleAdmit_closed hget hclosed
  case resolve => exact fun feed t rest f b s hget hruns hflushes hopen hdone => exec_flushResolve hget hruns hflushes hopen hdone
  case post =>
    exact fun feed die lane f x s hget hdie hlane hruns hposted hvalid hfind => exec_post hget hruns hdie hlane hposted hvalid hfind
  case row =>
    exact fun feed no va seq p f x s hget hfind hrow hplace hruns hpages hclean =>
      exec_rowCopyComplete hget hruns hfind hrow hplace hpages hclean
  case poisoned =>
    exact fun feed no va seq p f x s hget hfind hrow hplace hruns hpages hpoison =>
      exec_rowCopyComplete_poisoned hget hruns hfind hrow hplace hpages hpoison
  case evaluation => exact fun feed f s hget hruns hroom => exec_feedEvaluation hget hruns hroom

end Sys2Proof.Machine
end

section
/-! PROOFS. What leaves the device of its feeds and result rings (R459, R461, R462, R470): batches, credits and windows. -/

namespace Sys2Proof.Machine

variable {s : State}

/-! ### Batches (R459, R462) -/

/-- A feed in which the delivery of a batch to a client has begun: it costs the client one credit. -/
def Feed.deliver (b : Batch) (c : Client) (f : Feed) : Feed :=
  { f with
    beginNo := f.beginNo + 1
    clients := f.clients.map fun x =>
      if x.idx = c.idx then { x with credits := x.credits - 1, begun := x.begun + 1, lastBegin := f.beginNo + 1 } else x
    batches := f.batches.map fun x => if x.seq = b.seq then { x with st := 2, client := c.idx } else x }

/-- A batch sent to a client's slot: its header written with the alarm as it then stands, its body sent, then its header. -/
def W.sendBatch (w : W) (feed : Nat) (f : Feed) (b : Batch) (c : Client) : W :=
  let va := w.dev.batchVa f b.seq
  let hd := f.header (w.dev.handleOf 7 feed) b (((Tab.get w.dev.feeds feed).map Feed.alarm).getD false)
  let w := w.writeVa va hd
  let body := w.readVa (va + 64) (f.batchBytes - 64)
  let slot := c.va + c.begun % c.cslots * c.stride
  (w.initiate c.chan (ceilDiv body.length 4096) (fun psn => .write c.chan psn (slot + 64) c.rkey body none) none).initiate c.chan 1
    (fun psn => .write c.chan psn slot c.rkey hd (some (b.seq % 2 ^ 32))) (some (feed, b.seq))

theorem exec_batchDelivery {feed : Nat} {f : Feed} {b : Batch} {c : Client} (hget : Tab.get s.dev.feeds feed = some f)
    (hbatch : f.batches.find? (fun b => b.st = 1) = some b) (hclient : s.dev.nextClient f = some c) (hsound : f.faulted = false)
    (hpause : s.dev.hub.st ≠ .updatePause) (hoff : s.dev.hub.st ≠ .off) : exec (.batchDelivery feed) s =
      .next (s.after (((s.work.onFeed feed (Feed.deliver b c)).checkAlarm feed).sendBatch feed f b c)) := by
  change execBatchDelivery feed s = _
  simp only [execBatchDelivery, runT_next, State.work_dev, hget, hbatch, hclient, hsound, hpause, hoff, decide_false, Bool.or_self,
    Bool.false_eq_true, if_false]
  rfl

/-! ### Credits (R461) -/

/-- Whether a message is a credit message. -/
def goodCredit (m : List Byte) : Bool :=
  fld m 0 2 = 1 && fld m 2 2 = 16 && fld m 64 4 = 0x43465653 && fld m 68 2 = 1 && 1 ≤ fld m 70 2 && fld m 70 2 ≤ 64 && zeroAt m 72 8

/-- A credit message gives its client the credits it names, up to the client's slots; any other message is counted. -/
def W.creditMessage (w : W) (feed client : Nat) (m : List Byte) : W :=
  if goodCredit m then
    w.onFeed feed fun f =>
      { f with clients := f.clients.map fun x =>
          if x.idx = client then { x with credits := min (x.credits + fld m 70 2) x.cslots } else x }
  else w.onFeedCnt fun c => { c with badmsg := satAdd 32 c.badmsg 1 }

/-- The oldest filled slot of a client's receive ring is taken, and its message read. -/
theorem exec_creditReturn {feed client va : Nat} {f : Feed} {cl : Client} {k : Chan} {y : Sync} {b : Buf}
    (hget : Tab.get s.dev.feeds feed = some f) (hclient : (f.clients.find? fun c => c.idx = client) = some cl)
    (hchan : Tab.get s.dev.chans cl.chan = some k) (hbuf : Tab.get s.dev.bufs (hIdx k.rxBuf) = some b)
    (hsync : Tab.get s.dev.syncs (hIdx k.rxSync) = some y) (hlive : s.dev.syncLive k.rxSync = true) (hfilled : y.canTake 1 = true)
    (hsize : 4160 ≤ b.size) (hva : b.base + (k.ringPos + b.size / 4160 - y.val % (b.size / 4160)) % (b.size / 4160) * 4160 = va)
    (hpages : s.dev.rangeFail va 80 false false = none) : exec (.creditReturn feed client) s =
      .next (s.after ((s.work.takeNow (hIdx k.rxSync) 1).creditMessage feed client (s.work.readVa va 80))) := by
  have hslots : ¬ b.size / 4160 = 0 := by omega
  change execCreditReturn feed client s = _
  simp only [execCreditReturn, runT_next, State.work_dev, hget, Option.bind_some, hclient, hchan, hbuf, hsync, hlive, hfilled, hslots,
    hva, hpages, decide_false, Bool.not_true, Bool.or_self, Bool.false_eq_true, if_false]
  rfl

/-! ### Windows (R470) -/

/-- One unit of PUB_SYNC publishes the next window of a ring that does not overwrite. -/
theorem exec_resultPublish {graph va p : Nat} {r : ResultRing} {y : Sync}
    (hring : (Tab.get s.dev.graphs graph).bind Graph.ring = some r) (hsync : Tab.get s.dev.syncs (hIdx r.pubSync) = some y)
    (hlive : s.dev.syncLive r.pubSync = true) (hunit : r.seen < y.val) (hva : s.dev.windowVa r (r.window (r.published + 1)) = va)
    (hpage : s.dev.access va true true = .ok p) (hkeep : r.overwrite = false)
    (hlen : leNat (s.work.readVa (va + 0x18) 8) ≤ r.winBytes - 64) :
    exec (.resultPublish graph) s = .next (s.after ((s.work.writeVa va (windowHeader true (r.published + 1) 0 (r.window (r.published + 1))
      (leNat (s.work.readVa (va + 0x18) 8)) s.dev.clk.now)).onRing graph fun x =>
        { x with published := r.published + 1, seen := x.seen + 1 })) := by
  change execResultPublish graph s = _
  simp only [execResultPublish, runT_next, State.work_dev, hring, hsync, Option.map_some, Option.getD_some, hlive, Nat.not_le.mpr hunit,
    hva, hpage, hkeep, Nat.not_lt.mpr hlen, Nat.min_eq_left hlen, decide_false, Bool.not_true, Bool.or_self, Bool.false_eq_true, if_false]

/-- Settles O35: each clause is its event's lemma above; a message that is read gives credits or is counted. -/
theorem batchesAndResultsLeave : Obligations.BatchesAndResultsLeave := by
  unfold Obligations.BatchesAndResultsLeave
  refine ⟨?batch, ?credit, ?publish⟩
  case batch =>
    intro feed f b c s hget hbatch hclient hsound hpause hoff
    rw [exec_batchDelivery hget hbatch hclient hsound hpause hoff, W.sendBatch]
    rfl
  case credit =>
    intro feed client f cl k y b s hget hclient hchan hbuf hsync hlive hfilled hsize n va m hpages
    have hexec := exec_creditReturn hget hclient hchan hbuf hsync hlive hfilled hsize rfl hpages
    constructor
    · rintro ⟨hver, hlen, hmagic, hkind, hlow, hhigh, hzero⟩
      have hgood : goodCredit m = true := by simp [goodCredit, hver, hlen, hmagic, hkind, hlow, hhigh, hzero]
      exact hexec.trans (by rw [W.creditMessage, if_pos hgood])
    · intro hnone
      have hbad : ¬ goodCredit m = true := by simp [goodCredit, hnone]
      exact hexec.trans (by rw [W.creditMessage, if_neg hbad])
  case publish => exact fun graph va r y p s hring hsync hlive hunit hva hpage hkeep hlen =>
    exec_resultPublish hring hsync hlive hunit hva hpage hkeep hlen

end Sys2Proof.Machine
end

section
/-! PROOFS. A step on an empty queue (R521): which clocks advance. -/

namespace Sys2Proof.Machine

variable {s : State}

/-- Outside OFF the hub has power (Table 2.4). -/
theorem hubUp_of_ne_off {d : Dev} (h : d.hub.st ≠ .off) : d.hubUp = true := bne_iff_ne.mpr h

theorem step_of_empty (h : s.pending = []) : step s = .next (idle s) := by simp only [step, h]

/-- Time passes without a command joining or leaving the queue. -/
theorem idle_pending (s : State) : (idle s).pending = s.pending := by
  rw [idle]
  split
  · rfl
  · rfl

/-- A block whose hub has no power keeps no time. -/
theorem idle_of_off (hoff : s.dev.hub.st = .off) : idle s = s := by simp [idle, Dev.hubUp, hoff]

/-- With no relay under way only the clocks move. -/
theorem idle_of_no_relays (hup : s.dev.hub.st ≠ .off) (hrelays : s.dev.fw.relays = []) :
    idle s = { s with dev := { s.dev.passCycles with clk := s.dev.clk.pass } } := by
  have hnone : s.dev.passCycles.fw.relays = [] := by rw [Dev.passCycles]; split <;> exact hrelays
  simp only [idle, hubUp_of_ne_off hup, if_true, W.onDev_dev, State.work_dev, hnone, List.isEmpty_nil,
    Bool.not_true, Bool.and_false, Bool.false_eq_true, if_false]
  rw [commit_of_wr_nil s rfl]
  simp

theorem pass_mono (c : Clk) : c.pass.mono = c.mono + 1 := by
  simp only [Clk.pass]
  repeat' split
  all_goals rfl

/-- Global time with no offset to be slewed advances with the hub's clock. -/
theorem pass_of_no_slew {c : Clk} (h : c.slew = 0) : c.pass.now = c.now + 1 ∧ c.pass.slew = 0 := by simp [Clk.pass, h]

/-- Settles O45: on an empty queue the step is the passing of time. -/
theorem anIdleStepPassesTime : Obligations.AnIdleStepPassesTime := by
  unfold Obligations.AnIdleStepPassesTime
  refine ⟨?answers, ?off, ?clocks, fun c => ⟨pass_mono c, pass_of_no_slew⟩, fun d hdown => if_neg (by simp [hdown])⟩
  case answers => exact fun s h => ⟨idle s, step_of_empty h, (idle_pending s).trans h⟩
  case off => exact fun s h hoff => by rw [step_of_empty h, idle_of_off hoff]
  case clocks => exact fun s h hup hrelays => by rw [step_of_empty h, idle_of_no_relays hup hrelays]

end Sys2Proof.Machine
end

section
/-! PROOFS. The events of links (R493 to R497, R500, R501, R522): flits, lanes, silence and spares. -/

namespace Sys2Proof.Machine

variable {s : State} {link : Nat}

/-! ### Flits (R493 to R495) -/

theorem exec_flitReceive_uncorrectable {f : Flit} (hrun : s.dev.linksRun = true) (hlink : link < 32)
    (hworks : (s.dev.link link).works = true) (hbad : flitDecode f.bytes = none) :
    exec (.flitReceive link f) s = .next (s.commit (s.work.badFlit link)) := by
  change execFlitReceive link f s = _
  simp [execFlitReceive, run_next, hrun, Nat.not_le.mpr hlink, hworks, hbad]

/-- A physical link on which a flit has come that took `corr` corrected symbols (R493). -/
def Link.heard (now corr : Nat) (l : Link) : Link :=
  { l with
    fecCorr := satAdd 32 l.fecCorr corr, lastFlit := now
    rxLanes := if l.rxLanes = 0 then lanesLeft l.rxRetired else l.rxLanes }

/-- A flit that decodes is heard; one of a reserved TYPE is bad, another goes to the logical link. -/
theorem exec_flitReceive {f : Flit} {hdr corr : Nat} {body : List Byte} (h : InService s link)
    (hdec : flitDecode f.bytes = some (hdr, body, corr)) :
    exec (.flitReceive link f) s = .next (s.commit (if 3 < bits hdr 4 4 then
      (s.work.onLink link (Link.heard s.dev.clk.mono corr)).badFlit link
      else (s.work.onLink link (Link.heard s.dev.clk.mono corr)).takeFlit link (s.dev.link link).logical hdr)) := by
  change execFlitReceive link f s = _
  simp only [execFlitReceive, run_next, State.work_dev, h.run, Nat.not_le.mpr h.inRange, h.works, hdec, h.logical, Bool.not_true,
    decide_false, Bool.or_self, Bool.false_eq_true, if_false]
  rfl

theorem exec_linkNak (seq : Nat) (h : InService s link) :
    exec (.linkNak link seq) s = .next (s.commit (s.work.replay (s.dev.link link).logical (seq % 4096))) := by
  change execLinkNak link seq s = _
  simp [execLinkNak, run_next, h.run, h.inRange, h.works, h.logical]

/-! ### Lanes (R497) -/

section
variable {lane : Nat} (hrun : s.dev.linksRun = true) (hlink : link < 32) (hlane : lane < 5) (hworks : (s.dev.link link).works = true)
include hrun hlink hlane hworks

theorem exec_laneLockLoss : exec (.laneLockLoss link lane) s = .next (s.after (s.work.retireLane link lane)) := by
  change execLaneLockLoss link lane s = _
  simp [execLaneLockLoss, runT_next, hrun, hlink, hlane, hworks]

/-- A window retires its lane where more than one byte in a million was corrected. -/
theorem exec_laneErrorWindow (corrected total : Nat) : exec (.laneErrorWindow link lane corrected total) s =
    .next (s.after (if total < corrected * 1000000 then s.work.retireLane link lane else s.work)) := by
  change execLaneErrorWindow link lane corrected total s = _
  simp [execLaneErrorWindow, runT_next, hrun, hlink, hlane, hworks]

end

/-! ### Silence (R522), spares (R501) and presets (R496) -/

/-- Whether a device at a coordinate has delivered no flit for 1 ms on any role link that works to it (R522). -/
def Dev.silentFrom (d : Dev) (c : Nat × Nat × Nat) (now : Nat) : Bool :=
  (d.roleLinks.filter fun k => d.peerCoord k = c).all fun k => match d.carrier k with
    | some p => decide ((d.link p).lastFlit + 1000000 ≤ now)
    | none => true

/-- A link of a logical link on which no flit has come: no lane is left, or the neighbour is lost (R522). -/
def W.fallSilent (w : W) (link k : Nat) : W :=
  let v := w.onLink link fun l => { l with rxLanes := 0 }
  if v.dev.silentFrom (v.dev.peerCoord k) w.dev.clk.mono then
    v.detectLost (v.dev.peerCoord k) ((v.dev.llink k).peerSerial.getD 0) 0x01
  else v.lanesChanged link

theorem exec_linkSilence (hrun : s.dev.linksRun = true) (hlink : link < 32) (hworks : (s.dev.link link).works = true)
    (hlate : (s.dev.link link).lastFlit + 1000000 ≤ s.dev.clk.mono) (hrole : s.dev.isRole (s.dev.link link).logical = true) :
    exec (.linkSilence link) s = .next (s.after (s.work.fallSilent link (s.dev.link link).logical)) := by
  have hdue : ¬ s.dev.clk.mono < (s.dev.link link).lastFlit + msNs := Nat.not_lt.mpr hlate
  change execLinkSilence link s = _
  simp only [execLinkSilence, runT_next, State.work_dev, hrun, Nat.not_le.mpr hlink, hworks, hdue, hrole, Bool.not_true, decide_false,
    Bool.or_self, Bool.false_eq_true, if_false]
  rfl

theorem exec_linkSilence_early (hearly : s.dev.clk.mono < (s.dev.link link).lastFlit + 1000000) :
    exec (.linkSilence link) s = .next (s.after s.work) := by
  change execLinkSilence link s = _
  simp [execLinkSilence, runT_next, show s.dev.clk.mono < (s.dev.link link).lastFlit + msNs from hearly]

theorem exec_spareTimeout {k q t : Nat} (hspare : (s.dev.llink k).spare = some (q, t)) (hlate : t + 10000000000 ≤ s.dev.clk.mono) :
    exec (.spareTimeout k) s = .next (s.after (((s.work.onLink q fun l => { l with state := 8 }).onLLink k fun l =>
      { l with spare := none }).requestSpare k)) := by
  change execSpareTimeout k s = _
  simp only [execSpareTimeout, runT_next, State.work_dev, hspare, hlate, if_true]

theorem exec_ylPresetSave {t : Nat} (presets : List Byte) (hup : (s.dev.link link).upSince = some t) (hlink : link < 32)
    (hrun : s.dev.linksRun = true) (hday : t + 86400000000000 ≤ s.dev.clk.mono) :
    exec (.ylPresetSave link presets) s = .next (s.commit ((s.work.onLink link fun l =>
      { l with upSince := some s.dev.clk.mono }).journal1 0x0021 (1 + link) presets)) := by
  have hdue : ¬ s.dev.clk.mono < t + dayNs := Nat.not_lt.mpr hday
  change execYlPresetSave link presets s = _
  simp only [execYlPresetSave, run_next, State.work_dev, hup, Nat.not_le.mpr hlink, hrun, hdue, Bool.not_true, decide_false, Bool.or_self,
    Bool.false_eq_true, if_false]

/-- Settles O36: each clause is its event's lemma above. -/
theorem linkEventsAct : Obligations.LinkEventsAct := by
  unfold Obligations.LinkEventsAct
  refine ⟨?bad, ?flit, ?nak, ?lock, ?window, ?silence, ?early, ?spare, ?presets⟩
  case bad => exact fun link f s hrun hlink hworks hbad => exec_flitReceive_uncorrectable hrun hlink hworks hbad
  case flit =>
    intro link hdr corr f body s h hdec
    refine ⟨fun hknown => (exec_flitReceive h hdec).trans ?_, fun hreserved => (exec_flitReceive h hdec).trans ?_⟩
    · rw [if_neg (Nat.not_lt.mpr hknown)]; rfl
    · rw [if_pos hreserved]; rfl
  case nak => exact fun link seq s h => exec_linkNak seq h
  case lock => exact fun link lane s hrun hlink hlane hworks => exec_laneLockLoss hrun hlink hlane hworks
  case window =>
    intro link lane corrected total s hrun hlink hlane hworks
    have h := exec_laneErrorWindow hrun hlink hlane hworks corrected total
    refine ⟨fun hmany => h.trans ?_, fun hfew => h.trans ?_⟩
    · rw [if_pos hmany]
    · rw [if_neg (Nat.not_lt.mpr hfew)]
  case silence => exact fun link s hrun hlink hworks hlate hrole => exec_linkSilence hrun hlink hworks hlate hrole
  case early => exact fun link s hearly => exec_linkSilence_early hearly
  case spare => exact fun k q t s hspare hlate => exec_spareTimeout hspare hlate
  case presets => exact fun link t presets s hup hlink hrun hday => exec_ylPresetSave presets hup hlink hrun hday

end Sys2Proof.Machine
end

section
/-! PROOFS. The messages of links (R504, R509, R513, R514, R517, R518, R520 to R523): handled, held, or without effect. -/

namespace Sys2Proof.Machine

variable {s : State} {link : Nat} {m : List Byte}

/-! ### The gate of messages -/

/-- A message on a link in service is handled (R513). -/
theorem onMessage_handled (h : InService s link) (hst : s.dev.hub.st ≠ .updatePause) (m : List Byte) (go : W → W) :
    s.work.onMessage link m go = go s.work := by
  simp [W.onMessage, h.run, Nat.not_le.mpr h.inRange, h.works, h.logical, hst]

/-- During UPDATE_PAUSE it waits (R514). -/
theorem onMessage_held (h : InService s link) (hst : s.dev.hub.st = .updatePause) (m : List Byte) (go : W → W) :
    s.work.onMessage link m go = s.work.onSys fun y => { y with held := y.held ++ [(link, m)] } := by
  simp [W.onMessage, h.run, Nat.not_le.mpr h.inRange, h.works, h.logical, hst]

/-- A link that is not in service brings no message. -/
theorem onMessage_ignored (hworks : (s.dev.link link).works = false) (m : List Byte) (go : W → W) :
    s.work.onMessage link m go = s.work := by
  simp [W.onMessage, hworks]

/-- A row of messages of one MTYPE handles a message of that MTYPE. -/
theorem run_onMessage {k : Nat} {go : W → W} (h : InService s link) (hst : s.dev.hub.st ≠ .updatePause) (hm : msgType m = k) :
    run s (fun w => w.onMessage link m fun w => if msgType m = k then go w else w) = .next (s.commit (go s.work)) := by
  rw [run_next, onMessage_handled h hst, if_pos hm]

/-- So does one after which the graphs settle. -/
theorem runT_onMessage {k : Nat} {go : W → W} (h : InService s link) (hst : s.dev.hub.st ≠ .updatePause) (hm : msgType m = k) :
    runT s (fun w => w.onMessage link m fun w => if msgType m = k then go w else w) = .next (s.after (go s.work)) := by
  rw [runT_next, onMessage_handled h hst, if_pos hm]

theorem run_onMessage_held (h : InService s link) (hst : s.dev.hub.st = .updatePause) (m : List Byte) (go : W → W) :
    run s (fun w => w.onMessage link m go) =
      .next { s with dev := { s.dev with sys := { s.dev.sys with held := s.dev.sys.held ++ [(link, m)] } } } := by
  rw [run_next, onMessage_held h hst, commit_of_wr_nil s rfl]
  simp

theorem run_onMessage_ignored (hworks : (s.dev.link link).works = false) (m : List Byte) (go : W → W) :
    run s (fun w => w.onMessage link m go) = .next s := by
  rw [run_next, onMessage_ignored hworks, commit_work]

/-! ### HELLO (R504) -/

theorem exec_hello_role (hrun : s.dev.linksRun = true) (hlink : link < 32) (hm : msgType m = 1) (hst : s.dev.hub.st ≠ .updatePause)
    (hrole : s.dev.isRole link = true) (hown : (s.dev.link link).logical = link) (hon : (s.dev.link link).state ≠ 0) :
    exec (.hello link m) s = .next (s.after (s.work.helloRole link m)) := by
  change execHello link m s = _
  simp [execHello, runT_next, hrun, Nat.not_le.mpr hlink, hm, hst, hrole, hown, hon]

theorem exec_hello_spare (hrun : s.dev.linksRun = true) (hlink : link < 32) (hm : msgType m = 1) (hst : s.dev.hub.st ≠ .updatePause)
    (hrole : s.dev.isRole link = false) (hspare : (s.dev.link link).role = 4) (hworks : (s.dev.link link).works = true) :
    exec (.hello link m) s = .next (s.after (s.work.helloSpare link m)) := by
  change execHello link m s = _
  simp [execHello, runT_next, hrun, Nat.not_le.mpr hlink, hm, hst, hrole, hspare, hworks]

/-- Settles O37: the gate of messages decides, then each row's own handler acts. -/
theorem linkMessagesAreHandled : Obligations.LinkMessagesAreHandled := by
  unfold Obligations.LinkMessagesAreHandled
  refine ⟨?handled, ?held, ?ignored, ?role, ?spare⟩
  case handled =>
    intro link m s h hst
    refine ⟨?tile, fun hm => ?heartbeat, fun hm => ?freq, fun hm => ?ceiling, fun hm => ?event, fun hm => ?lost, fun hm => ?join,
      fun hm => ?time⟩
    case tile =>
      change execTileMessage link m s = _
      rw [execTileMessage, runT_next, onMessage_handled h hst]
    case heartbeat | event | lost => exact runT_onMessage h hst hm
    case freq | ceiling | join | time => exact run_onMessage h hst hm
  case held =>
    intro link m s h hst
    exact ⟨run_onMessage_held h hst m _, run_onMessage_held h hst m _, run_onMessage_held h hst m _, run_onMessage_held h hst m _⟩
  case ignored =>
    intro link m s hworks
    exact ⟨run_onMessage_ignored hworks m _, run_onMessage_ignored hworks m _, run_onMessage_ignored hworks m _,
      run_onMessage_ignored hworks m _⟩
  case role => exact fun link m s hrun hlink hm hst hrole hown hon => exec_hello_role hrun hlink hm hst hrole hown hon
  case spare => exact fun link m s hrun hlink hm hst hrole hspare hworks => exec_hello_spare hrun hlink hm hst hrole hspare hworks

end Sys2Proof.Machine
end

section
/-! PROOFS. The frequency group (R513, R517, R518, R521, R522): its steps and ceilings, heartbeats and times. -/

namespace Sys2Proof.Machine

variable {s : State} {g : FGroup}

/-! ### Ceilings (R518) -/

/-- The lowest ceiling of the interval that ends at a boundary, kept as the device's report and flooded (R518). -/
def W.closeInterval (w : W) (g : FGroup) (t low : Nat) : W :=
  (w.onSys fun y => { y with group := some { (g.report t w.dev.coord low) with lowCeil := w.dev.pwr.ceil } }).flood 0x04 g.id
    (toLe 8 t ++ toLe 1 low)

theorem exec_ceilingBoundary (hgroup : s.dev.sys.group = some g) (hrun : s.dev.linksRun = true) (hst : s.dev.hub.st ≠ .updatePause) :
    exec .ceilingBoundary s = .next (s.commit (s.work.closeInterval g (s.dev.clk.now / 100000000 * 100000000)
      (min g.lowCeil s.dev.pwr.ceil))) := by
  have hopen : ¬ (!s.dev.linksRun || decide (s.dev.hub.st = .updatePause)) = true := by simp [hrun, hst]
  change execCeilingBoundary s = _
  simp only [execCeilingBoundary, run_next, State.work_dev, hgroup]
  exact congrArg (fun w => Host.Outcome.next (s.commit w)) (if_neg hopen)

/-- The device takes a group's new step: at once where it is lower, after a raise where it is higher (R518, R529). -/
def W.toStep (w : W) (new : Nat) : W :=
  if new < w.dev.pwr.step then w.lowerStep new else if w.dev.pwr.step < new then w.raiseStep new else w

theorem exec_ceilingCompute (hgroup : s.dev.sys.group = some g) (hrun : s.dev.linksRun = true) (hreports : g.reports ≠ [])
    (hdue : g.boundary + 10000000 ≤ s.dev.clk.now) (hall : g.members ≤ g.reports.length) :
    exec .ceilingCompute s = .next (s.commit (s.work.toStep (g.reports.foldl (fun m r => min m r.2) g.freqMin))) := by
  have hlate : ¬ s.dev.clk.now < g.boundary + 10 * msNs := Nat.not_lt.mpr hdue
  have hsome : g.reports.isEmpty = false := List.isEmpty_eq_false_iff.mpr hreports
  change execCeilingCompute s = _
  simp only [execCeilingCompute, run_next, State.work_dev, hgroup, hrun, hsome, hlate, Nat.not_lt.mpr hall, Bool.not_true, decide_false,
    Bool.or_self, Bool.false_eq_true, if_false]
  rfl

/-- A device in no group has no boundary. -/
theorem exec_ceiling_noGroup (hgroup : s.dev.sys.group = none) :
    exec .ceilingBoundary s = .next s ∧ exec .ceilingCompute s = .next s := by
  constructor
  · change execCeilingBoundary s = _
    simp only [execCeilingBoundary, run_next, State.work_dev, hgroup, commit_work]
  · change execCeilingCompute s = _
    simp only [execCeilingCompute, run_next, State.work_dev, hgroup, commit_work]

/-! ### Heartbeats and times (R521, R522) -/

theorem exec_heartbeatSend (hrun : s.dev.linksRun = true) :
    exec .heartbeatSend s = .next (s.commit (s.work.sendUp fun _ w =>
      w.ownMessage 0x02 w.dev.groupId (toLe 8 w.dev.clk.now ++ toLe 1 w.dev.hub.st.code ++ toLe 1 (b2n w.dev.hub.degraded)))) := by
  change execHeartbeatSend s = _
  simp only [execHeartbeatSend, run_next, State.work_dev, hrun, Bool.not_true, Bool.false_eq_true, if_false]

/-- The sending time kept on each link in UP or DEGRADED (R521). -/
def W.stampLinks (w : W) (now : Nat) : W :=
  w.onDev fun d => { d with links := d.links.map fun (p, l) => (p, if l.state = 2 || l.state = 3 then { l with ownTx := now } else l) }

theorem stampLinks_ownTx {w : W} {now p : Nat} {l : Link} (hmem : (p, l) ∈ (w.stampLinks now).dev.links)
    (hup : l.state = 2 ∨ l.state = 3) : l.ownTx = now := by
  obtain ⟨⟨q, k⟩, -, heq⟩ := List.mem_map.mp hmem
  obtain ⟨rfl, rfl⟩ := Prod.mk.inj heq
  by_cases hk : (k.state = 2 || k.state = 3) = true
  · rw [if_pos hk]
  · rw [if_neg hk] at hup
    exact absurd (by simpa using hup) hk

theorem exec_timeExchange (hrun : s.dev.linksRun = true) :
    ∃ w : W, exec .timeExchange s = .next (s.commit (w.stampLinks s.dev.clk.now)) := by
  change ∃ w, execTimeExchange s = _
  simp only [execTimeExchange, run_next, State.work_dev, hrun, Bool.not_true, Bool.false_eq_true, if_false]
  exact ⟨_, rfl⟩

/-! ### Steps (R517) -/

/-- A FREQ_STEP noted by the group that it names (R517). -/
def FGroup.noteFreq (g : FGroup) (m : List Byte) (now : Nat) : FGroup :=
  { g with
    freqMin := min g.freqMin (fld (msgBody m) 0 1), freqSteps := satAdd 32 g.freqSteps 1, lastOrigin := msgOrigin m, lastTime := now }

/-- An accepted FREQ_STEP of the device's group that names a lower step is adopted at once. -/
theorem takeFreq_lower {w : W} {link : Nat} {m : List Byte} (haccept : w.dev.acceptsFlood m = true)
    (hgroup : (w.acceptFlood link m).dev.sys.group = some g) (hid : g.id = msgGroup m)
    (hlow : fld (msgBody m) 0 1 < (w.acceptFlood link m).dev.pwr.step) :
    w.takeFreq link m = ((w.acceptFlood link m).onSys fun y =>
      { y with group := some (g.noteFreq m (w.acceptFlood link m).dev.clk.now) }).lowerStep (fld (msgBody m) 0 1) := by
  simp only [W.takeFreq, W.takeFlood, haccept, hgroup, W.onSys_dev, hlow, if_true]
  rw [if_neg (by simp [hid])]
  rfl

/-- Settles O38: each clause is its event's lemma above. -/
theorem groupEventsAct : Obligations.GroupEventsAct := by
  unfold Obligations.GroupEventsAct
  refine ⟨?boundary, ?none, ?compute, ?times, ?freq⟩
  case boundary => exact fun g s hgroup hrun hst => exec_ceilingBoundary hgroup hrun hst
  case none => exact fun s hgroup => exec_ceiling_noGroup hgroup
  case compute =>
    intro g s hgroup hrun hreports hdue hall
    have h := exec_ceilingCompute hgroup hrun hreports hdue hall
    refine ⟨fun hlow => h.trans ?_, fun hhigh => h.trans ?_, fun hsame => h.trans ?_⟩
    · rw [W.toStep, State.work_dev, if_pos hlow]
    · rw [W.toStep, State.work_dev, if_neg (Nat.lt_asymm hhigh), if_pos hhigh]
    · rw [W.toStep, State.work_dev, if_neg (Nat.not_lt.mpr hsame.ge), if_neg (Nat.not_lt.mpr hsame.le), commit_work]
  case times =>
    intro s hrun
    obtain ⟨w, hw⟩ := exec_timeExchange hrun
    exact ⟨exec_heartbeatSend hrun, _, hw, fun p l => stampLinks_ownTx⟩
  case freq =>
    intro link m g s h hst hm haccept hgroup hid hlow
    refine (run_onMessage h hst hm).trans ?_
    rw [takeFreq_lower haccept hgroup hid hlow]
    rfl

end Sys2Proof.Machine
end

section
/-! PROOFS. The commands of links, of service and of the store (R500 to R503, R515, R520, R586, R609, R610, R660, R663), once admitted. -/

namespace Sys2Proof.Machine

/-! ### What the end of PENDING commands leaves -/

/-- The end of a PENDING command keeps what depends on neither those commands, nor the channels, nor the messages that wait. -/
theorem complete_keeps {α : Type} (g : Dev → α) (hcmds : ∀ d x, g { d with cmds := x } = g d)
    (hsent : ∀ d c l, g { d with chans := c, eth := { d.eth with held := l } } = g d) (w : W) (p : PendCmd) (st d : Nat) (b : List Byte) :
    g (w.complete p st d b).dev = g w.dev := by
  simp only [W.complete]
  split
  · exact hcmds ..
  · rw [reply_keeps g hsent]; exact hcmds ..

theorem completeAll_keeps {α : Type} (g : Dev → α) (hcmds : ∀ d x, g { d with cmds := x } = g d)
    (hsent : ∀ d c l, g { d with chans := c, eth := { d.eth with held := l } } = g d) (w : W) (which : PendCmd → Bool) (st d : Nat)
    (b : List Byte) : g (w.completeAll which st d b).dev = g w.dev :=
  foldl_keeps (fun w p => complete_keeps g hcmds hsent w p st d b) _ w

/-! ### LINK_CONFIG (R502, R503) -/

/-- Where the device stands in its system, and the system's size. -/
def Dev.place (d : Dev) : Option (Nat × Nat × Nat) × (Nat × Nat × Nat) := (d.sys.coord, d.sys.size)

theorem hello_place (w : W) (p : Nat) : (w.hello p).dev.place = w.dev.place := rfl

theorem completeLinks_place (w : W) (which : PendCmd → Bool) : (w.completeLinks which).dev.place = w.dev.place := by
  simp only [W.completeLinks]
  split
  all_goals exact completeAll_keeps Dev.place (fun _ _ => rfl) (fun _ _ _ => rfl) ..

theorem settleLinks_place (w : W) : w.settleLinks.dev.place = w.dev.place := by
  simp only [W.settleLinks]
  repeat' split
  all_goals simp only [completeLinks_place]

theorem linkConfig_place (c : Ctx) (w : W) :
    (linkConfig.body c w).dev.place = (some (c.f 0 1, c.f 1 1, c.f 2 1), (c.f 3 1, c.f 4 1, c.f 5 1)) := by
  simp only [linkConfig]
  rw [settleLinks_place]
  refine (foldl_keeps (g := Dev.place) hello_place _ _).trans ?_
  refine (foldl_keeps (g := Dev.place) ?_ _ _).trans rfl
  exact fun _ _ => rfl

section
variable {ch : Nat} {p : Packet} {s : State} {c : Chan}

theorem exec_linkConfig (h : Admitted linkConfig ch p s c) :
    ∃ w, exec (.linkConfig ch p) s = .next (s.commit w) ∧
      w.dev.place = (some (fld p.params 0 1, fld p.params 1 1, fld p.params 2 1), (fld p.params 3 1, fld p.params 4 1, fld p.params 5 1)) :=
  ⟨_, run_admitted h, linkConfig_place ..⟩

/-! ### Groups (R515, R520) -/

theorem exec_fgroupJoin (h : Admitted fgroupJoin ch p s c) : exec (.fgroupJoin ch p) s =
  .next (s.commit ((((s.taken ch p c.psn).onSys fun y =>
    { y with group := some { id := fld p.params 0 4, members := fld p.params 4 2, lowCeil := s.dev.pwr.ceil } }).lowerStep 0).reply
      ch p.hdr 0x0903 0 0 [])) := by
  refine (run_admitted h).trans ?_
  simp only [fgroupJoin, W.joinGroup, taken_pwr]
  rfl

/-! ### The store (R609, R610) -/

/-- What a channel has staged when a packet comes is staged once the packet is taken. -/
theorem taken_stagedOn (hchan : Tab.get s.dev.chans ch = some c) : (s.taken ch p c.psn).dev.stagedOn ch = c.staged := by
  obtain ⟨k, hk, hset⟩ := taken_get hchan ch p c.psn
  have hstaged : k.settings.staged = c.settings.staged := by rw [hset]
  rw [Dev.stagedOn, hk]
  exact hstaged

theorem exec_storeCommit_empty (h : Admitted storeCommit ch p s c) (hnone : c.staged = []) :
    exec (.storeCommit ch p) s = .next (s.commit ((s.taken ch p c.psn).reply ch p.hdr 0x0B02 0 0 (zeros 16))) := by
  refine (run_admitted h).trans ?_
  simp only [storeCommit, ctxOf, taken_stagedOn h.sound.chan.chan, hnone, List.isEmpty_nil, if_true]
  rfl

/-! ### DIAG_DUMP (R663) -/

/-- A dump into the reply itself. -/
theorem exec_diagDump_reply (h : Admitted diagDump ch p s c) (hreply : fld p.params 4 4 = 0) {d : List Byte × W}
    (hd : (s.taken ch p c.psn).dump ((List.range 7).filter fun k => bit (fld p.params 0 4) k) = d) :
    exec (.diagDump ch p) s = .next (s.commit (d.2.reply ch p.hdr 0x0A03 0 d.1.length (d.1.take 4032))) := by
  refine (run_admitted h).trans ?_
  simp only [diagDump, ctxOf, Ctx.f, hd, hreply, if_true]
  rfl

end

/-- Settles O21: each clause is its command's lemma above, or its body as admission runs it. -/
theorem linkServiceAndStoreCommandsAct : Obligations.LinkServiceAndStoreCommandsAct := by
  unfold Obligations.LinkServiceAndStoreCommandsAct
  refine ⟨?join, ?leave, ?swatch, ?clear, ?write, ?commit, ?config, ?dump⟩
  case join => exact fun s ch p c h => exec_fgroupJoin h
  case leave | swatch | clear | write => exact fun s ch p c h => run_admitted h
  case commit => exact fun s ch p c h hnone => exec_storeCommit_empty h hnone
  case config =>
    intro s ch p c h
    obtain ⟨w, hw, hplace⟩ := exec_linkConfig h
    obtain ⟨hcoord, hsize⟩ := Prod.mk.inj hplace
    exact ⟨w, hw, hcoord, hsize⟩
  case dump => exact fun s ch p c h hreply => exec_diagDump_reply h hreply rfl

end Sys2Proof.Machine
end

section
/-! PROOFS. The console's readings (R651, R652, R654, R658): their lines, lines that name no command, and the boot ROM's console. -/

namespace Sys2Proof.Machine

/-! ### The gate of readings -/

section
variable {s : State} {line : String} {go : W → W}

/-- A command that the boot ROM's console knows too runs on the line typed, whichever console answers (R654). -/
theorem run_romConsole (hup : s.dev.consoleUp = true) :
    run s (fun w => w.console line anyState true go) = .next (s.commit (go (s.typed line))) := by
  simp only [run_next, W.console, State.work_dev, hup, Bool.not_true, Bool.and_false, Bool.false_eq_true, if_false, anyState, if_true]
  rfl

/-! ### Readings with lines of their own (R658) -/

theorem exec_consoleTemps (hup : s.dev.consoleUp = true) (hrom : s.dev.svc.rom = false) :
    ∃ a b, exec .consoleTemps s = .next (s.commit (((s.typed "temps").linesOut [a, b]).final 0 0)) :=
  ⟨_, _, run_console hup hrom rfl⟩

/-- The lines that `power` prints of a telemetry record. -/
def telemLines (r : List Byte) : List String :=
  telemFields.map fun (n, off, k, signed) => kv n (if signed then decI (sext (8 * k) (fld r off k)) else dec (fld r off k))

/-- The lines of `power`: those of the last telemetry record, and none before the first. -/
def Dev.powerLines (d : Dev) : List String := (d.pwr.telem.getLast?.map telemLines).getD []

theorem powerLines_length (d : Dev) : d.powerLines.length = if d.pwr.telem = [] then 0 else telemFields.length := by
  cases hlast : d.pwr.telem.getLast? with
  | none => simp [Dev.powerLines, List.getLast?_eq_none_iff.mp hlast]
  | some r =>
    have hne : d.pwr.telem ≠ [] := fun h => by simp [h] at hlast
    simp [Dev.powerLines, hlast, hne, telemLines]

@[simp] theorem typed_telem (s : State) (line : String) : (s.typed line).dev.pwr.telem = s.dev.pwr.telem := rfl

theorem exec_consolePower (hup : s.dev.consoleUp = true) (hrom : s.dev.svc.rom = false) :
    exec .consolePower s = .next (s.commit (((s.typed "power").linesOut s.dev.powerLines).final 0 0)) := by
  refine (run_console hup hrom rfl).trans ?_
  cases hlast : s.dev.pwr.telem.getLast? with
  | none => simp only [typed_telem, hlast, Dev.powerLines]; rfl
  | some r => simp only [typed_telem, hlast, Dev.powerLines]; rfl

theorem exec_consoleStore (hup : s.dev.consoleUp = true) (hrom : s.dev.svc.rom = false) :
    ∃ ls, exec .consoleStore s = .next (s.commit (((s.typed "store").linesOut ls).final 0 0)) ∧ ls.length = storeFields.length :=
  ⟨_, run_console hup hrom rfl, List.length_map ..⟩

/-- `log` prints the records picked; a severity above FATAL is BAD_PARAM. -/
theorem exec_consoleLog (start sev : Nat) (hup : s.dev.consoleUp = true) (hrom : s.dev.svc.rom = false) :
    exec (.consoleLog start sev) s = .next (s.commit (if 3 < sev then (s.typed ("log " ++ dec start ++ " " ++ dec sev)).final 0x04 0
      else ((s.typed ("log " ++ dec start ++ " " ++ dec sev)).linesOut ((s.dev.log.pick start sev 62).map LogRec.line)).final 0 0)) :=
  run_console hup hrom rfl

theorem exec_consoleRegRd {addr : Word} {count : Nat} (hup : s.dev.consoleUp = true) (hrom : s.dev.svc.rom = false) (hpos : count ≠ 0)
    (hmax : count ≤ 256) (hrange : rangeOk addr.toNat count = true) (hreg : s.dev.regUp addr.toNat = true) {x : List Nat × W}
    (hx : (s.typed ("reg rd " ++ hex32 addr.toNat ++ " " ++ dec count)).readRegs addr.toNat count = x) :
    exec (.consoleRegRd addr count) s = .next (s.commit ((x.2.linesOut (x.1.zipIdx.map fun v =>
      hex32 (addr.toNat + 4 * v.2) ++ " " ++ hex32 v.1)).final 0 0)) := by
  refine (run_console hup hrom rfl).trans ?_
  rw [if_neg (by simp [hpos, hmax, hrange]), if_neg (by simp [hreg]), ← hx]

/-! ### Lines that name no command (R652, R654, R658) -/

/-- A line that is not empty, not too long and names no other command comes to `help`. -/
theorem exec_consoleHelp {bs : List Byte} (hup : s.dev.consoleUp = true) (hrom : s.dev.svc.rom = false) (hne : bs ≠ [])
    (hlen : bs.length ≤ 255) (hother : consoleWords.contains (firstWord bs) = false) :
    exec (.consoleHelp bs) s = .next (s.commit (if lineText bs = "help" then ((s.typed (lineText bs)).linesOut helpLines).final 0 0
      else (s.typed (lineText bs)).final 0x03 0)) := by
  have hnone : bs.isEmpty = false := List.isEmpty_eq_false_iff.mpr hne
  change execConsoleHelp bs s = _
  simp only [execConsoleHelp, hnone, hother, Nat.not_lt.mpr hlen, Bool.and_false, Bool.or_self, Bool.false_eq_true, if_false]
  exact run_console hup hrom rfl

/-- A line of more than 255 characters is echoed and refused, uncounted. -/
theorem exec_consoleHelp_long {bs : List Byte} (hup : s.dev.consoleUp = true) (hlen : 255 < bs.length) :
    exec (.consoleHelp bs) s = .next (s.commit ((s.work.line (lineText bs)).final 0x04 0)) := by
  have hne : bs.isEmpty = false := List.isEmpty_eq_false_iff.mpr fun h => by simp [h] at hlen
  change execConsoleHelp bs s = _
  simp only [execConsoleHelp, run_next, State.work_dev, hne, Nat.not_le.mpr hlen, hlen, hup, decide_false, Bool.false_and, Bool.or_self,
    Bool.false_eq_true, if_false, if_true]

/-- What the boot ROM's console answers to a text (R654). -/
def W.romAnswer (w : W) (t : String) : W :=
  if t = "id" then (w.line w.dev.idLine).final 0 0
  else if t = "status" then (w.line w.dev.statusLine).final 0 0
  else if t = "ladder" then (w.line w.dev.ladderLine).final 0 0
  else w.final 0x03 0

theorem exec_romConsoleCommand {bs : List Byte} (hup : s.dev.consoleUp = true) (hrom : s.dev.svc.rom = true) (hne : bs ≠ [])
    (hlen : bs.length ≤ 255) :
    exec (.romConsoleCommand bs) s = .next (s.commit ((s.typed (lineText bs)).romAnswer (lineText bs))) := by
  have hnone : bs.isEmpty = false := List.isEmpty_eq_false_iff.mpr hne
  change execRomConsoleCommand bs s = _
  simp only [execRomConsoleCommand, run_next, State.work_dev, hrom, hnone, Nat.not_lt.mpr hlen, Bool.not_true, Bool.or_self,
    Bool.false_eq_true, if_false]
  exact run_romConsole hup

theorem romAnswer_unknown (w : W) {t : String} (h : t ∉ ["id", "status", "ladder"]) : w.romAnswer t = w.final 0x03 0 := by
  simp only [List.mem_cons, List.not_mem_nil, or_false, not_or] at h
  obtain ⟨hid, hstatus, hladder⟩ := h
  rw [W.romAnswer, if_neg hid, if_neg hstatus, if_neg hladder]

/-- Without the boot ROM's console its row has no effect. -/
theorem exec_romConsoleCommand_notRom (bs : List Byte) (hrom : s.dev.svc.rom = false) : exec (.romConsoleCommand bs) s = .next s := by
  change execRomConsoleCommand bs s = _
  simp only [execRomConsoleCommand, run_next, State.work_dev, hrom, Bool.not_false, Bool.true_or, if_true, commit_work]

end

/-- Settles O42: behind the gate each reading prints its lines. -/
theorem consoleReadingsAnswer : Obligations.ConsoleReadingsAnswer := by
  unfold Obligations.ConsoleReadingsAnswer
  refine ⟨?both, ?plain, ?log, ?regRd, ?unknown, ?long, ?rom, fun bs s hrom => exec_romConsoleCommand_notRom bs hrom⟩
  case both => exact fun s hup => ⟨run_romConsole hup, run_romConsole hup, run_romConsole hup⟩
  case plain =>
    intro s hup hrom
    refine ⟨?help, run_console hup hrom rfl, run_console hup hrom rfl, run_console hup hrom rfl, exec_consoleTemps hup hrom,
      ⟨_, exec_consolePower hup hrom, powerLines_length _⟩, exec_consoleStore hup hrom⟩
    case help =>
      have htext : lineText (ascii "help") = "help" := by decide
      refine (exec_consoleHelp hup hrom (by decide) (by decide) (by decide)).trans ?_
      rw [if_pos htext, htext]
  case log =>
    intro start sev s hup hrom
    have h := exec_consoleLog start sev hup hrom
    refine ⟨fun hsev => h.trans ?_, fun hsev => h.trans ?_⟩
    · rw [if_neg (Nat.not_lt.mpr hsev)]
    · rw [if_pos hsev]
  case regRd =>
    exact fun addr count s hup hrom hpos hmax hrange hreg => exec_consoleRegRd hup hrom hpos hmax hrange hreg rfl
  case unknown =>
    intro bs s hup hrom hne hlen hother hhelp
    rw [exec_consoleHelp hup hrom hne hlen hother, if_neg hhelp]
  case long => exact fun bs s hup hlen => exec_consoleHelp_long hup hlen
  case rom =>
    intro bs s hup hrom hne hlen
    have h := exec_romConsoleCommand hup hrom hne hlen
    refine ⟨fun ht => h.trans ?_, fun ht => h.trans ?_, fun ht => h.trans ?_, fun ht => h.trans ?_⟩
    · rw [ht]; rfl
    · rw [ht]; rfl
    · rw [ht]; rfl
    · rw [romAnswer_unknown _ ht]

end Sys2Proof.Machine
end

section
/-! PROOFS. The PPS input, TIME_SET and the SMBus (R521, R681, R682, R685, R686). -/

namespace Sys2Proof.Machine

section
variable {s : State}

/-! ### Commands with one small effect -/

/-- A command that changes the clock alone. -/
theorem commit_onClk (s : State) (f : Clk → Clk) : s.commit (s.work.onClk f) = { s with dev := { s.dev with clk := f s.dev.clk } } := by
  rw [commit_of_wr_nil s rfl]; simp

/-- A command that sends one message alone. -/
theorem commit_send (s : State) (t : Tx) : s.commit (s.work.send t) = { s with tx := s.tx ++ [t] } := by
  rw [commit_of_wr_nil s rfl]; simp

/-- The SMBus answers while the hub has power (R681). -/
theorem run_smb (hup : s.dev.hub.st ≠ .off) (bs : List Byte) :
    run s (fun w => w.smb bs) = .next { s with tx := s.tx ++ [.smb bs] } := by
  rw [run_next, ← commit_send s (.smb bs)]
  simp only [W.smb, State.work_dev, hubUp_of_ne_off hup, if_true]

/-! ### The PPS input (R521, R685, R686) -/

/-- The clock at a PPS edge (R685): the last edges, the input's validity, and the seconds that a valid edge applies or slews to. -/
def Clk.edge (c : Clk) : Clk :=
  let es := (c.ppsEdges ++ [c.mono]).drop (c.ppsEdges.length - 2)
  let ok := match es with
    | [a, b, e] => secondApart a b && secondApart b e
    | _ => false
  let c := { c with ppsEdges := es, ppsValid := c.ppsValid || ok }
  if !c.ppsValid then c
  else match c.timeSet with
    | some (t, _) => c.setTo (t * 1000000000)
    | none =>
      if c.unset then c
      else { c with slew := (((c.now + 500000000) / 1000000000 * 1000000000 : Nat) : Int) - (c.now : Int) }

/-- The clock when no edge has come for 1.5 s (R685, R686). -/
def Clk.ppsLost (c : Clk) : Clk :=
  if (c.ppsEdges.getLast?.map fun t => decide (t + 1500000000 ≤ c.mono)).getD false then
    match c.timeSet with
    | some (t, at') => { c with ppsEdges := [], ppsValid := false }.setTo (t * 1000000000 + (c.mono - at'))
    | none => { c with ppsEdges := [], ppsValid := false }
  else c

theorem exec_ppsEdge (hup : s.dev.hub.st ≠ .off) : exec .ppsEdge s = .next (s.commit (s.work.onClk Clk.edge)) := by
  change execPpsEdge s = _
  simp only [execPpsEdge, run_next, State.work_dev, hubUp_of_ne_off hup, Bool.not_true, Bool.false_eq_true, if_false]
  rfl

theorem exec_ppsTimeout (hup : s.dev.hub.st ≠ .off) : exec .ppsTimeout s = .next (s.commit (s.work.onClk Clk.ppsLost)) := by
  change execPpsTimeout s = _
  simp only [execPpsTimeout, run_next, State.work_dev, hubUp_of_ne_off hup, Bool.not_true, Bool.false_eq_true, if_false]
  rfl

/-- A third edge a second after the second, itself a second after the first, makes the input valid. -/
theorem edge_third {c : Clk} {a b : Nat} (hedges : c.ppsEdges = [a, b]) (hunset : c.unset = true) (hset : c.timeSet = none)
    (hfirst : secondApart a b = true) (hsecond : secondApart b c.mono = true) :
    c.edge = { c with ppsEdges := [a, b, c.mono], ppsValid := true } := by
  simp [Clk.edge, hedges, hfirst, hsecond, hset, hunset]

/-- A valid edge applies a TIME_SET that waits. -/
theorem edge_timeSet {c : Clk} {t m : Nat} (hvalid : c.ppsValid = true) (hset : c.timeSet = some (t, m)) :
    c.edge.now = t * 1000000000 ∧ c.edge.unset = false ∧ c.edge.timeSet = none := by
  simp [Clk.edge, Clk.setTo, hvalid, hset]

/-- The loss of the input applies a TIME_SET that waits, with the time since it. -/
theorem ppsLost_timeSet {c : Clk} {t m l : Nat} (hlast : c.ppsEdges.getLast? = some l) (hlate : l + 1500000000 ≤ c.mono)
    (hset : c.timeSet = some (t, m)) :
    c.ppsLost.ppsValid = false ∧ c.ppsLost.unset = false ∧ c.ppsLost.now = t * 1000000000 + (c.mono - m) := by
  simp [Clk.ppsLost, Clk.setTo, hlast, hlate, hset]

/-! ### TIME_SET (R686) -/

/-- The clock at a TIME_SET. -/
def Clk.setSeconds (c : Clk) (sec : Nat) : Clk :=
  if !c.unset then c else if c.ppsValid then { c with timeSet := some (sec, c.mono) } else c.setTo (sec * 1000000000)

theorem exec_timeSet (sec : DWord) (hup : s.dev.hub.st ≠ .off) :
    exec (.timeSet sec true) s = .next { s with dev := { s.dev with clk := s.dev.clk.setSeconds sec.toNat } } := by
  rw [← commit_onClk s fun c => c.setSeconds sec.toNat]
  change execTimeSet sec true s = _
  simp only [execTimeSet, run_next, State.work_dev, hubUp_of_ne_off hup, Bool.not_true, Bool.false_eq_true, if_false]
  rfl

/-! ### The SMBus (R681, R682) -/

/-- A write whose PEC is wrong is NAKed. -/
theorem exec_wrongPec (sec : DWord) (id : BitVec 16) (hup : s.dev.hub.st ≠ .off) :
    exec (.timeSet sec false) s = .next { s with tx := s.tx ++ [.smbNak] } ∧
      exec (.spareAck id false) s = .next { s with tx := s.tx ++ [.smbNak] } := by
  constructor
  · change execTimeSet sec false s = _
    simp [execTimeSet, run_next, hubUp_of_ne_off hup, commit_send]
  · change execSpareAck id false s = _
    simp [execSpareAck, run_next, hubUp_of_ne_off hup, commit_send]

theorem exec_smbUndefinedCode {code : Byte} (hup : s.dev.hub.st ≠ .off) (hcode : code.toNat ∉ [0x01, 0x02, 0x03, 0x10, 0x11, 0x20]) :
    exec (.smbUndefinedCode code) s = .next { s with tx := s.tx ++ [.smbNak] } := by
  have hout : ([0x01, 0x02, 0x03, 0x10, 0x11, 0x20] : List Nat).contains code.toNat = false := by
    rw [← Bool.not_eq_true, List.contains_iff_mem]; exact hcode
  change execSmbUndefinedCode code s = _
  simp only [execSmbUndefinedCode, run_next, State.work_dev, hubUp_of_ne_off hup, hout, Bool.not_false, Bool.and_self, if_true,
    commit_send]

/-- A read of the oldest spare request gives its bytes, or zeros where there is none. -/
theorem exec_spareReq (hup : s.dev.hub.st ≠ .off) :
    exec .spareReq s = .next { s with tx := s.tx ++ [.smb ((s.dev.sys.reqs.head?.map s.dev.reqBytes).getD (zeros 16))] } :=
  run_smb hup _

/-- The module answers an alert response while a spare request waits. -/
theorem exec_alertResponse {r : SpareReq} {l : List SpareReq} (hup : s.dev.hub.st ≠ .off) (hreqs : s.dev.sys.reqs = r :: l) :
    exec .alertResponse s = .next { s with tx := s.tx ++ [.smb (toLe 1 (2 * (0x40 + s.dev.pin.slotId)))] } := by
  rw [← run_smb hup]
  change execAlertResponse s = _
  simp only [execAlertResponse, run_next, State.work_dev, hreqs, List.isEmpty_cons, Bool.false_eq_true, if_false]

theorem exec_alertResponse_none (hreqs : s.dev.sys.reqs = []) : exec .alertResponse s = .next s := by
  change execAlertResponse s = _
  simp only [execAlertResponse, run_next, State.work_dev, hreqs, List.isEmpty_nil, if_true, commit_work]

/-- An acknowledged spare request is removed. -/
theorem exec_spareAck (id : BitVec 16) (hup : s.dev.hub.st ≠ .off) :
    exec (.spareAck id true) s = .next { s with dev := { s.dev with sys := { s.dev.sys with
      reqs := s.dev.sys.reqs.filter fun r => r.id != id.toNat } } } := by
  change execSpareAck id true s = _
  simp only [execSpareAck, run_next, State.work_dev, hubUp_of_ne_off hup, Bool.not_true, Bool.false_eq_true, if_false]
  rw [commit_of_wr_nil s rfl]
  simp

end

/-- Settles O25: each clause is its event's lemma above. -/
theorem ppsAndSmbusAct : Obligations.PpsAndSmbusAct := by
  unfold Obligations.PpsAndSmbusAct
  refine ⟨?third, ?edge, ?lost, ?atOnce, ?waits, ?isSet, ?pec, ?undefined, ?reads, ?noReq, ?req, ?ack⟩
  case third =>
    intro s a b hup hedges _ hunset hset hfirst hsecond
    rw [exec_ppsEdge hup, commit_onClk, edge_third hedges hunset hset hfirst hsecond]
  case edge => exact fun s t m hup hvalid hset => ⟨_, exec_ppsEdge hup, edge_timeSet hvalid hset⟩
  case lost => exact fun s t m l hup hlast hlate hset => ⟨_, exec_ppsTimeout hup, ppsLost_timeSet hlast hlate hset⟩
  case atOnce => exact fun sec s hup hunset hvalid => by rw [exec_timeSet sec hup]; simp [Clk.setSeconds, Clk.setTo, hunset, hvalid]
  case waits => exact fun sec s hup hunset hvalid => by rw [exec_timeSet sec hup]; simp [Clk.setSeconds, hunset, hvalid]
  case isSet => exact fun sec s hup hset => by rw [exec_timeSet sec hup]; simp [Clk.setSeconds, hset]
  case pec => exact fun sec id s hup => exec_wrongPec sec id hup
  case undefined => exact fun code s hup hcode => exec_smbUndefinedCode hup hcode
  case reads => exact fun s hup => ⟨run_smb hup _, run_smb hup _, run_smb hup _⟩
  case noReq =>
    intro s hup hreqs
    refine ⟨(exec_spareReq hup).trans ?_, exec_alertResponse_none hreqs⟩
    rw [hreqs]; rfl
  case req =>
    intro s r l hup hreqs
    refine ⟨(exec_spareReq hup).trans ?_, exec_alertResponse hup hreqs⟩
    rw [hreqs]; rfl
  case ack => exact fun id s hup => exec_spareAck id hup

end Sys2Proof.Machine
end

section
/-! PROOFS. What power control's settling, the messages of links and records of the error log leave of the device. -/

namespace Sys2Proof.Machine

/-! ### Messages of links (R512, R513) -/

/-- A view of the device that shows nothing of its logical links and of its place in its system. -/
structure Unlinked {α : Type} (g : Dev → α) : Prop where
  llinks : ∀ d x, g { d with llinks := x } = g d
  sys : ∀ d x, g { d with sys := x } = g d

section
variable {α : Type} {g : Dev → α} (hg : Unlinked g)
include hg

theorem Unlinked.emit (w : W) (k seq type : Nat) (b : List Byte) : g (w.emit k seq type b).dev = g w.dev := by
  simp only [W.emit]
  split
  · split
    · rfl
    · exact hg.llinks ..
  · rfl

theorem Unlinked.pumpLink (w : W) (k fuel : Nat) : g (pumpLink w k fuel).dev = g w.dev := by
  induction fuel generalizing w with
  | zero => rfl
  | succ n ih =>
    simp only [Machine.pumpLink]
    split
    · rfl
    · split
      · rfl
      · rw [ih, hg.emit]; exact hg.llinks ..

theorem Unlinked.sendMsg (w : W) (k : Nat) (m : List Byte) : g (w.sendMsg k m).dev = g w.dev := by
  rw [W.sendMsg, W.pump, hg.pumpLink]; exact hg.llinks ..

theorem Unlinked.flood (w : W) (mtype group : Nat) (b : List Byte) : g (w.flood mtype group b).dev = g w.dev :=
  (foldl_keeps (fun w (x : Nat × Link) => hg.sendMsg w x.2.logical _) _ _).trans (hg.sys ..)

end

theorem unlinked_pwr : Unlinked Dev.pwr := ⟨fun _ _ => rfl, fun _ _ => rfl⟩

/-! ### Power control (R516, R517, R530) -/

/-- Power control but for what follows the limits: the step, a raise of it, the ceiling, and the steps noted for telemetry. -/
def Pwr.loops (p : Pwr) : Pwr := { p with step := 0, raise := none, ceil := 0, ceilUpAt := none, secStepMin := none, secStepMax := 0 }

/-- The device's power control as `Pwr.loops` shows it. -/
def Dev.loops (d : Dev) : Pwr := d.pwr.loops

theorem lowerStep_loops (w : W) (n : Nat) : (w.lowerStep n).dev.loops = w.dev.loops := rfl

theorem raiseStep_loops (w : W) (n : Nat) : (w.raiseStep n).dev.loops = w.dev.loops := by
  simp only [W.raiseStep]
  repeat' split
  all_goals rfl

theorem floodStep_loops (w : W) (n reason : Nat) : (w.floodStep n reason).dev.loops = w.dev.loops := by
  simp only [W.floodStep]
  split
  · exact congrArg Pwr.loops (unlinked_pwr.flood ..)
  · rfl

theorem settleCeil_loops (w : W) : w.settleCeil.dev.loops = w.dev.loops := by
  simp only [W.settleCeil, W.noteCeil, W.onSys_dev, W.onPwr_dev, Dev.loops]
  repeat' split
  all_goals rfl

/-- A raise given up leaves what the limits say. -/
theorem dropRaise_loops (w : W) : (w.onPwr fun p => { p with raise := none }).dev.loops = w.dev.loops := rfl

theorem settleStep_loops (w : W) : w.settleStep.dev.loops = w.dev.loops := by
  simp only [W.settleStep]
  repeat' split
  all_goals simp only [floodStep_loops, lowerStep_loops, raiseStep_loops, dropRaise_loops, settleCeil_loops]

/-- A change of the limits changes the limits, and what follows them. -/
theorem onLim_loops (w : W) (f : Limits → Limits) : (w.onLim f).dev.loops = { w.dev.loops with lim := f w.dev.pwr.lim } := by
  rw [W.onLim, settleStep_loops]; rfl

@[simp] theorem onLim_lim (w : W) (f : Limits → Limits) : (w.onLim f).dev.pwr.lim = f w.dev.pwr.lim :=
  (congrArg Pwr.lim (onLim_loops w f) :)

@[simp] theorem onLim_thermDown (w : W) (f : Limits → Limits) : (w.onLim f).dev.pwr.thermDown = w.dev.pwr.thermDown :=
  (congrArg Pwr.thermDown (onLim_loops w f) :)

@[simp] theorem onLim_hbmMax (w : W) (f : Limits → Limits) : (w.onLim f).dev.pwr.hbmMax = w.dev.pwr.hbmMax :=
  (congrArg Pwr.hbmMax (onLim_loops w f) :)

@[simp] theorem onLim_hub (w : W) (f : Limits → Limits) : (w.onLim f).dev.hub = w.dev.hub :=
  (steady_hub.settleStep _).trans rfl

@[simp] theorem onLim_pin (w : W) (f : Limits → Limits) : (w.onLim f).dev.pin = w.dev.pin :=
  (steady_pin.settleStep _).trans rfl

/-! ### Records of the error log (R581 to R583) and of the journal (R596) -/

/-- A record of the journal leaves the counter frame and the live records: it is live once its transaction is committed (R595). -/
theorem journal_store (w : W) (now : Bool) (rs : List (Nat × Nat × Nat × Bool × List Byte)) :
    ∃ x, (w.journal now rs).dev = { w.dev with store := x } ∧ x.frame = w.dev.store.frame ∧ x.live = w.dev.store.live := by
  simp only [W.journal]
  split
  · exact ⟨_, rfl, rfl, rfl⟩
  · exact ⟨_, rfl, rfl, rfl⟩

/-- A view of the device that shows nothing of the error log, and of the store only the live records and the counter frame but for
its counts of kinds. -/
structure Unlogged {α : Type} (g : Dev → α) : Prop where
  log : ∀ d x, g { d with log := x } = g d
  store : ∀ d x, x.live = d.store.live → x.frame = { d.store.frame with kinds := x.frame.kinds } → g { d with store := x } = g d

section
variable {α : Type} {g : Dev → α} (hg : Unlogged g)
include hg

theorem Unlogged.onLog (w : W) (f : Log → Log) : g (w.onLog f).dev = g w.dev := hg.log ..

theorem Unlogged.countKind (w : W) (kind : Nat) : g (w.countKind kind).dev = g w.dev := hg.store _ _ rfl rfl

theorem Unlogged.journal (w : W) (now : Bool) (rs : List (Nat × Nat × Nat × Bool × List Byte)) :
    g (w.journal now rs).dev = g w.dev := by
  obtain ⟨x, hx, hframe, hlive⟩ := journal_store w now rs
  rw [hx]
  exact hg.store _ _ hlive (by rw [hframe])

/-- A record of the error log changes the log, the counts of kinds, and what the journal takes of it. -/
theorem Unlogged.logRec (w : W) (kind die tag handle unit addr : Nat) (data : List Byte) :
    g (w.logRec kind die tag handle unit addr data).dev = g w.dev := by
  simp only [W.logRec]
  repeat' split
  all_goals simp only [hg.journal, hg.onLog, hg.countKind]

end

end Sys2Proof.Machine
end

section
/-! PROOFS. The loops of power control (R529, R534 to R537, R542, R545). -/

namespace Sys2Proof.Machine

section
variable {s : State}

/-! ### The current guard (R535) -/

theorem exec_currentGuardSample_over {mv ma : Nat} (hup : s.dev.hub.st ≠ .off) (hrails : s.dev.hub.rails = true) (hover : 102500 < ma) :
    exec (.currentGuardSample mv ma) s = .next (s.commit ((s.work.takeSample mv ma).guardAct (s.dev.pwr.step - 2))) := by
  have hon : (s.work.takeSample mv ma).dev.hub.rails = true := hrails
  change execCurrentGuardSample mv ma s = _
  simp only [execCurrentGuardSample, run_next, State.work_dev, hubUp_of_ne_off hup, hon, hover, Bool.not_true, Bool.false_eq_true,
    decide_true, Bool.true_or, if_true, if_false]
  rfl

theorem exec_currentGuardSample_noRails (mv ma : Nat) (hup : s.dev.hub.st ≠ .off) (hrails : s.dev.hub.rails = false) :
    exec (.currentGuardSample mv ma) s = .next (s.commit (s.work.takeSample mv ma)) := by
  have hoff : (s.work.takeSample mv ma).dev.hub.rails = false := hrails
  change execCurrentGuardSample mv ma s = _
  simp only [execCurrentGuardSample, run_next, State.work_dev, hubUp_of_ne_off hup, hoff, Bool.not_true, Bool.not_false,
    Bool.false_eq_true, if_true, if_false]

/-! ### The gauge (R536, R537) -/

/-- Power above the gauge with no earlier lowering of the loop's limit lowers it. -/
theorem exec_gaugeLoop_above (hrails : s.dev.hub.rails = true) (habove : ((s.dev.gauge : Nat) : Rat) < s.dev.pwr.gaugePower)
    (hfirst : s.dev.pwr.lastDown = none) :
    exec .gaugeLoop s = .next (s.commit (((s.work.onPwr fun p =>
      { p with zeroSince := if p.step = 0 then some (p.zeroSince.getD s.dev.clk.mono) else none }).onPwr fun p =>
        { p with lastDown := some s.dev.clk.mono, gaugeUnreached := p.gaugeUnreached }).onLim fun l =>
          { l with gauge := s.dev.pwr.step - 1 })) := by
  change execGaugeLoop s = _
  simp only [execGaugeLoop, run_next, State.work_dev, hrails, habove, habove.le, hfirst, holdsSince, Bool.not_true, Bool.false_eq_true,
    decide_true, Bool.and_true, decide_eq_true_eq, Option.map_none, Option.getD_none, if_true, if_false]

theorem exec_gaugeUnreached {t : Nat} (hsince : s.dev.pwr.zeroSince = some t) (hlong : t + 100000000 ≤ s.dev.clk.mono)
    (hunset : s.dev.pwr.gaugeUnreached = false) (hrails : s.dev.hub.rails = true) :
    exec .gaugeUnreached s = .next (s.commit ((s.work.onPwr fun p => { p with gaugeUnreached := true }).logHub 0x0032 s.dev.gauge [])) := by
  have hlong' : t + 100 * msNs ≤ s.dev.clk.mono := hlong
  change execGaugeUnreached s = _
  simp only [execGaugeUnreached, run_next, State.work_dev, hsince, hlong', hunset, hrails, decide_true, Bool.not_false, Bool.and_self,
    if_true]

theorem exec_gaugeUnreached_none (hsince : s.dev.pwr.zeroSince = none) : exec .gaugeUnreached s = .next s := by
  change execGaugeUnreached s = _
  simp only [execGaugeUnreached, run_next, State.work_dev, hsince, commit_work]

/-! ### Temperature (R542, R545) -/

/-- A sensor above its target with no earlier lowering of the thermal limit lowers it. -/
theorem exec_thermalLoop_hot {sensors hbm : List Int} (hrails : s.dev.hub.rails = true) (hsensors : sensors.length = 260)
    (hstacks : hbm.length = 24) (hfirst : s.dev.pwr.thermDown = none) (hhot : s.dev.pwr.targets.2 < (hottest hbm).2) :
    ∃ w, exec (.thermalLoop sensors hbm) s = .next (s.commit w) ∧ w.dev.pwr.lim.thermal = s.dev.pwr.lim.thermal - 1 ∧
      w.dev.pwr.thermDown = some s.dev.clk.mono ∧ w.dev.pwr.hbmMax = hottest hbm := by
  refine ⟨_, rfl, ?_⟩
  simp [hrails, hsensors, hstacks, hfirst, hhot]

/-- The limit that the inlet temperature sets. -/
theorem exec_coolantInletRead {t : Int} (hup : s.dev.hub.st ≠ .off) (hflow : s.dev.pin.flowOk = true)
    (hsteady : s.dev.pin.flowHighAt = none) :
    exec (.coolantInletRead t) s = .next (s.commit ((s.work.onPin fun p => { p with inlet := t }).onLim fun l =>
      { l with coolant := if t ≤ 450 then 18 else 18 - 2 * ((t - 450 + 9) / 10).toNat })) := by
  change execCoolantInletRead t s = _
  simp only [execCoolantInletRead, run_next, State.work_dev, hubUp_of_ne_off hup, W.onPin_dev, hflow, hsteady, Bool.not_true,
    Bool.false_eq_true, Option.isSome_none, Bool.or_self, if_false]

/-- The number of degrees begun above 45.0. -/
theorem degreesBegun {t : Int} {n : Nat} (habove : 450 + 10 * (n : Int) < t) (hnext : t ≤ 460 + 10 * (n : Int)) :
    ((t - 450 + 9) / 10).toNat = n + 1 := by omega

/-! ### A raise of the step (R529) -/

theorem exec_railSettled {die t : Nat} {ds : List Nat} (hraise : s.dev.pwr.raise = some (t, ds)) (hdie : die < 4) (hnew : die ∉ ds) :
    exec (.railSettled die) s = .next (s.commit (if ds.length = 3 then
      (s.work.onPwr fun p => { p with step := t, raise := none }).noteStep
      else s.work.onPwr fun p => { p with raise := some (t, die :: ds) })) := by
  change execRailSettled die s = _
  simp [execRailSettled, run_next, hraise, hnew, hdie.not_ge]

/-! ### Droops (R534) -/

theorem core_onCore_self (w : W) (n : Nat) (f : Core → Core) : (w.onCore n f).dev.core n = f (w.dev.core n) :=
  Tab.getD_upd_self ..

theorem exec_droop {core mv : Nat} (hcore : core < 256) (hrails : s.dev.hub.rails = true) (hdeep : 30 ≤ mv) :
    exec (.droop core mv) s = .next (s.commit ((s.work.onPwr fun p => { p with droopCnt := satAdd 32 p.droopCnt 1 }).onCore core fun c =>
      { c with droop := max c.droop (if 50 ≤ mv then 2 else 1), droopAt := s.dev.clk.mono })) := by
  have hsteps : droopSteps mv = if 50 ≤ mv then 2 else 1 := by rw [droopSteps, if_pos hdeep]
  have hsome : (if 50 ≤ mv then 2 else 1) ≠ 0 := by split <;> decide
  have hin : ¬ 260 ≤ core := by omega
  change execDroop core mv s = _
  simp [execDroop, run_next, hsteps, hsome, hin, hcore, hrails]

/-- A fall of less than 30 mV is no droop. -/
theorem exec_droop_shallow (core : Nat) {mv : Nat} (h : mv < 30) : exec (.droop core mv) s = .next s := by
  have hnone : droopSteps mv = 0 := by rw [droopSteps, if_neg (by omega), if_neg (by omega)]
  change execDroop core mv s = _
  simp [execDroop, run_next, hnone, commit_work]

theorem exec_droopRecovery {core : Nat} (hcore : core < 256) (hlow : (s.dev.core core).droop ≠ 0)
    (hpast : (s.dev.core core).droopAt + 1000 ≤ s.dev.clk.mono) :
    exec (.droopRecovery core) s = .next (s.commit (s.work.onCore core fun c =>
      { c with droop := c.droop - 1, droopAt := s.dev.clk.mono })) := by
  change execDroopRecovery core s = _
  simp [execDroopRecovery, run_next, hcore, hlow, hpast]

end

/-- Settles O39: each loop takes the branch that its condition selects, and a change of the limits leaves what is not of the step. -/
theorem powerLoopsAct : Obligations.PowerLoopsAct := by
  unfold Obligations.PowerLoopsAct
  refine ⟨fun _ _ _ => exec_currentGuardSample_over, fun mv ma _ => exec_currentGuardSample_noRails mv ma,
    fun _ => exec_gaugeLoop_above, fun _ _ => exec_gaugeUnreached, fun _ => exec_gaugeUnreached_none,
    fun _ _ _ => exec_thermalLoop_hot, ?inlet, ?rail, ?droop, fun core _ _ => exec_droop_shallow core, ?recovery⟩
  case inlet =>
    intro t s hup hflow hsteady
    refine ⟨_, exec_coolantInletRead hup hflow hsteady, by simp, fun hcool => by simp [hcool], fun n habove hnext => ?_⟩
    have hwarm : ¬ t ≤ 450 := by omega
    simp [hwarm, degreesBegun habove hnext]
  case rail =>
    intro die t ds s hraise hdie hnew
    refine ⟨fun hmore => ?_, fun hlast => ⟨_, exec_railSettled hraise hdie hnew, ?_⟩⟩
    · rw [exec_railSettled hraise hdie hnew, if_neg hmore, commit_of_wr_nil s rfl]
      simp
    · rw [if_pos hlast]
      exact ⟨rfl, rfl⟩
  case droop =>
    exact fun core mv s hcore hrails hdeep => ⟨_, exec_droop hcore hrails hdeep, rfl, core_onCore_self ..⟩
  case recovery =>
    exact fun core s hcore hlow hpast => ⟨_, exec_droopRecovery hcore hlow hpast, core_onCore_self ..⟩

end Sys2Proof.Machine
end

section
/-! PROOFS. Energy, ageing and telemetry (R532, R548, R550 to R557). -/

namespace Sys2Proof.Machine

/-! ### The judgements at the end of a window (R554, R556) -/

/-- The measured energy: the lifetime total in the counter frame, and what power control has of it. -/
def Dev.measured (d : Dev) : Nat × Rat := (d.store.frame.energyUj, d.pwr.enMeas)

theorem unlogged_measured : Unlogged Dev.measured where
  log _ _ := rfl
  store d _ _ hframe := congrArg (fun n => (n, d.pwr.enMeas)) (congrArg Frame.energyUj hframe :)

theorem logHub_measured (w : W) (kind unit : Nat) (data : List Byte) : (w.logHub kind unit data).dev.measured = w.dev.measured :=
  unlogged_measured.logRec ..

theorem onPwr_measured (w : W) {f : Pwr → Pwr} (h : (f w.dev.pwr).enMeas = w.dev.pwr.enMeas) :
    (w.onPwr f).dev.measured = w.dev.measured := congrArg (Prod.mk _) h

theorem judgeDivergence_measured (w : W) : w.judgeDivergence.dev.measured = w.dev.measured := by
  simp only [W.judgeDivergence, apply_ite W.dev, apply_ite Dev.measured, logHub_measured, onPwr_measured, ite_self]

theorem suspect_measured (w : W) (model sensor : Bool) : (w.suspect model sensor).dev.measured = w.dev.measured := by
  simp only [W.suspect, apply_ite W.dev, apply_ite Dev.measured, logHub_measured, onPwr_measured, ite_self]

theorem judgeSensors_measured (w : W) (est meas : Rat) : (w.judgeSensors est meas).dev.measured = w.dev.measured := by
  simp only [W.judgeSensors, apply_ite W.dev, apply_ite Dev.measured, suspect_measured, onPwr_measured, ite_self]
  split
  · rfl
  · rfl

/-- A record of a transaction of its own leaves the counter frame. -/
theorem journal1_frame (w : W) (key n : Nat) (payload : List Byte) :
    (w.journal1 key n payload).dev.store.frame = w.dev.store.frame := by
  obtain ⟨x, hx, hframe, -⟩ := journal_store w (immediateKey key) [(key, w.dev.fw.info.writes key, n, false, payload)]
  rw [W.journal1, hx, hframe]

theorem journal1_pwr (w : W) (key n : Nat) (payload : List Byte) : (w.journal1 key n payload).dev.pwr = w.dev.pwr := by
  obtain ⟨x, hx, -⟩ := journal_store w (immediateKey key) [(key, w.dev.fw.info.writes key, n, false, payload)]
  rw [W.journal1, hx]

/-- What the window has estimated, over its tags. -/
def Pwr.windowEst (p : Pwr) : Rat := p.winEst.foldl (fun a t => a + t.2) 0

/-- A window's totals, once it has been judged (R552, R553, R555). -/
def W.closeWindow (w : W) (uj : Nat) (est : Rat) : W :=
  let w := w.onStore fun s => { s with frame := { s.frame with energyUj := (s.frame.energyUj + uj) % 2 ^ 64 } }
  let w := w.onPwr fun p =>
    { p with
      en := (p.shares est uj).foldl (fun t (k, e) => Tab.upd t k 0 (· + e)) p.en
      enMeas := p.enMeas + uj, enEst := p.enEst + est
      secMeas := p.secMeas + uj, secEst := p.secEst + est
      coef := p.refit (uj * 1000000)
      winCnt := [], winEst := [] }
  if w.dev.pwr.coefSaved + 86400000000000 ≤ w.dev.clk.mono then
    (w.onPwr fun p => { p with coefSaved := w.dev.clk.mono }).journal1 0x0023 0 (w.dev.pwr.coef.flatMap fun c => toLe 4 (coefBits c))
  else w

/-- A window's end adds to the totals, whether or not it saves the coefficients. -/
theorem closeWindow_totals {w : W} {d : Dev} (h : w.dev.measured = d.measured) (uj : Nat) (est : Rat) :
    (w.closeWindow uj est).dev.store.frame.energyUj = (d.store.frame.energyUj + uj) % 2 ^ 64 ∧
      (w.closeWindow uj est).dev.pwr.winCnt = [] ∧ (w.closeWindow uj est).dev.pwr.winEst = [] ∧
      (w.closeWindow uj est).dev.pwr.enMeas = d.pwr.enMeas + (uj : Rat) := by
  have hframe : w.dev.store.frame.energyUj = d.store.frame.energyUj := congrArg Prod.fst h
  have hpwr : w.dev.pwr.enMeas = d.pwr.enMeas := congrArg Prod.snd h
  rw [← hframe, ← hpwr]
  simp only [W.closeWindow]
  split
  · rw [journal1_frame, journal1_pwr]; exact ⟨rfl, rfl, rfl, rfl⟩
  · exact ⟨rfl, rfl, rfl, rfl⟩

section
variable {s : State}

/-! ### The events -/

theorem exec_energyTick (counts : List (Nat × Nat)) (hup : s.dev.hub.st ≠ .off) :
    exec (.energyTick counts) s = .next (s.commit ((counts.foldl (fun w k => w.energyCount k.1 k.2)
      (s.work.onPwr fun p => { p with estTicks := ((0, 0) :: p.estTicks).take 1000 })).chargeTick)) := by
  change execEnergyTick counts s = _
  simp only [execEnergyTick, run_next, State.work_dev, hubUp_of_ne_off hup, Bool.not_true, Bool.false_eq_true, if_false]

theorem exec_energyWindowEnd (uj : Nat) (hup : s.dev.hub.st ≠ .off) :
    exec (.energyWindowEnd uj) s = .next (s.commit (((s.work.onPwr fun p =>
      { p with gap := windowGap s.dev.pwr.windowEst uj }).judgeDivergence.judgeSensors s.dev.pwr.windowEst uj).closeWindow uj
        s.dev.pwr.windowEst)) := by
  change execEnergyWindowEnd uj s = _
  simp only [execEnergyWindowEnd, run_next, State.work_dev, hubUp_of_ne_off hup, Bool.not_true, Bool.false_eq_true, if_false]
  rfl

/-- A margin below 4 percent asks for a trim one higher. -/
theorem exec_ageingRead_small {die : Nat} {margin : Int} (hdie : die < 4) (hready : s.dev.hub.st = .ready) (hsmall : margin < 40)
    (hidle : s.dev.pwr.trimNext = none) (htrim : s.dev.pwr.trim.getD die 0 < 12) :
    exec (.ageingRead die margin) s = .next (s.commit ((s.work.onPwr fun p =>
      { p with trimNext := some (listSet s.dev.pwr.trim die (· + 1)) }).saveAgeTrim (listSet s.dev.pwr.trim die (· + 1)))) := by
  have hd : ¬ 4 ≤ die := by omega
  have hm : ¬ 40 ≤ margin := by omega
  have ht : ¬ 12 ≤ s.dev.pwr.trim.getD die 0 := by omega
  change execAgeingRead die margin s = _
  simp only [execAgeingRead, run_next, State.work_dev, hd, hready, hm, hidle, Option.getD_none, ht, decide_true, decide_false,
    Bool.true_or, Bool.not_true, Bool.or_self, Bool.false_eq_true, if_false]

theorem exec_ageingRead_enough (die : Nat) {margin : Int} (h : 40 ≤ margin) : exec (.ageingRead die margin) s = .next s := by
  change execAgeingRead die margin s = _
  simp only [execAgeingRead, run_next, h, decide_true, Bool.or_true, if_true, commit_work]

/-- A record joins the last 64. -/
theorem exec_telemetryRecord (hup : s.dev.hub.st ≠ .off) :
    ∃ w, exec .telemetryRecord s = .next (s.commit w) ∧
      w.dev.pwr.telem = (s.dev.pwr.telem ++ [s.dev.telemetry]).drop ((s.dev.pwr.telem.length + 1) - 64) ∧
      w.dev.pwr.telemSeq = s.dev.pwr.telemSeq + 1 := by
  refine ⟨_, rfl, ?_⟩
  simp only [State.work_dev, hubUp_of_ne_off hup, Bool.not_true, Bool.false_eq_true, if_false]
  exact ⟨rfl, rfl⟩

/-- Of a list with one element more, all but the excess over n are kept, the new one among them. -/
theorem keepLast {α : Type} (l : List α) (a : α) {n : Nat} (hn : 0 < n) :
    ((l ++ [a]).drop ((l.length + 1) - n)).getLast? = some a ∧ ((l ++ [a]).drop ((l.length + 1) - n)).length ≤ n := by
  have hkeep : ¬ l.length + 1 ≤ l.length + 1 - n := by omega
  constructor
  · rw [List.getLast?_drop, List.length_append, List.length_singleton, if_neg hkeep, List.getLast?_concat]
  · simp only [List.length_drop, List.length_append, List.length_singleton]
    omega

end

/-- Settles O40: each event's effect, with what the judgements of a window leave. -/
theorem energyAndTelemetryAct : Obligations.EnergyAndTelemetryAct := by
  unfold Obligations.EnergyAndTelemetryAct
  refine ⟨fun counts _ => exec_energyTick counts, ?window, fun _ _ _ => exec_ageingRead_small,
    fun die _ _ => exec_ageingRead_enough die, fun s hup => ?telemetry⟩
  case window =>
    intro uj s hup
    refine ⟨_, exec_energyWindowEnd uj hup, ?_⟩
    have hmeas := judgeSensors_measured (s.work.onPwr fun p => { p with gap := windowGap s.dev.pwr.windowEst uj }).judgeDivergence
      s.dev.pwr.windowEst uj
    rw [judgeDivergence_measured, onPwr_measured _ rfl] at hmeas
    exact closeWindow_totals hmeas uj _
  case telemetry =>
    obtain ⟨w, hnext, hlist, hseq⟩ := exec_telemetryRecord hup
    obtain ⟨hlast, hlength⟩ := keepLast s.dev.pwr.telem s.dev.telemetry (n := 64) (by decide)
    exact ⟨w, hnext, by rw [hlist, hlast], hseq, by rw [hlist]; exact hlength⟩

end Sys2Proof.Machine
end

section
/-! PROOFS. The commands of power and of firmware (R538 to R541, R627 to R634, R640 to R648), once admitted. -/

namespace Sys2Proof.Machine

/-! ### Packets taken, replies and channels closed leave the firmware and the fuses -/

@[simp] theorem taken_fw (s : State) (ch : Nat) (p : Packet) (psn : Nat) : (s.taken ch p psn).dev.fw = s.dev.fw :=
  taken_keeps (·.fw) (fun _ _ _ => rfl) ..

@[simp] theorem reply_fw (w : W) (ch : Nat) (h : Header) (op st d : Nat) (b : List Byte) : (w.reply ch h op st d b).dev.fw = w.dev.fw :=
  reply_keeps (·.fw) (fun _ _ _ => rfl) ..

@[simp] theorem reply_fuse (w : W) (ch : Nat) (h : Header) (op st d : Nat) (b : List Byte) :
    (w.reply ch h op st d b).dev.fuse = w.dev.fuse := reply_keeps (·.fuse) (fun _ _ _ => rfl) ..

@[simp] theorem sendOn_fuse (w : W) (ch : Nat) (t : Tx) : (w.sendOn ch t).dev.fuse = w.dev.fuse := by
  obtain ⟨l, hl⟩ := sendOn_dev w ch t
  rw [hl]

theorem undoDeliveries_fuse (w : W) (ch : Nat) : (w.undoDeliveries ch).dev.fuse = w.dev.fuse := rfl

theorem closeChan_fuse (w : W) (ch : Nat) (dreq : Bool) : (w.closeChan ch dreq).dev.fuse = w.dev.fuse := by
  cases hget : Tab.get w.dev.chans ch with
  | none => simp only [W.closeChan, hget]
  | some c =>
    simp only [W.closeChan, hget, W.onDev_dev]
    split
    · rw [sendOn_fuse, undoDeliveries_fuse]
    · exact undoDeliveries_fuse w ch

section
variable {ch : Nat} {p : Packet} {s : State} {c : Chan}

/-! ### Power (R538 to R541) -/

theorem exec_pwrGaugeSet (h : Admitted pwrGaugeSet ch p s c) : exec (.pwrGaugeSet ch p) s = .next (s.commit
    (((s.taken ch p c.psn).onPwr fun q => { q with capSet := fld p.params 0 2 }).reply ch p.hdr 0x0700 0 0
      (toLe 2 s.dev.pwr.capSet ++ zeros 2))) := by
  refine (run_admitted h).trans ?_
  simp only [pwrGaugeSet, taken_pwr]
  rfl

theorem exec_pwrStepLimit (h : Admitted pwrStepLimit ch p s c) : exec (.pwrStepLimit ch p) s = .next (s.commit
    ((((s.taken ch p c.psn).onPwr fun q => { q with stepLim := fld p.params 0 1 }).settleStep).reply ch p.hdr 0x0701 0 0
      (toLe 1 s.dev.pwr.stepLim ++ zeros 3))) := by
  refine (run_admitted h).trans ?_
  simp only [pwrStepLimit, taken_pwr]
  rfl

/-- A slot is spent, VALID where its read-back matches. -/
theorem exec_pwrCeilingRaise (h : Admitted pwrCeilingRaise ch p s c) : ∃ w, exec (.pwrCeilingRaise ch p) s = .next (s.commit w) ∧
    w.dev.fuse = { s.dev.fuse with ceiling := s.dev.fuse.ceiling ++ [(fld p.params 0 2, s.dev.slotReads)] } := by
  refine ⟨_, run_admitted h, ?_⟩
  simp only [pwrCeilingRaise, burnCeiling_eq (taken_slotReads ..), W.ok, W.failWith, apply_ite W.dev, apply_ite Dev.fuse, reply_fuse,
    W.onDev_dev, taken_fuse, ite_self]
  rfl

/-! ### Firmware (R628 to R634, R640 to R644) -/

/-- A block that is not held is read from its place in the staging buffer, and checked. -/
theorem fwBlockCommit_body {x : Ctx} {w : W} {u : Upd} {b : Buf} (hnew : x.heldAlready w = false) (hupd : x.upd w = some u)
    (hbuf : Tab.get w.dev.bufs (hIdx u.stageBuf) = some b) :
    fwBlockCommit.body x w = w.withPages x [(b.base + x.f 8 8, 4096)] fun w =>
      if crc32c (w.readVa (b.base + x.f 8 8) 4096) != x.f 4 4 || w.poisonVa (b.base + x.f 8 8) 4096 then
        w.failWith x ⟨0x0E, crc32c (w.readVa (b.base + x.f 8 8) 4096), []⟩
      else w.pend x (.fwCommit x.idx (x.f 0 4) (w.readVa (b.base + x.f 8 8) 4096)) := by
  simp only [fwBlockCommit, hnew, Bool.false_eq_true, if_false, hupd, Option.bind_some, hbuf]

/-- A block that is not held comes from its place in the staging buffer. -/
theorem exec_fwBlockCommit {u : Upd} {b : Buf} (h : Admitted fwBlockCommit ch p s c)
    (hupd : Tab.get s.dev.fw.upds (hIdx p.hdr.target.toNat) = some u) (hnew : fld p.params 0 4 ∉ u.held)
    (hbuf : Tab.get s.dev.bufs (hIdx u.stageBuf) = some b) :
    exec (.fwBlockCommit ch p) s = .next (s.commit ((s.taken ch p c.psn).withPages (ctxOf fwBlockCommit ch p)
      [(b.base + fld p.params 8 8, 4096)] fun w =>
        if crc32c (w.readVa (b.base + fld p.params 8 8) 4096) != fld p.params 4 4 || w.poisonVa (b.base + fld p.params 8 8) 4096 then
          w.reply ch p.hdr 0x0801 0x0E (crc32c (w.readVa (b.base + fld p.params 8 8) 4096)) []
        else w.pend (ctxOf fwBlockCommit ch p)
          (.fwCommit (hIdx p.hdr.target.toNat) (fld p.params 0 4) (w.readVa (b.base + fld p.params 8 8) 4096)))) := by
  have hfound : (ctxOf fwBlockCommit ch p).upd (s.taken ch p c.psn) = some u := by rw [Ctx.upd, taken_fw]; exact hupd
  have hfresh : (ctxOf fwBlockCommit ch p).heldAlready (s.taken ch p c.psn) = false := by
    rw [Ctx.heldAlready, hfound, Option.any_some, ← Bool.not_eq_true, List.contains_iff_mem]
    exact hnew
  refine (run_admitted h).trans ?_
  rw [fwBlockCommit_body hfresh hfound ((congrArg (Tab.get · _) (taken_bufs ..)).trans hbuf)]
  rfl

theorem exec_fwConfirm_confirmed (h : Admitted fwConfirm ch p s c) (hdone : s.dev.fw.confirmed = true) :
    exec (.fwConfirm ch p) s = .next (s.commit ((s.taken ch p c.psn).reply ch p.hdr 0x0806 0 0 [])) := by
  refine (run_admitted h).trans ?_
  simp only [fwConfirm, taken_fw, hdone, if_true]
  rfl

@[simp] theorem saveFw_hub (w : W) (more : List (Nat × Nat × Nat × Bool × List Byte)) : (w.saveFw more).dev.hub = w.dev.hub := by
  obtain ⟨x, hx⟩ := journal_dev w true ((0x0041, 1, 0, false, w.dev.fw.stateBytes) :: more)
  rw [W.saveFw, hx]

@[simp] theorem saveFw_fw (w : W) (more : List (Nat × Nat × Nat × Bool × List Byte)) : (w.saveFw more).dev.fw = w.dev.fw := by
  obtain ⟨x, hx⟩ := journal_dev w true ((0x0041, 1, 0, false, w.dev.fw.stateBytes) :: more)
  rw [W.saveFw, hx]

/-- An activation takes the device to UPDATE_PAUSE with the slot of the update active, and no confirmation. -/
theorem fwActivate_body {x : Ctx} {w : W} {u : Upd} (hst : w.dev.hub.st = .ready) (hupd : x.upd w = some u) :
    (fwActivate.body x w).dev.hub.st = .updatePause ∧ (fwActivate.body x w).dev.fw.active = u.slot ∧
      (fwActivate.body x w).dev.fw.prev = w.dev.fw.active ∧ (fwActivate.body x w).dev.fw.confirmed = false ∧
      (fwActivate.body x w).dev.fw.failedBoots = 0 ∧ (fwActivate.body x w).dev.fw.pause = some (u.slot, w.dev.clk.mono) := by
  have hne : (w.pend x (.fwActivate x.idx)).dev.hub.st ≠ .updatePause := fun h => nomatch hst.symm.trans h
  simp only [fwActivate, hupd, setState_of_ne hne, saveFw_hub, saveFw_fw]
  exact ⟨rfl, rfl, rfl, rfl, rfl, rfl⟩

theorem exec_fwActivate {u : Upd} (h : Admitted fwActivate ch p s c)
    (hupd : Tab.get s.dev.fw.upds (hIdx p.hdr.target.toNat) = some u) :
    ∃ w, exec (.fwActivate ch p) s = .next (s.commit w) ∧ w.dev.hub.st = .updatePause ∧ w.dev.fw.active = u.slot ∧
      w.dev.fw.prev = s.dev.fw.active ∧ w.dev.fw.confirmed = false ∧ w.dev.fw.failedBoots = 0 ∧
      w.dev.fw.pause = some (u.slot, s.dev.clk.mono) := by
  refine ⟨_, run_admitted h, ?_⟩
  rw [← taken_fw s ch p c.psn, ← taken_clk s ch p c.psn]
  exact fwActivate_body (allows_idle h.passes.legal) (by rw [Ctx.upd, taken_fw]; exact hupd)

theorem fwRollback_body (x : Ctx) (w : W) : fwRollback.body x w = ((w.ok x []).fallBackTxn 3).warmReset := by
  simp only [fwRollback]

theorem exec_fwRollback (h : Admitted fwRollback ch p s c) :
    exec (.fwRollback ch p) s = .next (s.commit ((((s.taken ch p c.psn).reply ch p.hdr 0x0807 0 0 []).fallBackTxn 3).warmReset)) := by
  refine (run_admitted h).trans ?_
  rw [fwRollback_body, W.ok]
  rfl

/-! ### Keys and versions (R646 to R648) -/

/-- An agreement is kept under the next number. -/
theorem secKeyAgree_body (x : Ctx) (w : W) : ∃ a : Agreement, (secKeyAgree.body x w).dev.fw.kaNext = (w.dev.fw.kaNext + 1) % 2 ^ 32 ∧
    (secKeyAgree.body x w).dev.fw.ka.getLast? = some a ∧ a.id = w.dev.fw.kaNext ∧ a.at' = w.dev.clk.mono := by
  simp only [secKeyAgree, W.ok, reply_fw]
  exact ⟨_, rfl, (keepLast _ _ (by decide)).1, rfl, rfl⟩

theorem exec_secKeyAgree (h : Admitted secKeyAgree ch p s c) :
    ∃ (w : W) (a : Agreement), exec (.secKeyAgree ch p) s = .next (s.commit w) ∧
    w.dev.fw.kaNext = (s.dev.fw.kaNext + 1) % 2 ^ 32 ∧ w.dev.fw.ka.getLast? = some a ∧ a.id = s.dev.fw.kaNext ∧
      a.at' = s.dev.clk.mono := by
  obtain ⟨a, ha⟩ := secKeyAgree_body (ctxOf secKeyAgree ch p) (s.taken ch p c.psn)
  rw [taken_fw, taken_clk] at ha
  exact ⟨_, a, run_admitted h, ha⟩

/-- A rotation that both keys sign spends a slot, VALID where its read-back matches. -/
theorem secOwnerRotate_body {x : Ctx} {w : W} {key : List Byte} (howner : w.dev.fuse.ownerKey = some key)
    (hold : ed448Verify 0 key (ascii "SV24-OWNER-ROTATE") (slice x.ps 0 57 ++ toLe 8 w.dev.fuse.serial) (slice x.ps 64 114) = true)
    (hnew : ed448Verify 0 (slice x.ps 0 57) (ascii "SV24-OWNER-ROTATE") (slice x.ps 0 57 ++ toLe 8 w.dev.fuse.serial)
      (slice x.ps 178 114) = true) :
    (secOwnerRotate.body x w).dev.fuse =
      { w.dev.fuse with owner := w.dev.fuse.owner ++ [(slice x.ps 0 57, w.dev.slotReads)] } := by
  simp only [secOwnerRotate, howner, Option.any_some, hold, hnew, Bool.and_self, if_true, W.ok, W.failWith]
  split
  · rw [reply_fuse]; rfl
  · rw [foldl_keeps (g := Dev.fuse) fun w n => closeChan_fuse w n true, reply_fuse]; rfl

theorem exec_secOwnerRotate {key : List Byte} (h : Admitted secOwnerRotate ch p s c) (howner : s.dev.fuse.ownerKey = some key)
    (hold : ed448Verify 0 key (ascii "SV24-OWNER-ROTATE") (slice p.params 0 57 ++ toLe 8 s.dev.fuse.serial) (slice p.params 64 114) = true)
    (hnew : ed448Verify 0 (slice p.params 0 57) (ascii "SV24-OWNER-ROTATE") (slice p.params 0 57 ++ toLe 8 s.dev.fuse.serial)
      (slice p.params 178 114) = true) :
    ∃ w, exec (.secOwnerRotate ch p) s = .next (s.commit w) ∧
      w.dev.fuse = { s.dev.fuse with owner := s.dev.fuse.owner ++ [(slice p.params 0 57, s.dev.slotReads)] } := by
  have hfuse := taken_fuse s ch p c.psn
  rw [← hfuse] at howner hold hnew
  refine ⟨_, run_admitted h, ?_⟩
  rw [← hfuse, ← taken_slotReads s ch p c.psn]
  exact secOwnerRotate_body howner hold hnew

end

/-- Settles O20: each clause is its command's lemma above, or its body as admission runs it. -/
theorem powerAndFirmwareCommandsAct : Obligations.PowerAndFirmwareCommandsAct := by
  unfold Obligations.PowerAndFirmwareCommandsAct
  refine ⟨?gauge, ?limit, ?raise, ?block, ?confirm, ?activate, ?rollback, ?agree, ?rotate, ?advance⟩
  case gauge => exact fun s ch p c h => exec_pwrGaugeSet h
  case limit => exact fun s ch p c h => exec_pwrStepLimit h
  case raise => exact fun s ch p c h => exec_pwrCeilingRaise h
  case block => exact fun s ch p c u b h => exec_fwBlockCommit h
  case confirm => exact fun s ch p c h => exec_fwConfirm_confirmed h
  case activate => exact fun s ch p c u h => exec_fwActivate h
  case agree => exact fun s ch p c h => exec_secKeyAgree h
  case rotate => exact fun s ch p c key h => exec_secOwnerRotate h
  case rollback => exact fun s ch p c h => exec_fwRollback h
  case advance => exact fun s ch p c h => run_admitted h

end Sys2Proof.Machine
end

section
/-! PROOFS. The input and the trips (R543, R544, R600, R601, R623, R624, R669, R672, R676). -/

namespace Sys2Proof.Machine

/-! ### Starts of the hub, and OFF -/

/-- A start with the input applied (R600): time begins at 0, in the boot ROM, with nothing of the host's left. -/
theorem coldStart_state (w : W) :
    w.coldStart.dev.hub.st = .standby ∧ w.coldStart.dev.hub.stage = 1 ∧ w.coldStart.dev.clk = {} ∧ w.coldStart.dev.pin = w.dev.pin ∧
      w.coldStart.dev.hub.tripAt = none ∧ w.coldStart.dev.hub.disconnected = false ∧ w.coldStart.dev.pwr.flowLost = false := by
  exact ⟨rfl, rfl, rfl, rfl, rfl, rfl, rfl⟩

theorem coldStart_objects (w : W) :
    w.coldStart.dev.chans = [] ∧ w.coldStart.dev.bufs = [] ∧ w.coldStart.dev.graphs = [] ∧ w.coldStart.dev.fuse = w.dev.fuse := by
  exact ⟨rfl, rfl, rfl, rfl⟩

/-- OFF (R669): the hub's state is lost, and the hold-up sequence runs or does not. -/
theorem powerOff_st (w : W) (holdup : Bool) : (w.powerOff holdup).dev.hub.st = .off := rfl

theorem powerOff_rails (w : W) (holdup : Bool) : (w.powerOff holdup).dev.hub.rails = false := rfl

theorem powerOff_holdup (w : W) (holdup : Bool) : (w.powerOff holdup).dev.hub.holdup = if holdup then some false else none := rfl

theorem powerOff_pin (w : W) (holdup : Bool) : (w.powerOff holdup).dev.pin = w.dev.pin := shed_pin w

theorem shed_store (w : W) : w.shed.dev.store = w.dev.store := by
  simp only [W.shed]
  split
  · rfl
  · rfl

theorem powerOff_frame (w : W) (holdup : Bool) : (w.powerOff holdup).dev.store.frame = w.dev.store.frame := by
  rw [← shed_store w]; rfl

/-- A write of the counter frame (R588) changes its sequence number alone; one of the two copies holds it. -/
theorem writeFrame_frame (w : W) : w.writeFrame.dev.store.frame = { w.dev.store.frame with seq := w.dev.store.frame.seq + 1 } := by
  simp only [W.writeFrame, W.onStore_dev]
  split
  · rfl
  · rfl

theorem writeFrame_limit (w : W) : w.writeFrame.dev.store.limit = w.dev.store.limit := by
  simp only [W.writeFrame, W.onStore_dev]
  split
  · rfl
  · rfl

theorem writeFrame_pin (w : W) : w.writeFrame.dev.pin = w.dev.pin := rfl

section
variable {s : State}

/-! ### The input (R600, R601, R672, R676) -/

/-- Power between 40 and 48 V at a module that is OFF and that nothing keeps there. -/
theorem exec_inputPowerApplied {mv : Nat} (hoff : s.dev.hub.st = .off) (hconn : s.dev.hub.disconnected = false)
    (hcool : s.dev.hub.tripOff = false) (hlow : 40000 ≤ mv) (hhigh : mv ≤ 48000) :
    exec (.inputPowerApplied mv) s = .next (s.commit (if s.dev.hub.holdup.isSome then
      (s.work.onPin fun p => { p with vin := mv }).onHub fun h => { h with holdup := some true }
      else (s.work.onPin fun p => { p with vin := mv }).coldStart)) := by
  have hl : ¬ mv < 40000 := by omega
  have hh : ¬ 48000 < mv := by omega
  change execInputPowerApplied mv s = _
  simp only [execInputPowerApplied, run_next, State.work_dev, hoff, hconn, hcool, hl, hh, bne_self_eq_false, decide_false, Bool.or_self,
    Bool.false_eq_true, if_false]
  rfl

theorem exec_powerCut_on (hup : s.dev.hub.st ≠ .off) :
    exec .powerCut s = .next (s.commit ((((s.work.onPin fun p => { p with vin := 0 }).onStore fun x =>
      { x with frame := { x.frame with cutCount := (x.frame.cutCount + 1) % 2 ^ 32 } }).writeFrame).powerOff true)) := by
  change execPowerCut s = _
  rw [execPowerCut, run_next]
  exact congrArg (fun w => Host.Outcome.next (s.commit w)) (if_neg hup)

theorem exec_powerCut_off (hoff : s.dev.hub.st = .off) :
    exec .powerCut s = .next (s.commit ((s.work.onPin fun p => { p with vin := 0 }).onHub fun h =>
      { h with tripOff := false, holdup := h.holdup.map fun _ => false })) := by
  change execPowerCut s = _
  rw [execPowerCut, run_next]
  exact congrArg (fun w => Host.Outcome.next (s.commit w)) (if_pos hoff)

/-- The end of the hold-up sequence (R601): its duration stands in the counter frame, and bounds what may be pending. -/
theorem exec_holdupComplete {us : Nat} (hrun : s.dev.hub.holdup = some false) :
    exec (.holdupComplete us) s = .next (s.commit ((s.work.flushJournal.onStore fun x =>
      { x with frame := { x.frame with holdupUs := min us (2 ^ 32 - 1) }, limit := if us < 45000 then 32768 else 65536 }).writeFrame.onHub
        fun h => { h with holdup := none })) := by
  change execHoldupComplete us s = _
  simp only [execHoldupComplete, run_next, State.work_dev, hrun, Bool.false_and, Bool.false_eq_true, if_false]

theorem exec_inputOvervoltage {mv : Nat} (hup : s.dev.hub.st ≠ .off) (hhigh : 52000 < mv) :
    exec (.inputOvervoltage mv) s = .next (s.after ((((s.work.onPin fun p => { p with vin := mv }).onHub fun h =>
      { h with overvolt := true }).devFault 3).shed)) := by
  have hh : ¬ mv ≤ 52000 := by omega
  change execInputOvervoltage mv s = _
  simp only [execInputOvervoltage, runT_next, State.work_dev, hup, hh, decide_false, Bool.or_self, Bool.false_eq_true, if_false]

theorem exec_inputDisconnect {mv : Nat} (hhigh : 58000 < mv) :
    exec (.inputDisconnect mv) s = .next (s.commit ((if s.dev.hub.st = .off then s.work.onPin fun p => { p with vin := mv }
      else (s.work.onPin fun p => { p with vin := mv }).powerOff true).onHub fun h => { h with disconnected := true })) := by
  change execInputDisconnect mv s = _
  rw [execInputDisconnect, run_next]
  exact congrArg (fun w => Host.Outcome.next (s.commit w)) (if_neg (Nat.not_le.mpr hhigh))

theorem exec_disconnectRelease {mv : Nat} (hdis : s.dev.hub.disconnected = true) (hlow : 38000 ≤ mv) (hhigh : mv < 52000)
    (hcool : s.dev.hub.tripOff = false) (hdone : s.dev.hub.holdup = none) :
    exec (.disconnectRelease mv) s = .next (s.commit ((s.work.onPin fun p => { p with vin := mv }).onHub fun h =>
      { h with disconnected := false }).coldStart) := by
  have hl : ¬ mv < 38000 := by omega
  have hh : ¬ 52000 ≤ mv := by omega
  change execDisconnectRelease mv s = _
  rw [execDisconnectRelease, run_next]
  simp only [State.work_dev, hdis, hl, hh, Bool.not_true, decide_false, Bool.or_self, Bool.false_eq_true, if_false, W.onHub_dev,
    W.onPin_dev, hcool, hdone, Option.isSome_none]

/-! ### Trips (R543, R544, R669) -/

theorem exec_thermalTrip {src die : Nat} (reading : Nat) (hsrc : tripDie src = some die) (hrails : s.dev.hub.rails = true) :
    exec (.thermalTrip src reading) s = .next (s.after ((((s.work.onHub fun h =>
      { h with trip := BitVec.ofNat 32 (0x80000000 + src), tripAt := some s.dev.clk.mono }).logRec 0x0030 die 0xFF 0 src 0
        (toLe 2 reading)).enterFault 1 s.work.nextLogSeq).shed)) := by
  change execThermalTrip src reading s = _
  simp only [execThermalTrip, runT_next, State.work_dev, hsrc, hrails, Bool.not_true, Bool.false_eq_true, if_false]

theorem exec_hubTrip {reading : Nat} (hup : s.dev.hub.st ≠ .off) (hhot : 1200 ≤ reading) :
    exec (.hubTrip reading) s = .next (s.commit ((s.work.powerOff false).onHub fun h => { h with tripOff := true })) := by
  have hh : ¬ reading < 1200 := by omega
  change execHubTrip reading s = _
  simp only [execHubTrip, run_next, State.work_dev, hup, hh, decide_false, Bool.or_self, Bool.false_eq_true, if_false]

theorem exec_tripResetHoldExpiry (hheld : s.dev.hub.warmHeld = true) :
    exec .tripResetHoldExpiry s = .next (s.after s.work.warmReset) := by
  change execTripResetHoldExpiry s = _
  simp only [execTripResetHoldExpiry, runT_next, State.work_dev, hheld, if_true]

/-- The boot ROM's end (R623, R624): the selected image starts, or the device has failed. -/
theorem exec_hubStart (ok : Bool) (hst : s.dev.hub.st = .standby) (hrom : s.dev.hub.stage = 1) :
    exec (.hubStart ok) s = .next (s.after (if !ok then s.work.declareFailed 0x03 4 else s.work.bootSlot.started)) := by
  change execHubStart ok s = _
  simp only [execHubStart, runT_next, State.work_dev, hst, hrom, bne_self_eq_false, Bool.or_self, Bool.false_eq_true, if_false]

end

/-- Settles O22: each event takes the branch of its conditions; a start and OFF are told of by the lemmas above. -/
theorem inputAndTripsAct : Obligations.InputAndTripsAct := by
  unfold Obligations.InputAndTripsAct
  refine ⟨?applied, ?restored, ?cut, ?removed, ?holdup, fun _ _ => exec_inputOvervoltage, ?disconnect, ?release,
    fun _ reading _ _ => exec_thermalTrip reading, ?trip, fun _ => exec_tripResetHoldExpiry,
    fun _ hst hrom => ⟨exec_hubStart true hst hrom, exec_hubStart false hst hrom⟩⟩
  case applied =>
    intro mv s hoff hconn hcool hlow hhigh hdone
    refine ⟨_, exec_inputPowerApplied hoff hconn hcool hlow hhigh, ?_⟩
    rw [hdone, Option.isSome_none, if_neg Bool.false_ne_true]
    exact ⟨rfl, rfl, rfl, rfl, rfl, rfl, rfl, rfl, rfl, rfl, rfl, rfl⟩
  case restored =>
    intro mv s b hoff hconn hcool hlow hhigh hrun
    rw [exec_inputPowerApplied hoff hconn hcool hlow hhigh, hrun, Option.isSome_some, if_pos rfl, commit_of_wr_nil s rfl]
    simp
  case cut =>
    intro s hup
    refine ⟨_, exec_powerCut_on hup, powerOff_st .., powerOff_holdup .., powerOff_rails .., ?_, ?_⟩
    · rw [powerOff_pin, writeFrame_pin]; rfl
    · rw [powerOff_frame, writeFrame_frame]; rfl
  case removed => exact fun s hoff => ⟨_, exec_powerCut_off hoff, rfl, rfl, rfl⟩
  case holdup =>
    refine fun us s hrun => ⟨_, exec_holdupComplete hrun, rfl, ?_, ?_⟩
    · rw [W.onHub_dev, writeFrame_frame]; rfl
    · rw [W.onHub_dev, writeFrame_limit]; rfl
  case disconnect =>
    intro mv s hhigh
    refine ⟨_, exec_inputDisconnect hhigh, ?_⟩
    split
    case isTrue hoff => exact ⟨hoff, rfl, rfl⟩
    case isFalse => exact ⟨by rw [W.onHub_dev, powerOff_st], rfl, by rw [W.onHub_dev, powerOff_pin]; rfl⟩
  case release =>
    exact fun mv s hdis hlow hhigh hcool hdone =>
      ⟨_, exec_disconnectRelease hdis hlow hhigh hcool hdone, rfl, rfl, rfl, rfl, rfl⟩
  case trip => exact fun reading s hup hhot => ⟨_, exec_hubTrip hup hhot, by rw [W.onHub_dev, powerOff_st], rfl,
    by rw [W.onHub_dev, powerOff_holdup]; rfl⟩

end Sys2Proof.Machine
end

section
/-! PROOFS. The other pins (R545 to R547, R655, R672, R673, R675, R677, R684, R691). -/

namespace Sys2Proof.Machine

/-! ### An INIT that waits (R672, R684) -/

theorem tryRails_of_ne_init {w : W} (h : w.dev.hub.st ≠ .init) : w.tryRails = w := by simp [W.tryRails, h]

/-- With REFCLK the rails rise once PWR_EN and FLOW_OK are high. -/
theorem tryRails_of_waiting {w : W} {t : Nat} (hst : w.dev.hub.st = .init) (hwait : w.dev.hub.initWait = some t)
    (hen : w.dev.pin.pwrEn = true) (hflow : w.dev.pin.flowOk = true) (hclk : w.dev.pin.refclk = true) :
    w.tryRails = (w.onHub fun h => { h with initWait := none, stage := 5 }).onHub fun h => { h with rails := true } := by
  simp only [W.tryRails, W.railsOn, W.onHub_dev, hst, hwait, hen, hflow, hclk, decide_true, Option.isSome_some, Bool.and_self, if_true]

theorem onPin_hub (w : W) (f : Pins → Pins) : (w.onPin f).dev.hub = w.dev.hub := rfl

section
variable {s : State}

/-! ### RESET_N (R673, R677) -/

theorem exec_resetN_short {ns : Nat} (h : ns < 1000) : exec (.resetN ns) s = .next (s.after s.work) := by
  change execResetN ns s = _
  simp only [execResetN, runT_next, h, if_true]

theorem exec_resetN_long {ns : Nat} (h : 10000 ≤ ns) :
    exec (.resetN ns) s = .next (s.after ((s.work.onPin fun p => { p with resetN := false }).onHub fun h =>
      { h with resetHold := true }).warmReset) := by
  have hpulse : ¬ ns < 1000 := by omega
  have hlong : ¬ ns < 10000 := by omega
  change execResetN ns s = _
  simp only [execResetN, runT_next, hpulse, hlong, if_false, if_true]

/-! ### PWR_EN (R672, R675) -/

theorem exec_pwrEnDeassert_unpowered (hrails : s.dev.hub.rails = false) :
    exec .pwrEnDeassert s = .next (s.after (s.work.onPin fun p => { p with pwrEn := false })) := by
  change execPwrEnDeassert s = _
  simp only [execPwrEnDeassert, runT_next, W.onPin_dev, State.work_dev, hrails, Bool.not_false, if_true]

theorem exec_pwrEnDeassert_powered (hrails : s.dev.hub.rails = true) (hst : s.dev.hub.st ≠ .failed) :
    exec .pwrEnDeassert s = .next (s.after ((s.work.onPin fun p => { p with pwrEn := false }).devFault 0).shed) := by
  change execPwrEnDeassert s = _
  simp only [execPwrEnDeassert, runT_next, W.onPin_dev, State.work_dev, hrails, hst, Bool.not_true, Bool.false_eq_true, if_false]

theorem exec_pwrEnAssert_standby (hst : s.dev.hub.st = .standby) (hauto : s.dev.cfg.autoStart = true) :
    exec .pwrEnAssert s = .next (s.commit ((s.work.onPin fun p => { p with pwrEn := true }).onHub fun h =>
      { h with autoInit := true }).tryAutoInit) := by
  change execPwrEnAssert s = _
  simp only [execPwrEnAssert, run_next, W.onPin_dev, State.work_dev, hst, hauto, decide_true, Bool.and_self, if_true]

theorem exec_pwrEnAssert_init (hst : s.dev.hub.st = .init) :
    exec .pwrEnAssert s = .next (s.commit (s.work.onPin fun p => { p with pwrEn := true }).tryRails) := by
  have hne : ¬ s.dev.hub.st = .standby := by rw [hst]; decide
  change execPwrEnAssert s = _
  simp only [execPwrEnAssert, run_next, W.onPin_dev, State.work_dev, hne, decide_false, Bool.false_and, Bool.false_eq_true, if_false]

/-! ### FLOW_OK (R545 to R547) -/

theorem exec_flowOkLow (hup : s.dev.hub.st ≠ .off) :
    exec .flowOkLow s = .next (s.commit ((s.work.onPin fun p =>
      { p with flowOk := false, flowLowAt := some s.dev.clk.mono, flowHighAt := none }).onLim fun l => { l with coolant := 0 })) := by
  change execFlowOkLow s = _
  rw [execFlowOkLow, run_next]
  exact congrArg (fun w => Host.Outcome.next (s.commit w)) (if_pos (hubUp_of_ne_off hup))

/-- 10 ms of FLOW_OK outside INIT, with no coolant stop that holds INIT. -/
theorem exec_flowOkHigh_settled {ns : Nat} (hup : s.dev.hub.st ≠ .off) (hst : s.dev.hub.st ≠ .init) (hfree : s.dev.hub.flowHold = false)
    (hlong : 10000000 ≤ ns) :
    exec (.flowOkHigh ns) s = .next (s.commit ((s.work.onPin fun p =>
      { p with flowOk := true, flowLowAt := none, flowHighAt := none }).onLim fun l => { l with coolant := 18 })) := by
  have hrun : (s.work.onPin fun p => { p with flowOk := true, flowLowAt := none, flowHighAt := none }).dev.hubUp = true :=
    hubUp_of_ne_off hup
  change execFlowOkHigh ns s = _
  simp only [execFlowOkHigh, run_next, hlong, decide_true, if_true, hrun, Bool.not_true, Bool.false_eq_true, if_false, onLim_hub,
    onPin_hub, State.work_dev, hfree, Bool.and_false]
  rw [tryRails_of_ne_init (by rw [onLim_hub]; exact hst)]

/-- Less than 10 ms of FLOW_OK outside INIT. -/
theorem exec_flowOkHigh_brief {ns : Nat} (hup : s.dev.hub.st ≠ .off) (hst : s.dev.hub.st ≠ .init) (hbrief : ns < 10000000) :
    exec (.flowOkHigh ns) s = .next (s.commit (s.work.onPin fun p =>
      { p with flowOk := true, flowLowAt := none, flowHighAt := some (s.dev.clk.mono - ns) })) := by
  have hlong : ¬ 10000000 ≤ ns := by omega
  have hsecond : ¬ 1000000000 ≤ ns := by omega
  have hrun : (s.work.onPin fun p => { p with flowOk := true, flowLowAt := none, flowHighAt := some (s.dev.clk.mono - ns) }).dev.hubUp =
    true := hubUp_of_ne_off hup
  change execFlowOkHigh ns s = _
  simp only [execFlowOkHigh, run_next, hlong, hsecond, decide_false, hrun, Bool.not_true, Bool.false_and, Bool.false_eq_true, if_false,
    State.work_dev]
  rw [tryRails_of_ne_init hst]

theorem exec_coolantStop {t : Nat} (hlow : s.dev.pin.flowLowAt = some t) (hrails : s.dev.hub.rails = true)
    (hlong : t + 20000000 < s.dev.clk.mono) :
    exec .coolantStop s = .next (s.after ((((s.work.logHub 0x0031 0 []).enterFault 2 s.work.nextLogSeq).onPwr fun p =>
      { p with flowLost := true }).shed)) := by
  have hl : ¬ s.dev.clk.mono ≤ t + 20000000 := by omega
  change execCoolantStop s = _
  simp only [execCoolantStop, runT_next, State.work_dev, hlow, hrails, hl, Bool.not_true, decide_false, Bool.or_self, Bool.false_eq_true,
    if_false]

/-! ### The strap and REFCLK (R655, R684, R691) -/

/-- A pin that changes alone. -/
theorem commit_onPin (s : State) (f : Pins → Pins) :
    s.commit (s.work.onPin f) = { s with dev := { s.dev with pin := f s.dev.pin } } := by
  rw [commit_of_wr_nil s rfl]; simp

theorem exec_refclkLoss :
    exec .refclkLoss s = .next (s.after (if s.dev.hub.rails then ((s.work.onPin fun p => { p with refclk := false }).onEth fun e =>
      { e with linkUp := false, pcs := false, laneLock := 0, upSince := none }).devFault 0
      else (s.work.onPin fun p => { p with refclk := false }).onEth fun e =>
        { e with linkUp := false, pcs := false, laneLock := 0, upSince := none })) := rfl

end

/-- Settles O23: each pin's event takes the branch of its conditions, and a change of the coolant limit leaves the pins and the hub. -/
theorem pinsAct : Obligations.PinsAct := by
  unfold Obligations.PinsAct
  refine ⟨fun _ _ => exec_resetN_short, fun _ _ => exec_resetN_long, fun _ => rfl, fun _ => exec_pwrEnDeassert_unpowered,
    fun _ => exec_pwrEnDeassert_powered, fun _ => exec_pwrEnAssert_standby, ?waiting, ?low, ?settled, ?brief, fun _ _ => exec_coolantStop,
    fun _ => rfl, fun s => congrArg Host.Outcome.next (commit_onPin s _), ?unpowered, ?powered,
    fun s => congrArg Host.Outcome.next (commit_onPin s _)⟩
  case waiting =>
    intro s t hst hwait hflow hclk
    refine ⟨_, exec_pwrEnAssert_init hst, ?_⟩
    rw [tryRails_of_waiting (t := t) hst hwait rfl hflow hclk]
    exact ⟨rfl, rfl, rfl, hst⟩
  case low => exact fun s hup => ⟨_, exec_flowOkLow hup, by simp, by simp, by simp⟩
  case settled => exact fun ns s hup hst hfree hlong => ⟨_, exec_flowOkHigh_settled hup hst hfree hlong, by simp, by simp⟩
  case brief => exact fun ns s hup hst hbrief => ⟨_, exec_flowOkHigh_brief hup hst hbrief, rfl, rfl⟩
  case unpowered => exact fun s hrails => exec_refclkLoss.trans (by rw [hrails]; rfl)
  case powered => exact fun s hrails => exec_refclkLoss.trans (by rw [hrails]; rfl)

end Sys2Proof.Machine
end

section
/-! PROOFS. Errors of the hub and events of the persistent store (R563, R572, R574, R588, R595 to R599, R604, R606, Table 18.1). -/

namespace Sys2Proof.Machine

/-! ### The live records through the failure of a flash (R579, R599) -/

/-- The live records of the journal. -/
def Dev.live (d : Dev) : List JRec := d.store.live

theorem unlogged_live : Unlogged Dev.live := ⟨fun _ _ => rfl, fun _ _ hlive _ => hlive⟩

theorem onHub_live (w : W) (f : Hub → Hub) : (w.onHub f).dev.live = w.dev.live := rfl

theorem setState_live (w : W) (st : DevState) : (w.setState st).dev.live = w.dev.live := by
  simp only [W.setState]
  split
  · rfl
  · rfl

theorem strapIn_live (w : W) : w.strapIn.dev.live = w.dev.live := by
  simp only [W.strapIn]
  split
  · exact setState_live w .service
  · rfl

theorem abortAtFault_live (w : W) (detail seq : Nat) : (w.abortAtFault detail seq).dev.live = w.dev.live := by
  rw [W.abortAtFault, W.abortAll, completeAll_keeps Dev.live (fun _ _ => rfl) (fun _ _ _ => rfl),
    completeAll_keeps Dev.live (fun _ _ => rfl) (fun _ _ _ => rfl)]

/-- A declaration of failure leaves the live records. -/
theorem declareFailed_live (w : W) (cause die : Nat) : (w.declareFailed cause die).dev.live = w.dev.live := by
  simp only [W.declareFailed]
  split
  · rfl
  · rw [strapIn_live, abortAtFault_live, onHub_live, setState_live, unlogged_live.logRec]

/-- A flash taken out of use leaves the live records. -/
theorem failFlash_live (w : W) (fb : Bool) : (w.failFlash fb).dev.live = w.dev.live := by
  have hmark : ((w.onStore fun s => if fb then { s with mirrorLost := true, fb := { s.fb with ok := false } }
      else { s with mirrorLost := true, fa := { s.fa with ok := false } }).logHub 0x0044 (b2n fb) []).dev.live = w.dev.live := by
    rw [W.logHub, unlogged_live.logRec]
    cases fb <;> rfl
  simp only [W.failFlash, apply_ite W.dev, apply_ite Dev.live, declareFailed_live, hmark, ite_self]

/-- So does one taken out of use on a condition. -/
theorem failFlash_if_live (p : Prop) [Decidable p] (w : W) (fb : Bool) : (if p then w.failFlash fb else w).dev.live = w.dev.live := by
  split
  · exact failFlash_live w fb
  · rfl

/-! ### Compaction (R604) -/

/-- A live record passed by a compaction: one of the tail sector is moved to the head under the next number. -/
def moveRecord (tail head txn : Nat) (acc : List JRec × Nat) (r : JRec) : List JRec × Nat :=
  if r.sector = tail then (acc.1 ++ [{ r with seq := acc.2, txn := txn, sector := head }], acc.2 + 1) else (acc.1 ++ [r], acc.2)

/-- What a record says: its key, format, number and payload. -/
def JRec.content (r : JRec) : Nat × Nat × Nat × List Byte := (r.key, r.fmt, r.inst, r.payload)

/-- A compaction leaves what the records say, in their order. -/
theorem moveRecord_content (tail head txn : Nat) (l : List JRec) (acc : List JRec × Nat) :
    (l.foldl (moveRecord tail head txn) acc).1.map JRec.content = acc.1.map JRec.content ++ l.map JRec.content := by
  induction l generalizing acc with
  | nil => simp
  | cons r t ih =>
    rw [List.foldl_cons, ih, moveRecord]
    split
    · simp [JRec.content]
    · simp

/-- No record that a compaction passes stays in the tail sector. -/
theorem moveRecord_sector {tail head : Nat} (hne : tail ≠ head) (txn : Nat) (l : List JRec) (acc : List JRec × Nat)
    (hacc : ∀ r ∈ acc.1, r.sector ≠ tail) : ∀ r ∈ (l.foldl (moveRecord tail head txn) acc).1, r.sector ≠ tail := by
  induction l generalizing acc with
  | nil => exact hacc
  | cons r t ih =>
    refine ih _ fun x hx => ?_
    rw [moveRecord] at hx
    split at hx
    case isTrue =>
      obtain hold | hmoved := List.mem_append.mp hx
      · exact hacc x hold
      · rw [List.mem_singleton.mp hmoved]; exact hne.symm
    case isFalse hstays =>
      obtain hold | hsame := List.mem_append.mp hx
      · exact hacc x hold
      · rw [List.mem_singleton.mp hsame]; exact hstays

section
variable {s : State}

/-- A compaction moves the records of the tail sector of a flash in use. -/
theorem exec_journalCompaction (eraseOk : Bool) (hup : s.dev.hub.st ≠ .off) (hok : s.dev.store.fa.ok = true)
    (hne : s.dev.store.fa.tail ≠ s.dev.store.fa.head) :
    ∃ w, exec (.journalCompaction eraseOk) s = .next (s.after w) ∧ w.dev.live =
      (s.dev.store.live.foldl (moveRecord s.dev.store.fa.tail s.dev.store.fa.head s.dev.store.nextTxn) ([], s.dev.store.nextSeq)).1 := by
  refine ⟨_, rfl, ?_⟩
  simp only [State.work_dev, hok, if_true, hubUp_of_ne_off hup, Bool.not_true, hne, decide_false, Bool.or_self, Bool.false_eq_true,
    if_false]
  rw [failFlash_if_live, failFlash_if_live]
  rfl

/-! ### Errors of the hub (R563, R572, R574, Table 18.1) -/

theorem exec_hubSramUe (hup : s.dev.hub.st ≠ .off) :
    exec .hubSramUe s = .next (s.after (if (s.dev.hub.lastUe.map fun t => decide (s.dev.clk.mono < t + dayNs)).getD false then
      ((s.work.logHub 0x0043 0 []).onHub fun h => { h with lastUe := some s.dev.clk.mono }).declareFailed 0x03 4
      else ((s.work.logHub 0x0043 0 []).onHub fun h => { h with lastUe := some s.dev.clk.mono }).enterFault 0 s.work.nextLogSeq)) := by
  change execHubSramUe s = _
  simp only [execHubSramUe, runT_next, State.work_dev, hubUp_of_ne_off hup, Bool.not_true, Bool.false_eq_true, if_false]
  rfl

/-- A failure on a segment counts, and at the sixteenth in succession retrains the segment. -/
theorem exec_ringCrcFailure {seg dir n : Nat} {ts : List Nat} (hup : s.dev.hub.st ≠ .off) (hseg : seg < 5) (hdir : dir < 2)
    (hring : Tab.getD s.dev.hub.ring (2 * seg + dir) (0, []) = (n, ts)) :
    let retry := BitVec.ofNat 32 (satAdd 32 s.dev.hub.ringRetry.toNat 1)
    let ts' := s.dev.clk.mono :: ts.filter fun t => s.dev.clk.mono < t + 1000000000
    let retrained := s.work.onHub fun h => { h with ringRetry := retry, ring := Tab.put h.ring (2 * seg + dir) (0, ts') }
    exec (.ringCrcFailure seg dir) s = .next (s.after (if n + 1 < 16 then
      s.work.onHub fun h => { h with ringRetry := retry, ring := Tab.put h.ring (2 * seg + dir) (n + 1, ts) }
      else if 3 ≤ ts'.length then retrained.declareFailed 0x06 4 else retrained)) := by
  have hs : ¬ ringSegments ≤ seg := Nat.not_le.mpr hseg
  have hd : ¬ 2 ≤ dir := Nat.not_le.mpr hdir
  change execRingCrcFailure seg dir s = _
  simp only [execRingCrcFailure, runT_next, State.work_dev, hubUp_of_ne_off hup, hs, hd, hring, Bool.not_true, decide_false, Bool.or_self,
    Bool.false_eq_true, if_false]
  rfl

/-- The fault of a rail that had none is kept; that of a core rail fails its die. -/
theorem exec_regulatorFault {rail : Nat} (hup : s.dev.hub.st ≠ .off) (hnew : rail ∉ s.dev.hub.regFault) (hrail : rail ≤ 10) :
    exec (.regulatorFault rail) s = .next (s.after (if rail < 4 then
      (s.work.onHub fun h => { h with regFault := h.regFault ++ [rail] }).declareFailed 0x02 rail
      else s.work.onHub fun h => { h with regFault := h.regFault ++ [rail] })) := by
  have hkept : (s.work.onHub fun h => if h.regFault.contains rail then h else { h with regFault := h.regFault ++ [rail] }) =
      s.work.onHub fun h => { h with regFault := h.regFault ++ [rail] } := by
    simp [W.onHub, hnew]
  have hr : ¬ 10 < rail := by omega
  change execRegulatorFault rail s = _
  simp only [execRegulatorFault, runT_next, State.work_dev, hubUp_of_ne_off hup, hr, hkept, Bool.not_true, decide_false, Bool.or_self,
    Bool.false_eq_true, if_false]

/-! ### The store (R588, R595, R596, R599, R604, R606) -/

theorem storeRuns_of_ne_off (hup : s.dev.hub.st ≠ .off) : s.dev.storeRuns = true := by
  simp [Dev.storeRuns, hubUp_of_ne_off hup]

theorem exec_flashFailure (fb : Bool) (hup : s.dev.hub.st ≠ .off) :
    exec (.flashFailure fb) s = .next (s.after ((((s.work.failFlash fb).onStore Store.prune).finishCommits).release')) := by
  change execFlashFailure fb s = _
  simp only [execFlashFailure, runT_next, State.work_dev, storeRuns_of_ne_off hup, if_true]

theorem exec_flashProgramComplete (ok : Bool) (hup : s.dev.hub.st ≠ .off) :
    exec (.flashProgramComplete ok) s = .next (s.after (s.work.flashDone ok)) := by
  change execFlashProgramComplete ok s = _
  simp only [execFlashProgramComplete, runT_next, State.work_dev, storeRuns_of_ne_off hup, if_true]

/-- A write of the counter frame goes to one of its two copies. -/
theorem writeFrame_copy (w : W) : w.writeFrame.dev.store.fram0 = some w.writeFrame.dev.store.frame ∨
    w.writeFrame.dev.store.fram1 = some w.writeFrame.dev.store.frame := by
  simp only [W.writeFrame, W.onStore_dev]
  split
  · exact .inl rfl
  · exact .inr rfl

theorem exec_framFrameWrite (hup : s.dev.hub.st ≠ .off) (hsecond : s.dev.clk.now % 1000000000 = 0) :
    exec .framFrameWrite s = .next (s.commit (s.work.onStore fun x =>
      if s.dev.hub.st = .standby then x else { x with frame := { x.frame with uptimeS := x.frame.uptimeS + 1 } }).writeFrame) := by
  change execFramFrameWrite s = _
  simp only [execFramFrameWrite, run_next, State.work_dev, hubUp_of_ne_off hup, hsecond, Bool.not_true, bne_self_eq_false, Bool.or_self,
    Bool.false_eq_true, if_false]
  rfl

theorem exec_counterSnap (hup : s.dev.hub.st ≠ .off) (hday : s.dev.store.lastSnap + 86400000000000 ≤ s.dev.clk.mono) :
    exec .counterSnap s = .next (s.commit ((s.work.journal1 0x0031 0 s.dev.store.frame.bytes).onStore fun x =>
      { x with lastSnap := s.dev.clk.mono })) := by
  have hd : s.dev.store.lastSnap + dayNs ≤ s.dev.clk.mono := hday
  change execCounterSnap s = _
  simp only [execCounterSnap, run_next, State.work_dev, hubUp_of_ne_off hup, hd, decide_true, Bool.and_self, if_true]

theorem exec_journalBudgetRelease (hup : s.dev.hub.st ≠ .off) : exec .journalBudgetRelease s = .next (s.after s.work.release') := by
  change execJournalBudgetRelease s = _
  simp only [execJournalBudgetRelease, runT_next, State.work_dev, hubUp_of_ne_off hup, if_true]

end

/-- Settles O41: each event takes the branch of its conditions; a compaction moves the live records of the tail sector and no more. -/
theorem hubAndStoreEventsAct : Obligations.HubAndStoreEventsAct := by
  unfold Obligations.HubAndStoreEventsAct
  refine ⟨?first, ?second, ?ring, ?rail, fun fb _ => exec_flashFailure fb, ?frame, fun ok _ => exec_flashProgramComplete ok, ?compaction,
    fun _ => exec_counterSnap, fun _ => exec_journalBudgetRelease⟩
  case first =>
    intro s hup hnone
    rw [exec_hubSramUe hup, hnone, Option.map_none, Option.getD_none, if_neg Bool.false_ne_true]
  case second =>
    intro t s hup hlast hsoon
    have hagain : decide (s.dev.clk.mono < t + dayNs) = true := decide_eq_true hsoon
    rw [exec_hubSramUe hup, hlast, Option.map_some, Option.getD_some, if_pos hagain]
  case ring =>
    intro seg dir n ts s hup hseg hdir hring
    have hexec := exec_ringCrcFailure hup hseg hdir hring
    refine ⟨fun hfew => ?_, fun hmany hcalm => ?_, fun hmany hbusy => ?_⟩
    · exact hexec.trans (by rw [if_pos (by omega)])
    · exact hexec.trans (by rw [if_neg (by omega), if_neg (Nat.not_le.mpr hcalm)])
    · exact hexec.trans (by rw [if_neg (by omega), if_pos hbusy])
  case rail =>
    intro rail s hup hnew
    refine ⟨fun hcore => ?_, fun hother hrail => ?_⟩
    · rw [exec_regulatorFault hup hnew (by omega), if_pos hcore]
    · rw [exec_regulatorFault hup hnew hrail, if_neg (by omega)]
  case frame =>
    intro s hup hsecond
    refine ⟨_, exec_framFrameWrite hup hsecond, ?_, ?_, writeFrame_copy _⟩
    · rw [writeFrame_frame, W.onStore_dev]
      split
      · rfl
      · rfl
    · rw [writeFrame_frame, W.onStore_dev]
      split
      · rfl
      · rfl
  case compaction =>
    intro eraseOk s hup hok hne
    obtain ⟨w, hnext, hlive⟩ := exec_journalCompaction eraseOk hup hok hne
    refine ⟨w, hnext, ?_, ?_⟩
    · exact (congrArg (List.map JRec.content) hlive).trans (moveRecord_content ..)
    · change ∀ r ∈ w.dev.live, _
      rw [hlive]
      exact moveRecord_sector hne _ _ _ fun r hr => nomatch hr

end Sys2Proof.Machine
end
